-- ==== Sys2Proof/Word.lean ====
section
/-! DEFINITION. The word types of the machine and their plainest arithmetic (R2, R4, spec/00). -/

namespace Sys2Proof

/-- A byte. -/
abbrev Byte := BitVec 8

/-- A 64-bit value: an integer register, a generic address, a code address (R33, R192). -/
abbrev Word := BitVec 64

/-- A 256-bit wide register value (R33). -/
abbrev Wide := BitVec 256

/-- `sext(x, 64)` of R4. -/
abbrev sext64 {n : Nat} (x : BitVec n) : Word := x.signExtend 64

/-- `zext(x, 64)` of R4. -/
abbrev zext64 {n : Nat} (x : BitVec n) : Word := x.setWidth 64

/-- The truth value as a 64-bit 0 or 1. -/
def boolWord (b : Bool) : Word := if b then 1 else 0

/-- Bits [hi:lo] of R2, as a value of `n = hi - lo + 1` bits. -/
abbrev bits {w : Nat} (x : BitVec w) (lo n : Nat) : BitVec n := x.extractLsb' lo n

end Sys2Proof
end

