-- ==== Sys2Proof/Syntax.lean ====
section
/-! DEFINITION. The instructions, one constructor per row of spec/opcode_table.json: 250 rows that
threads issue, and 103 rows that the device's other agents, the host and the outside world cause.
Operand fields are already turned into names; the encodings are in Decode.lean. -/

namespace Sys2Proof

/-! ## Operand names -/

/-- An integer register name (R33). -/
inductive IReg where
  | zero
  | l (i : Fin 15)
  | s (i : Fin 4)
  | d (i : Fin 4)
  | g (i : Fin 8)
  deriving DecidableEq, Repr

/-- w0 to w7 (R33). -/
abbrev WReg := Fin 8
/-- p0 to p7 (R33). -/
abbrev PReg := Fin 8
/-- k0 to k3 (R33, R43). -/
abbrev KReg := Fin 4

/-- The guard of a 32-bit instruction (R24, R32): execute when `p` is true, or false if `neg`. -/
structure Guard where
  neg : Bool
  p : PReg
  deriving DecidableEq, Repr

/-- Element formats of W format, codes 0x0 to 0xF (R27). -/
inductive Fmt where
  | i8 | i16 | i32 | i64 | n8 | n16 | n32 | n64 | d | s | h | bf | e5 | e4 | e2 | x8
  deriving DecidableEq, Repr

/-- Formats of the scalar floating-point groups, majors 0x50 to 0x53 (R130). -/
inductive FFmt where
  | d | s | h | bf
  deriving DecidableEq, Repr

/-- Conversion modes (R47, R48, R126). -/
inductive CvtMode where
  | dyn | rtz | sr | sat
  deriving DecidableEq, Repr

/-- Compare conditions of CMP and CMPI, codes 0 to 11 (R62). -/
inductive Cond where
  | eq | ne | lt | ge | le | gt | ltu | geu | leu | gtu | tst | tstz
  deriving DecidableEq, Repr

/-- Compare conditions of FCMP, codes 0 to 7 (R134). -/
inductive FCond where
  | eq | ne | lt | le | gt | ge | un | ord
  deriving DecidableEq, Repr

/-- Address classes of ISAP, codes 0 to 6 (R233). -/
inductive ApClass where
  | gl | sys | can | cls | sp | tcm | own
  deriving DecidableEq, Repr

/-- Conditions of AWAIT, codes 0 to 3 (R226). -/
inductive AwCond where
  | eq | ne | ge | geu
  deriving DecidableEq, Repr

/-- Orders of the ORD prefix, codes 0 to 3 (R30). -/
inductive Order where
  | rlx | acq | rel | sc
  deriving DecidableEq, Repr

/-- Scopes of the ORD prefix and the fences, codes 0 to 3 (R30, R203). -/
inductive Scope where
  | core | cl | dev | sys
  deriving DecidableEq, Repr

/-- Width bit of the atomic groups (R47): `d` 8 bytes, `w` 4 bytes. -/
inductive AWidth where
  | d | w
  deriving DecidableEq, Repr

/-- Lane widths of the integer-to-wide group, codes 0 to 3 (R143). -/
inductive LaneW where
  | b | h | w | d
  deriving DecidableEq, Repr

/-- Selectors of GRID, codes 0 to 8, 10 and 11 (R294). -/
inductive GridSel where
  | i | j | k | lin | nx | ny | nz | kern | seq | lcl | graph
  deriving DecidableEq, Repr

/-- System registers, by the numbers of R348; `frame n` is 0x100 + n (R346). -/
inductive SysReg where
  | trapCause | trapAddr | trapWord | trapData | trapInfo | trapHandle | trapVec | seqState | seqCount
  | fpCtl | jobSeed | stratusCtl | sumStatus | contrailBase | contrailCtl | tlbShoot | devTime | ctxId
  | censusSel | censusVal | censusCtl
  | frame (n : Fin 72)
  deriving DecidableEq, Repr

/-! ## What the outside world's messages carry -/

/-- One entry of a kick's patch table (R284). -/
structure KickPatch where
  slot : BitVec 16
  rsv : BitVec 48
  value : Word
  deriving DecidableEq, Repr

/-- A kick message as it is read (R284), with the entries that the message really holds. -/
structure KickMsg where
  graph : BitVec 32
  seq : BitVec 32
  count : BitVec 16
  rsv : BitVec 48
  entries : List KickPatch
  deriving DecidableEq, Repr

/-- A P-384 public key, x then y, or a signature, r then s (R338, R340). -/
abbrev P384Pair := BitVec 768

/-- A certificate (R338): the key that it names, for an owner certificate the device's identity key that it names too, and the
root key's signature over both. -/
structure Cert where
  key : P384Pair
  device : Option P384Pair
  sig : P384Pair
  deriving DecidableEq, Repr

/-- Whose key signs an image (R338): the root key, or the key of a certificate. -/
inductive Signer where
  | root
  | certified (c : Cert)
  deriving DecidableEq, Repr

/-- A firmware image as the boot ROM sees it (R338): its bytes, the root public key that comes with it, its signer, the
signature, and its security version. -/
structure Image where
  bytes : List Byte
  root : P384Pair
  signer : Signer
  sig : P384Pair
  version : BitVec 16
  deriving DecidableEq, Repr

/-- An accepted source and the policy of an endpoint (R335). -/
inductive Policy where
  | required | preferred | none
  deriving DecidableEq, Repr

/-- What the signed configuration blob sets (R258, R291, R325) and what boot firmware maps (R10). -/
structure BlobCfg where
  /-- inline frames per core: 8, 16 or 32 (R258) -/
  frames : Nat
  /-- quantum in microseconds, 100 to 100,000 (R291) -/
  quantumUs : Nat
  /-- bytes of the device region per die (R325) -/
  deviceRegion : Nat
  /-- physical cluster of each logical cluster, lowest logical number first (R10) -/
  lmap : List Nat
  /-- sources and policy of the management endpoint (R335) -/
  mgmtSrcs : List Nat
  mgmtPolicy : Policy
  deriving DecidableEq, Repr

/-- What the bytes of the configuration blobs in flash hold: the primary image's and the recovery image's (R21, R338). -/
structure Blobs where
  primary : BlobCfg
  recovery : BlobCfg
  deriving DecidableEq, Repr

/-- Which consumer looks at a tag (R295): a waiting group testing condition 2 of R288, or a TAGWAIT. -/
inductive TagLook where
  | group (replay kern lin : Nat) (name : BitVec 32)
  | thread (pend : Nat)
  deriving DecidableEq, Repr

/-- Which unit of a core or cluster a watchdog or resend concerns (R362, R220, R227). -/
inductive UnitId where
  | core (phys c : Nat)
  | sequencer (phys c : Nat)
  | copyEngine (phys : Nat)
  | portEngine (port : Nat)
  | matrix (phys : Nat)
  | streamUnit (phys c : Nat) (u : Fin 4)
  | bank (phys b : Nat)
  | tcm (phys c : Nat)
  | channel (n : Nat)
  | canopyBank (n : Nat)
  | launch
  | walker (die : Nat)
  deriving DecidableEq, Repr

/-- A voltage and frequency island (R18). -/
structure Island where
  phys : Nat
  matrix : Bool
  deriving DecidableEq, Repr

/-- Operating points (R18), 0 full to 4 gated. -/
inductive OpPoint where
  | full | high | mid | low | gated
  deriving DecidableEq, Repr

/-- What a storage upset is (R361, R363): one bit, or more than one. -/
inductive Upset where
  | single | multi
  deriving DecidableEq, Repr

/-- A stored word of a structure of R361. A word of a table is named by the entries that it holds, by their numbers in the
table. -/
inductive Stored where
  /-- HBM, canopy, scratchpad data or TCM, by its key in the memory -/
  | mem (key : Nat)
  /-- one cluster's code store -/
  | code (phys a : Nat)
  /-- registers, predicates and k registers of a slot -/
  | frame (phys c slot n : Nat)
  /-- granule bits of 64 granules -/
  | granules (phys n : Nat)
  /-- a cluster's TLB, or 256 + die for a die's -/
  | tlb (unit : Nat) (entries : List Nat)
  | tags (entries : List Nat)
  | waves (entries : List Nat)
  | sums (channel : Nat) (entries : List Nat)
  /-- watch entries of a channel core, or a bank's list from 1024 on -/
  | watches (list : Nat) (entries : List Nat)
  | queue (u : UnitId) (entries : List Nat)
  /-- a save record -/
  | save (ctx lcl n : Nat)
  deriving DecidableEq, Repr

/-- What a message of another device carries for the Account (R314, R318): the handle or engine id of its sender, the
sender's logical core, its path stamp, its device, and the device that holds the stamp's record. -/
structure PeerMark where
  who : BitVec 32
  lcore : Nat
  len : Nat
  idx : BitVec 32
  at_ : Nat
  dev : BitVec 16
  holder : BitVec 16
  deriving DecidableEq, Repr

/-- What a peer answers to an access performed there: the value, whether its list for the access is full, and its mark. -/
structure PeerAnswer where
  value : Wide
  full : Bool
  mark : PeerMark
  deriving DecidableEq, Repr

/-- Where nothing comes from a peer. -/
def PeerAnswer.none : PeerAnswer := ⟨0, false, ⟨0, 0, 0, 0, 0, 0, 0⟩⟩

/-- Consecutive units of a copy: the first, and how many. -/
structure UnitRun where
  first : Nat
  count : Nat
  deriving DecidableEq, Repr

/-- The kind of an access that a peer makes through the exported window (R195, R337). -/
inductive PeerOp where
  | load
  | store (v : Wide)
  | rmw (op : BitVec 4) (ret : Bool) (v e : Word)
  | await (c : AwCond) (v : Word)
  /-- its thread cancels an AWAIT that waits here (R227) -/
  | cancel (c : AwCond) (v : Word)
  deriving DecidableEq, Repr

/-- One message of a collective from another rank (R247, R248): the parameters it carries for the collective of
number `k` on the communicator, and the elements, as 64-bit lanes, that rank contributed. -/
structure CollMsg where
  rank : Nat
  k : Nat
  op : BitVec 4
  fmt : BitVec 4
  n : Nat
  data : List Word
  deriving DecidableEq, Repr

/-! ## An uploaded object (R98, R100 to R102), as the loader parses it -/

/-- Sections of a unit (R88). -/
inductive Sect where
  | text | rodata | data | bss | canopy | spad | tcm
  deriving DecidableEq, Repr

/-- Type of a symbol (R85, R100). -/
inductive SymType where
  | notype | object | func | section_
  deriving DecidableEq, Repr

/-- A symbol: where it is defined, its value there, whether it is exported, its type, its size and its st_other (R86,
R100). -/
structure Sym where
  name : String
  /-- `none`: undefined in this object; `some none`: absolute -/
  sect : Option (Option Sect)
  value : Word
  exported : Bool
  ty : SymType
  size : Nat
  other : BitVec 8
  deriving DecidableEq, Repr

/-- Relocation types, numbers 1 to 6 (R102). -/
inductive RelTy where
  | abs64 | hi49 | lo15 | off20 | off15 | tag
  deriving DecidableEq, Repr

/-- A relocation entry of 24 bytes, the first byte lowest (R101), of the section `sect`. -/
structure Rel where
  sect : Sect
  entry : BitVec 192
  deriving DecidableEq, Repr

/-- An input-tag map (R98): tensor name and the coefficients ci, cj, ck, c0. -/
structure InTag where
  tensor : String
  ci : Int
  cj : Int
  ck : Int
  c0 : Int
  deriving DecidableEq, Repr

/-- A launch record (R98). -/
structure KernelRec where
  name : String
  /-- symbol-table index of the entry body -/
  body : Nat
  /-- the entry body's window declaration (R35, R93) -/
  window : BitVec 16
  gx : Nat
  gy : Nat
  gz : Nat
  slots : Nat
  spad : Nat
  tcm : Nat
  wide : Nat
  depvecs : List (Int × Int × Int)
  intags : List InTag
  outtags : List String
  afters : List String
  deriving DecidableEq, Repr

/-- A `.vgo` object (R100). -/
structure Vgo where
  elfClass64Lsb : Bool
  etype : Nat
  machine : Nat
  flags : BitVec 32
  text : List Byte
  rodata : List Byte
  data : List Byte
  bss : Nat
  canopy : List Byte
  spad : Nat
  tcm : Nat
  syms : List Sym
  rels : List Rel
  kernels : List KernelRec
  /-- parameter slots and defaults (R98) -/
  params : List (Nat × Word)
  /-- the bytes of the file (R340) -/
  file : List Byte
  deriving DecidableEq, Repr

/-- Where the loader puts the sections of an upload in HBM and canopy: an address per object for `.rodata`, `.data`
and `.bss` (global virtual addresses) and for `.canopy` (R88). -/
structure Placement where
  rodata : Word
  data : Word
  bss : Word
  canopy : Word
  deriving DecidableEq, Repr

/-- The transport envelope of a message (R335): its source and whether transport security covers it. -/
structure Envelope where
  src : Nat
  roce : Bool
  secured : Bool
  deriving DecidableEq, Repr

/-- What management opcode 0x03 sets (R325, R289, R335, R336). -/
structure GrantSet where
  grants : List (Nat × Nat)
  canopy : List (Nat × Nat)
  allot : List Nat
  prio : Nat
  cmdSrcs : List Nat
  cmdPolicy : Policy
  dbgSrcs : List Nat
  dbgPolicy : Policy
  winSrcs : List Nat
  winPolicy : Policy
  /-- the window endpoint's address, by which peer tables name it (R337) -/
  winEndpoint : Word
  /-- sources and policies of far-table entries and of communicators, by number (R337) -/
  farAccept : List (Nat × List Nat × Policy)
  commAccept : List (Nat × List Nat × Policy)
  deriving DecidableEq, Repr

/-- What stands before every message of a far-tier server: the envelope it came in, and the copy it is about (R245). -/
structure FarHdr where
  env : Envelope
  copy : Nat
  deriving DecidableEq, Repr

/-- The endpoint a request with an unlisted opcode reaches (R372 to R374). -/
inductive Endp where
  | management
  | command (ctx : Nat)
  | debug (ctx : Nat)
  deriving DecidableEq, Repr

/-- What stands before every request on an endpoint (R335, R372): the envelope it came in, the context whose
endpoint it reached, its request id, and whether its payload has the length and the zero bytes its layout asks. -/
structure Hdr where
  env : Envelope
  ctx : Nat
  req : BitVec 32
  wellFormed : Bool
  deriving DecidableEq, Repr

/-- A CREATE_CONTEXT request: its header and the new context's debug credential (R324, R336). -/
structure CreateMsg where
  hdr : Hdr
  credential : BitVec 256
  deriving DecidableEq, Repr

/-! ## The instructions and events -/

/-- One constructor per row of spec/opcode_table.json. The guard of a 32-bit instruction (R24, R32) is a common field
of every format and stands beside the instruction, in what `decode` answers and in the issue port, not in the constructors. The
rows with operands stand first, so that compiled code can build each of them. -/
inductive Instr where
  /-- ADD (R55): Writes the 64-bit wrapping sum of ra and rb to rd. -/
  | add (d a b : IReg)
  /-- SUB (R55): Writes ra minus rb, wrapping modulo 2^64, to rd. -/
  | sub (d a b : IReg)
  /-- AND (R55): Writes the bitwise AND of ra and rb to rd. -/
  | and (d a b : IReg)
  /-- OR (R55): Writes the bitwise OR of ra and rb to rd. -/
  | or (d a b : IReg)
  /-- XOR (R55): Writes the bitwise XOR of ra and rb to rd. -/
  | xor (d a b : IReg)
  /-- ANDN (R55): Writes ra AND NOT rb to rd. -/
  | andn (d a b : IReg)
  /-- ORN (R55): Writes ra OR NOT rb to rd. -/
  | orn (d a b : IReg)
  /-- XNOR (R55): Writes NOT (ra XOR rb) to rd. -/
  | xnor (d a b : IReg)
  /-- SLL (R55): Shifts ra left by rb[5:0], filling with zeros. -/
  | sll (d a b : IReg)
  /-- SRL (R55): Shifts ra right logically by rb[5:0]. -/
  | srl (d a b : IReg)
  /-- SRA (R55): Shifts ra right arithmetically by rb[5:0]. -/
  | sra (d a b : IReg)
  /-- ROR (R55): Rotates ra right by rb[5:0]. -/
  | ror (d a b : IReg)
  /-- MIN (R55): Writes the signed smaller of ra and rb. -/
  | min (d a b : IReg)
  /-- MAX (R55): Writes the signed larger of ra and rb. -/
  | max (d a b : IReg)
  /-- MINU (R55): Writes the unsigned smaller of ra and rb. -/
  | minu (d a b : IReg)
  /-- MAXU (R55): Writes the unsigned larger of ra and rb. -/
  | maxu (d a b : IReg)
  /-- ADDS (R55): Writes the signed sum clamped to the i64 range. -/
  | adds (d a b : IReg)
  /-- SUBS (R55): Writes the signed difference clamped to the i64 range. -/
  | subs (d a b : IReg)
  /-- ADDSU (R55): Writes the unsigned sum clamped to the n64 range. -/
  | addsu (d a b : IReg)
  /-- SUBSU (R55): Writes the unsigned difference clamped to the n64 range. -/
  | subsu (d a b : IReg)
  /-- ADD_IMM (R56): Adds the sign-extended imm10 to ra. -/
  | addImm (d a : IReg) (i : BitVec 10)
  /-- AND_IMM (R56): ANDs ra with the sign-extended imm10. -/
  | andImm (d a : IReg) (i : BitVec 10)
  /-- OR_IMM (R56): ORs ra with the sign-extended imm10. -/
  | orImm (d a : IReg) (i : BitVec 10)
  /-- XOR_IMM (R56): XORs ra with the sign-extended imm10. -/
  | xorImm (d a : IReg) (i : BitVec 10)
  /-- SLL_IMM (R56): Shifts ra left by a zero-extended amount of 0 to 63. -/
  | sllImm (d a : IReg) (i : BitVec 6)
  /-- SRL_IMM (R56): Shifts ra right logically by an immediate amount. -/
  | srlImm (d a : IReg) (i : BitVec 6)
  /-- SRA_IMM (R56): Shifts ra right arithmetically by an immediate amount. -/
  | sraImm (d a : IReg) (i : BitVec 6)
  /-- ROR_IMM (R56): Rotates ra right by an immediate amount. -/
  | rorImm (d a : IReg) (i : BitVec 6)
  /-- MUL_IMM (R56): Writes the low 64 bits of ra times the sign-extended imm10. -/
  | mulImm (d a : IReg) (i : BitVec 10)
  /-- MIN_IMM (R56): Writes the signed smaller of ra and the immediate. -/
  | minImm (d a : IReg) (i : BitVec 10)
  /-- MAX_IMM (R56): Writes the signed larger of ra and the immediate. -/
  | maxImm (d a : IReg) (i : BitVec 10)
  /-- LI (R57): Writes the sign-extended imm15 to rd. -/
  | li (d : IReg) (i : BitVec 15)
  /-- LIS (R57): Shifts rd left by 15 and ORs in the zero-extended imm15. -/
  | lis (d : IReg) (i : BitVec 15)
  /-- MUL (R58): Writes the low 64 bits of the product. -/
  | mul (d a b : IReg)
  /-- MULH (R58): Writes the high 64 bits of the signed product. -/
  | mulh (d a b : IReg)
  /-- MULHU (R58): Writes the high 64 bits of the unsigned product. -/
  | mulhu (d a b : IReg)
  /-- MULHSU (R58): Writes the high 64 bits of the signed-by-unsigned product. -/
  | mulhsu (d a b : IReg)
  /-- DIV (R58): Writes the signed quotient truncated toward zero, with the stated results for zero and overflow. -/
  | div (d a b : IReg)
  /-- DIVU (R58): Writes the unsigned quotient, all ones for a zero divisor. -/
  | divu (d a b : IReg)
  /-- REM (R58): Writes the signed remainder. -/
  | rem (d a b : IReg)
  /-- REMU (R58): Writes the unsigned remainder. -/
  | remu (d a b : IReg)
  /-- CLZ (R59): Counts the leading zero bits of ra. -/
  | clz (d a : IReg)
  /-- CTZ (R59): Counts the trailing zero bits of ra. -/
  | ctz (d a : IReg)
  /-- POPC (R59): Counts the one bits of ra. -/
  | popc (d a : IReg)
  /-- BREV (R59): Reverses the bit order of ra. -/
  | brev (d a : IReg)
  /-- BSWAP (R59): Reverses the byte order of ra. -/
  | bswap (d a : IReg)
  /-- SXB (R59): Sign-extends ra[7:0] to 64 bits. -/
  | sxb (d a : IReg)
  /-- SXH (R59): Sign-extends ra[15:0] to 64 bits. -/
  | sxh (d a : IReg)
  /-- SXW (R59): Sign-extends ra[31:0] to 64 bits. -/
  | sxw (d a : IReg)
  /-- BFX (R59): Extracts a sign-extended bit field of ra described by rb. -/
  | bfx (d a b : IReg)
  /-- BFXU (R59): Extracts a zero-extended bit field of ra described by rb. -/
  | bfxu (d a b : IReg)
  /-- BFI (R59): Inserts the low bits of ra into the field of rd described by rb. -/
  | bfi (d a b : IReg)
  /-- MOVK (R60): Writes ra to extension register kn. -/
  | movk (k : KReg) (a : IReg)
  /-- RDK (R60): Writes extension register kn to rd. -/
  | rdk (d : IReg) (k : KReg)
  /-- RDPW (R60): Writes the predicate word to rd. -/
  | rdpw (d : IReg)
  /-- WRPW (R60): Sets p1 to p7 from bits of ra. -/
  | wrpw (a : IReg)
  /-- ORD (R30): Prefix that issues as one unit with the following memory instruction and sets its class and scope. -/
  | ord (o : Order) (s : Scope)
  /-- MOV (R61): Compact move of ra to rd. -/
  | mov (a d : IReg)
  /-- MOVI (R61): Compact write of a sign-extended imm5 to rd. -/
  | movi (i : BitVec 5) (d : IReg)
  /-- CMP (R62): Compares ra with rb under cond and writes the result and its negation to two predicates. -/
  | cmp (p q : PReg) (a b : IReg) (c : Cond)
  /-- CMPI (R62): Compares ra with a sign-extended imm5 and writes two predicates. -/
  | cmpi (p q : PReg) (a : IReg) (i : BitVec 5) (c : Cond)
  /-- FCMP_D (R134): Compares two FP64 values under cond into two predicates. -/
  | fcmpD (p q : PReg) (a b : IReg) (c : FCond)
  /-- FCMP_S (R134): Compares two FP32 values under cond into two predicates. -/
  | fcmpS (p q : PReg) (a b : IReg) (c : FCond)
  /-- FCMP_H (R134): Compares two FP16 values under cond into two predicates. -/
  | fcmpH (p q : PReg) (a b : IReg) (c : FCond)
  /-- FCMP_BF (R134): Compares two BF16 values under cond into two predicates. -/
  | fcmpBf (p q : PReg) (a b : IReg) (c : FCond)
  /-- ISAP (R233): Tests the address in ra against an aperture class into two predicates, making no access. -/
  | isap (p q : PReg) (a : IReg) (c : ApClass)
  /-- PLOG (R63): Computes a truth-table function of two predicates into pd and its negation into pq. -/
  | plog (p q a b : PReg) (f : BitVec 4)
  /-- B (R64): Branches forward by 2 × off20 bytes when the guard holds. -/
  | b (o : BitVec 20)
  /-- CALL (R66): Writes the link PC + 4 to rd and transfers by a signed halfword offset. -/
  | call (d : IReg) (i : BitVec 15)
  /-- BRI (R65): Transfers forward to ra + 2 × imm10, trapping on a target not above itself. -/
  | bri (a : IReg) (i : BitVec 10)
  /-- CALLR (R66): Writes the link to rd and transfers to ra + 2 × imm10. -/
  | callr (d a : IReg) (i : BitVec 10)
  /-- RET (R66): Transfers to the code address in ra. -/
  | ret (a : IReg)
  /-- CREATE (R74): Reserves and starts a family from k0 to k3 in one instruction and writes its handle to rd. -/
  | create (d : IReg) (i : BitVec 15)
  /-- FGO (R74): Starts the reserved family named by ra with the body at a signed halfword offset. -/
  | fgo (a : IReg) (i : BitVec 15)
  /-- FALLOC (R72): Reserves a family-table entry or inline frame and writes its handle to rd. -/
  | falloc (d : IReg)
  /-- FSYNC (R78): Makes rd EMPTY until the family terminates, then delivers its status as an acquire. -/
  | fsync (d a : IReg)
  /-- FREL (R80): Releases a terminated or unstarted family and frees its entry or frame. -/
  | frel (a : IReg)
  /-- TIX (R81): Writes the thread's member index to rd. -/
  | tix (d : IReg)
  /-- FPUT_D (R73): Records a value for member 0's d register of an unstarted family. -/
  | fputD (a b : IReg) (i : Fin 4)
  /-- FPUT_G (R73): Records a value for every member's g register of an unstarted family. -/
  | fputG (a b : IReg) (i : Fin 8)
  /-- FGET (R79): Makes rd EMPTY until the family terminates, then delivers its output for s_i as an acquire. -/
  | fget (d a : IReg) (i : Fin 4)
  /-- FKILL (R276): Sends a kill to the named family, leaving families of ended members running. -/
  | fkill (a : IReg)
  /-- FKILL_TREE (R277): Sends a kill to the named family and, recursively, to every family its ended members created. -/
  | fkillTree (a : IReg)
  /-- FSTAT (R275): Delivers a snapshot status word of the family to rd. -/
  | fstat (d a : IReg)
  /-- DETACH (R279): Lets go of a running or terminated family so that the handle names nothing to the thread. -/
  | detach (a : IReg)
  /-- FPLACE (R274): Replaces the place of a reserved, unstarted family. -/
  | fplace (a b : IReg)
  /-- LD_BS (R67): Loads 1 byte, sign-extended, into rd. -/
  | ldBs (d b : IReg) (o : BitVec 10)
  /-- LD_BZ (R67): Loads 1 byte, zero-extended, into rd. -/
  | ldBz (d b : IReg) (o : BitVec 10)
  /-- LD_HS (R67): Loads 2 bytes, sign-extended, into rd. -/
  | ldHs (d b : IReg) (o : BitVec 10)
  /-- LD_HZ (R67): Loads 2 bytes, zero-extended, into rd. -/
  | ldHz (d b : IReg) (o : BitVec 10)
  /-- LD_WS (R67): Loads 4 bytes, sign-extended, into rd. -/
  | ldWs (d b : IReg) (o : BitVec 10)
  /-- LD_WZ (R67): Loads 4 bytes, zero-extended, into rd. -/
  | ldWz (d b : IReg) (o : BitVec 10)
  /-- LD_D (R67): Loads 8 bytes into rd. -/
  | ldD (d b : IReg) (o : BitVec 10)
  /-- LDW (R67): Loads 32 bytes into a wide register. -/
  | ldw (d : WReg) (b : IReg) (o : BitVec 10)
  /-- ST_B (R67): Stores the low byte of rd. -/
  | stB (d b : IReg) (o : BitVec 10)
  /-- ST_H (R67): Stores the low 2 bytes of rd. -/
  | stH (d b : IReg) (o : BitVec 10)
  /-- ST_W (R67): Stores the low 4 bytes of rd. -/
  | stW (d b : IReg) (o : BitVec 10)
  /-- ST_D (R67): Stores the 8 bytes of rd. -/
  | stD (d b : IReg) (o : BitVec 10)
  /-- STW (R67): Stores the 32 bytes of a wide register. -/
  | stw (d : WReg) (b : IReg) (o : BitVec 10)
  /-- LDK (R67): Loads 8 bytes into an extension register. -/
  | ldk (k : KReg) (b : IReg) (o : BitVec 10)
  /-- LDFE (R218): Waits at the bank until the granule is FULL, reads 8 bytes and empties the granule. -/
  | ldfe (d a b : IReg)
  /-- LDFF (R218): Waits at the bank until the granule is FULL and reads 8 bytes, leaving it FULL. -/
  | ldff (d a b : IReg)
  /-- STFE (R218): Waits at the bank until the granule is EMPTY, writes 8 bytes and fills it. -/
  | stfe (d a b : IReg)
  /-- FEINIT_E (R219): Sets a granule EMPTY without changing data. -/
  | feinitE (a b : IReg)
  /-- FEINIT_F (R219): Sets a granule FULL without changing data. -/
  | feinitF (a b : IReg)
  /-- AADD (R221): Atomically adds rb to the word at ra and returns the old value. -/
  | aadd (d a b : IReg) (w : AWidth)
  /-- AAND (R221): Atomically ANDs rb into the word and returns the old value. -/
  | aand (d a b : IReg) (w : AWidth)
  /-- AOR (R221): Atomically ORs rb into the word and returns the old value. -/
  | aor (d a b : IReg) (w : AWidth)
  /-- AXOR (R221): Atomically XORs rb into the word and returns the old value. -/
  | axor (d a b : IReg) (w : AWidth)
  /-- AMIN (R221): Atomically writes the signed smaller value and returns the old value. -/
  | amin (d a b : IReg) (w : AWidth)
  /-- AMAX (R221): Atomically writes the signed larger value and returns the old value. -/
  | amax (d a b : IReg) (w : AWidth)
  /-- AMINU (R221): Atomically writes the unsigned smaller value and returns the old value. -/
  | aminu (d a b : IReg) (w : AWidth)
  /-- AMAXU (R221): Atomically writes the unsigned larger value and returns the old value. -/
  | amaxu (d a b : IReg) (w : AWidth)
  /-- AXCHG (R221): Atomically exchanges rb with the word and returns the old value. -/
  | axchg (d a b : IReg) (w : AWidth)
  /-- ACAS (R221): Atomically writes rb if the word equals rd and returns the old value. -/
  | acas (d a b : IReg) (w : AWidth)
  /-- AFADD (R223): Atomically adds rb as FP32 or FP64 under RNE and returns the old value. -/
  | afadd (d a b : IReg) (w : AWidth)
  /-- RED_ADD (R224): Adds rb to the word at its home and returns nothing. -/
  | redAdd (a b : IReg) (w : AWidth)
  /-- RED_AND (R224): ANDs rb into the word at its home. -/
  | redAnd (a b : IReg) (w : AWidth)
  /-- RED_OR (R224): ORs rb into the word at its home. -/
  | redOr (a b : IReg) (w : AWidth)
  /-- RED_XOR (R224): XORs rb into the word at its home. -/
  | redXor (a b : IReg) (w : AWidth)
  /-- RED_MIN (R224): Lowers the word to the signed smaller value at its home. -/
  | redMin (a b : IReg) (w : AWidth)
  /-- RED_MAX (R224): Raises the word to the signed larger value at its home. -/
  | redMax (a b : IReg) (w : AWidth)
  /-- RED_MINU (R224): Lowers the word to the unsigned smaller value at its home. -/
  | redMinu (a b : IReg) (w : AWidth)
  /-- RED_MAXU (R224): Raises the word to the unsigned larger value at its home. -/
  | redMaxu (a b : IReg) (w : AWidth)
  /-- REDFADD (R224): Adds rb as floating point to the word at its home and returns nothing. -/
  | redfadd (a b : IReg) (w : AWidth)
  /-- AWAIT (R226): Places a watch at a channel core that delivers the word when it satisfies the condition against rb. -/
  | await (d a b : IReg) (c : AwCond) (w : AWidth)
  /-- SUMON (R228): Asks the home channel core to bind an exact sum slot to the location and reports success in two predicates. -/
  | sumon (p q : PReg) (a : IReg)
  /-- SUMADD_S (R229): Adds an FP32 addend exactly to the bound sum slot. -/
  | sumaddS (a b : IReg)
  /-- SUMADD_BF (R229): Adds a BF16 addend exactly to the bound sum slot. -/
  | sumaddBf (a b : IReg)
  /-- SUMADD_H (R229): Adds an FP16 addend exactly to the bound sum slot. -/
  | sumaddH (a b : IReg)
  /-- SUMOFF (R230): Rounds the slot total to FP32, stores it to the location, frees the slot and returns the value. -/
  | sumoff (d a : IReg)
  /-- CVTA_CL (R232): Converts an own-scratchpad address into the cluster-space address of the same byte. -/
  | cvtaCl (d a : IReg)
  /-- CVTA_SP (R232): Converts a cluster-space address of the own allotment into an own-scratchpad address. -/
  | cvtaSp (d a : IReg)
  /-- FADD (R130): Adds two scalar floating-point values of the format the major selects. -/
  | fadd (f : FFmt) (d a b : IReg)
  /-- FSUB (R130): Subtracts two scalar floating-point values. -/
  | fsub (f : FFmt) (d a b : IReg)
  /-- FMUL (R130): Multiplies two scalar floating-point values. -/
  | fmul (f : FFmt) (d a b : IReg)
  /-- FDIV (R130): Divides two scalar floating-point values. -/
  | fdiv (f : FFmt) (d a b : IReg)
  /-- FMIN (R131): Selects the smaller operand, with -0 below +0 and NaN rules. -/
  | fmin (f : FFmt) (d a b : IReg)
  /-- FMAX (R131): Selects the larger operand, with -0 below +0 and NaN rules. -/
  | fmax (f : FFmt) (d a b : IReg)
  /-- FSQRT (R130): Writes the rounded square root of ra. -/
  | fsqrt (f : FFmt) (d a : IReg)
  /-- FABS (R130): Clears the sign bit of ra. -/
  | fabs (f : FFmt) (d a : IReg)
  /-- FNEG (R130): Inverts the sign bit of ra. -/
  | fneg (f : FFmt) (d a : IReg)
  /-- FMA (R130): Writes ra × rb + rd with one rounding. -/
  | fma (f : FFmt) (d a b : IReg)
  /-- FCLASS (R132): Writes the one-hot class mask of ra. -/
  | fclass (f : FFmt) (d a : IReg)
  /-- FRCP (R133): Writes the reciprocal of ra within the stated bound; not in the .d group. -/
  | frcp (f : FFmt) (d a : IReg)
  /-- FRSQ (R133): Writes the reciprocal square root of ra. -/
  | frsq (f : FFmt) (d a : IReg)
  /-- FEXP2 (R133): Writes 2 to the power ra. -/
  | fexp2 (f : FFmt) (d a : IReg)
  /-- FLOG2 (R133): Writes the base-2 logarithm of ra. -/
  | flog2 (f : FFmt) (d a : IReg)
  /-- FSIN (R133): Writes the sine of ra in radians. -/
  | fsin (f : FFmt) (d a : IReg)
  /-- FCOS (R133): Writes the cosine of ra in radians. -/
  | fcos (f : FFmt) (d a : IReg)
  /-- FTANH (R133): Writes the hyperbolic tangent of ra. -/
  | ftanh (f : FFmt) (d a : IReg)
  /-- CVT (R135): Converts a scalar value between formats under the mode in imm10. -/
  | cvt (d a : IReg) (m : CvtMode) (s t : Fmt)
  /-- RDFP (R136): Reads the flags and modes of the control word into rd after earlier FP results arrive. -/
  | rdfp (d : IReg)
  /-- WRFP (R136): Writes the flags and modes of the control word from ra. -/
  | wrfp (a : IReg)
  /-- VADD (R137): Adds wa and wb lane by lane. -/
  | vadd (d a b : WReg) (t : Fmt)
  /-- VSUB (R137): Subtracts wb from wa lane by lane. -/
  | vsub (d a b : WReg) (t : Fmt)
  /-- VMUL (R137): Multiplies wa and wb lane by lane. -/
  | vmul (d a b : WReg) (t : Fmt)
  /-- VFMA (R137): Computes wa × wb + wd lane by lane. -/
  | vfma (d a b : WReg) (t : Fmt)
  /-- VMIN (R137): Takes the smaller of each lane pair. -/
  | vmin (d a b : WReg) (t : Fmt)
  /-- VMAX (R137): Takes the larger of each lane pair. -/
  | vmax (d a b : WReg) (t : Fmt)
  /-- VADDS (R137): Adds integer lanes with saturation. -/
  | vadds (d a b : WReg) (t : Fmt)
  /-- VSUBS (R137): Subtracts integer lanes with saturation. -/
  | vsubs (d a b : WReg) (t : Fmt)
  /-- VAND (R137): Bitwise AND of integer lanes. -/
  | vand (d a b : WReg) (t : Fmt)
  /-- VOR (R137): Bitwise OR of integer lanes. -/
  | vor (d a b : WReg) (t : Fmt)
  /-- VXOR (R137): Bitwise XOR of integer lanes. -/
  | vxor (d a b : WReg) (t : Fmt)
  /-- VSLL (R137): Shifts each lane left by the matching lane of wb. -/
  | vsll (d a b : WReg) (t : Fmt)
  /-- VSRL (R137): Shifts each lane right logically. -/
  | vsrl (d a b : WReg) (t : Fmt)
  /-- VSRA (R137): Shifts each lane right arithmetically. -/
  | vsra (d a b : WReg) (t : Fmt)
  /-- VDIV (R137): Divides lanes of wa by lanes of wb. -/
  | vdiv (d a b : WReg) (t : Fmt)
  /-- VSQRT (R137): Takes the square root of each float lane. -/
  | vsqrt (d a : WReg) (t : Fmt)
  /-- VABS (R137): Takes the absolute value of each lane. -/
  | vabs (d a : WReg) (t : Fmt)
  /-- VNEG (R137): Negates each lane. -/
  | vneg (d a : WReg) (t : Fmt)
  /-- VMULH (R137): Writes the upper half of each integer lane product. -/
  | vmulh (d a b : WReg) (t : Fmt)
  /-- VCMP_EQ (R138): Sets each lane of wd to all ones where the lanes are equal. -/
  | vcmpEq (d a b : WReg) (t : Fmt)
  /-- VCMP_NE (R138): Sets each lane of wd where the lanes differ. -/
  | vcmpNe (d a b : WReg) (t : Fmt)
  /-- VCMP_LT (R138): Sets each lane of wd where wa is less than wb. -/
  | vcmpLt (d a b : WReg) (t : Fmt)
  /-- VCMP_LE (R138): Sets each lane of wd where wa is at most wb. -/
  | vcmpLe (d a b : WReg) (t : Fmt)
  /-- VCMP_UN (R138): Sets each lane of wd where either float lane is a NaN. -/
  | vcmpUn (d a b : WReg) (t : Fmt)
  /-- VSEL (R138): Selects wa or wb per lane by the old wd mask. -/
  | vsel (d a b : WReg) (t : Fmt)
  /-- VPERM (R139): Permutes lanes of wa by indices in wb. -/
  | vperm (d a b : WReg) (t : Fmt)
  /-- VZIPL (R139): Interleaves the low halves of wa and wb. -/
  | vzipl (d a b : WReg) (t : Fmt)
  /-- VZIPH (R139): Interleaves the high halves of wa and wb. -/
  | vziph (d a b : WReg) (t : Fmt)
  /-- VUNZIPL (R139): Takes the even lanes of wa followed by wb. -/
  | vunzipl (d a b : WReg) (t : Fmt)
  /-- VUNZIPH (R139): Takes the odd lanes of wa followed by wb. -/
  | vunziph (d a b : WReg) (t : Fmt)
  /-- VREDADD (R140): Sums the lanes of wa in a fixed pairwise tree into lane 0. -/
  | vredadd (d a : WReg) (t : Fmt)
  /-- VREDMIN (R140): Reduces the lanes of wa to their minimum. -/
  | vredmin (d a : WReg) (t : Fmt)
  /-- VREDMAX (R140): Reduces the lanes of wa to their maximum. -/
  | vredmax (d a : WReg) (t : Fmt)
  /-- VREDAND (R140): Reduces the lanes of wa by AND. -/
  | vredand (d a : WReg) (t : Fmt)
  /-- VREDOR (R140): Reduces the lanes of wa by OR. -/
  | vredor (d a : WReg) (t : Fmt)
  /-- VREDXOR (R140): Reduces the lanes of wa by XOR. -/
  | vredxor (d a : WReg) (t : Fmt)
  /-- VSCAN_ADD_INC (R141): Inclusive segmented add scan of wa with heads in wb. -/
  | vscanAddInc (d a b : WReg) (t : Fmt)
  /-- VSCAN_ADD_EXC (R141): Exclusive segmented add scan. -/
  | vscanAddExc (d a b : WReg) (t : Fmt)
  /-- VSCAN_MIN_INC (R141): Inclusive segmented min scan. -/
  | vscanMinInc (d a b : WReg) (t : Fmt)
  /-- VSCAN_MIN_EXC (R141): Exclusive segmented min scan. -/
  | vscanMinExc (d a b : WReg) (t : Fmt)
  /-- VSCAN_MAX_INC (R141): Inclusive segmented max scan. -/
  | vscanMaxInc (d a b : WReg) (t : Fmt)
  /-- VSCAN_MAX_EXC (R141): Exclusive segmented max scan. -/
  | vscanMaxExc (d a b : WReg) (t : Fmt)
  /-- VCVT (R142): Converts one part of wa's lanes between formats into wd. -/
  | vcvt (d a : WReg) (q : Fin 8) (t : Fmt) (m : CvtMode) (s : Fmt)
  /-- VGET (R143): Moves one lane of a wide register, zero-extended, into rd. -/
  | vget (d : IReg) (a : WReg) (b : IReg) (s : LaneW)
  /-- VPUT (R143): Writes the low bits of ra into one lane of wd. -/
  | vput (d : WReg) (a b : IReg) (s : LaneW)
  /-- VBCAST (R143): Writes the low bits of ra into every lane of wd. -/
  | vbcast (d : WReg) (a : IReg) (s : LaneW)
  /-- SCFG (R149): Configures stream unit N from k0 to k3. -/
  | scfg (n : Fin 4)
  /-- SBIND (R150): Binds stream N to wide register wM. -/
  | sbind (m : WReg) (n : Fin 4)
  /-- SUNBIND (R154): Drains or discards the stream and frees its binding. -/
  | sunbind (n : Fin 4)
  /-- SSYNC (R154): Discards an input stream's run-ahead or waits for an output stream's pushes. -/
  | ssync (n : Fin 4)
  /-- VOWN (R145): Requests ownership of the core's sequencer and stream units, delivering 1 when granted. -/
  | vown (d : IReg)
  /-- VLOOP (R146): Hands the next n wide instructions to the sequencer to repeat ra times. -/
  | vloop (a : IReg) (n : Fin 16)
  /-- MFMT (R160): Sets the core's matrix format context from ra. -/
  | mfmt (a : IReg)
  /-- MMA (R164): Checks, translates and queues an addition of A·B into an accumulator tile. -/
  | mma (n : Fin 2) (a b : IReg)
  /-- MZ (R175): Queues the zeroing of an accumulator tile. -/
  | mz (n : Fin 2)
  /-- MST (R176): Queues a converted store of an accumulator tile to the own scratchpad, filling granules. -/
  | mst (n : Fin 2) (a b : IReg)
  /-- MWAIT (R177): Delivers 0 once every earlier queued matrix operation of the core has completed. -/
  | mwait (d : IReg)
  /-- CPG_IN (R239): Issues a shaped copy from global memory into the cluster's scratchpad on token N. -/
  | cpgIn (n : Fin 8) (a b : IReg)
  /-- CPG_OUT (R239): Issues a shaped copy from the scratchpad out to global memory. -/
  | cpgOut (n : Fin 8) (a b : IReg)
  /-- SEND (R240): Issues a push of a scratchpad block into up to eight clusters' scratchpads. -/
  | send (n : Fin 8) (a b : IReg)
  /-- CPFAR_IN (R245): Requests a context page from a far-tier server into HBM, optionally publishing a tag. -/
  | cpfarIn (n : Fin 8) (a b : IReg)
  /-- CPFAR_OUT (R245): Pushes a context page to a far-tier server. -/
  | cpfarOut (n : Fin 8) (a b : IReg)
  /-- COLL (R247): Contributes buffers to the next collective on a communicator. -/
  | coll (n : Fin 8) (a b : IReg)
  /-- WAITK (R243): Waits until every masked token has no copies in flight, acquiring them, or traps on a copy error. -/
  | waitk (m : BitVec 8)
  /-- TAGPUB (R299): Sends a publication of a tag at dev scope to the tag table. -/
  | tagpub (a : IReg)
  /-- TAGWAIT (R300): Sends a consumer look for a tag and delivers its generation when satisfied. -/
  | tagwait (d a : IReg)
  /-- TAGQ (R301): Delivers a snapshot of a tag entry. -/
  | tagq (d a : IReg)
  /-- RETAIN (R305): Names a successor group for the group's scratchpad allotment. -/
  | retain (a b : IReg)
  /-- TAKE (R307): Requests the next chunk of a range into rd and the next local register. -/
  | take (d a : IReg)
  /-- TAKE_ARM (R306): Arms a range from k0 to k2. -/
  | takeArm (a : IReg)
  /-- GRID (R294): Writes the selected index, size or identity value of the thread's group. -/
  | grid (d : IReg) (s : GridSel)
  /-- GRID_PARAM (R294): Writes the value of a parameter slot of the replay's parameter block. -/
  | gridParam (d a : IReg)
  /-- SYSR (R350): Reads a system register into rd. -/
  | sysr (d : IReg) (n : SysReg)
  /-- SYSW (R350): Writes ra to a system register that has no behaviour of its own. -/
  | sysw (a : IReg) (n : SysReg)
  /-- SYSW_TLB_SHOOT (R331): Starts a shootdown of the context's translations over a range and holds the thread until it completes. -/
  | syswTlbShoot (a : IReg)
  /-- SYSW_CENSUS_CTL (R311): Writing 1 clears every census counter of the core for the context. -/
  | syswCensusCtl (a : IReg)
  /-- SYSW_SEQ_STATE (R349): Writing 0 to the run bit abandons the stopped sequencer run at ERET. -/
  | syswSeqState (a : IReg)
  /-- SYSW_SUM_STATUS (R231): Clears the SUM_STATUS bits written as 1. -/
  | syswSumStatus (a : IReg)
  /-- SYSW_FRAME_WINDOW (R346): Trap service writes a word of the trapped thread's frame, filling registers or setting the resume address. -/
  | syswFrameWindow (n : Fin 72) (a : IReg)
  /-- MARK (R354): Writes a kind 15 contrail record closing a step and resets the issuer's stamp. -/
  | mark (a : IReg)
  /-- RDCYC (R355): Delivers the count of core-island cycles the context has held the cluster. -/
  | rdcyc (d : IReg)
  /-- TRAP (R352): Compact instruction that raises a software trap with a 10-bit code. -/
  | trap (c : BitVec 10)
  /-- NOP (R61): Compact instruction that does nothing. -/
  | nop
  /-- EXIT (R76): Stops the thread's issue and begins its termination sequence. -/
  | exit
  /-- BREAK (R77): Ends every higher member of the family and then ends the thread as EXIT does. -/
  | brk
  /-- YIELD (R280): Makes the thread not ready until the other ready slots of its core have issued once. -/
  | yield
  /-- FENCE_CORE (R215): Holds later accesses until earlier accesses homed in the core's TCM are performed. -/
  | fenceCore
  /-- FENCE_CL (R215): Holds later accesses until earlier accesses, reductions, pushes and MSTs homed in cl scope are performed. -/
  | fenceCl
  /-- FENCE_DEV (R215): Holds later accesses until earlier work homed in dev scope is performed. -/
  | fenceDev
  /-- FENCE_SYS (R215): Holds later accesses until earlier work homed anywhere, peers included, is performed. -/
  | fenceSys
  /-- CLRFLG (R136): Clears all five sticky flags. -/
  | clrflg
  /-- VDISOWN (R145): Releases vector ownership once the run, bindings and pushes are done. -/
  | vdisown
  /-- MUNF (R162): Sets the core's unfold descriptor from k0 to k3. -/
  | munf
  /-- ERET (R351): Ends trap service after its accesses are performed and resumes the trapped thread. -/
  | eret
  /-- HALT (R353): Raises the fatal halt fault, or in trap service makes the served trap fatal. -/
  | halt
  /-- BKPT (R353): Raises a breakpoint trap resuming at BKPT + 4. -/
  | bkpt
  /-- BOOT (R21): At power-on the module verifies and loads its firmware images from flash, falling back to recovery. -/
  | boot (primary recovery : List Image) (cfg : Blobs)
  /-- PTP_SYNC (R318): A PTP message on the management endpoint aligns the device time base. -/
  | ptpSync (t : Nat)
  /-- KICK (R15): A kick message arrives at a context's command endpoint and joins the context's kick queue or is refused. -/
  | kick (h : Hdr) (port : Nat) (msg : List Byte)
  /-- KICK_TAKE (R285): The launch unit takes a queued kick, checks it, builds the parameter block and starts the replay. -/
  | kickTake (ctx : Nat)
  /-- GROUP_PLACEMENT (R290): Each cycle the launch unit places the highest-priority ready group on a cluster with room. -/
  | groupPlacement
  /-- GROUP_DISPATCH (R13): A dispatch message reaches a cluster, which allocates the root slot and starts the group's root thread. -/
  | groupDispatch (grp : Nat)
  /-- GROUP_RETIREMENT (R16): A group whose root, families, copies and reductions have all ended retires as a release at dev scope. -/
  | groupRetirement (grp : Nat)
  /-- WAVE_COUNTER_ALLOCATION (R303): A kernel with dependence vectors obtains its window of wave counters when counters are free. -/
  | waveCounterAllocation (replay kern : Nat)
  /-- ALLOTMENT_FREEING (R241): A retired group's scratchpad allotment is cleared and freed once copies into it complete. -/
  | allotmentFreeing (grp : Nat)
  /-- TAG_PUBLICATION (R295): A publication reaches the tag table and updates the entry, satisfying waiters. -/
  | tagPublication (pub : Nat)
  /-- TAG_LOOKUP (R295): A consumer look reaches the tag table and is satisfied, waits, or faults. -/
  | tagLookup (look : TagLook)
  /-- RETAIN_RECORD (R305): A RETAIN is recorded at the launch unit some cycles after issue. -/
  | retainRecord (grp : Nat)
  /-- TAKE_SERVICE (R307): The range unit serves an arriving TAKE or arm in arrival order and replies. -/
  | takeService (pend : Nat)
  /-- DELEGATION_CANDIDATES (R262): The launch unit answers a delegation request with a list of candidate clusters. -/
  | delegationCandidates (fam : Nat) (take : Bool)
  /-- DELEGATION_PROBE (R262): A probed cluster accepts a delegated family and places it, or refuses. -/
  | delegationProbe (fam : Nat)
  /-- PROBE_REPLY (R262): A probe's answer reaches the creating cluster, which probes the next candidate or runs the family inline. -/
  | probeReply (fam : Nat)
  /-- FORWARD_ARRIVAL (R264): A forwarded shared value reaches the next member's d register or the home entry. -/
  | forwardArrival (fwd : Nat)
  /-- THREAD_TERMINATION (R76): An exiting thread whose accesses are performed forwards pass-throughs and frees its slot. -/
  | threadTermination (uid : Nat)
  /-- FKILL_ARRIVAL (R276): A kill takes effect at the family's home entry or host cluster, ending its members. -/
  | fkillArrival (kill : Nat)
  /-- ACCESS_PERFORM (R201): A home commits an access, a read-modify-write or a granule operation at one instant. -/
  | accessPerform (acc : Nat) (peer : PeerAnswer)
  /-- RESULT_ARRIVAL (R37): A reply or result reaches a register, making it FULL and readying suspended threads. -/
  | resultArrival (arr : Nat)
  /-- OUTBOUND_RESEND (R220): A bank or channel core reports a free entry and queued requests are sent again in issue order. -/
  | outboundResend (u : UnitId)
  /-- REQUEST_AGED (R197): A core or copy-engine request that has waited 4 cycles becomes aged and takes bank slots first. -/
  | requestAged (acc : Nat)
  /-- REQUEST_PASS_LIMIT (R200): A channel-core request passed by 64 later arrivals is performed next. -/
  | requestPassLimit (acc : Nat)
  /-- PAGE_WALK (R328): A walker translates a TLB miss by reading page-table entries. -/
  | pageWalk (phys ctx : Nat) (va : BitVec 52)
  /-- STREAM_FETCH (R151): A stream unit fetches the next element ahead of the pops. -/
  | streamFetch (phys c : Nat) (u : Fin 4) (peer : Wide)
  /-- SEQUENCER_ISSUE (R147): The vector sequencer issues the next body instruction of a run. -/
  | sequencerIssue (phys c : Nat)
  /-- MATRIX_OP_START (R158): The matrix unit chooses the next ready operation round-robin over cores and starts it. -/
  | matrixOpStart (phys c : Nat) (reads : List Nat)
  /-- MATRIX_OP_COMPLETE (R164): A matrix operation completes and replaces its accumulator tile in one cycle. -/
  | matrixOpComplete (phys : Nat) (upset : Bool)
  /-- COPY_BURST (R242): A copy or port engine moves a burst of the copy with the least effective slack. -/
  | copyBurst (copy : Nat) (units : UnitRun) (part : Nat) (peer : List (BitVec 128))
  /-- FAR_TIER_ACK (R245): A far-tier server's acknowledgement completes a CPFAR.out. -/
  | farTierAck (h : FarHdr)
  /-- FAR_PAGE_ARRIVAL (R245): A page arriving by RDMA is decompressed into HBM and may publish its tag. -/
  | farPageArrival (h : FarHdr) (page : List Byte)
  /-- FAR_TIER_TIMEOUT (R249): A far-tier request passes its timeout and completes with error 5. -/
  | farTierTimeout (copy : Nat)
  /-- COLLECTIVE_MESSAGE (R247): A collective message from another rank is taken and combined in ring order. -/
  | collectiveMessage (h : Hdr) (comm : Nat) (msg : CollMsg)
  /-- COLLECTIVE_TIMEOUT (R248): A collective passes its timeout and ends in error at every participant. -/
  | collectiveTimeout (ctx comm k : Nat) (missing : Nat) (lost : Bool)
  /-- PEER_ACCESS_ARRIVAL (R337): A system-aperture access arrives at the exporter, is checked, translated and performed. -/
  | peerAccessArrival (h : Hdr) (mark : PeerMark) (peerCtx : Nat) (offset : Nat) (size : Nat) (op : PeerOp)
  /-- PEER_LOSS (R194): The transport abandons a peer and the context takes the fatal peer-loss fault. -/
  | peerLoss (ctx : Nat) (peer : Nat)
  /-- TRAP_SERVICE_START (R344): The trap slot starts serving the head of the trap queue once its pending writes and accesses have drained. -/
  | trapServiceStart (phys c : Nat)
  /-- FREEZE_COMPLETE (R368): The last cluster of a faulted context drains and the freeze limit timer starts. -/
  | freezeComplete (ctx : Nat)
  /-- FREEZE_LIMIT_EXPIRY (R369): The freeze limit expires and the dump writer dumps and releases the context. -/
  | freezeLimitExpiry (ctx : Nat)
  /-- QUANTUM_EXPIRY (R291): A cluster's quantum timer expires and the cluster is pre-empted for a waiting context or the timer restarts. -/
  | quantumExpiry (phys : Nat)
  /-- HOSTING_SLICE_EXPIRY (R182): A 500 µs slice ends and the host switches to another logical cluster with work. -/
  | hostingSliceExpiry (phys : Nat)
  /-- PREEMPTION_SAVE (R356): A drained cluster writes its save record and is released. -/
  | preemptionSave (phys : Nat)
  /-- RESTORE (R359): A saved cluster is restored on its logical cluster and held messages are delivered. -/
  | restore (ctx lcl : Nat)
  /-- UNIT_WATCHDOG (R362): A unit completes no step of its work for 50 µs and raises the watchdog fault. -/
  | unitWatchdog (u : UnitId)
  /-- PROGRESS_WATCHDOG (R362): An owed wait of a group lasts 50 µs with no step in its unit and raises the watchdog fault. -/
  | progressWatchdog (grp : Nat)
  /-- PATROL_SCRUB (R361): The patrol scrub reads stored words to detect and correct errors. -/
  | patrolScrub (word : Stored) (bits : Upset)
  /-- LINK_RETRY (R361): A flit arrives with a bad CRC and is retried, counting toward the retry threshold. -/
  | linkRetry (link : Nat)
  /-- PORT_STATE_CHANGE (R365): An Ethernet port goes down or up and the event is reported. -/
  | portStateChange (port : Fin 16) (up : Bool)
  /-- CLUSTER_FENCING (R364): A cluster with too many faults is pre-empted, removed from the logical map and fenced. -/
  | clusterFencing (phys : Nat)
  /-- OPERATING_POINT_CHANGE (R18): Power firmware sets an island to a new operating point at a cycle boundary. -/
  | operatingPointChange (isl : Island) (pt : OpPoint)
  /-- MATRIX_ISLAND_GATE (R18): A matrix island with no MMA for 20 µs is gated. -/
  | matrixIslandGate (phys : Nat)
  /-- CORE_ISLAND_WAKE (R20): A gated core island wakes with zeroed storage after a placement. -/
  | coreIslandWake (phys : Nat)
  /-- MATRIX_ISLAND_WAKE (R20): A gated matrix island wakes and runs the waiting MMA. -/
  | matrixIslandWake (phys : Nat)
  /-- SHOOTDOWN_COMPLETE (R331): A shootdown completes once operations holding the removed translations have completed. -/
  | shootdownComplete (sd : Nat)
  /-- UPLOAD_GRAPH (R281): Command 0x10 checks, places, relocates and loads a graph of one to 16 objects. -/
  | uploadGraph (h : Hdr) (depth place : BitVec 8) (objs : List Vgo) (at_ : List Placement)
  /-- REMOVE_GRAPH (R281): Command 0x11 asks for a graph to be removed once no replay of it is queued or running. -/
  | removeGraph (h : Hdr) (graph : BitVec 32)
  /-- GRAPH_REMOVAL_COMPLETE (R281): The graph is removed and its id names nothing. -/
  | graphRemovalComplete (graph : BitVec 32)
  /-- SET_PT_ROOT (R324): Command 0x13 sets the context's page-table root. -/
  | setPtRoot (h : Hdr) (pa : Word)
  /-- SET_PEER_TABLE_ENTRY (R337): Command 0x14 sets one entry of the context's peer table. -/
  | setPeerTableEntry (h : Hdr) (peer dev : BitVec 16) (endpoint length : Word)
  /-- SET_EXPORTED_WINDOW (R337): Command 0x15 sets the context's exported window and its accepted peers. -/
  | setExportedWindow (h : Hdr) (base length : Word) (accept : List (BitVec 16 × BitVec 16))
  /-- SET_FAR_TABLE_ENTRY (R244): Command 0x16 sets one far-table entry. -/
  | setFarTableEntry (h : Hdr) (entry : BitVec 8) (server : Word) (port : BitVec 8) (timeoutUs : BitVec 32)
  /-- SET_COMMUNICATOR (R247): Command 0x17 sets up a collective communicator. -/
  | setCommunicator (h : Hdr) (comm p rank : BitVec 16) (prev next group : Word) (timeoutUs : BitVec 32)
  /-- SET_FP_CTL (R348): Command 0x18 naming FP_CTL sets the root threads' floating-point control bits. -/
  | setFpCtl (h : Hdr) (v : Word)
  /-- SET_JOB_SEED (R118): Command 0x18 naming JOB_SEED sets the stochastic seed from the next replay. -/
  | setJobSeed (h : Hdr) (v : Word)
  /-- SET_STRATUS_CTL (R181): Command 0x18 naming STRATUS_CTL sets stratus mode from the next kick taken. -/
  | setStratusCtl (h : Hdr) (v : Word)
  /-- SET_CONTRAIL_BASE (R316): Command 0x18 naming CONTRAIL_BASE sets the contrail buffer address. -/
  | setContrailBase (h : Hdr) (v : Word)
  /-- SET_CONTRAIL_CTL (R316): Command 0x18 naming CONTRAIL_CTL sets the contrail size and enable. -/
  | setContrailCtl (h : Hdr) (v : Word)
  /-- SET_FREEZE_AND_DUMP (R367): Command 0x19 sets FREEZE_LIMIT, DUMP_BASE and DUMP_SIZE. -/
  | setFreezeAndDump (h : Hdr) (limitMs : BitVec 32) (base : Word) (size : BitVec 32)
  /-- SUSPEND_CONTEXT (R360): Command 0x1A saves every cluster of the context and holds its kicks. -/
  | suspendContext (h : Hdr)
  /-- RESUME_CONTEXT (R360): Command 0x1B restores a suspended context's clusters. -/
  | resumeContext (h : Hdr)
  /-- CONTEXT_QUOTE (R340): Command 0x1C returns a signed attestation quote for the context. -/
  | contextQuote (h : Hdr) (nonce : BitVec 384)
  /-- SHOOTDOWN_COMMAND (R331): Command 0x1D starts a shootdown of the context's translations. -/
  | shootdownCommand (h : Hdr) (v : Word)
  /-- CREATE_CONTEXT (R324): Management opcode 0x01 creates a context with the lowest free id. -/
  | createContext (m : CreateMsg)
  /-- DESTROY_CONTEXT (R326): Management opcode 0x02 discards the context's kicks and stops its threads. -/
  | destroyContext (h : Hdr) (ctx : Nat)
  /-- CONTEXT_DESTROY_DRAINED (R326): After the destroyed context's accesses drain, its state is freed, its clusters cleared and its id freed. -/
  | contextDestroyDrained (ctx : Nat)
  /-- SET_GRANTS (R325): Management opcode 0x03 sets grants, allotment, priority and endpoints. -/
  | setGrants (h : Hdr) (ctx : Nat) (gs : GrantSet)
  /-- SCRUB_RANGE (R325): Management opcode 0x04 writes zeros to a range no context holds. -/
  | scrubRange (h : Hdr) (base len : Nat)
  /-- SCRUB_COMPLETE (R325): The scrub's writes are all performed and it replies. -/
  | scrubComplete
  /-- QUOTE (R340): Management opcode 0x05 returns a signed attestation quote. -/
  | quote (h : Hdr) (nonce : BitVec 384)
  /-- IDENTITY_CERTIFICATE (R339): Management opcode 0x06 returns the identity public key and certificate. -/
  | identityCertificate (h : Hdr)
  /-- FENCE_CLUSTER (R364): Management opcode 0x07 asks for a cluster to be fenced. -/
  | fenceCluster (h : Hdr) (phys : Nat)
  /-- UNFENCE_CLUSTER (R364): Management opcode 0x08 unfences a cluster whose self-test passes. -/
  | unfenceCluster (h : Hdr) (phys : Nat) (selfTest : Bool)
  /-- READ_REPLACE_ME_STATUS (R365): Management opcode 0x09 returns the replace-me status. -/
  | readReplaceMeStatus (h : Hdr)
  /-- REGISTER_EVENT_ENDPOINT (R366): Management opcode 0x0A registers the host's event endpoint. -/
  | registerEventEndpoint (h : Hdr) (endpoint : Nat)
  /-- SET_POWER_LIMIT (R372): Management opcode 0x0B sets the module power limit. -/
  | setPowerLimit (h : Hdr) (watts : Nat)
  /-- GRANT_RANGE (R306): Management opcode 0x0C with byte 3 set grants a range of the range unit to a context. -/
  | grantRange (h : Hdr) (ctx : Nat) (range : BitVec 8)
  /-- REVOKE_RANGE (R306): Management opcode 0x0C with byte 3 clear ends a context's grant of a range. -/
  | revokeRange (h : Hdr) (ctx : Nat) (range : BitVec 8)
  /-- RANGE_REVOKE_COMPLETE (R306): Once earlier TAKEs and arms are served, the revoke takes effect and replies. -/
  | rangeRevokeComplete (range : Nat)
  /-- ATTACH (R336): Debug opcode 0x20 attaches a debugger with the context's credential. -/
  | attach (h : Hdr) (credential : BitVec 256)
  /-- DEBUG_DETACH (R374): Debug opcode 0x21 detaches and restarts a freeze timer. -/
  | debugDetach (h : Hdr)
  /-- READ_FRAME (R374): Debug opcode 0x22 returns a frozen or held thread's frame. -/
  | readFrame (h : Hdr) (lcl c slot : BitVec 8)
  /-- WRITE_FRAME_WORD (R374): Debug opcode 0x23 writes one frame-window word of a frozen or held thread. -/
  | writeFrameWord (h : Hdr) (lcl c slot : BitVec 8) (num : BitVec 32) (v : Word)
  /-- READ_MEMORY (R374): Debug opcode 0x24 reads memory through the context's translation. -/
  | readMemory (h : Hdr) (addr : Word) (len : BitVec 32) (peer : List Byte)
  /-- WRITE_MEMORY (R374): Debug opcode 0x25 writes memory through the context's translation. -/
  | writeMemory (h : Hdr) (addr : Word) (data : List Byte)
  /-- READ_CLUSTER_STATE (R374): Debug opcode 0x26 reads scratchpad, TCM, accumulators or granule states of a frozen cluster. -/
  | readClusterState (h : Hdr) (lcl area c : BitVec 8) (offset len : BitVec 32)
  /-- SET_BREAKPOINT_ENTRY (R319): Debug opcode 0x27 sets one of the context's breakpoint entries. -/
  | setBreakpointEntry (h : Hdr) (entry enable : BitVec 8) (handle mask : BitVec 32) (addr : Word)
  /-- RESUME_HELD_THREAD (R353): Debug opcode 0x28 resumes a thread held by a breakpoint. -/
  | resumeHeldThread (h : Hdr) (lcl c slot : BitVec 8)
  /-- RELEASE_FREEZE (R369): Debug opcode 0x29 ends a freeze, optionally writing the compact dump. -/
  | releaseFreeze (h : Hdr) (dump : Bool)
  /-- ILLEGAL_INSTRUCTION (R51): An issue attempt at a word with a reserved opcode, function, fmt or must-be-zero field raises the illegal-instruction trap whatever its guard. -/
  | illegalInstruction
  /-- INSTRUCTION_ADDRESS_TRAP (R23): A thread whose program counter is odd or outside its graph's .text raises the instruction-address trap at the fetch. -/
  | instructionAddressTrap
  /-- FAR_SERVER_REFUSAL (R249): A far-tier server refuses a request or reports its key absent, and the copy completes with error 4. -/
  | farServerRefusal (h : FarHdr)
  /-- UNKNOWN_OPCODE_REQUEST (R372): A request on the management, command or debug endpoint with an opcode not listed receives a reply of status 1 and changes nothing. -/
  | unknownOpcodeRequest (h : Hdr) (ep : Endp) (opcode : BitVec 16)
  deriving DecidableEq, Repr

end Sys2Proof
end

