-- ==== Sys2Proof/WellFormed.lean ====
section
/-! DEFINITION. Which instructions are legal (R28, R32, R34, R51, R52): every check of R42 step 2 that the word
alone decides. An instruction of the model already holds names, so a value that has no name (a reserved compare
condition, an unlisted selector or system register number) is refused in Decode.lean. -/

namespace Sys2Proof

/-- Why a halfword or word is an illegal instruction (R51). -/
inductive Illegal where
  /-- reserved major opcode (R46) -/
  | major
  /-- unlisted function value (R47) -/
  | function
  /-- a must-be-zero field that is not zero (R52) -/
  | field
  /-- reserved compact op (R49) -/
  | compact
  /-- negated p0 (R32) -/
  | guard
  /-- a d or g register as destination (R34) -/
  | dest
  /-- one predicate in pd and pq (R28) -/
  | predicates
  /-- a format the function does not accept (R27) -/
  | format
  /-- a mode the pair does not accept (R127) -/
  | mode
  /-- a reserved condition or class (R62, R134, R233) -/
  | cond
  /-- an unlisted selector (R293) -/
  | selector
  /-- an unlisted system register (R348) -/
  | sysReg
  /-- off20 of 0 or 1 (R26) -/
  | shortBranch
  /-- a destination of TAKE other than l0 to l13 (R307) -/
  | takeDest
  /-- SBIND to a register above w3 (R150) -/
  | streamReg
  deriving DecidableEq, Repr

/-! ## Formats -/

/-- Bits of one element (R27, R109, R111). -/
def Fmt.width : Fmt → Nat
  | .i8 | .n8 | .e5 | .e4 | .x8 => 8
  | .i16 | .n16 | .h | .bf => 16
  | .i32 | .n32 | .s => 32
  | .i64 | .n64 | .d => 64
  | .e2 => 4

/-- Lanes of a wide register (R27). -/
def Fmt.lanes (f : Fmt) : Nat := 256 / f.width

/-- Codes 0x0 to 0x7. -/
def Fmt.isInt : Fmt → Bool
  | .i8 | .i16 | .i32 | .i64 | .n8 | .n16 | .n32 | .n64 => true
  | _ => false

/-- The i codes (R109). -/
def Fmt.isSigned : Fmt → Bool
  | .i8 | .i16 | .i32 | .i64 => true
  | _ => false

/-- Codes 0x8 to 0xB. -/
def Fmt.isFloat : Fmt → Bool
  | .d | .s | .h | .bf => true
  | _ => false

/-- Codes 0x0 to 0xB. -/
def Fmt.isArith (f : Fmt) : Bool := f.isInt || f.isFloat

def FFmt.fmt : FFmt → Fmt
  | .d => .d
  | .s => .s
  | .h => .h
  | .bf => .bf

/-- The destination holds every source value (R126, R127): both formats other than E8M0. -/
def exactPair (src dst : Fmt) : Bool :=
  if src.isInt && dst.isInt then
    if src.isSigned then dst.isSigned && src.width ≤ dst.width
    else if dst.isSigned then src.width < dst.width else src.width ≤ dst.width
  else
    match src, dst with
    | .i8, .s | .n8, .s | .i16, .s | .n16, .s | .i8, .d | .n8, .d | .i16, .d | .n16, .d => true
    | .i8, .h | .n8, .h | .i8, .bf | .n8, .bf | .i32, .d | .n32, .d => true
    | .s, .d | .h, .s | .h, .d | .bf, .s | .bf, .d => true
    | .e5, .h | .e5, .bf | .e5, .s | .e5, .d | .e4, .h | .e4, .bf | .e4, .s | .e4, .d => true
    | .e2, .e5 | .e2, .e4 | .e2, .h | .e2, .bf | .e2, .s | .e2, .d => true
    | _, _ => false

/-- The modes that a conversion pair accepts (R126, R127). -/
def modeOk (src dst : Fmt) : CvtMode → Bool
  | .sr => !exactPair src dst && (match dst with
      | .s | .h | .bf | .e5 | .e4 | .e2 => true
      | _ => false)
  | _ => true

/-- The pairs and modes of CVT (R135). -/
def cvtCheck (dst src : Fmt) (m : CvtMode) : Option Illegal :=
  if dst == src || dst == .x8 || src == .x8 then some .format
  else if modeOk src dst m then none else some .mode

/-- Lane ratio of a VCVT (R142). -/
def vcvtRatio (dst src : Fmt) : Nat := max src.lanes dst.lanes / min src.lanes dst.lanes

/-- The pairs, modes and parts of VCVT (R128, R142). E8M0 to FP32 with mode .sr is an illegal instruction: R127's table of
exact pairs does not name the pair, R128 states modes only for FP32 to E8M0, and every E8M0 value has an FP32 encoding, so the
model takes the pair as exact (DESIGN CHOICE, log entry 90). -/
def vcvtCheck (dst src : Fmt) (m : CvtMode) (q : Fin 8) : Option Illegal :=
  if dst == src then some .format
  else if (dst == .x8 && src != .s) || (src == .x8 && dst != .s) then some .format
  else if (dst == .x8 || src == .x8) && m == .sr then some .mode
  else if dst != .x8 && src != .x8 && !modeOk src dst m then some .mode
  else if vcvtRatio dst src > 8 || vcvtRatio dst src ≤ q.val then some .format
  else none

/-! ## Fields -/

/-- The register may be a destination (R34). -/
def IReg.writable : IReg → Bool
  | .d _ | .g _ => false
  | _ => true

/-- The guard is not the reserved one (R32). -/
def Guard.ok (g : Guard) : Bool := !(g.neg && g.p == 0)

/-- The integer register that an instruction names as its destination (R34). -/
def Instr.dst? : Instr → Option IReg
  | .add d _ _ => some d
  | .sub d _ _ => some d
  | .and d _ _ => some d
  | .or d _ _ => some d
  | .xor d _ _ => some d
  | .andn d _ _ => some d
  | .orn d _ _ => some d
  | .xnor d _ _ => some d
  | .sll d _ _ => some d
  | .srl d _ _ => some d
  | .sra d _ _ => some d
  | .ror d _ _ => some d
  | .min d _ _ => some d
  | .max d _ _ => some d
  | .minu d _ _ => some d
  | .maxu d _ _ => some d
  | .adds d _ _ => some d
  | .subs d _ _ => some d
  | .addsu d _ _ => some d
  | .subsu d _ _ => some d
  | .addImm d _ _ => some d
  | .andImm d _ _ => some d
  | .orImm d _ _ => some d
  | .xorImm d _ _ => some d
  | .sllImm d _ _ => some d
  | .srlImm d _ _ => some d
  | .sraImm d _ _ => some d
  | .rorImm d _ _ => some d
  | .mulImm d _ _ => some d
  | .minImm d _ _ => some d
  | .maxImm d _ _ => some d
  | .li d _ => some d
  | .lis d _ => some d
  | .mul d _ _ => some d
  | .mulh d _ _ => some d
  | .mulhu d _ _ => some d
  | .mulhsu d _ _ => some d
  | .div d _ _ => some d
  | .divu d _ _ => some d
  | .rem d _ _ => some d
  | .remu d _ _ => some d
  | .clz d _ => some d
  | .ctz d _ => some d
  | .popc d _ => some d
  | .brev d _ => some d
  | .bswap d _ => some d
  | .sxb d _ => some d
  | .sxh d _ => some d
  | .sxw d _ => some d
  | .bfx d _ _ => some d
  | .bfxu d _ _ => some d
  | .bfi d _ _ => some d
  | .rdk d _ => some d
  | .rdpw d => some d
  | .mov _ d => some d
  | .movi _ d => some d
  | .call d _ => some d
  | .callr d _ _ => some d
  | .create d _ => some d
  | .falloc d => some d
  | .fsync d _ => some d
  | .tix d => some d
  | .fget d _ _ => some d
  | .fstat d _ => some d
  | .ldBs d _ _ => some d
  | .ldBz d _ _ => some d
  | .ldHs d _ _ => some d
  | .ldHz d _ _ => some d
  | .ldWs d _ _ => some d
  | .ldWz d _ _ => some d
  | .ldD d _ _ => some d
  | .ldfe d _ _ => some d
  | .ldff d _ _ => some d
  | .aadd d _ _ _ => some d
  | .aand d _ _ _ => some d
  | .aor d _ _ _ => some d
  | .axor d _ _ _ => some d
  | .amin d _ _ _ => some d
  | .amax d _ _ _ => some d
  | .aminu d _ _ _ => some d
  | .amaxu d _ _ _ => some d
  | .axchg d _ _ _ => some d
  | .acas d _ _ _ => some d
  | .afadd d _ _ _ => some d
  | .await d _ _ _ _ => some d
  | .sumoff d _ => some d
  | .cvtaCl d _ => some d
  | .cvtaSp d _ => some d
  | .fadd _ d _ _ => some d
  | .fsub _ d _ _ => some d
  | .fmul _ d _ _ => some d
  | .fdiv _ d _ _ => some d
  | .fmin _ d _ _ => some d
  | .fmax _ d _ _ => some d
  | .fsqrt _ d _ => some d
  | .fabs _ d _ => some d
  | .fneg _ d _ => some d
  | .fma _ d _ _ => some d
  | .fclass _ d _ => some d
  | .frcp _ d _ => some d
  | .frsq _ d _ => some d
  | .fexp2 _ d _ => some d
  | .flog2 _ d _ => some d
  | .fsin _ d _ => some d
  | .fcos _ d _ => some d
  | .ftanh _ d _ => some d
  | .cvt d _ _ _ _ => some d
  | .rdfp d => some d
  | .vget d _ _ _ => some d
  | .vown d => some d
  | .mwait d => some d
  | .tagwait d _ => some d
  | .tagq d _ => some d
  | .take d _ => some d
  | .grid d _ => some d
  | .gridParam d _ => some d
  | .sysr d _ => some d
  | .rdcyc d => some d
  | _ => none

/-- The checks that belong to one instruction's own fields. -/
def Instr.own : Instr → Option Illegal
  | .cmp p q _ _ _ => if p == 0 || p != q then none else some .predicates
  | .cmpi p q _ _ _ => if p == 0 || p != q then none else some .predicates
  | .fcmpD p q _ _ _ => if p == 0 || p != q then none else some .predicates
  | .fcmpS p q _ _ _ => if p == 0 || p != q then none else some .predicates
  | .fcmpH p q _ _ _ => if p == 0 || p != q then none else some .predicates
  | .fcmpBf p q _ _ _ => if p == 0 || p != q then none else some .predicates
  | .isap p q _ _ => if p == 0 || p != q then none else some .predicates
  | .plog p q _ _ _ => if p == 0 || p != q then none else some .predicates
  | .b o => if 2 ≤ o.toNat then none else some .shortBranch
  | .sumon p q _ => if p == 0 || p != q then none else some .predicates
  | .frcp f _ _ => if f != .d then none else some .function
  | .frsq f _ _ => if f != .d then none else some .function
  | .fexp2 f _ _ => if f != .d then none else some .function
  | .flog2 f _ _ => if f != .d then none else some .function
  | .fsin f _ _ => if f != .d then none else some .function
  | .fcos f _ _ => if f != .d then none else some .function
  | .ftanh f _ _ => if f != .d then none else some .function
  | .cvt _ _ m s t => cvtCheck t s m
  | .vadd _ _ _ t => if t.isArith then none else some .format
  | .vsub _ _ _ t => if t.isArith then none else some .format
  | .vmul _ _ _ t => if t.isArith then none else some .format
  | .vfma _ _ _ t => if t.isArith then none else some .format
  | .vmin _ _ _ t => if t.isArith then none else some .format
  | .vmax _ _ _ t => if t.isArith then none else some .format
  | .vadds _ _ _ t => if t.isInt then none else some .format
  | .vsubs _ _ _ t => if t.isInt then none else some .format
  | .vand _ _ _ t => if t.isInt then none else some .format
  | .vor _ _ _ t => if t.isInt then none else some .format
  | .vxor _ _ _ t => if t.isInt then none else some .format
  | .vsll _ _ _ t => if t.isInt then none else some .format
  | .vsrl _ _ _ t => if t.isInt then none else some .format
  | .vsra _ _ _ t => if t.isInt then none else some .format
  | .vdiv _ _ _ t => if t.isArith then none else some .format
  | .vsqrt _ _ t => if t.isFloat then none else some .format
  | .vabs _ _ t => if t.isArith then none else some .format
  | .vneg _ _ t => if t.isArith then none else some .format
  | .vmulh _ _ _ t => if t.isInt then none else some .format
  | .vcmpEq _ _ _ t => if t.isArith then none else some .format
  | .vcmpNe _ _ _ t => if t.isArith then none else some .format
  | .vcmpLt _ _ _ t => if t.isArith then none else some .format
  | .vcmpLe _ _ _ t => if t.isArith then none else some .format
  | .vcmpUn _ _ _ t => if t.isFloat then none else some .format
  | .vsel _ _ _ t => if t.isArith then none else some .format
  | .vperm _ _ _ t => if t.isInt then none else some .format
  | .vzipl _ _ _ t => if t.isInt then none else some .format
  | .vziph _ _ _ t => if t.isInt then none else some .format
  | .vunzipl _ _ _ t => if t.isInt then none else some .format
  | .vunziph _ _ _ t => if t.isInt then none else some .format
  | .vredadd _ _ t => if t.isArith then none else some .format
  | .vredmin _ _ t => if t.isArith then none else some .format
  | .vredmax _ _ t => if t.isArith then none else some .format
  | .vredand _ _ t => if t.isInt then none else some .format
  | .vredor _ _ t => if t.isInt then none else some .format
  | .vredxor _ _ t => if t.isInt then none else some .format
  | .vscanAddInc _ _ _ t => if t.isArith then none else some .format
  | .vscanAddExc _ _ _ t => if t.isArith then none else some .format
  | .vscanMinInc _ _ _ t => if t.isArith then none else some .format
  | .vscanMinExc _ _ _ t => if t.isArith then none else some .format
  | .vscanMaxInc _ _ _ t => if t.isArith then none else some .format
  | .vscanMaxExc _ _ _ t => if t.isArith then none else some .format
  | .vcvt _ _ q t m s => vcvtCheck t s m q
  | .sbind m _ => if m.val ≤ 3 then none else some .streamReg
  | .take d _ => (match d with
    | .l i => if i.val ≤ 13 then none else some .takeDest
    | _ => some .takeDest)
  | .sysw _ n => (match n with
    | .tlbShoot | .censusCtl | .seqState | .sumStatus | .frame _ => some .sysReg
    | _ => none)
  | _ => none

/-- The first check of R42 step 2 that the instruction fails; none when it is legal. The guard has its own,
`Guard.ok`. -/
def Instr.check (i : Instr) : Option Illegal :=
  if i.dst?.any (fun d => !d.writable) then some .dest
  else i.own

/-- A legal instruction. `SYSW` under a number that has a constructor of its own is written with that one. -/
def Instr.wf (i : Instr) : Bool := i.check.isNone

end Sys2Proof
end

