-- ==== Sys2Proof/Decode.lean ====
section
/-! DEFINITION. Decoding, total on any bytes, and the encoder (R22 to R30, R46 to R52). An instruction comes back
only if it is legal; every other word is refused with a reason (R51). -/

namespace Sys2Proof

/-! ## Field codes -/

/-- The 5-bit register field (R33). -/
def IReg.code : IReg → BitVec 5
  | .zero => 0#5
  | .l i => BitVec.ofNat 5 (1 + i.val)
  | .s i => BitVec.ofNat 5 (16 + i.val)
  | .d i => BitVec.ofNat 5 (20 + i.val)
  | .g i => BitVec.ofNat 5 (24 + i.val)

/-- The register that a 5-bit field names (R33). -/
def IReg.ofCode (b : BitVec 5) : IReg :=
  let n := b.toNat
  if n = 0 then .zero
  else if h : n - 1 < 15 then .l ⟨n - 1, h⟩
  else if h : n - 16 < 4 then .s ⟨n - 16, h⟩
  else if h : n - 20 < 4 then .d ⟨n - 20, h⟩
  else .g ⟨(n - 24) % 8, Nat.mod_lt _ (by decide)⟩

def code1 (x : Fin 2) : BitVec 1 := BitVec.ofNat 1 x.val
def code2 (x : Fin 4) : BitVec 2 := BitVec.ofNat 2 x.val
def code3 (x : Fin 8) : BitVec 3 := BitVec.ofNat 3 x.val
def code4 (x : Fin 16) : BitVec 4 := BitVec.ofNat 4 x.val
def fin1 (b : BitVec 1) : Fin 2 := ⟨b.toNat, b.isLt⟩
def fin2 (b : BitVec 2) : Fin 4 := ⟨b.toNat, b.isLt⟩
def fin3 (b : BitVec 3) : Fin 8 := ⟨b.toNat, b.isLt⟩
def fin4 (b : BitVec 4) : Fin 16 := ⟨b.toNat, b.isLt⟩

/-- The guard field (R24). -/
def Guard.code (g : Guard) : BitVec 4 := (if g.neg then 1#1 else 0#1) ++ code3 g.p

def Guard.ofCode (b : BitVec 4) : Guard := ⟨bits b 3 1 == 1#1, fin3 (bits b 0 3)⟩

/-- Compare conditions (R62). -/
def Cond.code : Cond → BitVec 4
  | .eq => 0
  | .ne => 1
  | .lt => 2
  | .ge => 3
  | .le => 4
  | .gt => 5
  | .ltu => 6
  | .geu => 7
  | .leu => 8
  | .gtu => 9
  | .tst => 10
  | .tstz => 11

def Cond.ofCode (b : BitVec 4) : Option Cond :=
  match b.toNat with
  | 0 => some .eq
  | 1 => some .ne
  | 2 => some .lt
  | 3 => some .ge
  | 4 => some .le
  | 5 => some .gt
  | 6 => some .ltu
  | 7 => some .geu
  | 8 => some .leu
  | 9 => some .gtu
  | 10 => some .tst
  | 11 => some .tstz
  | _ => none

/-- FCMP conditions (R134). -/
def FCond.code : FCond → BitVec 4
  | .eq => 0
  | .ne => 1
  | .lt => 2
  | .le => 3
  | .gt => 4
  | .ge => 5
  | .un => 6
  | .ord => 7

def FCond.ofCode (b : BitVec 4) : Option FCond :=
  match b.toNat with
  | 0 => some .eq
  | 1 => some .ne
  | 2 => some .lt
  | 3 => some .le
  | 4 => some .gt
  | 5 => some .ge
  | 6 => some .un
  | 7 => some .ord
  | _ => none

/-- ISAP classes (R233). -/
def ApClass.code : ApClass → BitVec 4
  | .gl => 0
  | .sys => 1
  | .can => 2
  | .cls => 3
  | .sp => 4
  | .tcm => 5
  | .own => 6

def ApClass.ofCode (b : BitVec 4) : Option ApClass :=
  match b.toNat with
  | 0 => some .gl
  | 1 => some .sys
  | 2 => some .can
  | 3 => some .cls
  | 4 => some .sp
  | 5 => some .tcm
  | 6 => some .own
  | _ => none

/-- AWAIT conditions (R226). -/
def AwCond.code : AwCond → BitVec 2
  | .eq => 0
  | .ne => 1
  | .ge => 2
  | .geu => 3

def AwCond.ofCode (b : BitVec 2) : AwCond :=
  match b.toNat with
  | 0 => .eq
  | 1 => .ne
  | 2 => .ge
  | _ => .geu

/-- Orders (R30). -/
def Order.code : Order → BitVec 2
  | .rlx => 0
  | .acq => 1
  | .rel => 2
  | .sc => 3

def Order.ofCode (b : BitVec 2) : Order :=
  match b.toNat with
  | 0 => .rlx
  | 1 => .acq
  | 2 => .rel
  | _ => .sc

/-- Scopes (R30). -/
def Scope.code : Scope → BitVec 2
  | .core => 0
  | .cl => 1
  | .dev => 2
  | .sys => 3

def Scope.ofCode (b : BitVec 2) : Scope :=
  match b.toNat with
  | 0 => .core
  | 1 => .cl
  | 2 => .dev
  | _ => .sys

/-- Atomic widths (R47). -/
def AWidth.code : AWidth → BitVec 1
  | .d => 0
  | .w => 1

def AWidth.ofCode (b : BitVec 1) : AWidth :=
  match b.toNat with
  | 0 => .d
  | _ => .w

/-- Lane widths (R143). -/
def LaneW.code : LaneW → BitVec 2
  | .b => 0
  | .h => 1
  | .w => 2
  | .d => 3

def LaneW.ofCode (b : BitVec 2) : LaneW :=
  match b.toNat with
  | 0 => .b
  | 1 => .h
  | 2 => .w
  | _ => .d

/-- Majors 0x50 to 0x53 (R130). -/
def FFmt.code : FFmt → BitVec 2
  | .d => 0
  | .s => 1
  | .h => 2
  | .bf => 3

def FFmt.ofCode (b : BitVec 2) : FFmt :=
  match b.toNat with
  | 0 => .d
  | 1 => .s
  | 2 => .h
  | _ => .bf

/-- Element formats (R27). -/
def Fmt.code : Fmt → BitVec 4
  | .i8 => 0
  | .i16 => 1
  | .i32 => 2
  | .i64 => 3
  | .n8 => 4
  | .n16 => 5
  | .n32 => 6
  | .n64 => 7
  | .d => 8
  | .s => 9
  | .h => 10
  | .bf => 11
  | .e5 => 12
  | .e4 => 13
  | .e2 => 14
  | .x8 => 15

def Fmt.ofCode (b : BitVec 4) : Fmt :=
  match b.toNat with
  | 0 => .i8
  | 1 => .i16
  | 2 => .i32
  | 3 => .i64
  | 4 => .n8
  | 5 => .n16
  | 6 => .n32
  | 7 => .n64
  | 8 => .d
  | 9 => .s
  | 10 => .h
  | 11 => .bf
  | 12 => .e5
  | 13 => .e4
  | 14 => .e2
  | _ => .x8

/-- GRID selectors (R294); 9 is GRID.param. -/
def GridSel.code : GridSel → BitVec 5
  | .i => 0
  | .j => 1
  | .k => 2
  | .lin => 3
  | .nx => 4
  | .ny => 5
  | .nz => 6
  | .kern => 7
  | .seq => 8
  | .lcl => 10
  | .graph => 11

def GridSel.ofCode (b : BitVec 5) : Option GridSel :=
  match b.toNat with
  | 0 => some .i
  | 1 => some .j
  | 2 => some .k
  | 3 => some .lin
  | 4 => some .nx
  | 5 => some .ny
  | 6 => some .nz
  | 7 => some .kern
  | 8 => some .seq
  | 10 => some .lcl
  | 11 => some .graph
  | _ => none

/-- Conversion modes of CVT (R48). -/
def CvtMode.code2 : CvtMode → BitVec 2
  | .dyn => 0
  | .rtz => 1
  | .sr => 2
  | .sat => 3

def CvtMode.ofCode2 (b : BitVec 2) : CvtMode :=
  match b.toNat with
  | 0 => .dyn
  | 1 => .rtz
  | 2 => .sr
  | _ => .sat

/-- Conversion modes of VCVT (R47). -/
def CvtMode.code3 : CvtMode → BitVec 3
  | .dyn => 0
  | .rtz => 1
  | .sr => 2
  | .sat => 3

def CvtMode.ofCode3 (b : BitVec 3) : Option CvtMode :=
  match b.toNat with
  | 0 => some .dyn
  | 1 => some .rtz
  | 2 => some .sr
  | 3 => some .sat
  | _ => none

/-- System register numbers (R348, R346). -/
def SysReg.code : SysReg → BitVec 10
  | .trapCause => 0x000 | .trapAddr => 0x001 | .trapWord => 0x002 | .trapData => 0x003 | .trapInfo => 0x004
  | .trapHandle => 0x005 | .trapVec => 0x006 | .seqState => 0x007 | .seqCount => 0x008 | .fpCtl => 0x010
  | .jobSeed => 0x011 | .stratusCtl => 0x012 | .sumStatus => 0x013 | .contrailBase => 0x014
  | .contrailCtl => 0x015 | .tlbShoot => 0x016 | .devTime => 0x017 | .ctxId => 0x018 | .censusSel => 0x020
  | .censusVal => 0x021 | .censusCtl => 0x022
  | .frame n => BitVec.ofNat 10 (256 + n.val)

/-- The register a number names, if the table lists it. -/
def SysReg.ofCode (b : BitVec 10) : Option SysReg :=
  match b.toNat with
  | 0x000 => some .trapCause | 0x001 => some .trapAddr | 0x002 => some .trapWord | 0x003 => some .trapData
  | 0x004 => some .trapInfo | 0x005 => some .trapHandle | 0x006 => some .trapVec | 0x007 => some .seqState
  | 0x008 => some .seqCount | 0x010 => some .fpCtl | 0x011 => some .jobSeed | 0x012 => some .stratusCtl
  | 0x013 => some .sumStatus | 0x014 => some .contrailBase | 0x015 => some .contrailCtl
  | 0x016 => some .tlbShoot | 0x017 => some .devTime | 0x018 => some .ctxId | 0x020 => some .censusSel
  | 0x021 => some .censusVal | 0x022 => some .censusCtl
  | n => if h : n - 256 < 72 then (if 256 ≤ n then some (.frame ⟨n - 256, h⟩) else none) else none

/-! ## Word layouts (R25) -/

/-- RRR: func, rb, ra, rd, guard, major, marker. -/
def packRRR (func rb ra rd : BitVec 5) (g : Guard) (major : BitVec 7) : BitVec 32 :=
  func ++ rb ++ ra ++ rd ++ g.code ++ major ++ 1#1

/-- RRI and MEM: imm10 or off10, ra or base, rd or data. -/
def packRRI (imm : BitVec 10) (ra rd : BitVec 5) (g : Guard) (major : BitVec 7) : BitVec 32 :=
  imm ++ ra ++ rd ++ g.code ++ major ++ 1#1

/-- RI: imm15, rd. -/
def packRI (imm : BitVec 15) (rd : BitVec 5) (g : Guard) (major : BitVec 7) : BitVec 32 :=
  imm ++ rd ++ g.code ++ major ++ 1#1

/-- BR: off20. -/
def packBR (off : BitVec 20) (g : Guard) (major : BitVec 7) : BitVec 32 :=
  off ++ g.code ++ major ++ 1#1

/-- W: func, fmt, wb, wa, wd. -/
def packW (func : BitVec 7) (fmt : BitVec 4) (wb wa wd : BitVec 3) (g : Guard) (major : BitVec 7) : BitVec 32 :=
  func ++ fmt ++ wb ++ wa ++ wd ++ g.code ++ major ++ 1#1

/-- PC: cond, rb, ra, pq, pd. -/
def packPC (cond : BitVec 4) (rb ra : BitVec 5) (pq pd : BitVec 3) (g : Guard) (major : BitVec 7) : BitVec 32 :=
  cond ++ rb ++ ra ++ pq ++ pd ++ g.code ++ major ++ 1#1

/-! ## Decoding -/

/-- Go on only if the condition holds. -/
def req (b : Bool) (e : Illegal) (k : Except Illegal Instr) : Except Illegal Instr := if b then k else .error e

/-- Go on with the value, if there is one. -/
def need {α : Type} (o : Option α) (e : Illegal) (k : α → Except Illegal Instr) : Except Illegal Instr :=
  match o with
  | some x => k x
  | none => .error e

/-- Major 0x0: ADD, SUB, AND, OR, XOR, ANDN, ORN, XNOR, SLL, SRL, SRA, ROR, MIN, MAX, MINU, MAXU, ADDS, SUBS, ADDSU, SUBSU (R55). -/
def dec00 (func : BitVec 5) (rb : BitVec 5) (ra : BitVec 5) (rd : BitVec 5) : Except Illegal Instr :=
  match func.toNat with
  | 0 => .ok (.add (IReg.ofCode rd) (IReg.ofCode ra) (IReg.ofCode rb))
  | 1 => .ok (.sub (IReg.ofCode rd) (IReg.ofCode ra) (IReg.ofCode rb))
  | 2 => .ok (.and (IReg.ofCode rd) (IReg.ofCode ra) (IReg.ofCode rb))
  | 3 => .ok (.or (IReg.ofCode rd) (IReg.ofCode ra) (IReg.ofCode rb))
  | 4 => .ok (.xor (IReg.ofCode rd) (IReg.ofCode ra) (IReg.ofCode rb))
  | 5 => .ok (.andn (IReg.ofCode rd) (IReg.ofCode ra) (IReg.ofCode rb))
  | 6 => .ok (.orn (IReg.ofCode rd) (IReg.ofCode ra) (IReg.ofCode rb))
  | 7 => .ok (.xnor (IReg.ofCode rd) (IReg.ofCode ra) (IReg.ofCode rb))
  | 8 => .ok (.sll (IReg.ofCode rd) (IReg.ofCode ra) (IReg.ofCode rb))
  | 9 => .ok (.srl (IReg.ofCode rd) (IReg.ofCode ra) (IReg.ofCode rb))
  | 10 => .ok (.sra (IReg.ofCode rd) (IReg.ofCode ra) (IReg.ofCode rb))
  | 11 => .ok (.ror (IReg.ofCode rd) (IReg.ofCode ra) (IReg.ofCode rb))
  | 12 => .ok (.min (IReg.ofCode rd) (IReg.ofCode ra) (IReg.ofCode rb))
  | 13 => .ok (.max (IReg.ofCode rd) (IReg.ofCode ra) (IReg.ofCode rb))
  | 14 => .ok (.minu (IReg.ofCode rd) (IReg.ofCode ra) (IReg.ofCode rb))
  | 15 => .ok (.maxu (IReg.ofCode rd) (IReg.ofCode ra) (IReg.ofCode rb))
  | 16 => .ok (.adds (IReg.ofCode rd) (IReg.ofCode ra) (IReg.ofCode rb))
  | 17 => .ok (.subs (IReg.ofCode rd) (IReg.ofCode ra) (IReg.ofCode rb))
  | 18 => .ok (.addsu (IReg.ofCode rd) (IReg.ofCode ra) (IReg.ofCode rb))
  | 19 => .ok (.subsu (IReg.ofCode rd) (IReg.ofCode ra) (IReg.ofCode rb))
  | _ => .error .function

/-- Major 0x4: ADD_IMM (R56). -/
def dec04 (imm : BitVec 10) (ra : BitVec 5) (rd : BitVec 5) : Except Illegal Instr :=
  .ok (.addImm (IReg.ofCode rd) (IReg.ofCode ra) imm)

/-- Major 0x5: AND_IMM (R56). -/
def dec05 (imm : BitVec 10) (ra : BitVec 5) (rd : BitVec 5) : Except Illegal Instr :=
  .ok (.andImm (IReg.ofCode rd) (IReg.ofCode ra) imm)

/-- Major 0x6: OR_IMM (R56). -/
def dec06 (imm : BitVec 10) (ra : BitVec 5) (rd : BitVec 5) : Except Illegal Instr :=
  .ok (.orImm (IReg.ofCode rd) (IReg.ofCode ra) imm)

/-- Major 0x7: XOR_IMM (R56). -/
def dec07 (imm : BitVec 10) (ra : BitVec 5) (rd : BitVec 5) : Except Illegal Instr :=
  .ok (.xorImm (IReg.ofCode rd) (IReg.ofCode ra) imm)

/-- Major 0x8: SLL_IMM (R56). -/
def dec08 (imm : BitVec 10) (ra : BitVec 5) (rd : BitVec 5) : Except Illegal Instr :=
  req ((bits imm 6 4) == 0#4) .field <| .ok (.sllImm (IReg.ofCode rd) (IReg.ofCode ra) (bits imm 0 6))

/-- Major 0x9: SRL_IMM (R56). -/
def dec09 (imm : BitVec 10) (ra : BitVec 5) (rd : BitVec 5) : Except Illegal Instr :=
  req ((bits imm 6 4) == 0#4) .field <| .ok (.srlImm (IReg.ofCode rd) (IReg.ofCode ra) (bits imm 0 6))

/-- Major 0xa: SRA_IMM (R56). -/
def dec0A (imm : BitVec 10) (ra : BitVec 5) (rd : BitVec 5) : Except Illegal Instr :=
  req ((bits imm 6 4) == 0#4) .field <| .ok (.sraImm (IReg.ofCode rd) (IReg.ofCode ra) (bits imm 0 6))

/-- Major 0xb: ROR_IMM (R56). -/
def dec0B (imm : BitVec 10) (ra : BitVec 5) (rd : BitVec 5) : Except Illegal Instr :=
  req ((bits imm 6 4) == 0#4) .field <| .ok (.rorImm (IReg.ofCode rd) (IReg.ofCode ra) (bits imm 0 6))

/-- Major 0xc: MUL_IMM (R56). -/
def dec0C (imm : BitVec 10) (ra : BitVec 5) (rd : BitVec 5) : Except Illegal Instr :=
  .ok (.mulImm (IReg.ofCode rd) (IReg.ofCode ra) imm)

/-- Major 0xd: MIN_IMM (R56). -/
def dec0D (imm : BitVec 10) (ra : BitVec 5) (rd : BitVec 5) : Except Illegal Instr :=
  .ok (.minImm (IReg.ofCode rd) (IReg.ofCode ra) imm)

/-- Major 0xe: MAX_IMM (R56). -/
def dec0E (imm : BitVec 10) (ra : BitVec 5) (rd : BitVec 5) : Except Illegal Instr :=
  .ok (.maxImm (IReg.ofCode rd) (IReg.ofCode ra) imm)

/-- Major 0x10: LI (R57). -/
def dec10 (imm : BitVec 15) (rd : BitVec 5) : Except Illegal Instr :=
  .ok (.li (IReg.ofCode rd) imm)

/-- Major 0x11: LIS (R57). -/
def dec11 (imm : BitVec 15) (rd : BitVec 5) : Except Illegal Instr :=
  .ok (.lis (IReg.ofCode rd) imm)

/-- Major 0x1: MUL, MULH, MULHU, MULHSU, DIV, DIVU, REM, REMU (R58). -/
def dec01 (func : BitVec 5) (rb : BitVec 5) (ra : BitVec 5) (rd : BitVec 5) : Except Illegal Instr :=
  match func.toNat with
  | 0 => .ok (.mul (IReg.ofCode rd) (IReg.ofCode ra) (IReg.ofCode rb))
  | 1 => .ok (.mulh (IReg.ofCode rd) (IReg.ofCode ra) (IReg.ofCode rb))
  | 2 => .ok (.mulhu (IReg.ofCode rd) (IReg.ofCode ra) (IReg.ofCode rb))
  | 3 => .ok (.mulhsu (IReg.ofCode rd) (IReg.ofCode ra) (IReg.ofCode rb))
  | 4 => .ok (.div (IReg.ofCode rd) (IReg.ofCode ra) (IReg.ofCode rb))
  | 5 => .ok (.divu (IReg.ofCode rd) (IReg.ofCode ra) (IReg.ofCode rb))
  | 6 => .ok (.rem (IReg.ofCode rd) (IReg.ofCode ra) (IReg.ofCode rb))
  | 7 => .ok (.remu (IReg.ofCode rd) (IReg.ofCode ra) (IReg.ofCode rb))
  | _ => .error .function

/-- Major 0x2: CLZ, CTZ, POPC, BREV, BSWAP, SXB, SXH, SXW, BFX, BFXU, BFI (R59). -/
def dec02 (func : BitVec 5) (rb : BitVec 5) (ra : BitVec 5) (rd : BitVec 5) : Except Illegal Instr :=
  match func.toNat with
  | 0 => req (rb == 0#5) .field <| .ok (.clz (IReg.ofCode rd) (IReg.ofCode ra))
  | 1 => req (rb == 0#5) .field <| .ok (.ctz (IReg.ofCode rd) (IReg.ofCode ra))
  | 2 => req (rb == 0#5) .field <| .ok (.popc (IReg.ofCode rd) (IReg.ofCode ra))
  | 3 => req (rb == 0#5) .field <| .ok (.brev (IReg.ofCode rd) (IReg.ofCode ra))
  | 4 => req (rb == 0#5) .field <| .ok (.bswap (IReg.ofCode rd) (IReg.ofCode ra))
  | 5 => req (rb == 0#5) .field <| .ok (.sxb (IReg.ofCode rd) (IReg.ofCode ra))
  | 6 => req (rb == 0#5) .field <| .ok (.sxh (IReg.ofCode rd) (IReg.ofCode ra))
  | 7 => req (rb == 0#5) .field <| .ok (.sxw (IReg.ofCode rd) (IReg.ofCode ra))
  | 8 => .ok (.bfx (IReg.ofCode rd) (IReg.ofCode ra) (IReg.ofCode rb))
  | 9 => .ok (.bfxu (IReg.ofCode rd) (IReg.ofCode ra) (IReg.ofCode rb))
  | 10 => .ok (.bfi (IReg.ofCode rd) (IReg.ofCode ra) (IReg.ofCode rb))
  | _ => .error .function

/-- Major 0x3: MOVK, RDK, RDPW, WRPW (R60). -/
def dec03 (func : BitVec 5) (rb : BitVec 5) (ra : BitVec 5) (rd : BitVec 5) : Except Illegal Instr :=
  match func.toNat with
  | 0 => req (rb == 0#5 && (bits rd 2 3) == 0#3) .field <| .ok (.movk (fin2 (bits rd 0 2)) (IReg.ofCode ra))
  | 1 => req (rb == 0#5 && (bits ra 2 3) == 0#3) .field <| .ok (.rdk (IReg.ofCode rd) (fin2 (bits ra 0 2)))
  | 2 => req (rb == 0#5 && ra == 0#5) .field <| .ok (.rdpw (IReg.ofCode rd))
  | 3 => req (rb == 0#5 && rd == 0#5) .field <| .ok (.wrpw (IReg.ofCode ra))
  | _ => .error .function

/-- Major 0x20: CMP (R62). -/
def dec20 (cond : BitVec 4) (rb : BitVec 5) (ra : BitVec 5) (pq : BitVec 3) (pd : BitVec 3) : Except Illegal Instr :=
  need (Cond.ofCode cond) .cond fun c => .ok (.cmp (fin3 pd) (fin3 pq) (IReg.ofCode ra) (IReg.ofCode rb) c)

/-- Major 0x21: CMPI (R62). -/
def dec21 (cond : BitVec 4) (rb : BitVec 5) (ra : BitVec 5) (pq : BitVec 3) (pd : BitVec 3) : Except Illegal Instr :=
  need (Cond.ofCode cond) .cond fun c => .ok (.cmpi (fin3 pd) (fin3 pq) (IReg.ofCode ra) rb c)

/-- Major 0x22: FCMP_D (R134). -/
def dec22 (cond : BitVec 4) (rb : BitVec 5) (ra : BitVec 5) (pq : BitVec 3) (pd : BitVec 3) : Except Illegal Instr :=
  need (FCond.ofCode cond) .cond fun c => .ok (.fcmpD (fin3 pd) (fin3 pq) (IReg.ofCode ra) (IReg.ofCode rb) c)

/-- Major 0x23: FCMP_S (R134). -/
def dec23 (cond : BitVec 4) (rb : BitVec 5) (ra : BitVec 5) (pq : BitVec 3) (pd : BitVec 3) : Except Illegal Instr :=
  need (FCond.ofCode cond) .cond fun c => .ok (.fcmpS (fin3 pd) (fin3 pq) (IReg.ofCode ra) (IReg.ofCode rb) c)

/-- Major 0x24: FCMP_H (R134). -/
def dec24 (cond : BitVec 4) (rb : BitVec 5) (ra : BitVec 5) (pq : BitVec 3) (pd : BitVec 3) : Except Illegal Instr :=
  need (FCond.ofCode cond) .cond fun c => .ok (.fcmpH (fin3 pd) (fin3 pq) (IReg.ofCode ra) (IReg.ofCode rb) c)

/-- Major 0x25: FCMP_BF (R134). -/
def dec25 (cond : BitVec 4) (rb : BitVec 5) (ra : BitVec 5) (pq : BitVec 3) (pd : BitVec 3) : Except Illegal Instr :=
  need (FCond.ofCode cond) .cond fun c => .ok (.fcmpBf (fin3 pd) (fin3 pq) (IReg.ofCode ra) (IReg.ofCode rb) c)

/-- Major 0x26: ISAP (R233). -/
def dec26 (cond : BitVec 4) (rb : BitVec 5) (ra : BitVec 5) (pq : BitVec 3) (pd : BitVec 3) : Except Illegal Instr :=
  req (rb == 0#5) .field <| need (ApClass.ofCode cond) .cond fun c => .ok (.isap (fin3 pd) (fin3 pq) (IReg.ofCode ra) c)

/-- Major 0x27: PLOG (R63). -/
def dec27 (cond : BitVec 4) (rb : BitVec 5) (ra : BitVec 5) (pq : BitVec 3) (pd : BitVec 3) : Except Illegal Instr :=
  req ((bits rb 3 2) == 0#2 && (bits ra 3 2) == 0#2) .field <| .ok (.plog (fin3 pd) (fin3 pq) (fin3 (bits ra 0 3)) (fin3 (bits rb 0 3)) cond)

/-- Major 0x28: B (R64). -/
def dec28 (off : BitVec 20) : Except Illegal Instr :=
  .ok (.b off)

/-- Major 0x29: CALL (R66). -/
def dec29 (imm : BitVec 15) (rd : BitVec 5) : Except Illegal Instr :=
  .ok (.call (IReg.ofCode rd) imm)

/-- Major 0x2a: BRI (R65). -/
def dec2A (imm : BitVec 10) (ra : BitVec 5) (rd : BitVec 5) : Except Illegal Instr :=
  req (rd == 0#5) .field <| .ok (.bri (IReg.ofCode ra) imm)

/-- Major 0x2b: CALLR (R66). -/
def dec2B (imm : BitVec 10) (ra : BitVec 5) (rd : BitVec 5) : Except Illegal Instr :=
  .ok (.callr (IReg.ofCode rd) (IReg.ofCode ra) imm)

/-- Major 0x2c: RET (R66). -/
def dec2C (imm : BitVec 10) (ra : BitVec 5) (rd : BitVec 5) : Except Illegal Instr :=
  req (imm == 0#10 && rd == 0#5) .field <| .ok (.ret (IReg.ofCode ra))

/-- Major 0x30: CREATE (R74). -/
def dec30 (imm : BitVec 15) (rd : BitVec 5) : Except Illegal Instr :=
  .ok (.create (IReg.ofCode rd) imm)

/-- Major 0x31: FGO (R74). -/
def dec31 (imm : BitVec 15) (rd : BitVec 5) : Except Illegal Instr :=
  .ok (.fgo (IReg.ofCode rd) imm)

/-- Major 0x32: FALLOC, FSYNC, FREL, TIX, FPUT_D, FPUT_G, FGET, FKILL, FKILL_TREE, FSTAT, DETACH, FPLACE (R72, R73, R78, R79, R80, R81, R274, R275, R276, R277, R279). -/
def dec32 (func : BitVec 5) (rb : BitVec 5) (ra : BitVec 5) (rd : BitVec 5) : Except Illegal Instr :=
  match func.toNat with
  | 0 => req (rb == 0#5 && ra == 0#5) .field <| .ok (.falloc (IReg.ofCode rd))
  | 1 => req (rb == 0#5) .field <| .ok (.fsync (IReg.ofCode rd) (IReg.ofCode ra))
  | 2 => req (rb == 0#5 && rd == 0#5) .field <| .ok (.frel (IReg.ofCode ra))
  | 3 => req (rb == 0#5 && ra == 0#5) .field <| .ok (.tix (IReg.ofCode rd))
  | 4 => req (rd == 0#5) .field <| .ok (.fputD (IReg.ofCode ra) (IReg.ofCode rb) 0)
  | 5 => req (rd == 0#5) .field <| .ok (.fputD (IReg.ofCode ra) (IReg.ofCode rb) 1)
  | 6 => req (rd == 0#5) .field <| .ok (.fputD (IReg.ofCode ra) (IReg.ofCode rb) 2)
  | 7 => req (rd == 0#5) .field <| .ok (.fputD (IReg.ofCode ra) (IReg.ofCode rb) 3)
  | 8 => req (rd == 0#5) .field <| .ok (.fputG (IReg.ofCode ra) (IReg.ofCode rb) 0)
  | 9 => req (rd == 0#5) .field <| .ok (.fputG (IReg.ofCode ra) (IReg.ofCode rb) 1)
  | 10 => req (rd == 0#5) .field <| .ok (.fputG (IReg.ofCode ra) (IReg.ofCode rb) 2)
  | 11 => req (rd == 0#5) .field <| .ok (.fputG (IReg.ofCode ra) (IReg.ofCode rb) 3)
  | 12 => req (rd == 0#5) .field <| .ok (.fputG (IReg.ofCode ra) (IReg.ofCode rb) 4)
  | 13 => req (rd == 0#5) .field <| .ok (.fputG (IReg.ofCode ra) (IReg.ofCode rb) 5)
  | 14 => req (rd == 0#5) .field <| .ok (.fputG (IReg.ofCode ra) (IReg.ofCode rb) 6)
  | 15 => req (rd == 0#5) .field <| .ok (.fputG (IReg.ofCode ra) (IReg.ofCode rb) 7)
  | 16 => req (rb == 0#5) .field <| .ok (.fget (IReg.ofCode rd) (IReg.ofCode ra) 0)
  | 17 => req (rb == 0#5) .field <| .ok (.fget (IReg.ofCode rd) (IReg.ofCode ra) 1)
  | 18 => req (rb == 0#5) .field <| .ok (.fget (IReg.ofCode rd) (IReg.ofCode ra) 2)
  | 19 => req (rb == 0#5) .field <| .ok (.fget (IReg.ofCode rd) (IReg.ofCode ra) 3)
  | 20 =>
    if rb == 0#5 && rd == 0#5 then .ok (.fkill (IReg.ofCode ra))
    else if rb == 0#5 && rd == 1#5 then .ok (.fkillTree (IReg.ofCode ra))
    else .error .field
  | 21 => req (rb == 0#5) .field <| .ok (.fstat (IReg.ofCode rd) (IReg.ofCode ra))
  | 22 => req (rb == 0#5 && rd == 0#5) .field <| .ok (.detach (IReg.ofCode ra))
  | 23 => req (rd == 0#5) .field <| .ok (.fplace (IReg.ofCode ra) (IReg.ofCode rb))
  | _ => .error .function

/-- Major 0x33: EXIT, BREAK, YIELD (R76, R77, R280). -/
def dec33 (func : BitVec 5) (rb : BitVec 5) (ra : BitVec 5) (rd : BitVec 5) : Except Illegal Instr :=
  match func.toNat with
  | 0 => req (rb == 0#5 && ra == 0#5 && rd == 0#5) .field <| .ok (.exit)
  | 1 => req (rb == 0#5 && ra == 0#5 && rd == 0#5) .field <| .ok (.brk)
  | 2 => req (rb == 0#5 && ra == 0#5 && rd == 0#5) .field <| .ok (.yield)
  | _ => .error .function

/-- Major 0x38: LD_BS (R67). -/
def dec38 (imm : BitVec 10) (ra : BitVec 5) (rd : BitVec 5) : Except Illegal Instr :=
  .ok (.ldBs (IReg.ofCode rd) (IReg.ofCode ra) imm)

/-- Major 0x39: LD_BZ (R67). -/
def dec39 (imm : BitVec 10) (ra : BitVec 5) (rd : BitVec 5) : Except Illegal Instr :=
  .ok (.ldBz (IReg.ofCode rd) (IReg.ofCode ra) imm)

/-- Major 0x3a: LD_HS (R67). -/
def dec3A (imm : BitVec 10) (ra : BitVec 5) (rd : BitVec 5) : Except Illegal Instr :=
  .ok (.ldHs (IReg.ofCode rd) (IReg.ofCode ra) imm)

/-- Major 0x3b: LD_HZ (R67). -/
def dec3B (imm : BitVec 10) (ra : BitVec 5) (rd : BitVec 5) : Except Illegal Instr :=
  .ok (.ldHz (IReg.ofCode rd) (IReg.ofCode ra) imm)

/-- Major 0x3c: LD_WS (R67). -/
def dec3C (imm : BitVec 10) (ra : BitVec 5) (rd : BitVec 5) : Except Illegal Instr :=
  .ok (.ldWs (IReg.ofCode rd) (IReg.ofCode ra) imm)

/-- Major 0x3d: LD_WZ (R67). -/
def dec3D (imm : BitVec 10) (ra : BitVec 5) (rd : BitVec 5) : Except Illegal Instr :=
  .ok (.ldWz (IReg.ofCode rd) (IReg.ofCode ra) imm)

/-- Major 0x3e: LD_D (R67). -/
def dec3E (imm : BitVec 10) (ra : BitVec 5) (rd : BitVec 5) : Except Illegal Instr :=
  .ok (.ldD (IReg.ofCode rd) (IReg.ofCode ra) imm)

/-- Major 0x3f: LDW (R67). -/
def dec3F (imm : BitVec 10) (ra : BitVec 5) (rd : BitVec 5) : Except Illegal Instr :=
  req ((bits rd 3 2) == 0#2) .field <| .ok (.ldw (fin3 (bits rd 0 3)) (IReg.ofCode ra) imm)

/-- Major 0x40: ST_B (R67). -/
def dec40 (imm : BitVec 10) (ra : BitVec 5) (rd : BitVec 5) : Except Illegal Instr :=
  .ok (.stB (IReg.ofCode rd) (IReg.ofCode ra) imm)

/-- Major 0x41: ST_H (R67). -/
def dec41 (imm : BitVec 10) (ra : BitVec 5) (rd : BitVec 5) : Except Illegal Instr :=
  .ok (.stH (IReg.ofCode rd) (IReg.ofCode ra) imm)

/-- Major 0x42: ST_W (R67). -/
def dec42 (imm : BitVec 10) (ra : BitVec 5) (rd : BitVec 5) : Except Illegal Instr :=
  .ok (.stW (IReg.ofCode rd) (IReg.ofCode ra) imm)

/-- Major 0x43: ST_D (R67). -/
def dec43 (imm : BitVec 10) (ra : BitVec 5) (rd : BitVec 5) : Except Illegal Instr :=
  .ok (.stD (IReg.ofCode rd) (IReg.ofCode ra) imm)

/-- Major 0x44: STW (R67). -/
def dec44 (imm : BitVec 10) (ra : BitVec 5) (rd : BitVec 5) : Except Illegal Instr :=
  req ((bits rd 3 2) == 0#2) .field <| .ok (.stw (fin3 (bits rd 0 3)) (IReg.ofCode ra) imm)

/-- Major 0x45: LDK (R67). -/
def dec45 (imm : BitVec 10) (ra : BitVec 5) (rd : BitVec 5) : Except Illegal Instr :=
  req ((bits rd 2 3) == 0#3) .field <| .ok (.ldk (fin2 (bits rd 0 2)) (IReg.ofCode ra) imm)

/-- Major 0x46: LDFE, LDFF, STFE, FEINIT_E, FEINIT_F, FENCE_CORE, FENCE_CL, FENCE_DEV, FENCE_SYS (R215, R218, R219). -/
def dec46 (func : BitVec 5) (rb : BitVec 5) (ra : BitVec 5) (rd : BitVec 5) : Except Illegal Instr :=
  match func.toNat with
  | 0 => .ok (.ldfe (IReg.ofCode rd) (IReg.ofCode ra) (IReg.ofCode rb))
  | 1 => .ok (.ldff (IReg.ofCode rd) (IReg.ofCode ra) (IReg.ofCode rb))
  | 2 => .ok (.stfe (IReg.ofCode rd) (IReg.ofCode ra) (IReg.ofCode rb))
  | 3 =>
    if rd == 0#5 then .ok (.feinitE (IReg.ofCode ra) (IReg.ofCode rb))
    else if rd == 1#5 then .ok (.feinitF (IReg.ofCode ra) (IReg.ofCode rb))
    else .error .field
  | 4 => req (rb == 0#5 && ra == 0#5 && rd == 0#5) .field <| .ok (.fenceCore)
  | 5 => req (rb == 0#5 && ra == 0#5 && rd == 0#5) .field <| .ok (.fenceCl)
  | 6 => req (rb == 0#5 && ra == 0#5 && rd == 0#5) .field <| .ok (.fenceDev)
  | 7 => req (rb == 0#5 && ra == 0#5 && rd == 0#5) .field <| .ok (.fenceSys)
  | _ => .error .function

/-- Major 0x48: AADD, AAND, AOR, AXOR, AMIN, AMAX, AMINU, AMAXU, AXCHG, ACAS, AFADD (R221, R223). -/
def dec48 (func : BitVec 5) (rb : BitVec 5) (ra : BitVec 5) (rd : BitVec 5) : Except Illegal Instr :=
  match func.toNat with
  | 0 => .ok (.aadd (IReg.ofCode rd) (IReg.ofCode ra) (IReg.ofCode rb) .d)
  | 1 => .ok (.aand (IReg.ofCode rd) (IReg.ofCode ra) (IReg.ofCode rb) .d)
  | 2 => .ok (.aor (IReg.ofCode rd) (IReg.ofCode ra) (IReg.ofCode rb) .d)
  | 3 => .ok (.axor (IReg.ofCode rd) (IReg.ofCode ra) (IReg.ofCode rb) .d)
  | 4 => .ok (.amin (IReg.ofCode rd) (IReg.ofCode ra) (IReg.ofCode rb) .d)
  | 5 => .ok (.amax (IReg.ofCode rd) (IReg.ofCode ra) (IReg.ofCode rb) .d)
  | 6 => .ok (.aminu (IReg.ofCode rd) (IReg.ofCode ra) (IReg.ofCode rb) .d)
  | 7 => .ok (.amaxu (IReg.ofCode rd) (IReg.ofCode ra) (IReg.ofCode rb) .d)
  | 8 => .ok (.axchg (IReg.ofCode rd) (IReg.ofCode ra) (IReg.ofCode rb) .d)
  | 9 => .ok (.acas (IReg.ofCode rd) (IReg.ofCode ra) (IReg.ofCode rb) .d)
  | 10 => .ok (.afadd (IReg.ofCode rd) (IReg.ofCode ra) (IReg.ofCode rb) .d)
  | 16 => .ok (.aadd (IReg.ofCode rd) (IReg.ofCode ra) (IReg.ofCode rb) .w)
  | 17 => .ok (.aand (IReg.ofCode rd) (IReg.ofCode ra) (IReg.ofCode rb) .w)
  | 18 => .ok (.aor (IReg.ofCode rd) (IReg.ofCode ra) (IReg.ofCode rb) .w)
  | 19 => .ok (.axor (IReg.ofCode rd) (IReg.ofCode ra) (IReg.ofCode rb) .w)
  | 20 => .ok (.amin (IReg.ofCode rd) (IReg.ofCode ra) (IReg.ofCode rb) .w)
  | 21 => .ok (.amax (IReg.ofCode rd) (IReg.ofCode ra) (IReg.ofCode rb) .w)
  | 22 => .ok (.aminu (IReg.ofCode rd) (IReg.ofCode ra) (IReg.ofCode rb) .w)
  | 23 => .ok (.amaxu (IReg.ofCode rd) (IReg.ofCode ra) (IReg.ofCode rb) .w)
  | 24 => .ok (.axchg (IReg.ofCode rd) (IReg.ofCode ra) (IReg.ofCode rb) .w)
  | 25 => .ok (.acas (IReg.ofCode rd) (IReg.ofCode ra) (IReg.ofCode rb) .w)
  | 26 => .ok (.afadd (IReg.ofCode rd) (IReg.ofCode ra) (IReg.ofCode rb) .w)
  | _ => .error .function

/-- Major 0x49: RED_ADD, RED_AND, RED_OR, RED_XOR, RED_MIN, RED_MAX, RED_MINU, RED_MAXU, REDFADD (R224). -/
def dec49 (func : BitVec 5) (rb : BitVec 5) (ra : BitVec 5) (rd : BitVec 5) : Except Illegal Instr :=
  match func.toNat with
  | 0 => req (rd == 0#5) .field <| .ok (.redAdd (IReg.ofCode ra) (IReg.ofCode rb) .d)
  | 1 => req (rd == 0#5) .field <| .ok (.redAnd (IReg.ofCode ra) (IReg.ofCode rb) .d)
  | 2 => req (rd == 0#5) .field <| .ok (.redOr (IReg.ofCode ra) (IReg.ofCode rb) .d)
  | 3 => req (rd == 0#5) .field <| .ok (.redXor (IReg.ofCode ra) (IReg.ofCode rb) .d)
  | 4 => req (rd == 0#5) .field <| .ok (.redMin (IReg.ofCode ra) (IReg.ofCode rb) .d)
  | 5 => req (rd == 0#5) .field <| .ok (.redMax (IReg.ofCode ra) (IReg.ofCode rb) .d)
  | 6 => req (rd == 0#5) .field <| .ok (.redMinu (IReg.ofCode ra) (IReg.ofCode rb) .d)
  | 7 => req (rd == 0#5) .field <| .ok (.redMaxu (IReg.ofCode ra) (IReg.ofCode rb) .d)
  | 10 => req (rd == 0#5) .field <| .ok (.redfadd (IReg.ofCode ra) (IReg.ofCode rb) .d)
  | 16 => req (rd == 0#5) .field <| .ok (.redAdd (IReg.ofCode ra) (IReg.ofCode rb) .w)
  | 17 => req (rd == 0#5) .field <| .ok (.redAnd (IReg.ofCode ra) (IReg.ofCode rb) .w)
  | 18 => req (rd == 0#5) .field <| .ok (.redOr (IReg.ofCode ra) (IReg.ofCode rb) .w)
  | 19 => req (rd == 0#5) .field <| .ok (.redXor (IReg.ofCode ra) (IReg.ofCode rb) .w)
  | 20 => req (rd == 0#5) .field <| .ok (.redMin (IReg.ofCode ra) (IReg.ofCode rb) .w)
  | 21 => req (rd == 0#5) .field <| .ok (.redMax (IReg.ofCode ra) (IReg.ofCode rb) .w)
  | 22 => req (rd == 0#5) .field <| .ok (.redMinu (IReg.ofCode ra) (IReg.ofCode rb) .w)
  | 23 => req (rd == 0#5) .field <| .ok (.redMaxu (IReg.ofCode ra) (IReg.ofCode rb) .w)
  | 26 => req (rd == 0#5) .field <| .ok (.redfadd (IReg.ofCode ra) (IReg.ofCode rb) .w)
  | _ => .error .function

/-- Major 0x4a: AWAIT (R226). -/
def dec4A (func : BitVec 5) (rb : BitVec 5) (ra : BitVec 5) (rd : BitVec 5) : Except Illegal Instr :=
  match func.toNat with
  | 0 => .ok (.await (IReg.ofCode rd) (IReg.ofCode ra) (IReg.ofCode rb) .eq .d)
  | 1 => .ok (.await (IReg.ofCode rd) (IReg.ofCode ra) (IReg.ofCode rb) .ne .d)
  | 2 => .ok (.await (IReg.ofCode rd) (IReg.ofCode ra) (IReg.ofCode rb) .ge .d)
  | 3 => .ok (.await (IReg.ofCode rd) (IReg.ofCode ra) (IReg.ofCode rb) .geu .d)
  | 16 => .ok (.await (IReg.ofCode rd) (IReg.ofCode ra) (IReg.ofCode rb) .eq .w)
  | 17 => .ok (.await (IReg.ofCode rd) (IReg.ofCode ra) (IReg.ofCode rb) .ne .w)
  | 18 => .ok (.await (IReg.ofCode rd) (IReg.ofCode ra) (IReg.ofCode rb) .ge .w)
  | 19 => .ok (.await (IReg.ofCode rd) (IReg.ofCode ra) (IReg.ofCode rb) .geu .w)
  | _ => .error .function

/-- Major 0x4b: SUMON (R228). -/
def dec4B (cond : BitVec 4) (rb : BitVec 5) (ra : BitVec 5) (pq : BitVec 3) (pd : BitVec 3) : Except Illegal Instr :=
  req (cond == 0#4 && rb == 0#5) .field <| .ok (.sumon (fin3 pd) (fin3 pq) (IReg.ofCode ra))

/-- Major 0x4c: SUMADD_S, SUMADD_BF, SUMADD_H (R229). -/
def dec4C (func : BitVec 5) (rb : BitVec 5) (ra : BitVec 5) (rd : BitVec 5) : Except Illegal Instr :=
  match func.toNat with
  | 0 => req (rd == 0#5) .field <| .ok (.sumaddS (IReg.ofCode ra) (IReg.ofCode rb))
  | 1 => req (rd == 0#5) .field <| .ok (.sumaddBf (IReg.ofCode ra) (IReg.ofCode rb))
  | 2 => req (rd == 0#5) .field <| .ok (.sumaddH (IReg.ofCode ra) (IReg.ofCode rb))
  | _ => .error .function

/-- Major 0x4d: SUMOFF (R230). -/
def dec4D (func : BitVec 5) (rb : BitVec 5) (ra : BitVec 5) (rd : BitVec 5) : Except Illegal Instr :=
  match func.toNat with
  | 0 => req (rb == 0#5) .field <| .ok (.sumoff (IReg.ofCode rd) (IReg.ofCode ra))
  | _ => .error .function

/-- Major 0x1c: CVTA_CL, CVTA_SP (R232). -/
def dec1C (imm : BitVec 10) (ra : BitVec 5) (rd : BitVec 5) : Except Illegal Instr :=
  if imm == 0#10 then .ok (.cvtaCl (IReg.ofCode rd) (IReg.ofCode ra))
  else if imm == 1#10 then .ok (.cvtaSp (IReg.ofCode rd) (IReg.ofCode ra))
  else .error .field

/-- Major 0x50 to 0x53: FADD, FSUB, FMUL, FDIV, FMIN, FMAX, FSQRT, FABS, FNEG, FMA, FCLASS, FRCP, FRSQ, FEXP2, FLOG2, FSIN, FCOS, FTANH (R130, R131, R132, R133). -/
def decFp (f : FFmt) (func : BitVec 5) (rb : BitVec 5) (ra : BitVec 5) (rd : BitVec 5) : Except Illegal Instr :=
  match func.toNat with
  | 0 => .ok (.fadd f (IReg.ofCode rd) (IReg.ofCode ra) (IReg.ofCode rb))
  | 1 => .ok (.fsub f (IReg.ofCode rd) (IReg.ofCode ra) (IReg.ofCode rb))
  | 2 => .ok (.fmul f (IReg.ofCode rd) (IReg.ofCode ra) (IReg.ofCode rb))
  | 3 => .ok (.fdiv f (IReg.ofCode rd) (IReg.ofCode ra) (IReg.ofCode rb))
  | 4 => .ok (.fmin f (IReg.ofCode rd) (IReg.ofCode ra) (IReg.ofCode rb))
  | 5 => .ok (.fmax f (IReg.ofCode rd) (IReg.ofCode ra) (IReg.ofCode rb))
  | 6 => req (rb == 0#5) .field <| .ok (.fsqrt f (IReg.ofCode rd) (IReg.ofCode ra))
  | 7 => req (rb == 0#5) .field <| .ok (.fabs f (IReg.ofCode rd) (IReg.ofCode ra))
  | 8 => req (rb == 0#5) .field <| .ok (.fneg f (IReg.ofCode rd) (IReg.ofCode ra))
  | 9 => .ok (.fma f (IReg.ofCode rd) (IReg.ofCode ra) (IReg.ofCode rb))
  | 10 => req (rb == 0#5) .field <| .ok (.fclass f (IReg.ofCode rd) (IReg.ofCode ra))
  | 16 => req (rb == 0#5) .field <| .ok (.frcp f (IReg.ofCode rd) (IReg.ofCode ra))
  | 17 => req (rb == 0#5) .field <| .ok (.frsq f (IReg.ofCode rd) (IReg.ofCode ra))
  | 18 => req (rb == 0#5) .field <| .ok (.fexp2 f (IReg.ofCode rd) (IReg.ofCode ra))
  | 19 => req (rb == 0#5) .field <| .ok (.flog2 f (IReg.ofCode rd) (IReg.ofCode ra))
  | 20 => req (rb == 0#5) .field <| .ok (.fsin f (IReg.ofCode rd) (IReg.ofCode ra))
  | 21 => req (rb == 0#5) .field <| .ok (.fcos f (IReg.ofCode rd) (IReg.ofCode ra))
  | 22 => req (rb == 0#5) .field <| .ok (.ftanh f (IReg.ofCode rd) (IReg.ofCode ra))
  | _ => .error .function

/-- Major 0x54: CVT (R135). -/
def dec54 (imm : BitVec 10) (ra : BitVec 5) (rd : BitVec 5) : Except Illegal Instr :=
  .ok (.cvt (IReg.ofCode rd) (IReg.ofCode ra) (CvtMode.ofCode2 (bits imm 0 2)) (Fmt.ofCode (bits imm 2 4)) (Fmt.ofCode (bits imm 6 4)))

/-- Major 0x56: RDFP, WRFP, CLRFLG (R136). -/
def dec56 (func : BitVec 5) (rb : BitVec 5) (ra : BitVec 5) (rd : BitVec 5) : Except Illegal Instr :=
  match func.toNat with
  | 0 => req (rb == 0#5 && ra == 0#5) .field <| .ok (.rdfp (IReg.ofCode rd))
  | 1 => req (rb == 0#5 && rd == 0#5) .field <| .ok (.wrfp (IReg.ofCode ra))
  | 2 => req (rb == 0#5 && ra == 0#5 && rd == 0#5) .field <| .ok (.clrflg)
  | _ => .error .function

/-- Major 0x60: VADD, VSUB, VMUL, VFMA, VMIN, VMAX, VADDS, VSUBS, VAND, VOR, VXOR, VSLL, VSRL, VSRA, VDIV, VSQRT, VABS, VNEG, VMULH (R137). -/
def dec60 (func : BitVec 7) (fmt : BitVec 4) (wb : BitVec 3) (wa : BitVec 3) (wd : BitVec 3) : Except Illegal Instr :=
  match func.toNat with
  | 0 => .ok (.vadd (fin3 wd) (fin3 wa) (fin3 wb) (Fmt.ofCode fmt))
  | 1 => .ok (.vsub (fin3 wd) (fin3 wa) (fin3 wb) (Fmt.ofCode fmt))
  | 2 => .ok (.vmul (fin3 wd) (fin3 wa) (fin3 wb) (Fmt.ofCode fmt))
  | 3 => .ok (.vfma (fin3 wd) (fin3 wa) (fin3 wb) (Fmt.ofCode fmt))
  | 4 => .ok (.vmin (fin3 wd) (fin3 wa) (fin3 wb) (Fmt.ofCode fmt))
  | 5 => .ok (.vmax (fin3 wd) (fin3 wa) (fin3 wb) (Fmt.ofCode fmt))
  | 6 => .ok (.vadds (fin3 wd) (fin3 wa) (fin3 wb) (Fmt.ofCode fmt))
  | 7 => .ok (.vsubs (fin3 wd) (fin3 wa) (fin3 wb) (Fmt.ofCode fmt))
  | 8 => .ok (.vand (fin3 wd) (fin3 wa) (fin3 wb) (Fmt.ofCode fmt))
  | 9 => .ok (.vor (fin3 wd) (fin3 wa) (fin3 wb) (Fmt.ofCode fmt))
  | 10 => .ok (.vxor (fin3 wd) (fin3 wa) (fin3 wb) (Fmt.ofCode fmt))
  | 11 => .ok (.vsll (fin3 wd) (fin3 wa) (fin3 wb) (Fmt.ofCode fmt))
  | 12 => .ok (.vsrl (fin3 wd) (fin3 wa) (fin3 wb) (Fmt.ofCode fmt))
  | 13 => .ok (.vsra (fin3 wd) (fin3 wa) (fin3 wb) (Fmt.ofCode fmt))
  | 14 => .ok (.vdiv (fin3 wd) (fin3 wa) (fin3 wb) (Fmt.ofCode fmt))
  | 15 => req (wb == 0#3) .field <| .ok (.vsqrt (fin3 wd) (fin3 wa) (Fmt.ofCode fmt))
  | 16 => req (wb == 0#3) .field <| .ok (.vabs (fin3 wd) (fin3 wa) (Fmt.ofCode fmt))
  | 17 => req (wb == 0#3) .field <| .ok (.vneg (fin3 wd) (fin3 wa) (Fmt.ofCode fmt))
  | 18 => .ok (.vmulh (fin3 wd) (fin3 wa) (fin3 wb) (Fmt.ofCode fmt))
  | _ => .error .function

/-- Major 0x61: VCMP_EQ, VCMP_NE, VCMP_LT, VCMP_LE, VCMP_UN, VSEL (R138). -/
def dec61 (func : BitVec 7) (fmt : BitVec 4) (wb : BitVec 3) (wa : BitVec 3) (wd : BitVec 3) : Except Illegal Instr :=
  match func.toNat with
  | 0 => .ok (.vcmpEq (fin3 wd) (fin3 wa) (fin3 wb) (Fmt.ofCode fmt))
  | 1 => .ok (.vcmpNe (fin3 wd) (fin3 wa) (fin3 wb) (Fmt.ofCode fmt))
  | 2 => .ok (.vcmpLt (fin3 wd) (fin3 wa) (fin3 wb) (Fmt.ofCode fmt))
  | 3 => .ok (.vcmpLe (fin3 wd) (fin3 wa) (fin3 wb) (Fmt.ofCode fmt))
  | 4 => .ok (.vcmpUn (fin3 wd) (fin3 wa) (fin3 wb) (Fmt.ofCode fmt))
  | 8 => .ok (.vsel (fin3 wd) (fin3 wa) (fin3 wb) (Fmt.ofCode fmt))
  | _ => .error .function

/-- Major 0x62: VPERM, VZIPL, VZIPH, VUNZIPL, VUNZIPH (R139). -/
def dec62 (func : BitVec 7) (fmt : BitVec 4) (wb : BitVec 3) (wa : BitVec 3) (wd : BitVec 3) : Except Illegal Instr :=
  match func.toNat with
  | 0 => .ok (.vperm (fin3 wd) (fin3 wa) (fin3 wb) (Fmt.ofCode fmt))
  | 1 => .ok (.vzipl (fin3 wd) (fin3 wa) (fin3 wb) (Fmt.ofCode fmt))
  | 2 => .ok (.vziph (fin3 wd) (fin3 wa) (fin3 wb) (Fmt.ofCode fmt))
  | 3 => .ok (.vunzipl (fin3 wd) (fin3 wa) (fin3 wb) (Fmt.ofCode fmt))
  | 4 => .ok (.vunziph (fin3 wd) (fin3 wa) (fin3 wb) (Fmt.ofCode fmt))
  | _ => .error .function

/-- Major 0x63: VREDADD, VREDMIN, VREDMAX, VREDAND, VREDOR, VREDXOR (R140). -/
def dec63 (func : BitVec 7) (fmt : BitVec 4) (wb : BitVec 3) (wa : BitVec 3) (wd : BitVec 3) : Except Illegal Instr :=
  match func.toNat with
  | 0 => req (wb == 0#3) .field <| .ok (.vredadd (fin3 wd) (fin3 wa) (Fmt.ofCode fmt))
  | 1 => req (wb == 0#3) .field <| .ok (.vredmin (fin3 wd) (fin3 wa) (Fmt.ofCode fmt))
  | 2 => req (wb == 0#3) .field <| .ok (.vredmax (fin3 wd) (fin3 wa) (Fmt.ofCode fmt))
  | 3 => req (wb == 0#3) .field <| .ok (.vredand (fin3 wd) (fin3 wa) (Fmt.ofCode fmt))
  | 4 => req (wb == 0#3) .field <| .ok (.vredor (fin3 wd) (fin3 wa) (Fmt.ofCode fmt))
  | 5 => req (wb == 0#3) .field <| .ok (.vredxor (fin3 wd) (fin3 wa) (Fmt.ofCode fmt))
  | _ => .error .function

/-- Major 0x64: VSCAN_ADD_INC, VSCAN_ADD_EXC, VSCAN_MIN_INC, VSCAN_MIN_EXC, VSCAN_MAX_INC, VSCAN_MAX_EXC (R141). -/
def dec64 (func : BitVec 7) (fmt : BitVec 4) (wb : BitVec 3) (wa : BitVec 3) (wd : BitVec 3) : Except Illegal Instr :=
  match func.toNat with
  | 0 => .ok (.vscanAddInc (fin3 wd) (fin3 wa) (fin3 wb) (Fmt.ofCode fmt))
  | 1 => .ok (.vscanAddExc (fin3 wd) (fin3 wa) (fin3 wb) (Fmt.ofCode fmt))
  | 2 => .ok (.vscanMinInc (fin3 wd) (fin3 wa) (fin3 wb) (Fmt.ofCode fmt))
  | 3 => .ok (.vscanMinExc (fin3 wd) (fin3 wa) (fin3 wb) (Fmt.ofCode fmt))
  | 4 => .ok (.vscanMaxInc (fin3 wd) (fin3 wa) (fin3 wb) (Fmt.ofCode fmt))
  | 5 => .ok (.vscanMaxExc (fin3 wd) (fin3 wa) (fin3 wb) (Fmt.ofCode fmt))
  | _ => .error .function

/-- Major 0x65: VCVT (R142). -/
def dec65 (func : BitVec 7) (fmt : BitVec 4) (wb : BitVec 3) (wa : BitVec 3) (wd : BitVec 3) : Except Illegal Instr :=
  need (CvtMode.ofCode3 (bits func 0 3)) .mode fun m => .ok (.vcvt (fin3 wd) (fin3 wa) (fin3 wb) (Fmt.ofCode fmt) m (Fmt.ofCode (bits func 3 4)))

/-- Major 0x66: VGET, VPUT, VBCAST (R143). -/
def dec66 (func : BitVec 5) (rb : BitVec 5) (ra : BitVec 5) (rd : BitVec 5) : Except Illegal Instr :=
  match func.toNat with
  | 0 => req ((bits ra 3 2) == 0#2) .field <| .ok (.vget (IReg.ofCode rd) (fin3 (bits ra 0 3)) (IReg.ofCode rb) .b)
  | 1 => req ((bits ra 3 2) == 0#2) .field <| .ok (.vget (IReg.ofCode rd) (fin3 (bits ra 0 3)) (IReg.ofCode rb) .h)
  | 2 => req ((bits ra 3 2) == 0#2) .field <| .ok (.vget (IReg.ofCode rd) (fin3 (bits ra 0 3)) (IReg.ofCode rb) .w)
  | 3 => req ((bits ra 3 2) == 0#2) .field <| .ok (.vget (IReg.ofCode rd) (fin3 (bits ra 0 3)) (IReg.ofCode rb) .d)
  | 4 => req ((bits rd 3 2) == 0#2) .field <| .ok (.vput (fin3 (bits rd 0 3)) (IReg.ofCode ra) (IReg.ofCode rb) .b)
  | 5 => req ((bits rd 3 2) == 0#2) .field <| .ok (.vput (fin3 (bits rd 0 3)) (IReg.ofCode ra) (IReg.ofCode rb) .h)
  | 6 => req ((bits rd 3 2) == 0#2) .field <| .ok (.vput (fin3 (bits rd 0 3)) (IReg.ofCode ra) (IReg.ofCode rb) .w)
  | 7 => req ((bits rd 3 2) == 0#2) .field <| .ok (.vput (fin3 (bits rd 0 3)) (IReg.ofCode ra) (IReg.ofCode rb) .d)
  | 8 => req (rb == 0#5 && (bits rd 3 2) == 0#2) .field <| .ok (.vbcast (fin3 (bits rd 0 3)) (IReg.ofCode ra) .b)
  | 9 => req (rb == 0#5 && (bits rd 3 2) == 0#2) .field <| .ok (.vbcast (fin3 (bits rd 0 3)) (IReg.ofCode ra) .h)
  | 10 => req (rb == 0#5 && (bits rd 3 2) == 0#2) .field <| .ok (.vbcast (fin3 (bits rd 0 3)) (IReg.ofCode ra) .w)
  | 11 => req (rb == 0#5 && (bits rd 3 2) == 0#2) .field <| .ok (.vbcast (fin3 (bits rd 0 3)) (IReg.ofCode ra) .d)
  | _ => .error .function

/-- Major 0x70: SCFG, SBIND, SUNBIND, SSYNC, VOWN, VDISOWN (R145, R149, R150, R154). -/
def dec70 (func : BitVec 5) (rb : BitVec 5) (ra : BitVec 5) (rd : BitVec 5) : Except Illegal Instr :=
  match func.toNat with
  | 0 => req (rb == 0#5 && ra == 0#5 && (bits rd 2 3) == 0#3) .field <| .ok (.scfg (fin2 (bits rd 0 2)))
  | 1 => req (rb == 0#5 && (bits ra 2 3) == 0#3 && (bits rd 3 2) == 0#2) .field <| .ok (.sbind (fin3 (bits rd 0 3)) (fin2 (bits ra 0 2)))
  | 2 => req (rb == 0#5 && ra == 0#5 && (bits rd 2 3) == 0#3) .field <| .ok (.sunbind (fin2 (bits rd 0 2)))
  | 3 => req (rb == 0#5 && ra == 0#5 && (bits rd 2 3) == 0#3) .field <| .ok (.ssync (fin2 (bits rd 0 2)))
  | 4 => req (rb == 0#5 && ra == 0#5) .field <| .ok (.vown (IReg.ofCode rd))
  | 5 => req (rb == 0#5 && ra == 0#5 && rd == 0#5) .field <| .ok (.vdisown)
  | _ => .error .function

/-- Major 0x71: VLOOP (R146). -/
def dec71 (imm : BitVec 15) (rd : BitVec 5) : Except Illegal Instr :=
  req ((bits imm 4 11) == 0#11) .field <| .ok (.vloop (IReg.ofCode rd) (fin4 (bits imm 0 4)))

/-- Major 0x74: MFMT, MUNF, MMA, MZ, MST, MWAIT (R160, R162, R164, R175, R176, R177). -/
def dec74 (func : BitVec 5) (rb : BitVec 5) (ra : BitVec 5) (rd : BitVec 5) : Except Illegal Instr :=
  match func.toNat with
  | 0 => req (rb == 0#5 && rd == 0#5) .field <| .ok (.mfmt (IReg.ofCode ra))
  | 1 => req (rb == 0#5 && ra == 0#5 && rd == 0#5) .field <| .ok (.munf)
  | 2 => req ((bits rd 1 4) == 0#4) .field <| .ok (.mma (fin1 (bits rd 0 1)) (IReg.ofCode ra) (IReg.ofCode rb))
  | 3 => req (rb == 0#5 && ra == 0#5 && (bits rd 1 4) == 0#4) .field <| .ok (.mz (fin1 (bits rd 0 1)))
  | 4 => req ((bits rd 1 4) == 0#4) .field <| .ok (.mst (fin1 (bits rd 0 1)) (IReg.ofCode ra) (IReg.ofCode rb))
  | 5 => req (rb == 0#5 && ra == 0#5) .field <| .ok (.mwait (IReg.ofCode rd))
  | _ => .error .function

/-- Major 0x78: CPG_IN, CPG_OUT, SEND, CPFAR_IN, CPFAR_OUT, COLL (R239, R240, R245, R247). -/
def dec78 (func : BitVec 5) (rb : BitVec 5) (ra : BitVec 5) (rd : BitVec 5) : Except Illegal Instr :=
  match func.toNat with
  | 0 =>
    if (bits rd 3 2) == 0#2 then .ok (.cpgIn (fin3 (bits rd 0 3)) (IReg.ofCode ra) (IReg.ofCode rb))
    else if (bits rd 3 2) == 1#2 then .ok (.cpgOut (fin3 (bits rd 0 3)) (IReg.ofCode ra) (IReg.ofCode rb))
    else .error .field
  | 1 => req ((bits rd 3 2) == 0#2) .field <| .ok (.send (fin3 (bits rd 0 3)) (IReg.ofCode ra) (IReg.ofCode rb))
  | 2 =>
    if (bits rd 3 2) == 0#2 then .ok (.cpfarIn (fin3 (bits rd 0 3)) (IReg.ofCode ra) (IReg.ofCode rb))
    else if (bits rd 3 2) == 1#2 then .ok (.cpfarOut (fin3 (bits rd 0 3)) (IReg.ofCode ra) (IReg.ofCode rb))
    else .error .field
  | 3 => req ((bits rd 3 2) == 0#2) .field <| .ok (.coll (fin3 (bits rd 0 3)) (IReg.ofCode ra) (IReg.ofCode rb))
  | _ => .error .function

/-- Major 0x79: WAITK (R243). -/
def dec79 (imm : BitVec 15) (rd : BitVec 5) : Except Illegal Instr :=
  req ((bits imm 8 7) == 0#7 && rd == 0#5) .field <| .ok (.waitk (bits imm 0 8))

/-- Major 0x7a: TAGPUB, TAGWAIT, TAGQ, RETAIN, TAKE, TAKE_ARM, GRID, GRID_PARAM (R294, R299, R300, R301, R305, R306, R307). -/
def dec7A (func : BitVec 5) (rb : BitVec 5) (ra : BitVec 5) (rd : BitVec 5) : Except Illegal Instr :=
  match func.toNat with
  | 0 => req (rb == 0#5 && rd == 0#5) .field <| .ok (.tagpub (IReg.ofCode ra))
  | 1 => req (rb == 0#5) .field <| .ok (.tagwait (IReg.ofCode rd) (IReg.ofCode ra))
  | 2 => req (rb == 0#5) .field <| .ok (.tagq (IReg.ofCode rd) (IReg.ofCode ra))
  | 3 => req (rd == 0#5) .field <| .ok (.retain (IReg.ofCode ra) (IReg.ofCode rb))
  | 4 =>
    if rb == 0#5 then .ok (.take (IReg.ofCode rd) (IReg.ofCode ra))
    else if rb == 1#5 && rd == 0#5 then .ok (.takeArm (IReg.ofCode ra))
    else .error .field
  | 5 =>
    if rb == 9#5 then .ok (.gridParam (IReg.ofCode rd) (IReg.ofCode ra))
    else if ra == 0#5 then need (GridSel.ofCode rb) .selector fun s => .ok (.grid (IReg.ofCode rd) s)
    else .error .field
  | _ => .error .function

/-- Major 0x7c: SYSR (R350). -/
def dec7C (imm : BitVec 10) (ra : BitVec 5) (rd : BitVec 5) : Except Illegal Instr :=
  req (ra == 0#5) .field <| need (SysReg.ofCode imm) .sysReg fun n => .ok (.sysr (IReg.ofCode rd) n)

/-- Major 0x7d: SYSW, SYSW_TLB_SHOOT, SYSW_CENSUS_CTL, SYSW_SEQ_STATE, SYSW_SUM_STATUS (R231, R311, R331, R349, R350). -/
def dec7D (imm : BitVec 10) (ra : BitVec 5) (rd : BitVec 5) : Except Illegal Instr :=
  req (rd == 0#5) .field <| need (SysReg.ofCode imm) .sysReg fun n =>
  match n with
  | .tlbShoot => .ok (.syswTlbShoot (IReg.ofCode ra))
  | .censusCtl => .ok (.syswCensusCtl (IReg.ofCode ra))
  | .seqState => .ok (.syswSeqState (IReg.ofCode ra))
  | .sumStatus => .ok (.syswSumStatus (IReg.ofCode ra))
  | .frame k => .ok (.syswFrameWindow k (IReg.ofCode ra))
  | n => .ok (.sysw (IReg.ofCode ra) n)

/-- Major 0x7e: ERET, HALT, BKPT, MARK, RDCYC (R351, R353, R354, R355). -/
def dec7E (func : BitVec 5) (rb : BitVec 5) (ra : BitVec 5) (rd : BitVec 5) : Except Illegal Instr :=
  match func.toNat with
  | 0 => req (rb == 0#5 && ra == 0#5 && rd == 0#5) .field <| .ok (.eret)
  | 1 => req (rb == 0#5 && ra == 0#5 && rd == 0#5) .field <| .ok (.halt)
  | 2 => req (rb == 0#5 && ra == 0#5 && rd == 0#5) .field <| .ok (.bkpt)
  | 3 => req (rb == 0#5 && rd == 0#5) .field <| .ok (.mark (IReg.ofCode ra))
  | 4 => req (rb == 0#5 && ra == 0#5) .field <| .ok (.rdcyc (IReg.ofCode rd))
  | _ => .error .function

/-- The decoding of a 32-bit word whose marker is 1, before the checks of `Instr.check`: R46, R47. -/
def decode32Raw (w : BitVec 32) : Except Illegal Instr :=
  match (bits w 1 7).toNat with
  | 0x00 => dec00 (bits w 27 5) (bits w 22 5) (bits w 17 5) (bits w 12 5)
  | 0x01 => dec01 (bits w 27 5) (bits w 22 5) (bits w 17 5) (bits w 12 5)
  | 0x02 => dec02 (bits w 27 5) (bits w 22 5) (bits w 17 5) (bits w 12 5)
  | 0x03 => dec03 (bits w 27 5) (bits w 22 5) (bits w 17 5) (bits w 12 5)
  | 0x04 => dec04 (bits w 22 10) (bits w 17 5) (bits w 12 5)
  | 0x05 => dec05 (bits w 22 10) (bits w 17 5) (bits w 12 5)
  | 0x06 => dec06 (bits w 22 10) (bits w 17 5) (bits w 12 5)
  | 0x07 => dec07 (bits w 22 10) (bits w 17 5) (bits w 12 5)
  | 0x08 => dec08 (bits w 22 10) (bits w 17 5) (bits w 12 5)
  | 0x09 => dec09 (bits w 22 10) (bits w 17 5) (bits w 12 5)
  | 0x0A => dec0A (bits w 22 10) (bits w 17 5) (bits w 12 5)
  | 0x0B => dec0B (bits w 22 10) (bits w 17 5) (bits w 12 5)
  | 0x0C => dec0C (bits w 22 10) (bits w 17 5) (bits w 12 5)
  | 0x0D => dec0D (bits w 22 10) (bits w 17 5) (bits w 12 5)
  | 0x0E => dec0E (bits w 22 10) (bits w 17 5) (bits w 12 5)
  | 0x10 => dec10 (bits w 17 15) (bits w 12 5)
  | 0x11 => dec11 (bits w 17 15) (bits w 12 5)
  | 0x1C => dec1C (bits w 22 10) (bits w 17 5) (bits w 12 5)
  | 0x20 => dec20 (bits w 28 4) (bits w 23 5) (bits w 18 5) (bits w 15 3) (bits w 12 3)
  | 0x21 => dec21 (bits w 28 4) (bits w 23 5) (bits w 18 5) (bits w 15 3) (bits w 12 3)
  | 0x22 => dec22 (bits w 28 4) (bits w 23 5) (bits w 18 5) (bits w 15 3) (bits w 12 3)
  | 0x23 => dec23 (bits w 28 4) (bits w 23 5) (bits w 18 5) (bits w 15 3) (bits w 12 3)
  | 0x24 => dec24 (bits w 28 4) (bits w 23 5) (bits w 18 5) (bits w 15 3) (bits w 12 3)
  | 0x25 => dec25 (bits w 28 4) (bits w 23 5) (bits w 18 5) (bits w 15 3) (bits w 12 3)
  | 0x26 => dec26 (bits w 28 4) (bits w 23 5) (bits w 18 5) (bits w 15 3) (bits w 12 3)
  | 0x27 => dec27 (bits w 28 4) (bits w 23 5) (bits w 18 5) (bits w 15 3) (bits w 12 3)
  | 0x28 => dec28 (bits w 12 20)
  | 0x29 => dec29 (bits w 17 15) (bits w 12 5)
  | 0x2A => dec2A (bits w 22 10) (bits w 17 5) (bits w 12 5)
  | 0x2B => dec2B (bits w 22 10) (bits w 17 5) (bits w 12 5)
  | 0x2C => dec2C (bits w 22 10) (bits w 17 5) (bits w 12 5)
  | 0x30 => dec30 (bits w 17 15) (bits w 12 5)
  | 0x31 => dec31 (bits w 17 15) (bits w 12 5)
  | 0x32 => dec32 (bits w 27 5) (bits w 22 5) (bits w 17 5) (bits w 12 5)
  | 0x33 => dec33 (bits w 27 5) (bits w 22 5) (bits w 17 5) (bits w 12 5)
  | 0x38 => dec38 (bits w 22 10) (bits w 17 5) (bits w 12 5)
  | 0x39 => dec39 (bits w 22 10) (bits w 17 5) (bits w 12 5)
  | 0x3A => dec3A (bits w 22 10) (bits w 17 5) (bits w 12 5)
  | 0x3B => dec3B (bits w 22 10) (bits w 17 5) (bits w 12 5)
  | 0x3C => dec3C (bits w 22 10) (bits w 17 5) (bits w 12 5)
  | 0x3D => dec3D (bits w 22 10) (bits w 17 5) (bits w 12 5)
  | 0x3E => dec3E (bits w 22 10) (bits w 17 5) (bits w 12 5)
  | 0x3F => dec3F (bits w 22 10) (bits w 17 5) (bits w 12 5)
  | 0x40 => dec40 (bits w 22 10) (bits w 17 5) (bits w 12 5)
  | 0x41 => dec41 (bits w 22 10) (bits w 17 5) (bits w 12 5)
  | 0x42 => dec42 (bits w 22 10) (bits w 17 5) (bits w 12 5)
  | 0x43 => dec43 (bits w 22 10) (bits w 17 5) (bits w 12 5)
  | 0x44 => dec44 (bits w 22 10) (bits w 17 5) (bits w 12 5)
  | 0x45 => dec45 (bits w 22 10) (bits w 17 5) (bits w 12 5)
  | 0x46 => dec46 (bits w 27 5) (bits w 22 5) (bits w 17 5) (bits w 12 5)
  | 0x48 => dec48 (bits w 27 5) (bits w 22 5) (bits w 17 5) (bits w 12 5)
  | 0x49 => dec49 (bits w 27 5) (bits w 22 5) (bits w 17 5) (bits w 12 5)
  | 0x4A => dec4A (bits w 27 5) (bits w 22 5) (bits w 17 5) (bits w 12 5)
  | 0x4B => dec4B (bits w 28 4) (bits w 23 5) (bits w 18 5) (bits w 15 3) (bits w 12 3)
  | 0x4C => dec4C (bits w 27 5) (bits w 22 5) (bits w 17 5) (bits w 12 5)
  | 0x4D => dec4D (bits w 27 5) (bits w 22 5) (bits w 17 5) (bits w 12 5)
  | 0x50 => decFp .d (bits w 27 5) (bits w 22 5) (bits w 17 5) (bits w 12 5)
  | 0x51 => decFp .s (bits w 27 5) (bits w 22 5) (bits w 17 5) (bits w 12 5)
  | 0x52 => decFp .h (bits w 27 5) (bits w 22 5) (bits w 17 5) (bits w 12 5)
  | 0x53 => decFp .bf (bits w 27 5) (bits w 22 5) (bits w 17 5) (bits w 12 5)
  | 0x54 => dec54 (bits w 22 10) (bits w 17 5) (bits w 12 5)
  | 0x56 => dec56 (bits w 27 5) (bits w 22 5) (bits w 17 5) (bits w 12 5)
  | 0x60 => dec60 (bits w 25 7) (bits w 21 4) (bits w 18 3) (bits w 15 3) (bits w 12 3)
  | 0x61 => dec61 (bits w 25 7) (bits w 21 4) (bits w 18 3) (bits w 15 3) (bits w 12 3)
  | 0x62 => dec62 (bits w 25 7) (bits w 21 4) (bits w 18 3) (bits w 15 3) (bits w 12 3)
  | 0x63 => dec63 (bits w 25 7) (bits w 21 4) (bits w 18 3) (bits w 15 3) (bits w 12 3)
  | 0x64 => dec64 (bits w 25 7) (bits w 21 4) (bits w 18 3) (bits w 15 3) (bits w 12 3)
  | 0x65 => dec65 (bits w 25 7) (bits w 21 4) (bits w 18 3) (bits w 15 3) (bits w 12 3)
  | 0x66 => dec66 (bits w 27 5) (bits w 22 5) (bits w 17 5) (bits w 12 5)
  | 0x70 => dec70 (bits w 27 5) (bits w 22 5) (bits w 17 5) (bits w 12 5)
  | 0x71 => dec71 (bits w 17 15) (bits w 12 5)
  | 0x74 => dec74 (bits w 27 5) (bits w 22 5) (bits w 17 5) (bits w 12 5)
  | 0x78 => dec78 (bits w 27 5) (bits w 22 5) (bits w 17 5) (bits w 12 5)
  | 0x79 => dec79 (bits w 17 15) (bits w 12 5)
  | 0x7A => dec7A (bits w 27 5) (bits w 22 5) (bits w 17 5) (bits w 12 5)
  | 0x7C => dec7C (bits w 22 10) (bits w 17 5) (bits w 12 5)
  | 0x7D => dec7D (bits w 22 10) (bits w 17 5) (bits w 12 5)
  | 0x7E => dec7E (bits w 27 5) (bits w 22 5) (bits w 17 5) (bits w 12 5)
  | _ => .error .major

/-- The 32-bit word of an instruction, from the encoding tables of its entry; none for a compact
instruction and for the rows that are no instruction words. -/
def encode32 (g : Guard) : Instr → Option (BitVec 32)
  | .add d a b => some (packRRR 0#5 (IReg.code b) (IReg.code a) (IReg.code d) g 0#7)
  | .sub d a b => some (packRRR 1#5 (IReg.code b) (IReg.code a) (IReg.code d) g 0#7)
  | .and d a b => some (packRRR 2#5 (IReg.code b) (IReg.code a) (IReg.code d) g 0#7)
  | .or d a b => some (packRRR 3#5 (IReg.code b) (IReg.code a) (IReg.code d) g 0#7)
  | .xor d a b => some (packRRR 4#5 (IReg.code b) (IReg.code a) (IReg.code d) g 0#7)
  | .andn d a b => some (packRRR 5#5 (IReg.code b) (IReg.code a) (IReg.code d) g 0#7)
  | .orn d a b => some (packRRR 6#5 (IReg.code b) (IReg.code a) (IReg.code d) g 0#7)
  | .xnor d a b => some (packRRR 7#5 (IReg.code b) (IReg.code a) (IReg.code d) g 0#7)
  | .sll d a b => some (packRRR 8#5 (IReg.code b) (IReg.code a) (IReg.code d) g 0#7)
  | .srl d a b => some (packRRR 9#5 (IReg.code b) (IReg.code a) (IReg.code d) g 0#7)
  | .sra d a b => some (packRRR 10#5 (IReg.code b) (IReg.code a) (IReg.code d) g 0#7)
  | .ror d a b => some (packRRR 11#5 (IReg.code b) (IReg.code a) (IReg.code d) g 0#7)
  | .min d a b => some (packRRR 12#5 (IReg.code b) (IReg.code a) (IReg.code d) g 0#7)
  | .max d a b => some (packRRR 13#5 (IReg.code b) (IReg.code a) (IReg.code d) g 0#7)
  | .minu d a b => some (packRRR 14#5 (IReg.code b) (IReg.code a) (IReg.code d) g 0#7)
  | .maxu d a b => some (packRRR 15#5 (IReg.code b) (IReg.code a) (IReg.code d) g 0#7)
  | .adds d a b => some (packRRR 16#5 (IReg.code b) (IReg.code a) (IReg.code d) g 0#7)
  | .subs d a b => some (packRRR 17#5 (IReg.code b) (IReg.code a) (IReg.code d) g 0#7)
  | .addsu d a b => some (packRRR 18#5 (IReg.code b) (IReg.code a) (IReg.code d) g 0#7)
  | .subsu d a b => some (packRRR 19#5 (IReg.code b) (IReg.code a) (IReg.code d) g 0#7)
  | .addImm d a i => some (packRRI i (IReg.code a) (IReg.code d) g 4#7)
  | .andImm d a i => some (packRRI i (IReg.code a) (IReg.code d) g 5#7)
  | .orImm d a i => some (packRRI i (IReg.code a) (IReg.code d) g 6#7)
  | .xorImm d a i => some (packRRI i (IReg.code a) (IReg.code d) g 7#7)
  | .sllImm d a i => some (packRRI (0#4 ++ i) (IReg.code a) (IReg.code d) g 8#7)
  | .srlImm d a i => some (packRRI (0#4 ++ i) (IReg.code a) (IReg.code d) g 9#7)
  | .sraImm d a i => some (packRRI (0#4 ++ i) (IReg.code a) (IReg.code d) g 10#7)
  | .rorImm d a i => some (packRRI (0#4 ++ i) (IReg.code a) (IReg.code d) g 11#7)
  | .mulImm d a i => some (packRRI i (IReg.code a) (IReg.code d) g 12#7)
  | .minImm d a i => some (packRRI i (IReg.code a) (IReg.code d) g 13#7)
  | .maxImm d a i => some (packRRI i (IReg.code a) (IReg.code d) g 14#7)
  | .li d i => some (packRI i (IReg.code d) g 16#7)
  | .lis d i => some (packRI i (IReg.code d) g 17#7)
  | .mul d a b => some (packRRR 0#5 (IReg.code b) (IReg.code a) (IReg.code d) g 1#7)
  | .mulh d a b => some (packRRR 1#5 (IReg.code b) (IReg.code a) (IReg.code d) g 1#7)
  | .mulhu d a b => some (packRRR 2#5 (IReg.code b) (IReg.code a) (IReg.code d) g 1#7)
  | .mulhsu d a b => some (packRRR 3#5 (IReg.code b) (IReg.code a) (IReg.code d) g 1#7)
  | .div d a b => some (packRRR 4#5 (IReg.code b) (IReg.code a) (IReg.code d) g 1#7)
  | .divu d a b => some (packRRR 5#5 (IReg.code b) (IReg.code a) (IReg.code d) g 1#7)
  | .rem d a b => some (packRRR 6#5 (IReg.code b) (IReg.code a) (IReg.code d) g 1#7)
  | .remu d a b => some (packRRR 7#5 (IReg.code b) (IReg.code a) (IReg.code d) g 1#7)
  | .clz d a => some (packRRR 0#5 0#5 (IReg.code a) (IReg.code d) g 2#7)
  | .ctz d a => some (packRRR 1#5 0#5 (IReg.code a) (IReg.code d) g 2#7)
  | .popc d a => some (packRRR 2#5 0#5 (IReg.code a) (IReg.code d) g 2#7)
  | .brev d a => some (packRRR 3#5 0#5 (IReg.code a) (IReg.code d) g 2#7)
  | .bswap d a => some (packRRR 4#5 0#5 (IReg.code a) (IReg.code d) g 2#7)
  | .sxb d a => some (packRRR 5#5 0#5 (IReg.code a) (IReg.code d) g 2#7)
  | .sxh d a => some (packRRR 6#5 0#5 (IReg.code a) (IReg.code d) g 2#7)
  | .sxw d a => some (packRRR 7#5 0#5 (IReg.code a) (IReg.code d) g 2#7)
  | .bfx d a b => some (packRRR 8#5 (IReg.code b) (IReg.code a) (IReg.code d) g 2#7)
  | .bfxu d a b => some (packRRR 9#5 (IReg.code b) (IReg.code a) (IReg.code d) g 2#7)
  | .bfi d a b => some (packRRR 10#5 (IReg.code b) (IReg.code a) (IReg.code d) g 2#7)
  | .movk k a => some (packRRR 0#5 0#5 (IReg.code a) (0#3 ++ (code2 k)) g 3#7)
  | .rdk d k => some (packRRR 1#5 0#5 (0#3 ++ (code2 k)) (IReg.code d) g 3#7)
  | .rdpw d => some (packRRR 2#5 0#5 0#5 (IReg.code d) g 3#7)
  | .wrpw a => some (packRRR 3#5 0#5 (IReg.code a) 0#5 g 3#7)
  | .cmp p q a b c => some (packPC (Cond.code c) (IReg.code b) (IReg.code a) (code3 q) (code3 p) g 32#7)
  | .cmpi p q a i c => some (packPC (Cond.code c) i (IReg.code a) (code3 q) (code3 p) g 33#7)
  | .fcmpD p q a b c => some (packPC (FCond.code c) (IReg.code b) (IReg.code a) (code3 q) (code3 p) g 34#7)
  | .fcmpS p q a b c => some (packPC (FCond.code c) (IReg.code b) (IReg.code a) (code3 q) (code3 p) g 35#7)
  | .fcmpH p q a b c => some (packPC (FCond.code c) (IReg.code b) (IReg.code a) (code3 q) (code3 p) g 36#7)
  | .fcmpBf p q a b c => some (packPC (FCond.code c) (IReg.code b) (IReg.code a) (code3 q) (code3 p) g 37#7)
  | .isap p q a c => some (packPC (ApClass.code c) 0#5 (IReg.code a) (code3 q) (code3 p) g 38#7)
  | .plog p q a b f => some (packPC f (0#2 ++ (code3 b)) (0#2 ++ (code3 a)) (code3 q) (code3 p) g 39#7)
  | .b o => some (packBR o g 40#7)
  | .call d i => some (packRI i (IReg.code d) g 41#7)
  | .bri a i => some (packRRI i (IReg.code a) 0#5 g 42#7)
  | .callr d a i => some (packRRI i (IReg.code a) (IReg.code d) g 43#7)
  | .ret a => some (packRRI 0#10 (IReg.code a) 0#5 g 44#7)
  | .create d i => some (packRI i (IReg.code d) g 48#7)
  | .fgo a i => some (packRI i (IReg.code a) g 49#7)
  | .falloc d => some (packRRR 0#5 0#5 0#5 (IReg.code d) g 50#7)
  | .fsync d a => some (packRRR 1#5 0#5 (IReg.code a) (IReg.code d) g 50#7)
  | .frel a => some (packRRR 2#5 0#5 (IReg.code a) 0#5 g 50#7)
  | .tix d => some (packRRR 3#5 0#5 0#5 (IReg.code d) g 50#7)
  | .fputD a b i => some (packRRR (1#3 ++ (code2 i)) (IReg.code b) (IReg.code a) 0#5 g 50#7)
  | .fputG a b i => some (packRRR (1#2 ++ (code3 i)) (IReg.code b) (IReg.code a) 0#5 g 50#7)
  | .fget d a i => some (packRRR (4#3 ++ (code2 i)) 0#5 (IReg.code a) (IReg.code d) g 50#7)
  | .fkill a => some (packRRR 20#5 0#5 (IReg.code a) 0#5 g 50#7)
  | .fkillTree a => some (packRRR 20#5 0#5 (IReg.code a) 1#5 g 50#7)
  | .fstat d a => some (packRRR 21#5 0#5 (IReg.code a) (IReg.code d) g 50#7)
  | .detach a => some (packRRR 22#5 0#5 (IReg.code a) 0#5 g 50#7)
  | .fplace a b => some (packRRR 23#5 (IReg.code b) (IReg.code a) 0#5 g 50#7)
  | .exit  => some (packRRR 0#5 0#5 0#5 0#5 g 51#7)
  | .brk  => some (packRRR 1#5 0#5 0#5 0#5 g 51#7)
  | .yield  => some (packRRR 2#5 0#5 0#5 0#5 g 51#7)
  | .ldBs d b o => some (packRRI o (IReg.code b) (IReg.code d) g 56#7)
  | .ldBz d b o => some (packRRI o (IReg.code b) (IReg.code d) g 57#7)
  | .ldHs d b o => some (packRRI o (IReg.code b) (IReg.code d) g 58#7)
  | .ldHz d b o => some (packRRI o (IReg.code b) (IReg.code d) g 59#7)
  | .ldWs d b o => some (packRRI o (IReg.code b) (IReg.code d) g 60#7)
  | .ldWz d b o => some (packRRI o (IReg.code b) (IReg.code d) g 61#7)
  | .ldD d b o => some (packRRI o (IReg.code b) (IReg.code d) g 62#7)
  | .ldw d b o => some (packRRI o (IReg.code b) (0#2 ++ (code3 d)) g 63#7)
  | .stB d b o => some (packRRI o (IReg.code b) (IReg.code d) g 64#7)
  | .stH d b o => some (packRRI o (IReg.code b) (IReg.code d) g 65#7)
  | .stW d b o => some (packRRI o (IReg.code b) (IReg.code d) g 66#7)
  | .stD d b o => some (packRRI o (IReg.code b) (IReg.code d) g 67#7)
  | .stw d b o => some (packRRI o (IReg.code b) (0#2 ++ (code3 d)) g 68#7)
  | .ldk k b o => some (packRRI o (IReg.code b) (0#3 ++ (code2 k)) g 69#7)
  | .ldfe d a b => some (packRRR 0#5 (IReg.code b) (IReg.code a) (IReg.code d) g 70#7)
  | .ldff d a b => some (packRRR 1#5 (IReg.code b) (IReg.code a) (IReg.code d) g 70#7)
  | .stfe d a b => some (packRRR 2#5 (IReg.code b) (IReg.code a) (IReg.code d) g 70#7)
  | .feinitE a b => some (packRRR 3#5 (IReg.code b) (IReg.code a) 0#5 g 70#7)
  | .feinitF a b => some (packRRR 3#5 (IReg.code b) (IReg.code a) 1#5 g 70#7)
  | .fenceCore  => some (packRRR 4#5 0#5 0#5 0#5 g 70#7)
  | .fenceCl  => some (packRRR 5#5 0#5 0#5 0#5 g 70#7)
  | .fenceDev  => some (packRRR 6#5 0#5 0#5 0#5 g 70#7)
  | .fenceSys  => some (packRRR 7#5 0#5 0#5 0#5 g 70#7)
  | .aadd d a b w => some (packRRR ((AWidth.code w) ++ 0#4) (IReg.code b) (IReg.code a) (IReg.code d) g 72#7)
  | .aand d a b w => some (packRRR ((AWidth.code w) ++ 1#4) (IReg.code b) (IReg.code a) (IReg.code d) g 72#7)
  | .aor d a b w => some (packRRR ((AWidth.code w) ++ 2#4) (IReg.code b) (IReg.code a) (IReg.code d) g 72#7)
  | .axor d a b w => some (packRRR ((AWidth.code w) ++ 3#4) (IReg.code b) (IReg.code a) (IReg.code d) g 72#7)
  | .amin d a b w => some (packRRR ((AWidth.code w) ++ 4#4) (IReg.code b) (IReg.code a) (IReg.code d) g 72#7)
  | .amax d a b w => some (packRRR ((AWidth.code w) ++ 5#4) (IReg.code b) (IReg.code a) (IReg.code d) g 72#7)
  | .aminu d a b w => some (packRRR ((AWidth.code w) ++ 6#4) (IReg.code b) (IReg.code a) (IReg.code d) g 72#7)
  | .amaxu d a b w => some (packRRR ((AWidth.code w) ++ 7#4) (IReg.code b) (IReg.code a) (IReg.code d) g 72#7)
  | .axchg d a b w => some (packRRR ((AWidth.code w) ++ 8#4) (IReg.code b) (IReg.code a) (IReg.code d) g 72#7)
  | .acas d a b w => some (packRRR ((AWidth.code w) ++ 9#4) (IReg.code b) (IReg.code a) (IReg.code d) g 72#7)
  | .afadd d a b w => some (packRRR ((AWidth.code w) ++ 10#4) (IReg.code b) (IReg.code a) (IReg.code d) g 72#7)
  | .redAdd a b w => some (packRRR ((AWidth.code w) ++ 0#4) (IReg.code b) (IReg.code a) 0#5 g 73#7)
  | .redAnd a b w => some (packRRR ((AWidth.code w) ++ 1#4) (IReg.code b) (IReg.code a) 0#5 g 73#7)
  | .redOr a b w => some (packRRR ((AWidth.code w) ++ 2#4) (IReg.code b) (IReg.code a) 0#5 g 73#7)
  | .redXor a b w => some (packRRR ((AWidth.code w) ++ 3#4) (IReg.code b) (IReg.code a) 0#5 g 73#7)
  | .redMin a b w => some (packRRR ((AWidth.code w) ++ 4#4) (IReg.code b) (IReg.code a) 0#5 g 73#7)
  | .redMax a b w => some (packRRR ((AWidth.code w) ++ 5#4) (IReg.code b) (IReg.code a) 0#5 g 73#7)
  | .redMinu a b w => some (packRRR ((AWidth.code w) ++ 6#4) (IReg.code b) (IReg.code a) 0#5 g 73#7)
  | .redMaxu a b w => some (packRRR ((AWidth.code w) ++ 7#4) (IReg.code b) (IReg.code a) 0#5 g 73#7)
  | .redfadd a b w => some (packRRR ((AWidth.code w) ++ 10#4) (IReg.code b) (IReg.code a) 0#5 g 73#7)
  | .await d a b c w => some (packRRR ((AWidth.code w) ++ 0#2 ++ (AwCond.code c)) (IReg.code b) (IReg.code a) (IReg.code d) g 74#7)
  | .sumon p q a => some (packPC 0#4 0#5 (IReg.code a) (code3 q) (code3 p) g 75#7)
  | .sumaddS a b => some (packRRR 0#5 (IReg.code b) (IReg.code a) 0#5 g 76#7)
  | .sumaddBf a b => some (packRRR 1#5 (IReg.code b) (IReg.code a) 0#5 g 76#7)
  | .sumaddH a b => some (packRRR 2#5 (IReg.code b) (IReg.code a) 0#5 g 76#7)
  | .sumoff d a => some (packRRR 0#5 0#5 (IReg.code a) (IReg.code d) g 77#7)
  | .cvtaCl d a => some (packRRI 0#10 (IReg.code a) (IReg.code d) g 28#7)
  | .cvtaSp d a => some (packRRI 1#10 (IReg.code a) (IReg.code d) g 28#7)
  | .fadd f d a b => some (packRRR 0#5 (IReg.code b) (IReg.code a) (IReg.code d) g (20#5 ++ FFmt.code f))
  | .fsub f d a b => some (packRRR 1#5 (IReg.code b) (IReg.code a) (IReg.code d) g (20#5 ++ FFmt.code f))
  | .fmul f d a b => some (packRRR 2#5 (IReg.code b) (IReg.code a) (IReg.code d) g (20#5 ++ FFmt.code f))
  | .fdiv f d a b => some (packRRR 3#5 (IReg.code b) (IReg.code a) (IReg.code d) g (20#5 ++ FFmt.code f))
  | .fmin f d a b => some (packRRR 4#5 (IReg.code b) (IReg.code a) (IReg.code d) g (20#5 ++ FFmt.code f))
  | .fmax f d a b => some (packRRR 5#5 (IReg.code b) (IReg.code a) (IReg.code d) g (20#5 ++ FFmt.code f))
  | .fsqrt f d a => some (packRRR 6#5 0#5 (IReg.code a) (IReg.code d) g (20#5 ++ FFmt.code f))
  | .fabs f d a => some (packRRR 7#5 0#5 (IReg.code a) (IReg.code d) g (20#5 ++ FFmt.code f))
  | .fneg f d a => some (packRRR 8#5 0#5 (IReg.code a) (IReg.code d) g (20#5 ++ FFmt.code f))
  | .fma f d a b => some (packRRR 9#5 (IReg.code b) (IReg.code a) (IReg.code d) g (20#5 ++ FFmt.code f))
  | .fclass f d a => some (packRRR 10#5 0#5 (IReg.code a) (IReg.code d) g (20#5 ++ FFmt.code f))
  | .frcp f d a => some (packRRR 16#5 0#5 (IReg.code a) (IReg.code d) g (20#5 ++ FFmt.code f))
  | .frsq f d a => some (packRRR 17#5 0#5 (IReg.code a) (IReg.code d) g (20#5 ++ FFmt.code f))
  | .fexp2 f d a => some (packRRR 18#5 0#5 (IReg.code a) (IReg.code d) g (20#5 ++ FFmt.code f))
  | .flog2 f d a => some (packRRR 19#5 0#5 (IReg.code a) (IReg.code d) g (20#5 ++ FFmt.code f))
  | .fsin f d a => some (packRRR 20#5 0#5 (IReg.code a) (IReg.code d) g (20#5 ++ FFmt.code f))
  | .fcos f d a => some (packRRR 21#5 0#5 (IReg.code a) (IReg.code d) g (20#5 ++ FFmt.code f))
  | .ftanh f d a => some (packRRR 22#5 0#5 (IReg.code a) (IReg.code d) g (20#5 ++ FFmt.code f))
  | .cvt d a m s t => some (packRRI ((Fmt.code t) ++ (Fmt.code s) ++ (CvtMode.code2 m)) (IReg.code a) (IReg.code d) g 84#7)
  | .rdfp d => some (packRRR 0#5 0#5 0#5 (IReg.code d) g 86#7)
  | .wrfp a => some (packRRR 1#5 0#5 (IReg.code a) 0#5 g 86#7)
  | .clrflg  => some (packRRR 2#5 0#5 0#5 0#5 g 86#7)
  | .vadd d a b t => some (packW 0#7 (Fmt.code t) (code3 b) (code3 a) (code3 d) g 96#7)
  | .vsub d a b t => some (packW 1#7 (Fmt.code t) (code3 b) (code3 a) (code3 d) g 96#7)
  | .vmul d a b t => some (packW 2#7 (Fmt.code t) (code3 b) (code3 a) (code3 d) g 96#7)
  | .vfma d a b t => some (packW 3#7 (Fmt.code t) (code3 b) (code3 a) (code3 d) g 96#7)
  | .vmin d a b t => some (packW 4#7 (Fmt.code t) (code3 b) (code3 a) (code3 d) g 96#7)
  | .vmax d a b t => some (packW 5#7 (Fmt.code t) (code3 b) (code3 a) (code3 d) g 96#7)
  | .vadds d a b t => some (packW 6#7 (Fmt.code t) (code3 b) (code3 a) (code3 d) g 96#7)
  | .vsubs d a b t => some (packW 7#7 (Fmt.code t) (code3 b) (code3 a) (code3 d) g 96#7)
  | .vand d a b t => some (packW 8#7 (Fmt.code t) (code3 b) (code3 a) (code3 d) g 96#7)
  | .vor d a b t => some (packW 9#7 (Fmt.code t) (code3 b) (code3 a) (code3 d) g 96#7)
  | .vxor d a b t => some (packW 10#7 (Fmt.code t) (code3 b) (code3 a) (code3 d) g 96#7)
  | .vsll d a b t => some (packW 11#7 (Fmt.code t) (code3 b) (code3 a) (code3 d) g 96#7)
  | .vsrl d a b t => some (packW 12#7 (Fmt.code t) (code3 b) (code3 a) (code3 d) g 96#7)
  | .vsra d a b t => some (packW 13#7 (Fmt.code t) (code3 b) (code3 a) (code3 d) g 96#7)
  | .vdiv d a b t => some (packW 14#7 (Fmt.code t) (code3 b) (code3 a) (code3 d) g 96#7)
  | .vsqrt d a t => some (packW 15#7 (Fmt.code t) 0#3 (code3 a) (code3 d) g 96#7)
  | .vabs d a t => some (packW 16#7 (Fmt.code t) 0#3 (code3 a) (code3 d) g 96#7)
  | .vneg d a t => some (packW 17#7 (Fmt.code t) 0#3 (code3 a) (code3 d) g 96#7)
  | .vmulh d a b t => some (packW 18#7 (Fmt.code t) (code3 b) (code3 a) (code3 d) g 96#7)
  | .vcmpEq d a b t => some (packW 0#7 (Fmt.code t) (code3 b) (code3 a) (code3 d) g 97#7)
  | .vcmpNe d a b t => some (packW 1#7 (Fmt.code t) (code3 b) (code3 a) (code3 d) g 97#7)
  | .vcmpLt d a b t => some (packW 2#7 (Fmt.code t) (code3 b) (code3 a) (code3 d) g 97#7)
  | .vcmpLe d a b t => some (packW 3#7 (Fmt.code t) (code3 b) (code3 a) (code3 d) g 97#7)
  | .vcmpUn d a b t => some (packW 4#7 (Fmt.code t) (code3 b) (code3 a) (code3 d) g 97#7)
  | .vsel d a b t => some (packW 8#7 (Fmt.code t) (code3 b) (code3 a) (code3 d) g 97#7)
  | .vperm d a b t => some (packW 0#7 (Fmt.code t) (code3 b) (code3 a) (code3 d) g 98#7)
  | .vzipl d a b t => some (packW 1#7 (Fmt.code t) (code3 b) (code3 a) (code3 d) g 98#7)
  | .vziph d a b t => some (packW 2#7 (Fmt.code t) (code3 b) (code3 a) (code3 d) g 98#7)
  | .vunzipl d a b t => some (packW 3#7 (Fmt.code t) (code3 b) (code3 a) (code3 d) g 98#7)
  | .vunziph d a b t => some (packW 4#7 (Fmt.code t) (code3 b) (code3 a) (code3 d) g 98#7)
  | .vredadd d a t => some (packW 0#7 (Fmt.code t) 0#3 (code3 a) (code3 d) g 99#7)
  | .vredmin d a t => some (packW 1#7 (Fmt.code t) 0#3 (code3 a) (code3 d) g 99#7)
  | .vredmax d a t => some (packW 2#7 (Fmt.code t) 0#3 (code3 a) (code3 d) g 99#7)
  | .vredand d a t => some (packW 3#7 (Fmt.code t) 0#3 (code3 a) (code3 d) g 99#7)
  | .vredor d a t => some (packW 4#7 (Fmt.code t) 0#3 (code3 a) (code3 d) g 99#7)
  | .vredxor d a t => some (packW 5#7 (Fmt.code t) 0#3 (code3 a) (code3 d) g 99#7)
  | .vscanAddInc d a b t => some (packW 0#7 (Fmt.code t) (code3 b) (code3 a) (code3 d) g 100#7)
  | .vscanAddExc d a b t => some (packW 1#7 (Fmt.code t) (code3 b) (code3 a) (code3 d) g 100#7)
  | .vscanMinInc d a b t => some (packW 2#7 (Fmt.code t) (code3 b) (code3 a) (code3 d) g 100#7)
  | .vscanMinExc d a b t => some (packW 3#7 (Fmt.code t) (code3 b) (code3 a) (code3 d) g 100#7)
  | .vscanMaxInc d a b t => some (packW 4#7 (Fmt.code t) (code3 b) (code3 a) (code3 d) g 100#7)
  | .vscanMaxExc d a b t => some (packW 5#7 (Fmt.code t) (code3 b) (code3 a) (code3 d) g 100#7)
  | .vcvt d a q t m s => some (packW ((Fmt.code s) ++ (CvtMode.code3 m)) (Fmt.code t) (code3 q) (code3 a) (code3 d) g 101#7)
  | .vget d a b s => some (packRRR (0#3 ++ (LaneW.code s)) (IReg.code b) (0#2 ++ (code3 a)) (IReg.code d) g 102#7)
  | .vput d a b s => some (packRRR (1#3 ++ (LaneW.code s)) (IReg.code b) (IReg.code a) (0#2 ++ (code3 d)) g 102#7)
  | .vbcast d a s => some (packRRR (2#3 ++ (LaneW.code s)) 0#5 (IReg.code a) (0#2 ++ (code3 d)) g 102#7)
  | .scfg n => some (packRRR 0#5 0#5 0#5 (0#3 ++ (code2 n)) g 112#7)
  | .sbind m n => some (packRRR 1#5 0#5 (0#3 ++ (code2 n)) (0#2 ++ (code3 m)) g 112#7)
  | .sunbind n => some (packRRR 2#5 0#5 0#5 (0#3 ++ (code2 n)) g 112#7)
  | .ssync n => some (packRRR 3#5 0#5 0#5 (0#3 ++ (code2 n)) g 112#7)
  | .vown d => some (packRRR 4#5 0#5 0#5 (IReg.code d) g 112#7)
  | .vdisown  => some (packRRR 5#5 0#5 0#5 0#5 g 112#7)
  | .vloop a n => some (packRI (0#11 ++ (code4 n)) (IReg.code a) g 113#7)
  | .mfmt a => some (packRRR 0#5 0#5 (IReg.code a) 0#5 g 116#7)
  | .munf  => some (packRRR 1#5 0#5 0#5 0#5 g 116#7)
  | .mma n a b => some (packRRR 2#5 (IReg.code b) (IReg.code a) (0#4 ++ (code1 n)) g 116#7)
  | .mz n => some (packRRR 3#5 0#5 0#5 (0#4 ++ (code1 n)) g 116#7)
  | .mst n a b => some (packRRR 4#5 (IReg.code b) (IReg.code a) (0#4 ++ (code1 n)) g 116#7)
  | .mwait d => some (packRRR 5#5 0#5 0#5 (IReg.code d) g 116#7)
  | .cpgIn n a b => some (packRRR 0#5 (IReg.code b) (IReg.code a) (0#2 ++ (code3 n)) g 120#7)
  | .cpgOut n a b => some (packRRR 0#5 (IReg.code b) (IReg.code a) (1#2 ++ (code3 n)) g 120#7)
  | .send n a b => some (packRRR 1#5 (IReg.code b) (IReg.code a) (0#2 ++ (code3 n)) g 120#7)
  | .cpfarIn n a b => some (packRRR 2#5 (IReg.code b) (IReg.code a) (0#2 ++ (code3 n)) g 120#7)
  | .cpfarOut n a b => some (packRRR 2#5 (IReg.code b) (IReg.code a) (1#2 ++ (code3 n)) g 120#7)
  | .coll n a b => some (packRRR 3#5 (IReg.code b) (IReg.code a) (0#2 ++ (code3 n)) g 120#7)
  | .waitk m => some (packRI (0#7 ++ m) 0#5 g 121#7)
  | .tagpub a => some (packRRR 0#5 0#5 (IReg.code a) 0#5 g 122#7)
  | .tagwait d a => some (packRRR 1#5 0#5 (IReg.code a) (IReg.code d) g 122#7)
  | .tagq d a => some (packRRR 2#5 0#5 (IReg.code a) (IReg.code d) g 122#7)
  | .retain a b => some (packRRR 3#5 (IReg.code b) (IReg.code a) 0#5 g 122#7)
  | .take d a => some (packRRR 4#5 0#5 (IReg.code a) (IReg.code d) g 122#7)
  | .takeArm a => some (packRRR 4#5 1#5 (IReg.code a) 0#5 g 122#7)
  | .grid d s => some (packRRR 5#5 (GridSel.code s) 0#5 (IReg.code d) g 122#7)
  | .gridParam d a => some (packRRR 5#5 9#5 (IReg.code a) (IReg.code d) g 122#7)
  | .sysr d n => some (packRRI (SysReg.code n) 0#5 (IReg.code d) g 124#7)
  | .sysw a n => some (packRRI (SysReg.code n) (IReg.code a) 0#5 g 125#7)
  | .syswTlbShoot a => some (packRRI 22#10 (IReg.code a) 0#5 g 125#7)
  | .syswCensusCtl a => some (packRRI 34#10 (IReg.code a) 0#5 g 125#7)
  | .syswSeqState a => some (packRRI 7#10 (IReg.code a) 0#5 g 125#7)
  | .syswSumStatus a => some (packRRI 19#10 (IReg.code a) 0#5 g 125#7)
  | .syswFrameWindow n a => some (packRRI (SysReg.code (.frame n)) (IReg.code a) 0#5 g 125#7)
  | .eret  => some (packRRR 0#5 0#5 0#5 0#5 g 126#7)
  | .halt  => some (packRRR 1#5 0#5 0#5 0#5 g 126#7)
  | .bkpt  => some (packRRR 2#5 0#5 0#5 0#5 g 126#7)
  | .mark a => some (packRRR 3#5 0#5 (IReg.code a) 0#5 g 126#7)
  | .rdcyc d => some (packRRR 4#5 0#5 0#5 (IReg.code d) g 126#7)
  | _ => none

/-- The 16-bit word of a compact instruction (R29, R30, R49). -/
def encode16 : Instr → Option (BitVec 16)
  | .ord o s => some (0#6 ++ Scope.code s ++ Order.code o ++ 1#5 ++ 0#1)
  | .nop => some (0#10 ++ 2#5 ++ 0#1)
  | .mov a d => some (IReg.code d ++ IReg.code a ++ 3#5 ++ 0#1)
  | .movi i d => some (IReg.code d ++ i ++ 4#5 ++ 0#1)
  | .trap c => some (c ++ 5#5 ++ 0#1)
  | _ => none

/-- The decoding of a halfword whose bit 0 is 0, before the checks of `Instr.check` (R49). -/
def decode16Raw (w : BitVec 16) : Except Illegal Instr :=
  match (bits w 1 5).toNat with
  | 1 => req (bits w 10 6 == 0#6) .field <| .ok (.ord (Order.ofCode (bits w 6 2)) (Scope.ofCode (bits w 8 2)))
  | 2 => req (bits w 6 10 == 0#10) .field <| .ok .nop
  | 3 => .ok (.mov (IReg.ofCode (bits w 6 5)) (IReg.ofCode (bits w 11 5)))
  | 4 => .ok (.movi (bits w 6 5) (IReg.ofCode (bits w 11 5)))
  | 5 => .ok (.trap (bits w 6 10))
  | _ => .error .compact

/-- Keep an instruction only if it and its guard are legal. -/
def checked (g : Guard) (r : Except Illegal Instr) : Except Illegal Instr :=
  if g.ok then
    match r with
    | .ok i => (match i.check with
      | none => .ok i
      | some e => .error e)
    | .error e => .error e
  else .error .guard

/-- The guard that reads p0 and always executes; compact instructions have it (R29, R32). -/
def Guard.always : Guard := ⟨false, 0⟩

/-- The guard of a 32-bit word (R24). -/
def guard32 (w : BitVec 32) : Guard := Guard.ofCode (bits w 8 4)

def decode32 (w : BitVec 32) : Except Illegal Instr := checked (guard32 w) (decode32Raw w)
def decode16 (w : BitVec 16) : Except Illegal Instr := checked Guard.always (decode16Raw w)

/-! ## Bytes (R2, R22) -/

/-- Why bytes give no instruction: the halfword or word is not there, or it is illegal. -/
inductive DecodeError where
  | truncated
  | illegal (e : Illegal)
  deriving DecidableEq, Repr

/-- A little-endian halfword. -/
def half (b0 b1 : Byte) : BitVec 16 := b1 ++ b0

/-- The first instruction of a stream of bytes with its guard, and the rest of the stream (R22). -/
def decode : List Byte → Except DecodeError (Guard × Instr × List Byte)
  | b0 :: b1 :: rest =>
    if b0.getLsbD 0 then
      match rest with
      | b2 :: b3 :: rest' =>
        (match decode32 (half b2 b3 ++ half b0 b1) with
        | .ok i => .ok (guard32 (half b2 b3 ++ half b0 b1), i, rest')
        | .error e => .error (.illegal e))
      | _ => .error .truncated
    else
      match decode16 (half b0 b1) with
      | .ok i => .ok (Guard.always, i, rest)
      | .error e => .error (.illegal e)
  | _ => .error .truncated

/-- The bytes of a 32-bit word, lowest address first. -/
def bytes32 (w : BitVec 32) : List Byte := [bits w 0 8, bits w 8 8, bits w 16 8, bits w 24 8]

/-- The bytes of a halfword, lowest address first. -/
def bytes16 (w : BitVec 16) : List Byte := [bits w 0 8, bits w 8 8]

/-- The bytes of a guarded instruction; none for a row that is no instruction word, and for a compact instruction
under a guard other than `Guard.always`. -/
def encode (g : Guard) (i : Instr) : List Byte :=
  match encode32 g i with
  | some w => bytes32 w
  | none =>
    match encode16 i with
    | some w => if g = Guard.always then bytes16 w else []
    | none => []

/-- The instruction that the decoder reads from an instruction whose bits are `w` as the opcode table numbers them:
bit 0 is the least significant bit of the first halfword. -/
def decodeTableWord (nbits w : Nat) : Option Instr :=
  match decode (bytes32 (BitVec.ofNat 32 (w % 2 ^ nbits))) with
  | .ok (_, i, _) => some i
  | .error _ => none

end Sys2Proof
end

