-- ==== Sys2Proof/Config.lean ====
section
/-! DEFINITION. What an implementation fixes and the spec does not state: the free values of the model, none of
which has a body, so that nothing proved depends on a value of them. -/

namespace Sys2Proof.Config

/-- TRAP_WORD [63:0] of the n-th trap that is neither an illegal-instruction nor an instruction-address trap: R53
gives the register a value for those two kinds only (log entry 3). -/
opaque trapWord : Nat → BitVec 64

/-- The FP32 result of a special function where R133 states a bound and no value, by function number (the func of R130)
and source: `special32` takes it only where it keeps R133's bound (log entry 4). -/
opaque special : Nat → BitVec 32 → BitVec 32

/-- The device's scale-up id, in contrail records (R315) and the system aperture (R194). -/
opaque deviceId : BitVec 16

/-- Digest of the module's root public key, burnt in (R338). -/
opaque rootKeyDigest : BitVec 384

/-- Sources that the management endpoint accepts after a boot in which no image set has verified, and its policy, 0 for
required, 1 for preferred and 2 for none: R21 has the endpoint answer, and no verified blob says whom (R335; log entry 55). -/
opaque failedSrcs : List Nat

opaque failedPolicy : Fin 3

/-- The device's identity public key, x then y (R338, R339). -/
opaque identityKey : BitVec 768

/-- ECDSA P-384 signature, r then s, by the device's identity key over a digest (R339, R340): its 96 bytes, the first one
lowest. -/
opaque sign : BitVec 384 → BitVec 768

/-- The identity public key and its certificate, as the management command returns them (R339). -/
opaque certificate : List (BitVec 8)

/-- The value that the n-th read of a poisoned word delivers (R363 states the fault and no value; log entry 6). -/
opaque upsetValue : Nat → BitVec 256

/-- The entry that a poisoned page-table word delivers to a walk, by free value and address (R363; log entry 15). -/
opaque upsetEntry : Nat → Nat → BitVec 64

/-- Which entry a full TLB gives up for a new one (R330 names no replacement; log entry 14). -/
opaque tlbVictim : Nat → Nat

/-- Which of the events that wait is delivered next, 0 for none yet: no order stands between sources (R366; log entry 88). -/
opaque eventPick : Nat → Nat

/-- Sum of FP addends on the switch path of a collective, of the n-th free value: format code, and one element of each
rank in rank order (R186 states no order; log entry 7). -/
opaque switchSum : Nat → BitVec 4 → List (BitVec 64) → BitVec 64

/-- The 64 bytes of a fault record of the compact dump: R371 gives the order of its fields and no widths. The fields,
as numbers, in that order (log entry 8). -/
opaque dumpFault : List Nat → BitVec 512

/-- The 64-byte header of a cluster in the compact dump: R371 names logical number, physical number, groups and mask of
occupied slots, and gives them no places (log entry 8). -/
opaque dumpCluster : Nat → Nat → Nat → BitVec 512 → BitVec 512

/-- The bytes of a core's trap queue in the compact dump, whose layout R371 does not give: the fields of each record
(log entry 8). -/
opaque dumpQueue : List (List Nat) → List (BitVec 8)

/-- The port engine that carries a communicator's collectives, by context and communicator: R234 gives COLL to the port
engines and no rule says which (log entry 81). -/
opaque commPort : Nat → Nat → Nat

end Sys2Proof.Config
end

