-- ==== Sys2Proof/Machine/State.lean ====
section
/-! DEFINITION. The state of the whole device as plain data (INVENTORY.md, State), its fault and refusal
reasons, and the state right after reset. Lists are sparse: a core, cluster, thread, access or table entry that is
not listed holds nothing, and `CoreSt.fresh`, `Cluster.fresh` are what an unlisted core or cluster holds. -/

namespace Sys2Proof.Machine

/-! ## Stops -/

/-- Why a step stops the machine. -/
inductive Fault where
  /-- Raised by every thread instruction's meaning when no thread holds the issue port: no thread issued it.
  SAFE: the spec gives an instruction an effect only where a thread issues it (R42). -/
  | noIssuer
  deriving DecidableEq, Repr

/-- Why a step has no meaning. -/
inductive Refusal where
  /-- Raised by an arm of `exec` whose instruction has no meaning yet. SAFE: nothing is proved of it. -/
  | notModelled (mnemonic : String)
  deriving DecidableEq, Repr

/-! ## Places -/

/-- One byte's physical place (R191, R199): an HBM physical address, a canopy offset, a byte of a physical
cluster's scratchpad, a byte of a core's TCM, a byte of the code stores, or a byte of a peer's window. -/
inductive Loc where
  | hbm (pa : Nat)
  | canopy (off : Nat)
  | spad (phys off : Nat)
  | tcm (phys c off : Nat)
  | code (a : Nat)
  | peer (id off : Nat)
  /-- of an access to a window of this device that the window refuses (R337): it is performed nowhere -/
  | nowhere
  deriving DecidableEq, Repr

/-- A register that an instruction reads or writes (R33). -/
inductive Operand where
  | int (r : IReg)
  | wide (w : WReg)
  | pred (p : PReg)
  | ext (k : KReg)
  deriving DecidableEq, Repr

/-- The five sticky flags (R123): bits 4 to 0 are invalid, divide-by-zero, overflow, underflow, inexact. -/
abbrev FFlags := BitVec 5

/-- A path stamp (R312): length, index of the last record, device time it was set, and the device that holds the record;
none for this one (R315, R318). -/
structure Stamp where
  len : Nat
  idx : BitVec 32
  at_ : Nat
  dev : Option (BitVec 16)
  deriving DecidableEq, Repr

/-- The stamp of an agent that has none before it. -/
def Stamp.zero : Stamp := ⟨0, 0, 0, none⟩

/-- What ended a wait, or made a group ready: who, with which stamp, and when (R313). -/
structure Rise where
  arriver : BitVec 32
  stamp : Stamp
  time : Nat
  deriving DecidableEq, Repr

/-! ## What an address phase obtains -/

/-- A queued matrix operation (R158, R164, R175, R176): where each operand byte lies, what has been read. -/
inductive MKind where
  /-- tile, A elements, B elements, A scales, B scales: the place of each element, none for padding -/
  | mma (n : Fin 2) (a b sa sb : List (Option Loc))
  | mz (n : Fin 2)
  /-- tile, destination of each granule, store descriptor, draws -/
  | mst (n : Fin 2) (dst : List Loc) (desc : Word) (draws : List (BitVec 32))
  deriving DecidableEq, Repr

/-- What the address phase of an MMA or copy obtained that is held for room: places, and the translations it holds, by VA
and size of each page (R159, R165, R237). -/
inductive Kept where
  | mma (kind : MKind) (pages : List (Nat × Nat))
  /-- a copy's units, with its slack -/
  | copy (units : List (Loc × List Loc)) (slack : Nat) (pages : List (Nat × Nat))
  /-- a collective's source and destination elements -/
  | coll (src dst : List Loc) (pages : List (Nat × Nat))
  deriving DecidableEq, Repr

/-- The pages whose translations are held. -/
def Kept.pages : Kept → List (Nat × Nat)
  | .mma _ ps | .copy _ _ ps | .coll _ _ ps => ps

/-! ## Threads -/

/-- What a thread is (R256, R266, R344). -/
inductive ThreadKind where
  | root
  /-- member number `m` of the family -/
  | member (fam m : Nat)
  /-- index number `m` of an inline run, in the slot of the creating thread -/
  | inline (fam m creator : Nat)
  /-- trap service of the thread -/
  | service (of_ : Nat)
  deriving DecidableEq, Repr

/-- How a thread stands. -/
inductive RunState where
  | running
  /-- issued EXIT; the steps of R76 are in progress -/
  | exiting
  /-- issued BREAK (R77) -/
  | breaking
  /-- ended by BREAK or FKILL; its issued accesses are still outstanding (R77, R276) -/
  | ended
  /-- the first steps of R76 are done: it waits for the values it passes on (R76 steps 6 and 7) -/
  | passing
  /-- in its core's trap queue or being served (R344); what it goes back to: a sequencer run traps its owner whatever the
  owner stands at (R148) -/
  | trapped (then_ : RunState)
  /-- held by a debugger at a breakpoint (R353) -/
  | held
  /-- its slot runs an inline index; this context lies in the frame (R266) -/
  | hosting (fam : Nat)
  /-- held at FGO or CREATE by a delegation probe (R262) -/
  | probing (fam : Nat)
  /-- held by a SYSW to TLB_SHOOT until the shootdown completes (R331) -/
  | shooting (sd : Nat)
  /-- ended by an EXIT, or a BREAK, of its trap service while its sequencer run goes on: it issues that when the run has
  ended (R147, R351) -/
  | leaving (brk : Bool)
  deriving DecidableEq, Repr

/-- What a waiting thread waits for (R308, R313). -/
inductive WaitOn where
  | operand (o : Operand)
  | order
  | token
  | engine
  deriving DecidableEq, Repr

/-- A copy error held by a token: code and detail (R249). -/
structure CopyErr where
  code : Nat
  detail : Nat
  deriving DecidableEq, Repr

/-- A thread: the context of R44 and what the device keeps beside it. -/
structure Thread where
  uid : Nat
  kind : ThreadKind
  run : RunState
  ctx : Nat
  /-- uid of its group -/
  group : Nat
  /-- graph whose `.text` it fetches from (R23) -/
  graph : BitVec 32
  /-- physical and logical cluster, core and slot -/
  phys : Nat
  lcl : Nat
  core : Nat
  slot : Nat
  /-- a delegated member (R263) -/
  delegated : Bool
  ints : Vector Word 31
  wides : Vector Wide 8
  exts : Vector Word 4
  /-- p1 to p7 -/
  preds : BitVec 7
  /-- full and pending words of the frame (R44) -/
  full : BitVec 50
  pend : BitVec 50
  flags : FFlags
  ftz : Bool
  daz : Bool
  rm : BitVec 3
  /-- copies not completed and errors, per token (R235, R249) -/
  tokens : Vector Nat 8
  tokErr : Vector (Option CopyErr) 8
  /-- pending reductions (R225) -/
  reds : Nat
  window : BitVec 16
  pc : Word
  index : Word
  handle : BitVec 32
  draws : BitVec 32
  /-- stochastic key and the thread's own count of creations (R118) -/
  key : Word
  creations : Nat
  /-- s_i already forwarded: first write issued (R38, R75) -/
  fwd : BitVec 4
  /-- the instruction at this address issues next without the breakpoint test (R319) -/
  bpSkip : Option Word
  /-- threads that must issue or stop being ready before it is ready again (R280) -/
  yield : List Nat
  wait : Option WaitOn
  /-- what the address phase of its next instruction obtained, while it is held for room (R159, R237) -/
  kept : Option Kept
  /-- accesses, by id, that its own come after: those issued before its family's start, and those that ended members stood
  behind (R209, R321) -/
  after : List Nat
  /-- the copy that each token saw complete last (R313) -/
  tokEnd : Vector (Option Rise) 8
  stamp : Stamp
  deriving DecidableEq, Repr

/-! ## Accesses, results and waits -/

/-- How a load widens what it reads (R67). -/
inductive Ext where
  | sx | zx
  deriving DecidableEq, Repr

/-- What an access does at its home (R67, R217, R221, R226, R228 to R230, R153, R176, R316). -/
inductive AccOp where
  | load (ext : Ext) (dst : Operand)
  | store (v : Wide)
  | rmw (op : BitVec 4) (v e : Word) (dst : Option IReg)
  | ldfe (consume : Bool) (dst : IReg)
  | stfe (v : Word)
  | feinit (toFull : Bool)
  | await (c : AwCond) (v : Word) (dst : IReg)
  | sumOn (pd pq : PReg)
  /-- an addend of format FP32, BF16 or FP16 -/
  | sumAdd (fmt : Fmt) (v : Word)
  | sumOff (dst : IReg)
  /-- a stream push from unit `u` -/
  | push (u : Fin 4) (v : Wide)
  /-- one granule of an MST: sets it FULL -/
  | mst (v : BitVec 128)
  deriving DecidableEq, Repr

/-- Where an access is (R201, R217, R220, R227). -/
inductive Phase where
  /-- a stream push whose value has not arrived (R153) -/
  | unvalued
  | sent
  /-- a full/empty request or AWAIT waiting at its home -/
  | waiting
  /-- in the requesting core's outbound queue: it, or one before it, found its list full -/
  | outbound
  /-- in the requesting core's outbound queue: it goes to a scratchpad whose cluster is saved (R357) -/
  | away
  /-- performed, its acknowledgement on its way to the core (R201) -/
  | done
  deriving DecidableEq, Repr

/-- An access that has left its core and is not performed yet (R201). -/
structure Access where
  id : Nat
  /-- issuing thread; none for an engine's -/
  uid : Option Nat
  fam : Option Nat
  group : Nat
  ctx : Nat
  /-- issuing cluster and core -/
  phys : Nat
  lcl : Nat
  core : Nat
  order : Option Order
  scope : Scope
  /-- holds every later access of the thread (R204) -/
  blocking : Bool
  /-- counts as a reduction (R225) -/
  red : Bool
  loc : Loc
  size : Nat
  op : AccOp
  phase : Phase
  /-- device time since which it has waited 4 cycles at its bank (R197) -/
  agedAt : Option Nat
  /-- requests that left later and have been performed before it at its channel core (R200) -/
  passedBy : Nat
  /-- sent again from an outbound queue: the core's later requests for the list stay behind it (R220, R227) -/
  resent : Bool
  /-- the free entry of its list that its core has been granted is its (R220, R227) -/
  granted : Bool
  /-- the channel core at a peer whose list it found full, as the peer named it (R227) -/
  queue : Nat
  /-- its thread was ended by BREAK, FKILL or EXIT: no reply is delivered (R220, R227) -/
  cancelled : Bool
  /-- a load into an output-bound register: the push that takes its value (R68, R153) -/
  push : Option Nat
  /-- a peer's access through the exported window: its device and context (R337) -/
  peer : Option (Nat × Nat)
  /-- handle of the issuing thread, for records (R314) -/
  handle : BitVec 32
  stamp : Stamp
  deriving DecidableEq, Repr

/-- What produced a result, for R45 and R308. -/
inductive Prod where
  | alu | mem | atomic | fsync | fget | tagwait | await_ | fe | vown | mwait | take | forward | other
  deriving DecidableEq, Repr

/-- A result on its way to registers (R37). -/
structure Arrival where
  id : Nat
  uid : Nat
  /-- registers and values, all delivered in one cycle (R41) -/
  writes : List (Operand × Wide)
  /-- flags it sets on delivery (R123, R125) -/
  flags : FFlags
  fp : Bool
  /-- acknowledges one reduction (R225) -/
  red : Bool
  prod : Prod
  /-- issued by the vector sequencer (R147) -/
  seqr : Bool
  /-- the push that takes the wide value (R153) -/
  push : Option Nat
  /-- place of its instruction in issue order: a forward it makes waits for the accesses before it (R75) -/
  seq : Nat
  /-- wait kind and arriver field of R314, when the wait writes a record -/
  kind : Nat
  arriver : BitVec 32
  stamp : Stamp
  /-- accesses that the thread's later ones follow from its delivery on (R209, R321) -/
  after : List Nat
  deriving DecidableEq, Repr

/-- A producer without a time bound, or a request to a unit, that owes a thread something (R45). -/
inductive PendOp where
  | fsync (fam : Nat)
  | fget (fam : Nat) (i : Fin 4)
  | tagwait (name : BitVec 32) (looked : Bool)
  /-- operations queued before it, by id -/
  | mwait (ops : List Nat)
  | vown
  /-- a fence: the accesses and matrix operations it waits for; it holds every later access (R215) -/
  | fence (accs mops : List Nat)
  | take (range : Nat)
  | takeArm (range : Nat) (start stop : Word) (p : Nat) (min : Nat)
  deriving DecidableEq, Repr

structure Pend where
  id : Nat
  uid : Nat
  dst : IReg
  op : PendOp
  deriving DecidableEq, Repr

/-- A value that member `m` forwards, in flight (R264). -/
structure Fwd where
  id : Nat
  fam : Nat
  /-- number of the sending member -/
  m : Nat
  reg : Fin 4
  value : Word
  /-- sent by this thread; waits for its accesses issued before `seq` (R75) -/
  from_ : Nat
  seq : Nat
  stamp : Stamp
  deriving DecidableEq, Repr

/-! ## Families -/

/-- Progress of a delegation probe (R262, R320). -/
structure Probe where
  /-- candidates are known -/
  answered : Bool
  cands : List Nat
  /-- answer on its way: the probed cluster and whether it accepts -/
  reply : Option (Nat × Bool)
  tries : Nat
  deriving DecidableEq, Repr

structure Family where
  uid : Nat
  handle : BitVec 32
  ctx : Nat
  group : Nat
  graph : BitVec 32
  creator : Nat
  /-- the creating core (R259, R263) -/
  phys : Nat
  lcl : Nat
  core : Nat
  /-- family-table entry, or inline frame, that holds it (R257, R258) -/
  entry : Option Nat
  frame : Option Nat
  /-- frame that holds the creator's context while it runs inline -/
  runFrame : Option Nat
  k0 : Word
  k1 : Word
  k2 : Word
  k3 : Word
  cseq : Word
  dputs : Vector Word 4
  gputs : Vector Word 8
  /-- FGO has issued -/
  started : Bool
  body : Word
  ftz : Bool
  daz : Bool
  rm : BitVec 3
  /-- order of its FGO (R261) -/
  fgo : Nat
  /-- FSTAT's where: 0, 1, 2, 3 (R275) -/
  where_ : Nat
  /-- cluster that runs the members -/
  hostPhys : Nat
  hostLcl : Nat
  /-- slots are judged against spare slots (R260, R263) -/
  spare : Bool
  /-- number of the next member to start, and the core that took the last block -/
  next : Nat
  last : Nat
  /-- forwards to the lowest unstarted member (R265) -/
  held : Vector (Option Word) 4
  /-- forwards sent: member, register, value -/
  log : List (Nat × Fin 4 × Word)
  /-- lowest member whose BREAK decides the family (R267) -/
  decided : Option Nat
  killed : Bool
  /-- FSYNC's status once it has terminated -/
  status : Option Nat
  out : Vector Word 4
  detached : Bool
  probe : Option Probe
  /-- created with rd = zero: no thread can name it (R253) -/
  nameless : Bool
  /-- the core's creation count before it, for a CREATE that traps after its probe (R72) -/
  prior : Nat
  /-- accesses its creator had outstanding at its start (R209) -/
  after : List Nat
  /-- accesses that its ended members still stood behind (R321) -/
  carry : List Nat
  stamp : Stamp
  deriving DecidableEq, Repr

/-- An FKILL on its way to the family (R276). -/
structure Kill where
  id : Nat
  fam : Nat
  tree : Bool
  deriving DecidableEq, Repr

/-! ## Cores -/

/-- A trap record (R343) with the thread it belongs to. -/
structure TrapRec where
  uid : Nat
  code : Nat
  seqr : Bool
  /-- the queued MMA that was refused at a restore (R174) -/
  mop : Option Nat
  /-- the stream whose fetch failed, for a deferred fault (R152) -/
  deferred : Option (Fin 4)
  addr : Word
  word : Word
  data : Word
  info : Word
  deriving DecidableEq, Repr

/-- A run of the vector sequencer (R146, R148). -/
structure SeqRun where
  uid : Nat
  vloop : Word
  /-- body instructions less one -/
  n : Fin 16
  pos : Nat
  /-- passes left, the current one included -/
  left : Word
  /-- stopped by a trap -/
  stopped : Bool
  /-- trap service wrote 0 to the run bit (R349) -/
  abandoned : Bool
  deriving DecidableEq, Repr

/-- A fault recorded against a stream element (R152): trap code, TRAP_INFO and TRAP_DATA. -/
structure StreamFault where
  code : Nat
  info : Word
  data : Word
  deriving DecidableEq, Repr

/-- A stream unit (R149 to R154); its counters stand with the context (R310, `Census`). -/
structure Stream where
  cfg : Option (Word × Word × Word × Word)
  bound : Option (Fin 4)
  /-- elements popped or pushed -/
  pos : Nat
  /-- fetched elements, next to pop first -/
  fifo : List Wide
  fault : Option StreamFault
  /-- value of the last element popped or pushed, and the push it came with (R154) -/
  last : Wide
  lastPush : Nat
  /-- the pop of the next element has begun to wait -/
  late : Bool
  /-- the fetch that waits at a bank: device time since which it waits there, and its place (R197) -/
  since : Option (Nat × Loc)
  stamp : Stamp
  deriving DecidableEq, Repr

def Stream.fresh : Stream := ⟨none, none, 0, [], none, 0, 0, false, none, Stamp.zero⟩

/-- What an MMA reads at issue. -/
structure MmaArgs where
  n : Fin 2
  ra : Word
  rb : Word
  k0 : Word
  k1 : Word
  k2 : Word
  fmt : Option Word
  unfold : Option (Word × Word × Word × Word)
  deriving DecidableEq, Repr

/-- Translations of a queued MMA (R165, R174): in force; to be obtained again after a restore; refused, until the
owner's trap has been served. -/
inductive MStage where
  | ready | stale | stuck
  deriving DecidableEq, Repr

structure MOp where
  id : Nat
  uid : Nat
  pc : Word
  kind : MKind
  fmt : Word
  /-- an MMA's operands, for a restore (R174) -/
  args : Option MmaArgs
  /-- global pages whose translations it holds: VA and size (R165, R331) -/
  pages : List (Nat × Nat)
  stage : MStage
  /-- values read so far, by position in a ++ b ++ sa ++ sb -/
  got : List (Nat × BitVec 32)
  /-- MST: its writes have been sent -/
  sent : Bool
  stamp : Stamp
  deriving DecidableEq, Repr

structure CoreSt where
  phys : Nat
  core : Nat
  /-- slot that issued last (R255, R379) -/
  last : Nat
  /-- creation count (R72, R257) -/
  count : Nat
  owner : Option Nat
  /-- group of the last owner (R156) -/
  ownerGroup : Option Nat
  /-- waiting VOWNs, by pend id, in order -/
  vownQ : List Nat
  seqr : Option SeqRun
  /-- the sequencer has issued in the core's present cycle: the wide datapath is taken (R144, R147) -/
  wideBusy : Bool
  streams : Vector Stream 4
  /-- element (i, j) at bits 32·(32·i + j) (R156) -/
  acc0 : BitVec 16384
  acc1 : BitVec 16384
  fmtCtx : Option Word
  unfold : Option (Word × Word × Word × Word)
  mq : List MOp
  trapQ : List TrapRec
  /-- trap being served and its service thread -/
  serving : Option (TrapRec × Nat)
  deriving DecidableEq, Repr

/-- What an unlisted core holds (R333, R379). -/
def CoreSt.fresh (phys core : Nat) : CoreSt :=
  ⟨phys, core, 63, 0, none, none, [], none, false, Vector.replicate 4 Stream.fresh, 0, 0, none, none, [], [], none⟩

/-! ## Clusters -/

structure Cluster where
  phys : Nat
  /-- context that holds it (R289) -/
  ctx : Option Nat
  /-- context that held it last (R333) -/
  lastCtx : Option Nat
  /-- logical cluster held, or held last, in stratus mode (R182) -/
  lcl : Option Nat
  /-- no thread, sequencer or trap slot issues (R356, R368) -/
  stopped : Bool
  /-- stopped for a save, which a fault does not undo (R356, R360) -/
  saving : Bool
  /-- operation in the array: core and operation id -/
  array : Option (Nat × Nat)
  /-- core the matrix unit served last (R158) -/
  mlast : Nat
  /-- requester that each scratchpad bank served last: core, or 8 for the copy engine (R197) -/
  blast : Vector Nat 64
  corePt : OpPoint
  matPt : OpPoint
  fenced : Bool
  fencing : Bool
  /-- device times of the faults counted against it (R364) -/
  faults : List Nat
  /-- device time the quantum started (R291) -/
  quantum : Nat
  /-- device time the hosting slice started (R182) -/
  slice : Nat
  deriving DecidableEq, Repr

/-- What an unlisted cluster holds: free, at the full point (R18). -/
def Cluster.fresh (phys : Nat) : Cluster :=
  ⟨phys, none, none, none, false, false, none, 7, Vector.replicate 64 8, .full, .full, false, false, [], 0, 0⟩

/-- A copy in flight (R235 to R250). -/
inductive CopyKind where
  | cpg (out : Bool)
  | send
  /-- page key, far-table entry, encoding -/
  | farOut (key : Word) (entry : Nat) (enc : Nat)
  /-- page key, far-table entry, tag to publish -/
  | farIn (key : Word) (entry : Nat) (tag : Option (BitVec 32))
  /-- communicator, number of the collective on it, bytes of an element -/
  | coll (comm k size : Nat)
  deriving DecidableEq, Repr

structure Copy where
  id : Nat
  uid : Nat
  group : Nat
  ctx : Nat
  phys : Nat
  lcl : Nat
  kind : CopyKind
  token : Fin 8
  slack : Nat
  /-- device time of issue (R242) -/
  issued : Nat
  /-- every unit that it moves, as issued: source, destinations (R241, R251) -/
  plan : List (Loc × List Loc)
  /-- units of 16 bytes, of a collective one element each: source, destinations not yet written -/
  units : List (Loc × List Loc)
  /-- global pages whose translations it holds: VA and size (R235, R331) -/
  pages : List (Nat × Nat)
  /-- bytes read and not yet written or sent: unit number and value -/
  got : List (Nat × Nat)
  /-- far tier: request sent; collective: contribution sent, and, once the result is there, whether a ring gives it -/
  sent : Bool
  /-- units left of the burst that its engine has begun (R242) -/
  burst : Nat
  /-- device time since which its request has waited 4 cycles at a bank (R197) -/
  agedAt : Option Nat
  stamp : Stamp
  deriving DecidableEq, Repr

/-- What a saved cluster holds (R356). -/
structure SaveRec where
  ctx : Nat
  lcl : Nat
  phys : Nat
  threads : List Thread
  cores : List CoreSt
  /-- scratchpad and TCM bytes, FULL granules and poisoned words, keyed as the state keys them on `phys` -/
  cells : List Host.Cell
  full : List Nat
  poison : List Nat
  /-- physical address of the record in the device region (R325, R356, log entry 108) -/
  base : Nat
  /-- a word of the record has an uncorrectable error that no read has met yet (R361, R363) -/
  upset : Bool
  deriving DecidableEq, Repr

/-! ## Graphs, replays, groups -/

/-- A loaded kernel (R98, R283). -/
structure Kernel where
  entry : Word
  window : BitVec 16
  gx : Nat
  gy : Nat
  gz : Nat
  slots : Nat
  spad : Nat
  tcm : Nat
  wide : Nat
  depvecs : List (Int × Int × Int)
  /-- tensor id, ci, cj, ck, c0 -/
  intags : List (Nat × Int × Int × Int × Int)
  outtags : List Nat
  afters : List Nat
  deriving DecidableEq, Repr

structure Graph where
  id : BitVec 32
  ctx : Nat
  place : Nat
  depth : Nat
  /-- code range (R9, R23) -/
  textBase : Nat
  textSize : Nat
  kernels : List Kernel
  params : List (Nat × Word)
  /-- ranges of generic addresses that its sections take: base and size (R88) -/
  claims : List (Nat × Nat)
  lastSeq : Option (BitVec 32)
  digests : List (BitVec 384)
  /-- removal asked: request id (R281) -/
  removing : Option Hdr
  deriving DecidableEq, Repr

/-- An upload that has passed every check and waits for room (R281, R373, log entry 58). -/
structure Upload where
  hdr : Hdr
  depth : Nat
  place : Nat
  objs : List Vgo
  at_ : List Placement
  deriving DecidableEq, Repr

/-- A queued kick (R15). -/
structure Kick where
  req : BitVec 32
  port : Nat
  msg : KickMsg
  at_ : Nat
  /-- accepted, and held until this replay, its graph's oldest then, completes (R287) -/
  waits : Option Nat
  deriving DecidableEq, Repr

/-- The counters of a kernel's groups in its window (R303): width, lowest group that has not retired, and the count of
each waiting group. -/
structure Wave where
  width : Nat
  low : Nat
  counts : List (Nat × Nat)
  deriving DecidableEq, Repr

/-- A kernel of a running replay (R287, R288, R303). -/
structure KRun where
  /-- linear indices started and retired -/
  started : List Nat
  retired : List Nat
  /-- the retirement of the kernel, by its last group -/
  fin : Option Rise
  /-- input tags satisfied: linear index, tag name -/
  sat : List (Nat × BitVec 32 × Rise)
  /-- looks that the tag table holds as waiters: linear index, tag name -/
  looked : List (Nat × BitVec 32)
  wave : Option Wave
  /-- groups that a decrement released: linear index, predecessor -/
  released : List (Nat × Rise)
  deriving DecidableEq, Repr

structure Replay where
  uid : Nat
  ctx : Nat
  graph : BitVec 32
  seq : BitVec 32
  req : BitVec 32
  port : Nat
  params : List (Nat × Word)
  kernels : List KRun
  fault : Option Nat
  /-- captured at the kick (R118, R181, R316) -/
  seed : Word
  stratus : Nat
  ctrlBase : Word
  ctrlCtl : Word
  fallback : List Nat
  stamp : Stamp
  deriving DecidableEq, Repr

inductive GroupSt where
  /-- placed; the dispatch message is on its way (R13) -/
  | placed
  | running
  /-- retired; its allotment is being cleared (R198, R241) -/
  | freeing
  /-- retired; its allotment is kept for its successor (R305) -/
  | retained
  | saved
  deriving DecidableEq, Repr

structure Group where
  uid : Nat
  ctx : Nat
  replay : Nat
  kern : Nat
  lin : Nat
  lcl : Nat
  phys : Nat
  spadBase : Nat
  spadSize : Nat
  tcmBase : Vector Nat 8
  tcmSize : Nat
  slots : Nat
  st : GroupSt
  /-- root thread has exited -/
  rootDone : Bool
  /-- successor named by RETAIN: kernel, linear index (R305) -/
  retain : Option (Nat × Nat)
  /-- RETAINs on their way to the launch unit, oldest first -/
  retainMsg : List (Nat × Nat)
  /-- device time of its retirement (R313) -/
  retiredAt : Nat
  /-- wait kind and arriver of the record that the root's start writes (R314) -/
  kind : Nat
  arriver : BitVec 32
  stamp : Stamp
  deriving DecidableEq, Repr

/-- A tag waiter (R295). -/
inductive Waiter where
  | group (replay kern lin : Nat)
  | thread (pend : Nat)
  deriving DecidableEq, Repr

structure TagEntry where
  ctx : Nat
  name : BitVec 32
  gen : BitVec 16
  published : Bool
  count : Nat
  waiters : List Waiter
  /-- order of its last change (R296) -/
  changed : Nat
  stamp : Stamp
  arriver : BitVec 32
  deriving DecidableEq, Repr

/-- A publication on its way to the tag table (R299, R245). -/
structure Pub where
  id : Nat
  ctx : Nat
  group : Nat
  replay : Nat
  name : BitVec 32
  /-- publishing thread, or the copy whose CPFAR.in publishes -/
  uid : Option Nat
  copy : Option Nat
  /-- it has faulted at the table, and never completes (R298) -/
  stale : Bool
  stamp : Stamp
  arriver : BitVec 32
  deriving DecidableEq, Repr

/-- A range of the range unit (R306). -/
structure Range where
  owner : Option Nat
  armed : Bool
  next : Int
  stop : Int
  p : Nat
  min : Nat
  /-- an accepted revoke: its header, and the requests issued before it (R306) -/
  revoking : Option (Hdr × List Nat)
  deriving DecidableEq, Repr

/-! ## Contexts -/

structure Peer where
  dev : Nat
  endpoint : Word
  length : Nat
  deriving DecidableEq, Repr

structure Window where
  base : Nat
  length : Nat
  /-- accepted peers: device and context -/
  accept : List (Nat × Nat)
  deriving DecidableEq, Repr

structure FarEntry where
  server : Word
  port : Nat
  timeoutUs : Nat
  deriving DecidableEq, Repr

/-- A contribution in progress on a communicator (R247). -/
structure Coll where
  k : Nat
  copy : Nat
  op : Nat
  fmt : Nat
  n : Nat
  ring : Bool
  src : List Loc
  dst : List Loc
  msgs : List CollMsg
  deriving DecidableEq, Repr

structure Comm where
  num : Nat
  p : Nat
  rank : Nat
  prev : Word
  next : Word
  group : Word
  timeoutUs : Nat
  /-- collectives issued so far at this rank -/
  issued : Nat
  open_ : List Coll
  /-- messages of collectives this rank has not issued yet -/
  early : List CollMsg
  deriving DecidableEq, Repr

structure Bkpt where
  handle : BitVec 32
  mask : BitVec 32
  addr : Word
  enable : Bool
  deriving DecidableEq, Repr

/-- A fault record of the compact dump (R371). -/
structure FaultRec where
  code : Nat
  source : BitVec 32
  time : Nat
  lcl : Nat
  core : Nat
  slot : Nat
  handle : BitVec 32
  index : Word
  addr : Word
  data : Word
  info : Word
  deriving DecidableEq, Repr

/-- A frozen context (R368, R369). -/
structure Freeze where
  faults : List FaultRec
  count : Nat
  complete : Option Nat
  /-- device time the limit expires; none while a debugger is attached -/
  expires : Option Nat
  left : Nat
  debugged : Bool
  deriving DecidableEq, Repr

structure Context where
  id : Nat
  grants : List (Nat × Nat)
  canopy : List (Nat × Nat)
  ptRoot : Option Nat
  allot : List Nat
  prio : Nat
  cmdSrcs : List Nat
  cmdPolicy : Policy
  dbgSrcs : List Nat
  dbgPolicy : Policy
  winSrcs : List Nat
  winPolicy : Policy
  /-- address of the window endpoint; sources and policies of far-table entries and communicators (R337) -/
  winEndpoint : Word
  farAccept : List (Nat × List Nat × Policy)
  commAccept : List (Nat × List Nat × Policy)
  /-- debug credential, set at creation (R336) -/
  credential : BitVec 256
  peers : List (Nat × Peer)
  window : Option Window
  far : List (Nat × FarEntry)
  comms : List Comm
  jobSeed : Word
  fpCtl : BitVec 10
  stratusCtl : Word
  contrailBase : Word
  contrailCtl : Word
  trapVec : Word
  sumStatus : BitVec 2
  censusSel : BitVec 8
  freezeLimit : Nat
  dumpBase : Word
  dumpSize : Nat
  /-- the dump that stands in the context's buffer: its VA and its bytes (R363) -/
  dumpAt : Option (Nat × Nat)
  /-- values of SET_FREEZE_AND_DUMP that the next kick taken puts in force (R367) -/
  newFreeze : Option (Nat × Word × Nat)
  bkpts : Vector Bkpt 8
  /-- source of the attached debugger (R336) -/
  debugger : Option Nat
  kicks : List Kick
  freeze : Option Freeze
  suspended : Bool
  /-- headers of the suspend requests that wait for their reply (R360) -/
  suspendReq : List Hdr
  /-- header of the destroy request in progress (R326) -/
  destroying : Option Hdr
  /-- header of the release request that waits for its dump (R374) -/
  releaseReq : Option (Hdr × Bool)
  /-- records written per contrail source (R316) -/
  recSeq : List (Nat × Nat)
  deriving DecidableEq, Repr

/-- A debugger is attached to the context. -/
def Context.attached (c : Context) : Bool := c.debugger.isSome

/-- Census counters, stream counters (counter c of unit u at 5u + c) and the RDCYC count of one core for one context (R308
to R311, R355). -/
structure Census where
  ctx : Nat
  lcore : Nat
  cls : Vector Word 6
  hist : Vector Word 7
  streams : Vector Word 20
  cycles : Word
  deriving DecidableEq, Repr

/-! ## Translation, sum slots, shootdowns -/

/-- A cached leaf (R330). -/
structure TlbLeaf where
  ctx : Nat
  /-- physical cluster of a cluster TLB, or 256 + die of a die TLB -/
  tlb : Nat
  page : Nat
  size : Nat
  pa : Nat
  w : Bool
  pinned : Bool
  /-- its word is poisoned (R363) -/
  bad : Bool
  deriving DecidableEq, Repr

/-- A page walk in flight on a die (R328, R330): the 64 KiB page asked for, the level and the table to be read next. -/
structure PageWalk where
  die : Nat
  ctx : Nat
  page : Nat
  level : Nat
  table : Nat
  deriving DecidableEq, Repr

/-- An exact sum slot (R231). -/
structure SumSlot where
  ctx : Nat
  pa : Nat
  a : Int
  nan : Bool
  pinf : Bool
  ninf : Bool
  count : Nat
  /-- its word is poisoned (R363) -/
  bad : Bool
  deriving DecidableEq, Repr

/-- What a shootdown in progress answers when it completes (R331). -/
inductive SdFor where
  | thread (uid : Nat)
  | command (h : Hdr)
  /-- the HBM and canopy grants that take effect then (R325) -/
  | grants (h : Hdr) (hbm canopy : List (Nat × Nat))
  deriving DecidableEq, Repr

structure Shootdown where
  id : Nat
  ctx : Nat
  lo : Nat
  size : Nat
  whole : Bool
  for_ : SdFor
  deriving DecidableEq, Repr

/-! ## Messages out -/

/-- An event record (R366). -/
structure Event where
  source : BitVec 32
  seq : BitVec 32
  time : Nat
  kind : Nat
  ctx : BitVec 16
  detail : Word
  deriving DecidableEq, Repr

/-- What the device sends. -/
inductive Out where
  /-- a completion of a kick: context, request, the 16 bytes of the message (R284) -/
  | completion (ctx : Nat) (req : BitVec 32) (payload : List Byte)
  /-- a reply: header of the request, opcode, status, payload (R372 to R374) -/
  | reply (h : Hdr) (opcode : Nat) (status : Nat) (payload : List Byte)
  /-- a breakpoint notice (R374) -/
  | notice (ctx lcl core slot : Nat) (handle : BitVec 32) (index addr : Word) (entry : Nat)
  /-- a far-tier page pushed: server entry, wire bytes (R245, R246) -/
  | farPage (ctx entry : Nat) (wire : List Byte)
  /-- a far-tier page request: server entry, key (R245) -/
  | farReq (ctx entry : Nat) (key : Word)
  /-- this rank's contribution to a collective (R247) -/
  | coll (ctx comm : Nat) (msg : CollMsg)
  /-- an access performed at a peer: peer id, offset, size, and the mark of its agent (R194, R318) -/
  | peerAccess (ctx id off size : Nat) (op : AccOp) (mark : PeerMark)
  /-- an AWAIT that waits at a peer is cancelled there: peer id, offset, size, condition and comparand (R227) -/
  | peerCancel (ctx id off size : Nat) (c : AwCond) (v : Word)
  /-- a census counter, or a refusal (R311, log entry 101) -/
  | census (h : Hdr) (value : Option Word)
  /-- the answer to a peer's access (R337): device, context, whether performed, value, the mark of its home -/
  | peerReply (dev peerCtx : Nat) (ok : Bool) (value : Wide) (mark : PeerMark)
  /-- an event record delivered to the registered endpoint (R366) -/
  | event (endpoint : Nat) (e : Event)
  deriving DecidableEq, Repr

/-! ## What happens next -/

/-- A turn of the device: one issue cycle of a core, one event or host message, or device time passing. The list of
turns in the state is the MODEL's own (log entry 1): it stands for every timing and arrival the spec leaves open, and
for everything the outside world sends. -/
inductive Turn where
  | cycle (phys core : Nat)
  | event (i : Instr)
  | advance (ns : Nat)
  /-- the loader looks again for a place for the sections of the upload that a request asked for, and finds these
  (R281, log entry 58) -/
  | load (h : Hdr) (at_ : List Placement)
  /-- the host reads a census counter of a core over the debug endpoint (R311, log entry 101) -/
  | census (h : Hdr) (lcore : Nat) (sel : BitVec 8)
  deriving DecidableEq, Repr

/-- The thread that issues the instruction being executed; the instruction's guard (R32); its ORD prefix, if any
(R31); whether the vector sequencer issues it for that thread (R147). -/
structure Port where
  uid : Nat
  guard : Guard
  pfx : Option (Order × Scope)
  seqr : Bool
  deriving DecidableEq, Repr

/-- How the module booted (R21, R338). -/
inductive Boot where
  | off | primary | recovery | failed
  deriving DecidableEq, Repr

/-- The whole device. -/
structure State where
  /-- memory: HBM, canopy, scratchpads, TCMs and code stores, keyed by `Loc.key`, in canonical form -/
  mem : List Host.Cell
  /-- FULL granules: 131072 · physical cluster + granule number, strictly rising (R197) -/
  granules : List Nat
  /-- poisoned 8-byte words: key / 8 (R363) -/
  poison : List Nat
  threads : List Thread
  accs : List Access
  arrivals : List Arrival
  pends : List Pend
  fwds : List Fwd
  families : List Family
  kills : List Kill
  cores : List CoreSt
  clusters : List Cluster
  copies : List Copy
  saves : List SaveRec
  groups : List Group
  graphs : List Graph
  uploads : List Upload
  replays : List Replay
  tags : List TagEntry
  pubs : List Pub
  ranges : Vector Range 64
  ctxs : List Context
  census : List Census
  tlb : List TlbLeaf
  walks : List PageWalk
  sums : List SumSlot
  shoots : List Shootdown
  /-- the launch unit's free-slot summary, spare slots per logical cluster, and when it was taken (R262) -/
  summary : List (Nat × Nat)
  summaryAt : Option Nat
  /-- logical to physical cluster map (R10) -/
  lmap : List Nat
  /-- freezes in order of occurrence (R369) -/
  freezeOrder : List Nat
  /-- context served last at each priority level (R290, R379) -/
  launchLast : Vector Nat 4
  /-- requester granted last by each channel core's watch list, and by each bank's list (R220, R227) -/
  watchLast : List (Nat × Nat)
  /-- scrubs in progress: base, length and header (R325) -/
  scrubs : List (Nat × Nat × Hdr)
  events : List Event
  eventSeq : List (BitVec 32 × BitVec 32)
  eventEp : Option Nat
  out : List Out
  /-- messages dropped at an endpoint (R335) -/
  dropped : Nat
  ports : BitVec 16
  /-- uncorrectable errors of HBM stacks: stack and device time (R365) -/
  stackErrs : List (Nat × Nat)
  /-- retries: link and device time (R361) -/
  linkRetries : List (Nat × Nat)
  /-- corrected errors: word and device time (R364) -/
  corrected : List (Stored × Nat)
  replaceMe : Word
  powerLimit : Nat
  boot : Boot
  cfg : BlobCfg
  /-- measurement registers and image versions (R338, R340) -/
  measure : Vector (BitVec 384) 8
  versions : Vector (BitVec 16) 8
  nextGraph : BitVec 32
  /-- device time in ns (R3) -/
  now : Nat
  port : Option Port
  turns : List Turn
  /-- next unused identifier of threads, accesses and records of the model -/
  fresh : Nat
  /-- the MODEL's own counter of free values (log entry 2) -/
  free : Nat
  deriving DecidableEq, Repr

/-- The configuration before a blob has been read: R258's and R291's and R325's defaults, logical cluster n on
physical cluster n. -/
def BlobCfg.default : BlobCfg := ⟨16, 2000, 4294967296, List.range 256, [], .required⟩

/-- The device right after reset: not booted, no context, memory with nothing listed, every counter 0 and every
arbiter as R379 says. -/
def State.reset : State where
  mem := []
  granules := []
  poison := []
  threads := []
  accs := []
  arrivals := []
  pends := []
  fwds := []
  families := []
  kills := []
  cores := []
  clusters := []
  copies := []
  saves := []
  groups := []
  graphs := []
  uploads := []
  replays := []
  tags := []
  pubs := []
  ranges := Vector.replicate 64 ⟨none, false, 0, 0, 0, 0, none⟩
  ctxs := []
  census := []
  tlb := []
  walks := []
  sums := []
  shoots := []
  summary := []
  summaryAt := none
  lmap := List.range 256
  freezeOrder := []
  launchLast := Vector.replicate 4 63
  watchLast := []
  scrubs := []
  events := []
  eventSeq := []
  eventEp := none
  out := []
  dropped := 0
  ports := 0xFFFF
  stackErrs := []
  linkRetries := []
  corrected := []
  replaceMe := 0
  powerLimit := 2400
  boot := .off
  cfg := BlobCfg.default
  measure := Vector.replicate 8 0
  versions := Vector.replicate 8 0
  nextGraph := 1
  now := 0
  port := none
  turns := []
  fresh := 1
  free := 0

end Sys2Proof.Machine
end

