-- ==== Sys2Proof/Machine/Memory.lean ====
section
/-! DEFINITION. The one memory of the model: bytes keyed by physical place, in canonical form, and the FULL
granules. A byte that nothing has written reads as zero: R20 and R198 say so of TCM and scratchpad, R9 of nothing
else; for HBM and canopy it is the model's choice (log entry 5). -/

namespace Sys2Proof.Machine

/-! ## Bytes by key -/

/-- The key of a place: HBM below 2^40, then canopy, scratchpads by physical cluster, TCMs by core, code stores, and
peers' windows, where no byte is ever kept. -/
def Loc.key : Loc → Nat
  | .hbm pa => pa
  | .canopy off => 2 ^ 40 + off
  | .spad phys off => 2 ^ 41 + phys * 2 ^ 21 + off
  | .tcm phys c off => 2 ^ 42 + (phys * 8 + c) * 2 ^ 17 + off
  | .code a => 2 ^ 43 + a
  | .peer id off => 2 ^ 50 + id * 2 ^ 47 + off
  | .nowhere => 2 ^ 60

/-- The place `n` bytes on. -/
def Loc.plus (l : Loc) (n : Nat) : Loc :=
  match l with
  | .hbm pa => .hbm (pa + n)
  | .canopy off => .canopy (off + n)
  | .spad phys off => .spad phys (off + n)
  | .tcm phys c off => .tcm phys c (off + n)
  | .code a => .code (a + n)
  | .peer id off => .peer id (off + n)
  | .nowhere => .nowhere

/-- What an unlisted byte reads as. -/
def unlisted : Byte := 0

/-- Bytes `a` on of `n` bytes overlap bytes `b` on of `m` bytes of the same memory. -/
def Loc.overlaps (a : Loc) (n : Nat) (b : Loc) (m : Nat) : Bool :=
  decide (a.key < b.key + m) && decide (b.key < a.key + n)

namespace Mem

/-- The byte at a key. -/
def get : List Host.Cell → Nat → Byte
  | [], _ => unlisted
  | (k, v) :: rest, a => if k = a then v else if a < k then unlisted else get rest a

/-- Put a byte at a key, keeping the canonical form. -/
def set : List Host.Cell → Nat → Byte → List Host.Cell
  | [], a, b => if b = unlisted then [] else [(a, b)]
  | (k, v) :: rest, a, b =>
    if a < k then (if b = unlisted then (k, v) :: rest else (a, b) :: (k, v) :: rest)
    else if a = k then (if b = unlisted then rest else (a, b) :: rest)
    else (k, v) :: set rest a b

/-- Keys strictly rising from `lo` on, and no entry that equals what an unlisted byte reads as. -/
def wfFrom : Nat → List Host.Cell → Bool
  | _, [] => true
  | lo, (k, v) :: rest => decide (lo ≤ k) && v != unlisted && wfFrom (k + 1) rest

/-- The canonical form. -/
def wf (m : List Host.Cell) : Bool := wfFrom 0 m

/-- `n` bytes from a key, lowest first. -/
def bytes (m : List Host.Cell) (a : Nat) : Nat → List Byte
  | 0 => []
  | n + 1 => get m a :: bytes m (a + 1) n

/-- Put a list of bytes from a key on. -/
def setBytes (m : List Host.Cell) (a : Nat) : List Byte → List Host.Cell
  | [] => m
  | b :: bs => setBytes (set m a b) (a + 1) bs

/-- `n` bytes from a key as a little-endian number (R2). -/
def getLE (m : List Host.Cell) (a : Nat) : Nat → Nat
  | 0 => 0
  | n + 1 => (get m a).toNat + 256 * getLE m (a + 1) n

/-- Put the low `n` bytes of a number from a key on, little-endian (R2). -/
def setLE (m : List Host.Cell) (a : Nat) : Nat → Nat → List Host.Cell
  | 0, _ => m
  | n + 1, v => setLE (set m a (BitVec.ofNat 8 v)) (a + 1) n (v / 256)

/-- Every byte with a key in [lo, lo + n) reads as unlisted. -/
def clear (m : List Host.Cell) (lo n : Nat) : List Host.Cell :=
  m.filter fun c => !(decide (lo ≤ c.1) && decide (c.1 < lo + n))

/-- The entries with a key in [lo, lo + n). -/
def slice (m : List Host.Cell) (lo n : Nat) : List Host.Cell :=
  m.filter fun c => decide (lo ≤ c.1) && decide (c.1 < lo + n)

/-- Put every entry of a list. -/
def setCells (m : List Host.Cell) : List Host.Cell → List Host.Cell
  | [] => m
  | (a, b) :: rest => setCells (set m a b) rest

end Mem

/-! ## Places of the state -/

/-- `n` bytes at a place, little-endian (R4 `Mem`). -/
def State.read (s : State) (l : Loc) (n : Nat) : Nat := Mem.getLE s.mem l.key n

/-- Write the low `n` bytes of a number at a place (R4 `Mem`). -/
def State.write (s : State) (l : Loc) (n v : Nat) : State := { s with mem := Mem.setLE s.mem l.key n v }

/-- One byte at a place. -/
def State.byteAt (s : State) (l : Loc) : Byte := Mem.get s.mem l.key

/-! ## Granule states (R197, R198) -/

/-- Insert into a strictly rising list. -/
def insertSorted (n : Nat) : List Nat → List Nat
  | [] => [n]
  | k :: rest => if n < k then n :: k :: rest else if n = k then k :: rest else k :: insertSorted n rest

/-- The number of the granule that holds a scratchpad byte. -/
def granuleNo (phys off : Nat) : Nat := phys * 131072 + off / 16

/-- The granule that holds a scratchpad place is FULL. -/
def State.granuleFull (s : State) (l : Loc) : Bool :=
  match l with
  | .spad phys off => s.granules.contains (granuleNo phys off)
  | _ => false

/-- Set the state of the granule that holds a scratchpad place. -/
def State.setGranule (s : State) (l : Loc) (full : Bool) : State :=
  match l with
  | .spad phys off =>
    let n := granuleNo phys off
    { s with granules := if full then insertSorted n s.granules else s.granules.filter (· != n) }
  | _ => s

/-! ## Code (R22, R23) -/

/-- The halfword of the code stores at a code address (R8: every cluster's copy is the same). -/
def State.codeHalf (s : State) (a : Nat) : BitVec 16 := BitVec.ofNat 16 (s.read (.code a) 2)

end Sys2Proof.Machine
end

