-- ==== Sys2Proof/Machine/Lookup.lean ====
section
/-! DEFINITION. The one way to find and change each kind of thing the state lists, and the registers of a thread
with their full and pending bits (R33, R34, R37, R44). -/

namespace Sys2Proof.Machine

/-! ## Finding and changing -/

def State.thread? (s : State) (uid : Nat) : Option Thread := s.threads.find? fun t => t.uid == uid

/-- A thread, in its slot or in a save record (R357). -/
def State.anyThread? (s : State) (uid : Nat) : Option Thread :=
  (s.thread? uid) <|> (s.saves.findSome? fun x => x.threads.find? fun t => t.uid == uid)

def State.updThread (s : State) (uid : Nat) (f : Thread → Thread) : State :=
  { s with threads := s.threads.map fun t => if t.uid == uid then f t else t }

def State.dropThread (s : State) (uid : Nat) : State :=
  { s with threads := s.threads.filter fun t => t.uid != uid }

/-- The core, or what an unlisted core holds. -/
def State.coreAt (s : State) (phys c : Nat) : CoreSt :=
  (s.cores.find? fun k => k.phys == phys && k.core == c).getD (CoreSt.fresh phys c)

/-- Every core's state, saved ones included (R356). -/
def State.allCores (s : State) : List CoreSt := s.cores ++ s.saves.flatMap fun x => x.cores

/-- The core that a thread stands on, in the save record where its cluster is saved. -/
def State.coreOf (s : State) (t : Thread) : CoreSt :=
  (s.allCores.find? fun k => k.phys == t.phys && k.core == t.core).getD (CoreSt.fresh t.phys t.core)

/-- The thread lies in a save record: its results wait for it (R45, R358). -/
def State.isSaved (s : State) (uid : Nat) : Bool := s.saves.any fun x => x.threads.any fun t => t.uid == uid

/-- The thread has not exited: it stands in a slot or in a save record. -/
def State.lives (s : State) (uid : Nat) : Bool := (s.thread? uid).isSome || s.isSaved uid

/-- Put a core's state, listing the core. -/
def State.setCore (s : State) (k : CoreSt) : State :=
  if s.cores.any fun x => x.phys == k.phys && x.core == k.core then
    { s with cores := s.cores.map fun x => if x.phys == k.phys && x.core == k.core then k else x }
  else { s with cores := s.cores ++ [k] }

def State.updCore (s : State) (phys c : Nat) (f : CoreSt → CoreSt) : State := s.setCore (f (s.coreAt phys c))

/-- The cluster, or what an unlisted cluster holds. -/
def State.clusterAt (s : State) (phys : Nat) : Cluster :=
  (s.clusters.find? fun k => k.phys == phys).getD (Cluster.fresh phys)

def State.setCluster (s : State) (k : Cluster) : State :=
  if s.clusters.any fun x => x.phys == k.phys then
    { s with clusters := s.clusters.map fun x => if x.phys == k.phys then k else x }
  else { s with clusters := s.clusters ++ [k] }

def State.updCluster (s : State) (phys : Nat) (f : Cluster → Cluster) : State := s.setCluster (f (s.clusterAt phys))

def State.ctx? (s : State) (id : Nat) : Option Context := s.ctxs.find? fun c => c.id == id

def State.updCtx (s : State) (id : Nat) (f : Context → Context) : State :=
  { s with ctxs := s.ctxs.map fun c => if c.id == id then f c else c }

def State.family? (s : State) (uid : Nat) : Option Family := s.families.find? fun f => f.uid == uid

def State.updFamily (s : State) (uid : Nat) (f : Family → Family) : State :=
  { s with families := s.families.map fun x => if x.uid == uid then f x else x }

def State.group? (s : State) (uid : Nat) : Option Group := s.groups.find? fun g => g.uid == uid

def State.updGroup (s : State) (uid : Nat) (f : Group → Group) : State :=
  { s with groups := s.groups.map fun x => if x.uid == uid then f x else x }

def State.graph? (s : State) (id : BitVec 32) : Option Graph := s.graphs.find? fun g => g.id == id

def State.replay? (s : State) (uid : Nat) : Option Replay := s.replays.find? fun r => r.uid == uid

def State.updReplay (s : State) (uid : Nat) (f : Replay → Replay) : State :=
  { s with replays := s.replays.map fun x => if x.uid == uid then f x else x }

/-- The replay that a group belongs to. -/
def State.replayOf? (s : State) (grp : Nat) : Option Replay :=
  match s.group? grp with
  | some g => s.replay? g.replay
  | none => none

/-- The kernel that a group runs. -/
def State.kernelOf? (s : State) (grp : Nat) : Option Kernel :=
  match s.group? grp with
  | some g =>
    (match s.replay? g.replay with
    | some r => (match s.graph? r.graph with
      | some gr => gr.kernels[g.kern]?
      | none => none)
    | none => none)
  | none => none

/-! ## Counters (R308 to R311) -/

/-- A core's counters for a context before anything has been counted. -/
def Census.fresh (ctx lcore : Nat) : Census :=
  ⟨ctx, lcore, Vector.replicate 6 0, Vector.replicate 7 0, Vector.replicate 20 0, 0⟩

/-- A core's counters for a context. -/
def State.censusOf (s : State) (ctx lcore : Nat) : Census :=
  (s.census.find? fun c => c.ctx == ctx && c.lcore == lcore).getD (Census.fresh ctx lcore)

def State.setCensus (s : State) (c : Census) : State :=
  { s with census := c :: s.census.filter fun x => !(x.ctx == c.ctx && x.lcore == c.lcore) }

/-- Add to one of some counters. -/
def bump {n : Nat} (v : Vector Word n) (i : Nat) (k : Nat) : Vector Word n :=
  v.set! i (v[i]?.getD 0 + BitVec.ofNat 64 k)

/-- The counters of a stream unit, in the order of R310. -/
inductive StreamCount where
  | fetched | used | discarded | late | pushed
  deriving DecidableEq, Repr

/-- Place of a counter among a core's twenty. -/
def StreamCount.at_ (u : Fin 4) (c : StreamCount) : Nat := 5 * u.val + (match c with
  | .fetched => 0
  | .used => 1
  | .discarded => 2
  | .late => 3
  | .pushed => 4)

/-- Count stream elements for a context's core (R310). -/
def State.countStream (s : State) (ctx lcore : Nat) (u : Fin 4) (c : StreamCount) (n : Nat) : State :=
  let x := s.censusOf ctx lcore
  s.setCensus { x with streams := bump x.streams (c.at_ u) n }

/-- A unit's counters start again (R310). -/
def State.clearStream (s : State) (ctx lcore : Nat) (u : Fin 4) : State :=
  let x := s.censusOf ctx lcore
  s.setCensus { x with streams := (List.range 5).foldl (fun v c => v.set! (5 * u.val + c) 0) x.streams }

/-! ## Register names -/

/-- Entry of the integer partition (R33). -/
def IReg.entry : IReg → Option (Fin 31)
  | .zero => none
  | .l i => some ⟨i.val, by omega⟩
  | .s i => some ⟨15 + i.val, by omega⟩
  | .g i => some ⟨19 + i.val, by omega⟩
  | .d i => some ⟨27 + i.val, by omega⟩

/-- Bit of the full and pending words (R44); none for `zero` and p0. -/
def Operand.bit : Operand → Option (Fin 50)
  | .int r => (IReg.entry r).map fun e => ⟨e.val, by omega⟩
  | .wide w => some ⟨31 + w.val, by omega⟩
  | .pred p => if p.val = 0 then none else some ⟨38 + p.val, by omega⟩
  | .ext k => some ⟨46 + k.val, by omega⟩

/-- Set or clear one bit. -/
def setBit {n : Nat} (x : BitVec n) (i : Nat) (b : Bool) : BitVec n :=
  if b then x ||| (1#n <<< i) else x &&& ~~~(1#n <<< i)

/-! ## Registers of a thread -/

namespace Thread

/-- The value of an integer register; `zero` reads as 0 (R34). -/
def int (t : Thread) (r : IReg) : Word :=
  match IReg.entry r with
  | some e => t.ints[e.val]
  | none => 0

def wide (t : Thread) (w : WReg) : Wide := t.wides[w.val]

def ext (t : Thread) (k : KReg) : Word := t.exts[k.val]

/-- The value of a predicate; p0 is true (R33). -/
def pred (t : Thread) (p : PReg) : Bool := if p.val = 0 then true else t.preds.getLsbD (p.val - 1)

/-- FULL; `zero` and p0 always are (R33, R34). -/
def isFull (t : Thread) (o : Operand) : Bool :=
  match o.bit with
  | some b => t.full.getLsbD b.val
  | none => true

/-- Pending (R37). -/
def isPend (t : Thread) (o : Operand) : Bool :=
  match o.bit with
  | some b => t.pend.getLsbD b.val
  | none => false

/-- An instruction that writes the register issues: EMPTY and pending (R37). -/
def owe (t : Thread) (o : Operand) : Thread :=
  match o.bit with
  | some b => { t with full := setBit t.full b.val false, pend := setBit t.pend b.val true }
  | none => t

/-- Store a value, leaving the state bits; `zero` and p0 discard it (R34). -/
def setVal (t : Thread) (o : Operand) (v : Wide) : Thread :=
  match o with
  | .int r => (match IReg.entry r with
    | some e => { t with ints := t.ints.set e.val (v.setWidth 64) }
    | none => t)
  | .wide w => { t with wides := t.wides.set w.val v }
  | .pred p => if p.val = 0 then t else { t with preds := setBit t.preds (p.val - 1) (v.getLsbD 0) }
  | .ext k => { t with exts := t.exts.set k.val (v.setWidth 64) }

/-- A result arrives: the value, FULL, not pending (R37). -/
def put (t : Thread) (o : Operand) (v : Wide) : Thread :=
  let t := t.setVal o v
  match o.bit with
  | some b => { t with full := setBit t.full b.val true, pend := setBit t.pend b.val false }
  | none => t

/-- Owe every register of a list. -/
def oweAll (t : Thread) (os : List Operand) : Thread := os.foldl owe t

/-- Deliver every value of a list (R41). -/
def putAll (t : Thread) (ws : List (Operand × Wide)) : Thread := ws.foldl (fun t w => t.put w.1 w.2) t

/-- The thread's logical core number: 8 · logical cluster + core. -/
def lcore (t : Thread) : Nat := 8 * t.lcl + t.core

def isService (t : Thread) : Bool :=
  match t.kind with
  | .service _ => true
  | _ => false

/-- Family and member number of a member or inline index. -/
def member? (t : Thread) : Option (Nat × Nat) :=
  match t.kind with
  | .member f m => some (f, m)
  | .inline f m _ => some (f, m)
  | _ => none

/-- Not ended: it executes, waits, or is on its way out. -/
def live (t : Thread) : Bool := t.run != .ended

end Thread

/-- What a thread stands at once the traps it waits for have been served (R148, R351). -/
def RunState.base : RunState → RunState
  | .trapped r => r.base
  | r => r

/-- Change what a thread stands at, behind the traps it waits for. -/
def RunState.behind (f : RunState → RunState) : RunState → RunState
  | .trapped r => .trapped (r.behind f)
  | r => f r

/-- A trap has been served: the thread goes back to what it stood at (R351). -/
def RunState.served : RunState → RunState
  | .trapped r => r
  | r => r

/-- In a trap queue, or being served. -/
def RunState.isTrapped : RunState → Bool
  | .trapped _ => true
  | _ => false

/-- Its slot runs an inline index (R266). -/
def RunState.isHosting (r : RunState) : Bool :=
  match r.base with
  | .hosting _ => true
  | _ => false

/-! ## Windows (R35, R36) -/

def winWide (w : BitVec 16) : Nat := (bits w 11 4).toNat
def winGlobals (w : BitVec 16) : Nat := (bits w 7 4).toNat
def winShared (w : BitVec 16) : Nat := (bits w 4 3).toNat
def winLocals (w : BitVec 16) : Nat := (bits w 0 4).toNat

/-- A declaration that R35 accepts. -/
def windowOk (w : BitVec 16) : Bool :=
  !w.getLsbD 15 && decide (winShared w ≤ 4) && decide (winGlobals w ≤ 8) && decide (winWide w ≤ 8)

/-- The window lets the thread name the register (R36). -/
def inWindow (w : BitVec 16) : Operand → Bool
  | .int .zero => true
  | .int (.l i) => decide (i.val < winLocals w)
  | .int (.s i) => decide (i.val < winShared w)
  | .int (.d i) => decide (i.val < winShared w)
  | .int (.g i) => decide (i.val < winGlobals w)
  | .wide k => decide (k.val < winWide w)
  | .pred _ => true
  | .ext _ => true

/-! ## Identifiers, free values, events -/

/-- Round-robin: the least number above the last one granted, else the least. -/
def roundRobin (last : Option Nat) (ns : List Nat) : Option Nat :=
  let above := ns.filter fun n => (last.map fun l => decide (l < n)).getD true
  (if above.isEmpty then ns else above).min?

/-- A fresh identifier of the model. -/
def State.newId (s : State) : Nat × State := (s.fresh, { s with fresh := s.fresh + 1 })

/-- The number of the next free value (log entry 2). -/
def State.newFree (s : State) : Nat × State := (s.free, { s with free := s.free + 1 })

/-- Queue an event record for the host, or drop it when 4,096 wait; it keeps its number either way (R366). -/
def State.report (s : State) (source : BitVec 32) (kind : Nat) (ctx : BitVec 16) (detail : Word) : State :=
  let n := ((s.eventSeq.find? fun e => e.1 == source).map (·.2)).getD 0
  let s := { s with eventSeq := (source, n + 1) :: s.eventSeq.filter fun e => e.1 != source }
  if s.events.length < 4096 then { s with events := s.events ++ [⟨source, n, s.now, kind, ctx, detail⟩] } else s

/-- An engine id: class and number (R314, R366). -/
def engineId (cls num : Nat) : BitVec 32 := BitVec.ofNat 32 (cls * 16777216 + num % 16777216)

/-- Source id of the module itself (R366). -/
def moduleId : BitVec 32 := engineId 13 0

/-- Send a message. -/
def State.send (s : State) (o : Out) : State := { s with out := s.out ++ [o] }

/-- Path length of a stamp at the present device time (R312). -/
def Stamp.length (st : Stamp) (now : Nat) : Nat := st.len + (now - st.at_)

/-- What a message to another device carries for the Account: its agent, that one's logical core, and its stamp (R318). -/
def Stamp.mark (st : Stamp) (who : BitVec 32) (lcore : Nat) : PeerMark :=
  ⟨who, lcore, st.len, st.idx, st.at_, Config.deviceId, st.dev.getD Config.deviceId⟩

/-- The stamp that a message of another device carries (R318). -/
def markStamp (m : PeerMark) : Stamp := ⟨m.len, m.idx, m.at_, some m.holder⟩

/-- The bytes of a number, little-endian. -/
def leBytes : Nat → Nat → List Byte
  | 0, _ => []
  | n + 1, v => BitVec.ofNat 8 v :: leBytes n (v / 256)

/-- The number that little-endian bytes stand for. -/
def leNat : List Byte → Nat
  | [] => 0
  | b :: bs => b.toNat + 256 * leNat bs

end Sys2Proof.Machine
end

