-- ==== Sys2Proof/Machine/Charge.lean ====
section
/-! DEFINITION. Context faults (R342, R368, R370), storage errors met by a read (R363), and the ids of homes and clusters
that they name (R314, R366). -/

namespace Sys2Proof.Machine

/-! ## Context faults (R342, R368, R370) -/

/-- Record the replay's fault code, the first one only (R17). -/
def State.faultReplay (s : State) (rep : Option Nat) (code : Nat) : State :=
  match rep with
  | some r => s.updReplay r fun x => { x with fault := some (x.fault.getD code) }
  | none => s

/-- Freeze: a first fault freezes the context, a further one is appended to its records (R370). -/
def Context.freezeWith (c : Context) (f : FaultRec) : Context :=
  match c.freeze with
  | none => { c with freeze := some ⟨[f], 1, none, none, c.freezeLimit * 1000000, c.attached⟩ }
  | some z =>
    { c with freeze := some { z with count := z.count + 1
                                     faults := if z.faults.length < 63 then z.faults ++ [f] else z.faults } }

/-- The order of the freezes with one more of the present time: of those of one time, ascending context id (R369). -/
def State.freezeAfter (s : State) (ctx : Nat) : List Nat :=
  let before (i : Nat) : Bool := decide (i < ctx) || (match ((s.ctx? i).bind (·.freeze)).bind fun z => z.faults.head? with
    | some f => decide (f.time < s.now)
    | none => true)
  s.freezeOrder.filter before ++ ctx :: s.freezeOrder.filter fun i => !before i

/-- A context fault: recorded, reported, and every cluster the context holds stops (R368). -/
def State.contextFault (s : State) (ctx : Nat) (rep : Option Nat) (f : FaultRec) : State :=
  if (s.ctx? ctx).isNone then s
  else
    let seq := ((rep.bind s.replay?).map (·.seq)).getD 0
    let s := s.faultReplay rep f.code
    let first := ((s.ctx? ctx).bind (·.freeze)).isNone
    let s := s.updCtx ctx (·.freezeWith f)
    let s := if first then { s with freezeOrder := s.freezeAfter ctx } else s
    let s := { s with clusters := s.clusters.map fun (c : Cluster) => if c.ctx == some ctx then { c with stopped := true } else c }
    s.report f.source 7 (BitVec.ofNat 16 ctx) (BitVec.ofNat 64 f.code + (zext64 seq <<< 32))

/-- Source id of a cluster's events (R366). -/
def clusterId (phys : Nat) : BitVec 32 := engineId 11 phys

/-- The fault record of a thread. -/
def State.threadFault (s : State) (t : Thread) (code : Nat) (addr data info : Word) : FaultRec :=
  ⟨code, clusterId t.phys, s.now, t.lcl, t.core, t.slot, t.handle, t.index, addr, data, info⟩

/-- A context fault that a thread raises. -/
def State.threadContextFault (s : State) (t : Thread) (code : Nat) (addr data info : Word) : State :=
  s.contextFault t.ctx ((s.group? t.group).map (·.replay)) (s.threadFault t code addr data info)

/-- A context fault that a unit raises for a group's replay, or for none. -/
def State.unitFault (s : State) (ctx : Nat) (rep : Option Nat) (code : Nat) (source : BitVec 32) : State :=
  s.contextFault ctx rep ⟨code, source, s.now, 0, 0, 0, 0, 0, 0, 0, 0⟩

/-! ## Homes (R314) -/

/-- Logical cluster whose groups or members stand on a cluster. -/
def State.standingLcl (s : State) (phys : Nat) : Option Nat :=
  ((s.groups.find? fun g => g.phys == phys && (g.st == .placed || g.st == .running || g.st == .retained)).map (·.lcl))
    <|> (s.threads.find? fun t => t.phys == phys).map (·.lcl)
    <|> (s.groups.find? fun g => g.phys == phys && g.st == .freeing).map (·.lcl)

/-- The logical cluster that a physical one stands for: the one it runs or last held for a host, else the map's; a saved
cluster's place gives its own. -/
def State.lclOf (s : State) (phys : Nat) : Nat :=
  if 256 ≤ phys then phys % 256
  else (s.standingLcl phys).getD (s.lmap.findIdx fun p => p == phys)

/-- Engine id of the home that performs an access (R314): scratchpad bank, canopy bank or channel core. -/
def State.homeId (s : State) (l : Loc) : BitVec 32 :=
  match l with
  | .spad p off => engineId 4 (64 * s.lclOf p + off / 8 % 64)
  | .canopy off => engineId 5 (off / 2 ^ 27 % 2 * 64 + off / 64 % 64)
  | .hbm pa =>
    let die := if pa < 0x6000000000 then 0 else 1
    engineId 3 (128 * die + (pa - die * 0x6000000000) / 256 % 128)
  | _ => engineId 3 0

/-! ## Storage errors on a read (R363, R364) -/

/-- Some byte of the range lies in a poisoned word. -/
def State.poisoned (s : State) (l : Loc) (n : Nat) : Bool :=
  s.poison.any fun w => decide (8 * w < l.key + n) && decide (l.key < 8 * w + 8)

/-- Count a detected fault against a cluster (R363, R364). -/
def State.countFault (s : State) (phys : Nat) : State :=
  s.updCluster phys fun c => { c with faults := c.faults ++ [s.now] }

/-- Where a storage error stands: what lies in a cluster names it (R363), any other home has an engine id. -/
def State.errorId (s : State) (l : Loc) : BitVec 32 :=
  match l with
  | .tcm p _ _ | .spad p _ => clusterId p
  | _ => s.homeId l

/-- Charge a read of a poisoned word to a context (R363). The error itself was counted when it was detected (log entry 89). -/
def State.chargeRead (s : State) (src : BitVec 32) (ctx : Nat) (grp : Option Nat) (who : Option Thread) : State :=
  let f : FaultRec := match who with
    | some t => { s.threadFault t 0x48 0 0 0 with source := src }
    | none => ⟨0x48, src, s.now, 0, 0, 0, 0, 0, 0, 0, 0⟩
  s.contextFault ctx (grp.bind fun g => (s.group? g).map (·.replay)) f

/-- The key under which the word of a cluster that holds the granule bits of 64 granules is marked poisoned. -/
def granuleKey (phys n : Nat) : Nat := 2 ^ 44 + (phys * 2048 + n) * 8

/-- A poisoned word holds granule bits of a cluster. -/
def onGranules (phys w : Nat) : Bool := decide (granuleKey phys 0 ≤ 8 * w) && decide (8 * w < granuleKey (phys + 1) 0)

/-- The granule bits of a scratchpad place stand in a poisoned word. -/
def State.granuleBad (s : State) (l : Loc) : Bool :=
  match l with
  | .spad phys off => s.poison.contains (granuleKey phys (off / 1024) / 8)
  | _ => false

/-- Read at a home: the bytes, or a free value where a word of them is poisoned (log entry 6). -/
def State.homeRead (s : State) (l : Loc) (n : Nat) (ctx : Nat) (grp : Option Nat) (who : Option Thread) : Nat × State :=
  if s.poisoned l n then
    let r := s.newFree
    ((Config.upsetValue r.1).toNat % 2 ^ (8 * n), r.2.chargeRead (s.errorId l) ctx grp who)
  else (s.read l n, s)

end Sys2Proof.Machine
end

