-- ==== Sys2Proof/Machine/Address.lean ====
section
/-! DEFINITION. From a generic address to a physical place: apertures and what each home performs (R192 to R195),
the TLBs and the page walk (R327 to R332), and scopes (R203). -/

namespace Sys2Proof.Machine

/-! ## Traps -/

/-- What an instruction that traps records (R342, R343). `resume` is `none` for TRAP_ADDR; `token` is the token whose
error a copy-error trap reports (R250); `deferred` the stream whose fetch failed (R152). -/
structure Trap where
  code : Nat
  data : Word
  info : Word
  resume : Option Word
  token : Option (Fin 8)
  deferred : Option (Fin 4)
  deriving DecidableEq, Repr

/-- A trap with a code and TRAP_DATA only. -/
def Trap.plain (code : Nat) (data : Word) : Trap := ⟨code, data, 0, none, none, none⟩

/-- 0x02 (R51). -/
def Trap.illegal : Trap := .plain 0x02 0
/-- 0x03 (R36). -/
def Trap.window : Trap := .plain 0x03 0
/-- 0x04 (R67, R216). -/
def Trap.misaligned (a : Word) : Trap := .plain 0x04 a
/-- 0x05 (R192, R195). -/
def Trap.address (a : Word) : Trap := .plain 0x05 a
/-- 0x06 (R328, R329): kind 0 not present, 1 malformed, 2 permission; `phase` for an MMA or copy address phase. -/
def Trap.translation (va : Word) (kind level : Nat) (phase : Bool) : Trap :=
  ⟨0x06, va, BitVec.ofNat 64 (kind + 4 * level + if phase then 16 else 0), none, none, none⟩
/-- 0x08 (R70). -/
def Trap.familyParam : Trap := .plain 0x08 0
/-- 0x09 (R82). -/
def Trap.familyHandle (h : Word) : Trap := .plain 0x09 h
/-- 0x0A (R72). -/
def Trap.inlineDepth : Trap := .plain 0x0A 0
/-- 0x0B (R145). -/
def Trap.ownership : Trap := .plain 0x0B 0
/-- 0x0C (R149). -/
def Trap.streamParam : Trap := .plain 0x0C 0
/-- 0x0D (R150 to R153). -/
def Trap.streamState : Trap := .plain 0x0D 0
/-- 0x0E (R160 to R176). -/
def Trap.matrixParam : Trap := .plain 0x0E 0
/-- 0x0F (R235 to R247). -/
def Trap.copyParam : Trap := .plain 0x0F 0
/-- 0x11 (R299 to R307). -/
def Trap.schedule : Trap := .plain 0x11 0

/-! ## Ranges -/

/-- Every byte of [lo, lo + n) lies in some range (base, length) of the list; `fuel` is at least the number of
ranges. -/
def coveredFrom (rs : List (Nat × Nat)) : Nat → Nat → Nat → Bool
  | _, _, 0 => true
  | 0, _, _ => false
  | fuel + 1, lo, n =>
    match rs.find? fun r => decide (r.1 ≤ lo) && decide (lo < r.1 + r.2) with
    | some r => coveredFrom rs fuel (r.1 + r.2) (n - (r.1 + r.2 - lo))
    | none => false

/-- Every byte of [lo, lo + n) lies in some range. -/
def covered (rs : List (Nat × Nat)) (lo n : Nat) : Bool := coveredFrom rs rs.length lo n

/-! ## Translation (R327 to R332) -/

/-- A leaf, or the fault that the walk raises: kind and level. -/
inductive Walk where
  | leaf (pa size : Nat) (w pinned : Bool) (level : Nat)
  | fault (kind level : Nat)
  deriving DecidableEq, Repr

/-- Index of a VA at a level (R327). -/
def walkIndex (va level : Nat) : Nat := va / 2 ^ (43 - 9 * level) % 512

/-- Page size of a leaf at a level (R327). -/
def walkSize : Nat → Nat
  | 1 => 2 ^ 34
  | 2 => 2 ^ 25
  | _ => 2 ^ 16

/-- The bits of a page-table entry that must be zero (R327). -/
def pteReserved : Word := 0xF00FFF0000000FE8

/-- A page-table entry as a walk reads it: a free value where its word is poisoned (R363, log entry 15). -/
def State.entryAt (s : State) (pa : Nat) : Word :=
  if s.poisoned (.hbm pa) 8 then Config.upsetEntry s.free pa else BitVec.ofNat 64 (s.read (.hbm pa) 8)

/-- What an entry at a level makes of a walk (R328): the fault or leaf that ends it, or the next table. -/
def walkStep (grants : List (Nat × Nat)) (va level : Nat) (e : Word) : Walk ⊕ Nat :=
  let a := (bits e 12 28).toNat * 4096
  if !e.getLsbD 0 then .inl (.fault 0 level)
  else if e &&& pteReserved != 0 then .inl (.fault 1 level)
  else if e.getLsbD 1 then
    if level = 0 || a % walkSize level != 0 || !covered grants a (walkSize level) then .inl (.fault 1 level)
    else .inl (.leaf (a + va % walkSize level) (walkSize level) (e.getLsbD 2) (e.getLsbD 4) level)
  else if level = 3 || !covered grants a 4096 then .inl (.fault 1 level)
  else .inr a

/-- The walk from the table at `t` (R328), for `n` levels that are left; the entries that it reads stand in the list. -/
def walkFrom (s : State) (grants : List (Nat × Nat)) (va : Nat) : Nat → Nat → Walk × List Nat
  | 0, _ => (.fault 1 3, [])
  | n + 1, t =>
    let pa := t + 8 * walkIndex va (3 - n)
    match walkStep grants va (3 - n) (s.entryAt pa) with
    | .inl w => (w, [pa])
    | .inr a =>
      let r := walkFrom s grants va n a
      (r.1, pa :: r.2)

/-- The walk of R328 for a context, with the entries that it reads. The PT_ROOT table is checked against the grants before it
is read, as any other table is. -/
def State.walkOf (s : State) (ctx va : Nat) : Walk × List Nat :=
  match s.ctx? ctx with
  | some c => (match c.ptRoot with
    | some t => if covered c.grants t 4096 then walkFrom s c.grants va 4 t else (.fault 1 0, [])
    | none => (.fault 0 0, []))
  | none => (.fault 0 0, [])

/-- What the walk of a VA finds. -/
def State.walk (s : State) (ctx va : Nat) : Walk := (s.walkOf ctx va).1

/-- The poisoned entries that a walk has read are charged to its context (R363). -/
def State.chargeWalk (s : State) (ctx : Nat) (read : List Nat) : State :=
  match read.filter fun pa => s.poisoned (.hbm pa) 8 with
  | [] => s
  | bad => bad.foldl (fun s pa => s.chargeRead (s.errorId (.hbm pa)) ctx none none) s.newFree.2

/-- A walk made at once. -/
def State.walkNow (s : State) (ctx va : Nat) : Walk × State :=
  let r := s.walkOf ctx va
  (r.1, s.chargeWalk ctx r.2)

/-- Level of a leaf of a size. -/
def leafLevel (size : Nat) : Nat := if size = 2 ^ 34 then 1 else if size = 2 ^ 25 then 2 else 3

/-- A cached leaf that translates the VA, in one TLB (R330). -/
def State.tlbHit (s : State) (unit ctx va : Nat) : Option TlbLeaf :=
  s.tlb.find? fun l => l.tlb == unit && l.ctx == ctx && l.page == va / l.size * l.size

/-- Entries of a TLB: 64 in a cluster's, 8,192 in a die's (R330). -/
def tlbRoom (unit : Nat) : Nat := if unit = 256 || unit = 257 then 8192 else 64

/-- Cache a leaf in one TLB, replacing what it held for the page; a full one gives up an entry, which no rule names (log
entry 14). -/
def State.tlbFill (s : State) (l : TlbLeaf) : State :=
  let rest := s.tlb.filter fun x => !(x.tlb == l.tlb && x.ctx == l.ctx && x.page == l.page && x.size == l.size)
  let mine := rest.filter fun x => x.tlb == l.tlb
  if mine.length < tlbRoom l.tlb then { s with tlb := l :: rest }
  else
    let r := s.newFree
    { r.2 with tlb := l :: (match mine[Config.tlbVictim r.1 % mine.length]? with
        | some v => rest.erase v
        | none => rest) }

/-- The leaf that a walk has found for a VA, as a die's TLB keeps it. -/
def dieLeaf (die ctx va pa size : Nat) (w pinned : Bool) : TlbLeaf :=
  ⟨ctx, 256 + die, va / size * size, size, pa - va % size, w, pinned, false⟩

/-- A walk in flight reads what it has still to read, and ends (R328, R330). -/
def State.endWalk (s : State) (x : PageWalk) (va : Nat) : Walk × State :=
  let r := walkFrom s ((s.ctx? x.ctx).map (·.grants) |>.getD []) va (4 - x.level) x.table
  let s := { s with walks := s.walks.erase x }.chargeWalk x.ctx r.2
  (r.1, match r.1 with
    | .leaf pa size w p _ => s.tlbFill (dieLeaf x.die x.ctx va pa size w p)
    | .fault _ _ => s)

/-- A TLB that finds the leaf of a VA in a poisoned word charges the reader, and gives the leaf up (R363). -/
def State.tlbRead (s : State) (unit ctx va : Nat) : Option TlbLeaf × State :=
  match s.tlbHit unit ctx va with
  | none => (none, s)
  | some l =>
    if l.bad then
      (none, { s with tlb := s.tlb.erase l }.chargeRead (if unit < 256 then clusterId unit else moduleId) ctx none none)
    else (some l, s)

/-- Walks in flight on a die. -/
def State.walksOn (s : State) (die : Nat) : List PageWalk := s.walks.filter fun x => x.die == die

/-- The walk in flight on a die for the 64 KiB page of a VA. -/
def State.walkFor (s : State) (die ctx va : Nat) : Option PageWalk :=
  (s.walksOn die).find? fun x => x.ctx == ctx && x.page == va / 65536 * 65536

/-- A miss that finds 256 walks in flight on its die waits for the oldest to end (R330). -/
def State.walkRoom (s : State) (die : Nat) : State :=
  match (s.walksOn die)[0]? with
  | some x => if 256 ≤ (s.walksOn die).length then (s.endWalk x x.page).2 else s
  | none => s

/-- A miss in a die's TLB is walked: it takes what the walk in flight for its page finds, or has one of its own (R330). -/
def State.walkMiss (s : State) (die ctx va : Nat) : Walk × State :=
  match s.walkFor die ctx va with
  | some x => s.endWalk x va
  | none =>
    match (s.walkRoom die).walkNow ctx va with
    | (.leaf pa size w p l, s) => (.leaf pa size w p l, s.tlbFill (dieLeaf die ctx va pa size w p))
    | r => r

/-- The leaf that translates a VA for an access from cluster `phys`: from the cluster TLB, from its die's TLB, or from
a walk; and the state with the TLBs filled. -/
def State.leafOf (s : State) (ctx phys va : Nat) : Except (Nat × Nat) TlbLeaf × State :=
  match s.tlbRead phys ctx va with
  | (some l, s) => (.ok l, s)
  | (none, s) =>
    let die := phys / 128
    match s.tlbRead (256 + die) ctx va with
    | (some l, s) => (.ok l, s.tlbFill { l with tlb := phys })
    | (none, s) =>
      match s.walkMiss die ctx va with
      | (.fault k l, s) => (.error (k, l), s)
      | (.leaf pa size w p _, s) =>
        let l : TlbLeaf := { dieLeaf die ctx va pa size w p with tlb := phys }
        (.ok l, s.tlbFill l)

/-- A translation that ends in a trap charges the poisoned words that it has read, whatever else the trap leaves as it was
(R363). -/
def State.chargeTrap (s : State) (ctx phys : Nat) (tr : Trap) : State :=
  if tr.code = 0x06 && !s.poison.isEmpty then (s.leafOf ctx phys tr.data.toNat).2 else s

/-- Translate a VA for a read or a write (R328, R329). -/
def State.translate (s : State) (ctx phys va : Nat) (write phase : Bool) : Except Trap Nat × State :=
  match s.leafOf ctx phys va with
  | (.error (k, l), s) => (.error (.translation (BitVec.ofNat 64 va) k l phase), s)
  | (.ok l, s') =>
    if write && !l.w then (.error (.translation (BitVec.ofNat 64 va) 2 (leafLevel l.size) phase), s)
    else (.ok (l.pa + va % l.size), s')

/-! ## Apertures (R192) -/

/-- Kinds of access (R195). -/
inductive AKind where
  | plain | atomic | granule | await_ | sum
  deriving DecidableEq, Repr

/-- An aperture byte that is not reserved. -/
inductive Aperture where
  | global | system | canopy | cluster | spad | tcm
  deriving DecidableEq, Repr

/-- The aperture of a generic address (R192). -/
def aperture (a : Word) : Option Aperture :=
  match (bits a 56 8).toNat with
  | 0x00 => some .global
  | 0x01 => some .system
  | 0xE0 => some .canopy
  | 0xE1 => some .cluster
  | 0xE2 => some .spad
  | 0xE3 => some .tcm
  | _ => none

/-- The home behind an aperture performs accesses of the kind (R195). -/
def performs : Aperture → AKind → Bool
  | _, .plain => true
  | .tcm, .atomic => false
  | _, .atomic => true
  | .spad, .granule | .cluster, .granule => true
  | _, .granule => false
  | .global, .await_ | .system, .await_ => true
  | _, .await_ => false
  | .global, .sum => true
  | _, .sum => false

/-- Who an access is made for: a thread, or an engine on a thread's behalf. -/
structure Issuer where
  ctx : Nat
  group : Nat
  phys : Nat
  core : Nat
  delegated : Bool
  deriving DecidableEq, Repr

def Thread.issuer (t : Thread) : Issuer := ⟨t.ctx, t.group, t.phys, t.core, t.delegated⟩

/-- A group whose bytes 0xE1 reaches (R192): it runs from its placement on, on its cluster or saved (R16, R290). -/
def Group.reachable (g : Group) : Bool := g.st == .placed || g.st == .running || g.st == .saved

/-- The group of the context whose allotment holds bytes [off, off + n) of a logical cluster's scratchpad. -/
def State.holder? (s : State) (ctx lcl off n : Nat) : Option Group :=
  s.groups.find? fun g => g.ctx == ctx && g.lcl == lcl && g.reachable && decide (g.spadBase ≤ off)
    && decide (off + n ≤ g.spadBase + g.spadSize)

/-- Where a checked address leads before translation: a virtual address, or a place. -/
inductive Place where
  | virt (va : Nat)
  | at_ (l : Loc)
  | peer (id off : Nat)
  deriving DecidableEq, Repr

/-- The checks of R192 that need no translation. -/
def State.place (s : State) (i : Issuer) (a : Word) (n : Nat) : Option Place :=
  match aperture a with
  | none => none
  | some .global => if bits a 52 4 = 0 then some (.virt (bits a 0 52).toNat) else none
  | some .system =>
    let id := (bits a 47 9).toNat
    let off := (bits a 0 47).toNat
    (match (s.ctx? i.ctx).bind fun c => c.peers.lookup id with
    | some p => if off < p.length then some (.peer id off) else none
    | none => none)
  | some .canopy =>
    let off := (bits a 0 28).toNat
    if bits a 28 28 = 0 && ((s.ctx? i.ctx).map fun c => covered c.canopy off n).getD false then some (.at_ (.canopy off))
    else none
  | some .cluster =>
    let lcl := (bits a 21 8).toNat
    let off := (bits a 0 21).toNat
    if bits a 29 27 = 0 then (s.holder? i.ctx lcl off n).map fun g => .at_ (.spad g.phys off) else none
  | some .spad =>
    let off := (bits a 0 21).toNat
    (match s.group? i.group with
    | some g =>
      if bits a 21 35 = 0 && !i.delegated && decide (off + n ≤ g.spadSize) then
        some (.at_ (.spad g.phys (g.spadBase + off)))
      else none
    | none => none)
  | some .tcm =>
    let off := (bits a 0 17).toNat
    (match s.group? i.group with
    | some g =>
      if h : i.core < 8 then
        if bits a 17 39 = 0 && !i.delegated && decide (off + n ≤ g.tcmSize) then
          some (.at_ (.tcm g.phys i.core (g.tcmBase[i.core] + off)))
        else none
      else none
    | none => none)

/-- The peer id that stands for a window: the lowest of the table that names it, so that two ids of one window are one
place (R202). -/
def Context.peerId (c : Context) (id : Nat) : Nat :=
  match c.peers.lookup id with
  | some p => (((c.peers.filter fun x => x.2.dev == p.dev && x.2.endpoint == p.endpoint).map (·.1)).min?).getD id
  | none => id

/-- The physical place of a byte of a context's window, as the exporter translates it (R337): through the die TLBs or a
walk, under the exporting context's permissions. -/
def State.windowPlace (s : State) (c : Context) (w : Window) (off : Nat) (write : Bool) : Option Nat × State :=
  let va := w.base + off
  match (let r := s.tlbRead 256 c.id va
    match r.1 with
    | some l => (some l, r.2)
    | none => r.2.tlbRead 257 c.id va) with
  | (some l, s) => (if write && !l.w then none else some (l.pa + va % l.size), s)
  | (none, s) =>
    match s.walkNow c.id va with
    | (.leaf pa _ wr _ _, s) => (if write && !wr then none else some pa, s)
    | (.fault _ _, s) => (none, s)

/-- The place of an access that a window's exporter has checked and translated; none where it fails a check (R337). -/
def State.windowAccess (s : State) (c : Context) (dev ctx off n : Nat) (write : Bool) : Option Nat × State :=
  match c.window with
  | some w =>
    if c.destroying.isNone && w.accept.contains (dev, ctx) && decide (off + n ≤ w.length) then s.windowPlace c w off write
    else (none, s)
  | none => (none, s)

/-- Where an access to a peer of the table goes. One whose id or entry names this device reaches the window of its endpoint
at this device's channel cores (R194, R337); where that refuses it, it is performed nowhere. -/
def State.peerPlace (s : State) (i : Issuer) (id off n : Nat) (write : Bool) : Loc × State :=
  match s.ctx? i.ctx with
  | none => (.nowhere, s)
  | some c =>
    match c.peers.lookup id with
    | none => (.nowhere, s)
    | some p =>
      if id = Config.deviceId.toNat || p.dev = Config.deviceId.toNat then
        match s.ctxs.find? fun x => x.window.isSome && x.winEndpoint == p.endpoint with
        | none => (.nowhere, s)
        | some x =>
          let r := s.windowAccess x Config.deviceId.toNat i.ctx off n write
          ((r.1.map Loc.hbm).getD .nowhere, r.2)
      else (.peer (c.peerId id) off, s)

/-- Decode, check and translate an address (R192, R195, R328, R329): the place, or the trap. `aperFirst`: the entry
names its aperture check before its alignment check (R216, R228). -/
def State.resolve (s : State) (i : Issuer) (k : AKind) (a : Word) (n : Nat) (write aperFirst phase : Bool) :
    Except Trap Loc × State :=
  let kindBad := match aperture a with
    | some ap => !performs ap k
    | none => true
  if aperFirst && kindBad then (.error (.address a), s)
  else if a.toNat % n ≠ 0 then (.error (.misaligned a), s)
  else if kindBad then (.error (.address a), s)
  else
    match s.place i a n with
    | none => (.error (.address a), s)
    | some (.at_ l) => (.ok l, s)
    | some (.peer id off) =>
      let r := s.peerPlace i id off n write
      (.ok r.1, r.2)
    | some (.virt va) =>
      (match s.translate i.ctx i.phys va write phase with
      | (.ok pa, s') => (.ok (.hbm pa), s')
      | (.error t, s') => (.error t, s'))

/-! ## Scopes and homes -/

/-- The home lies within the scope, for an issuer on cluster `phys` (R203). -/
def Loc.inScope (l : Loc) (phys : Nat) : Scope → Bool
  | .core => (match l with
    | .tcm _ _ _ => true
    | _ => false)
  | .cl => (match l with
    | .tcm _ _ _ => true
    | .spad p _ => p == phys
    | _ => false)
  | .dev => (match l with
    | .peer _ _ => false
    | _ => true)
  | .sys => true

end Sys2Proof.Machine
end

