-- ==== Sys2Proof/Machine/Ops.lean ====
section
/-! DEFINITION. The operations that families share: results and accesses on their way (R37, R201), the waits of
R204, contrail records (R313 to R316), context faults (R342, R368, R370), taking a trap (R343, R344, R353) and the
return from one (R351). -/

namespace Sys2Proof.Machine

/-! ## Stream bindings (R150, R151, R153) -/

/-- How a wide register of a thread stands. -/
inductive Binding where
  | plain
  | input (u : Fin 4) (st : Stream)
  | output (u : Fin 4) (st : Stream)
  deriving DecidableEq, Repr

/-- Elements of a stream (R149). -/
def streamTotal (c : Word × Word × Word × Word) : Nat :=
  (bits c.2.1 48 16).toNat * (bits c.2.1 24 24).toNat * (bits c.2.1 0 24).toNat

/-- Generic address of element `e` (R149). -/
def streamAddr (c : Word × Word × Word × Word) (e : Nat) : Word :=
  let n1 := (bits c.2.1 24 24).toNat
  let n0 := (bits c.2.1 0 24).toNat
  c.1 + BitVec.ofNat 64 (e / n0 / n1) * sext64 (bits c.2.2.2 0 32)
    + BitVec.ofNat 64 (e / n0 % n1) * sext64 (bits c.2.2.1 32 32)
    + BitVec.ofNat 64 (e % n0) * sext64 (bits c.2.2.1 0 32)

/-- Direction of a stream: output (R149). -/
def streamOut (c : Word × Word × Word × Word) : Bool := c.2.2.2.getLsbD 32

/-- The stream bound to a wide register of the thread. Only w0 to w3 of the core's owner are ever bound. -/
def State.binding (s : State) (t : Thread) (w : WReg) : Binding :=
  let k := s.coreOf t
  if k.owner = some t.uid then
    match (List.finRange 4).find? fun u => (k.streams[u.val].bound.map (·.val)) = some w.val with
    | some u =>
      let st := k.streams[u.val]
      if (st.cfg.map streamOut).getD false then .output u st else .input u st
    | none => .plain
  else .plain

/-! ## Accesses of a thread -/

/-- Stream pushes and MST writes are not accesses of R204 (R153, R178). -/
def Access.engine (a : Access) : Bool :=
  match a.op with
  | .push _ _ | .mst _ => true
  | _ => false

/-- The thread's own outstanding accesses. -/
def State.ownAccs (s : State) (uid : Nat) : List Access := s.accs.filter fun a => a.uid == some uid && !a.engine

/-- An AWAIT or full/empty request (R378). -/
def Access.waiter (a : Access) : Bool :=
  match a.op with
  | .await _ _ _ | .ldfe _ _ | .stfe _ | .feinit _ => true
  | _ => false

/-- It stands in its core's outbound queue (R220, R227, R357). -/
def Access.held (a : Access) : Bool := a.phase == .outbound || a.phase == .away

/-- A pending wait of the thread holds every later access: a fence (R215), a TAGWAIT (R300), an arm (R306). -/
def PendOp.holds : PendOp → Bool
  | .fence _ _ | .tagwait _ _ | .takeArm _ _ _ _ _ => true
  | _ => false

/-- An access, or a matrix operation that is queued or saved, has not been performed. -/
def State.outstanding (s : State) (id : Nat) : Bool :=
  (s.accs.any fun a => a.id == id) || s.allCores.any fun k => k.mq.any fun m => m.id == id

/-- The accesses and matrix stores that the thread's own come after are performed: those that its creator issued before
its family's start, and those that ended members stood behind when a wait of the thread was answered (R74, R209, R321). -/
def State.afterDone (s : State) (t : Thread) : Bool := !(t.after.any s.outstanding)

/-- No earlier blocking access, and no earlier wait that holds accesses, is left (R204). A TAGWAIT holds them until its
register is FULL (R300). -/
def State.unblocked (s : State) (t : Thread) : Bool :=
  s.afterDone t && !((s.ownAccs t.uid).any (·.blocking)) && !(s.pends.any fun p => p.uid == t.uid && p.op.holds)
    && !(s.arrivals.any fun a => a.uid == t.uid && a.prod == .tagwait)

/-- The thread's stream pushes and MSTs with a home in the scope (R204, R215). -/
def State.engineInScope (s : State) (t : Thread) (sc : Scope) : Bool :=
  (s.accs.any fun a => a.uid == some t.uid && a.engine && a.loc.inScope t.phys sc) ||
  (sc != .core && (s.coreAt t.phys t.core).mq.any fun m => m.uid == t.uid && (match m.kind with
    | .mst _ _ _ _ => true
    | _ => false))

/-- An access of the class may issue (R204). -/
def State.mayIssue (s : State) (t : Thread) (pfx : Option (Order × Scope)) : Bool :=
  s.unblocked t && (match pfx with
    | none => !((s.ownAccs t.uid).any fun a => !a.red)
    | some (.rlx, _) | some (.acq, _) => true
    | some (.rel, sc) | some (.sc, sc) =>
      !((s.ownAccs t.uid).any fun a => a.loc.inScope t.phys sc) && !s.engineInScope t sc)

/-- Every access the thread issued has been performed, reductions included (R235, R164). -/
def State.allPerformed (s : State) (t : Thread) : Bool := s.unblocked t && (s.ownAccs t.uid).isEmpty

/-- Class that an access really has: a reduction holds nothing (R214). -/
def effClass (red : Bool) (pfx : Option (Order × Scope)) : Option Order :=
  match pfx with
  | none => none
  | some (.acq, _) => some (if red then .rlx else .acq)
  | some (.sc, _) => some (if red then .rel else .sc)
  | some (o, _) => some o

/-- An access of the class holds later ones (R204, R214). -/
def classBlocks (red : Bool) (pfx : Option (Order × Scope)) : Bool :=
  !red && (match effClass red pfx with
    | none | some .acq | some .sc => true
    | _ => false)

/-- The family of a thread. -/
def Thread.fam? (t : Thread) : Option Nat := t.member?.map (·.1)

/-- The push that takes the value of a result for an output-bound register: the thread's newest one without a value
(R153). -/
def State.pushFor (s : State) (t : Thread) (o : Operand) : Option Nat :=
  match o with
  | .wide w => (match s.binding t w with
    | .output _ _ => ((s.accs.filter fun a => a.uid == some t.uid && a.phase == .unvalued).getLast?).map (·.id)
    | _ => none)
  | _ => none

/-! ## Lists of waiting requests (R197, R220, R227) -/

/-- Channel core of a physical address (R199). -/
def channelOf (pa : Nat) : Nat :=
  if pa < 0x6000000000 then pa / 256 % 128 else 128 + (pa - 0x6000000000) / 256 % 128

/-- The home of a saved cluster's bytes is away (R357). -/
def Loc.present : Loc → Bool
  | .spad phys _ | .tcm phys _ _ => decide (phys < 256)
  | _ => true

/-- Keys of the lists at peers start here: by peer id and the peer's channel core. -/
def peerLists : Nat := 2 ^ 40

/-- The list that a request waits on: its channel core, a peer's, or its even bank (R197, R220, R227). -/
def Access.listKey (a : Access) : Nat :=
  match a.loc with
  | .spad phys off => 1024 + phys * 64 + off / 16 % 32 * 2
  | .hbm pa => channelOf pa
  | .peer id _ => peerLists + id * 2 ^ 32 + a.queue
  | _ => 0

/-- Who asks for an entry of a list: a core of this device by its logical number, then those of peers by scale-up id and
logical core number (R220, R227). -/
def Access.requester (a : Access) : Nat :=
  match a.peer with
  | none => 8 * a.lcl + a.core
  | some (dev, _) => 2048 + 2048 * dev + 8 * a.lcl + a.core

/-- Two requests of one core for one list (R220, R227). -/
def Access.sameQueue (a b : Access) : Bool :=
  a.waiter && b.waiter && a.listKey == b.listKey && a.phys == b.phys && a.requester == b.requester

/-- The core holds an earlier request of its own for the same list (R220, R227). -/
def State.behindHeld (s : State) (a : Access) : Bool :=
  s.accs.any fun b => b.phase == .outbound && b.sameQueue a && decide (b.id < a.id)

/-- Send an access (R201); it stays in its core's outbound queue where its home is away (R357), or where the core holds an
earlier request for the same list (R220, R227). -/
def State.sendAccess (s : State) (t : Thread) (p : Port) (loc : Loc) (size : Nat) (op : AccOp) (red : Bool)
    (push : Option Nat) : State :=
  let a : Access :=
    { id := s.fresh, uid := some t.uid, fam := t.fam?, group := t.group, ctx := t.ctx, phys := t.phys, lcl := t.lcl,
      core := t.core, order := effClass red p.pfx, scope := (p.pfx.map (·.2)).getD .dev,
      blocking := classBlocks red p.pfx, red := red, loc := loc, size := size, op := op, phase := .sent,
      agedAt := none, passedBy := 0, resent := false, granted := false, queue := 0, cancelled := false, push := push, peer := none, handle := t.handle, stamp := t.stamp }
  let a := if s.behindHeld a then { a with phase := .outbound } else if !loc.present then { a with phase := .away } else a
  { s with accs := s.accs ++ [a], fresh := s.fresh + 1 }

/-- Queue a result of an instruction that has issued (R37). -/
def State.result (s : State) (t : Thread) (p : Port) (writes : List (Operand × Wide)) (prod : Prod)
    (fp : Option FFlags) : State :=
  let r : Arrival :=
    { id := s.fresh, uid := t.uid, writes := writes, flags := fp.getD 0, fp := fp.isSome, red := false, prod := prod,
      seqr := p.seqr, push := (writes.findSome? fun w => s.pushFor t w.1), seq := s.fresh, kind := 0,
      arriver := 0, stamp := t.stamp, after := [] }
  { s with arrivals := s.arrivals ++ [r], fresh := s.fresh + 1 }

/-- The reply of a home to an access (R201, R225); a peer's access is answered by a message, which carries the agent that
ended its wait, if one did, or else the home (R318, R337). -/
def State.reply (s : State) (a : Access) (writes : List (Operand × Wide)) (prod : Prod) (kind : Nat)
    (arriver : BitVec 32) (stamp : Stamp) : State :=
  match a.uid with
  | none => (match a.peer with
    | some (d, c) => s.send (.peerReply d c true ((writes.head?.map (·.2)).getD 0)
        (stamp.mark (if arriver = 0 then s.homeId a.loc else arriver) 0))
    | none => s)
  | some uid =>
    if a.cancelled && !a.red then s
    else
      let r : Arrival :=
        { id := s.fresh, uid := uid, writes := if a.cancelled then [] else writes, flags := 0, fp := false, red := a.red,
          prod := prod, seqr := false, push := a.push, seq := a.id, kind := kind, arriver := arriver,
          stamp := stamp, after := [] }
      { s with arrivals := s.arrivals ++ [r], fresh := s.fresh + 1 }

/-- Deliver the result of a wait that a unit has ended (R45). -/
def State.deliver (s : State) (p : Pend) (v : Word) (prod : Prod) (kind : Nat) (arriver : BitVec 32) (stamp : Stamp) :
    State :=
  let r : Arrival :=
    { id := s.fresh, uid := p.uid, writes := [(.int p.dst, v.setWidth 256)], flags := 0, fp := false, red := false,
      prod := prod, seqr := false, push := none, seq := p.id, kind := kind, arriver := arriver,
      stamp := stamp, after := [] }
  { s with arrivals := s.arrivals ++ [r], fresh := s.fresh + 1, pends := s.pends.filter (·.id != p.id) }

/-- Leave a request with a unit. -/
def State.pend (s : State) (t : Thread) (dst : IReg) (op : PendOp) : State :=
  { s with pends := s.pends ++ [⟨s.fresh, t.uid, dst, op⟩], fresh := s.fresh + 1 }

/-- Change the issuing thread's program counter. -/
def State.goto (s : State) (uid : Nat) (pc : Word) : State := s.updThread uid fun t => { t with pc := pc }

/-- The stamp of the last event of a group's that R16 names, which its retirement takes (R312). -/
def State.stampGroup (s : State) (grp : Nat) (st : Stamp) : State := s.updGroup grp fun g => { g with stamp := st }

/-! ## A write at its home (R201, R226, R363) -/

/-- The word satisfies an AWAIT of `n` bytes (R226). -/
def awHolds (c : AwCond) (n : Nat) (word v : Nat) : Bool :=
  let x := word % 2 ^ (8 * n)
  let y := v % 2 ^ (8 * n)
  match c with
  | .eq => x == y
  | .ne => x != y
  | .ge => decide ((BitVec.ofNat (8 * n) y).toInt ≤ (BitVec.ofNat (8 * n) x).toInt)
  | .geu => decide (y ≤ x)

/-- The last of a thread's waits on unperformed accesses has ended: its fences are lifted (R215). A saved MST has not been
performed (R178). -/
def State.liftFences (s : State) : State :=
  { s with pends := s.pends.filter fun p => match p.op with
      | .fence as ms => (s.accs.any fun a => as.contains a.id) || s.allCores.any fun k => k.mq.any fun m => ms.contains m.id
      | _ => true }

/-- An access has been performed, or withdrawn: it is outstanding no more. -/
def State.settle (s : State) (id : Nat) : State := { s with accs := s.accs.filter (·.id != id) }.liftFences

/-- A store's acknowledgement reaches its core: it is performed for its thread now (R201). -/
def State.acknowledged (s : State) (id : Nat) : State :=
  if s.accs.any fun a => a.id == id && a.phase == .done then s.settle id else s

/-- A store has been performed at its home: its acknowledgement leaves for the core (R201). An engine has no thread to
tell. -/
def State.acknowledge (s : State) (a : Access) : State :=
  match a.uid with
  | none => s.settle a.id
  | some uid =>
    let r : Arrival :=
      { id := s.fresh, uid := uid, writes := [], flags := 0, fp := false, red := false, prod := .mem, seqr := false,
        push := none, seq := a.id, kind := 0, arriver := 0, stamp := a.stamp, after := [] }
    { s with accs := s.accs.map fun (x : Access) => if x.id == a.id then { x with phase := .done } else x
             arrivals := s.arrivals ++ [r]
             fresh := s.fresh + 1 }

/-- Place the waiting AWAITs that the word at an HBM place satisfies now, in the order of their arrival (R226, R211). -/
def State.wake (s : State) (l : Loc) (n : Nat) (arriver : BitVec 32) (stamp : Stamp) : State :=
  (s.accs.filter fun a => a.phase == .waiting && a.loc.overlaps a.size l n).foldl (fun s a => match a.op with
    | .await c v d =>
      let r := s.homeRead a.loc a.size a.ctx (some a.group) (a.uid.bind s.thread?)
      if awHolds c a.size r.1 v.toNat then
        (r.2.settle a.id).reply a [(.int d, BitVec.ofNat 256 r.1)] .await_ 11 arriver stamp
      else r.2
    | _ => s) s

/-- Write the low `n` bytes of a number at a home: a poisoned word written whole is sound again (R363), and watches on
an HBM word look at it. -/
def State.homeWrite (s : State) (l : Loc) (n v : Nat) (arriver : BitVec 32) (stamp : Stamp) : State :=
  let s := s.write l n v
  let s := { s with poison := s.poison.filter fun w =>
    !(decide (l.key ≤ 8 * w) && decide (8 * w + 8 ≤ l.key + n)) }
  match l with
  | .hbm _ => s.wake l n arriver stamp
  | _ => s

/-- Bytes cut at every multiple of 8 of their addresses, each piece with the address of its first byte; `fuel` is at least
their number. -/
def cut8 : Nat → Nat → List Byte → List (Nat × List Byte)
  | 0, _, _ => []
  | fuel + 1, a, bs =>
    if bs.isEmpty then [] else (a, bs.take (8 - a % 8)) :: cut8 fuel (a + (8 - a % 8)) (bs.drop (8 - a % 8))

/-- Write bytes at virtual addresses for an agent of the device, whatever the W bits: each aligned piece is a write at its
home, which wakes watches and makes poisoned words sound (R226, R363). The stamp is the agent's own (DESIGN CHOICE, log entry
105). -/
def State.storeVa (s : State) (ctx va : Nat) (bs : List Byte) (agent : BitVec 32) : State :=
  (cut8 bs.length va bs).foldl (fun s p => match s.walkNow ctx p.1 with
    | (.leaf pa _ _ _ _, s) => s.homeWrite (.hbm pa) p.2.length (leNat p.2) agent ⟨0, 0, s.now, none⟩
    | (.fault _ _, s) => s) s

/-- The same at a place that needs no translation. -/
def State.storeAt (s : State) (l : Loc) (bs : List Byte) (agent : BitVec 32) : State :=
  (cut8 bs.length l.key bs).foldl
    (fun s p => s.homeWrite (l.plus (p.1 - l.key)) p.2.length (leNat p.2) agent ⟨0, 0, s.now, none⟩) s

/-- The key under which a word of one cluster's code store is marked poisoned; what the stores hold is one content (R8). -/
def codeKey (phys a : Nat) : Nat := 2 ^ 43 + (phys + 1) * 2 ^ 18 + a

/-- Copy bytes to every code store (R9); poisoned words that they replace whole are sound again (R363). -/
def State.storeCode (s : State) (base : Nat) (bs : List Byte) : State :=
  let inside (w : Nat) : Bool := decide (2 ^ 43 ≤ 8 * w) && decide (8 * w < 2 ^ 44)
    && decide (base ≤ (8 * w - 2 ^ 43) % 2 ^ 18) && decide ((8 * w - 2 ^ 43) % 2 ^ 18 + 8 ≤ base + bs.length)
  { s with mem := Mem.setBytes s.mem (Loc.code base).key bs, poison := s.poison.filter fun w => !inside w }

/-! ## Contrail (R313 to R316) -/

/-- The number of the next record of a source in a context, advanced. -/
def State.nextRec (s : State) (ctx source : Nat) : Nat × State :=
  let n := (((s.ctx? ctx).map (·.recSeq)).getD []).lookup source |>.getD 0
  (n, s.updCtx ctx fun c => { c with recSeq := (source, (n + 1) % 2 ^ 22) :: c.recSeq.filter (·.1 != source) })

/-- The 32 bytes of a record (R315); `dev`: the device that holds the previous record, none for this one. -/
def recBytes (time : Nat) (waiter arriver : BitVec 32) (kind : Nat) (dev : Option (BitVec 16)) (prev : BitVec 32)
    (len : Nat) : List Byte :=
  leBytes 8 time ++ leBytes 4 waiter.toNat ++ leBytes 4 arriver.toNat ++ leBytes 2 kind
    ++ leBytes 2 (dev.getD Config.deviceId).toNat ++ leBytes 4 prev.toNat ++ leBytes 8 len

/-- Write bytes at a VA of a context, one aligned block, through its tables. The writer is the module, with a stamp of its own
(DESIGN CHOICE, log entry 105). -/
def State.writeVa (s : State) (ctx phys va : Nat) (bs : List Byte) : State :=
  match s.translate ctx phys va true false with
  | (.ok pa, s) => s.homeWrite (.hbm pa) bs.length (leNat bs) moduleId Stamp.zero
  | (.error _, s) => s

/-- A wait ends at the present time: the waiter's new stamp, and the record written by `source` when the replay's
contrail is enabled. With enable 0 the stamp keeps the producer's record index (log entry 13). -/
def State.endWait (s : State) (rep : Option Replay) (ctx phys source : Nat) (waiter arriver : BitVec 32) (kind : Nat)
    (p : Stamp) : Stamp × State :=
  let len := p.length s.now
  match rep with
  | some r =>
    if r.ctrlCtl.getLsbD 8 then
      let (n, s) := s.nextRec ctx source
      let z := (bits r.ctrlCtl 0 5).toNat
      let idx : BitVec 32 := BitVec.ofNat 32 (source * 2 ^ 22 + n)
      let va := (r.ctrlBase.toNat + (source * 2 ^ z + n % 2 ^ z) * 32) % 2 ^ 52
      let prev := if kind = 16 then 0xFFFFFFFF else p.idx
      (⟨len, idx, s.now, none⟩, s.writeVa ctx phys va (recBytes s.now waiter arriver kind p.dev prev len))
    else (⟨len, p.idx, s.now, p.dev⟩, s)
  | none => (⟨len, p.idx, s.now, p.dev⟩, s)

/-- A thread's wait ends (R313): its new stamp, and the record. -/
def State.endThreadWait (s : State) (uid : Nat) (arriver : BitVec 32) (kind : Nat) (p : Stamp) : State :=
  match s.thread? uid with
  | none => s
  | some t =>
    let r := s.endWait (s.replayOf? t.group) t.ctx t.phys t.lcl t.handle arriver kind p
    r.2.updThread uid fun t => { t with stamp := r.1 }

/-! ## Taking a trap (R343, R344, R353) -/

/-- The instruction's address lies in its graph's `.text` (R23). -/
def State.inText (s : State) (graph : BitVec 32) (a : Nat) : Bool :=
  match s.graph? graph with
  | some g => decide (g.textBase ≤ a) && decide (a < g.textBase + g.textSize)
  | none => false

/-- The halfword, or the word, at a code address, zero-extended. -/
def State.codeAt (s : State) (a : Nat) : Word :=
  let h := s.codeHalf a
  if h.getLsbD 0 then zext64 h + (zext64 (s.codeHalf (a + 2)) <<< 16) else zext64 h

/-- The halfword is a prefix: compact op 1 (R30). -/
def isPrefix (h : BitVec 16) : Bool := bits h 0 6 == 2

/-- TRAP_WORD (R53): for an illegal instruction, the word, or the prefix and what follows it; 0 for an
instruction-address trap; for every other trap no rule gives a value, and a free one stands there (log entry 3). -/
def State.trapWord (s : State) (code a : Nat) : Word × State :=
  if code = 2 then
    let h := s.codeHalf a
    (if isPrefix h then (zext64 h <<< 32) + s.codeAt (a + 2) else s.codeAt a, s)
  else if code = 1 then (0, s)
  else
    let r := s.newFree
    (Config.trapWord r.1, r.2)

/-- Address of the body instruction at which a sequencer run stands (R146). -/
def SeqRun.addr (r : SeqRun) : Word := r.vloop + 4 + 4 * BitVec.ofNat 64 r.pos

/-- Send the notice of a thread that a debugger holds (R353, R374). -/
def State.notify (s : State) (t : Thread) (addr info : Word) : State :=
  s.send (.notice t.ctx t.lcl t.core t.slot t.handle t.index addr (info.toNat % 16))

/-- The issuing thread takes a trap (R341 to R344). It stops issuing, keeps its state, and joins its core's queue with
its record; its pc is the resume address. The owner of a sequencer run that traps goes back to what it stood at once that
trap has been served (R148), and so does a thread whose other trap waits already. The instruction of a breakpoint trap is not tested again until it has issued (R319). A trap of a trap service thread is a double trap (R347); a breakpoint of a
context with a debugger attached holds the thread instead (R353). -/
def State.takeTrap (s : State) (t : Thread) (p : Port) (tr : Trap) : State :=
  let k := s.coreAt t.phys t.core
  let addr := if p.seqr then (k.seqr.map SeqRun.addr).getD t.pc else t.pc
  if t.isService then s.threadContextFault t 0x45 addr tr.data tr.info
  else
    let pc := if p.seqr then t.pc else tr.resume.getD t.pc
    let skip := if tr.code == 0x12 && !tr.info.getLsbD 3 then some addr else t.bpSkip
    let errs := match tr.token with
      | some k => t.tokErr.set k.val none
      | none => t.tokErr
    if tr.code = 0x12 && ((s.ctx? t.ctx).map (·.attached)).getD false then
      (s.updThread t.uid fun t => { t with run := .held, pc := pc, bpSkip := skip, wait := none }).notify t addr tr.info
    else
      let w := s.trapWord tr.code addr.toNat
      let s := w.2.updThread t.uid fun t =>
        { t with run := .trapped (if p.seqr then t.run else t.run.behind fun _ => .running), pc := pc, bpSkip := skip, tokErr := errs
                 wait := none, kept := none }
      s.updCore t.phys t.core fun k =>
        { k with trapQ := k.trapQ ++ [⟨t.uid, tr.code, p.seqr, none, tr.deferred, addr, w.1, tr.data, tr.info⟩]
                 seqr := if p.seqr then k.seqr.map fun r => { r with stopped := true } else k.seqr }

/-! ## The return from a trap (R351) -/

/-- A stream unit fetches the element of a deferred fault again (R152). -/
def Stream.refetch (st : Stream) : Stream := { st with fault := none }

/-- The trap slot of a core resumes the thread it serves (R351): a sequencer run goes on unless it was abandoned
(R349), a deferred fault's element is fetched again, and no other stream's (R152), the queued MMA of the trap that was refused at its restore is tried again (R174),
a record of kind 12 is written, and the slot is free for the
next trap. -/
def State.returnTrap (s : State) (phys core : Nat) : State :=
  let k := s.coreAt phys core
  match k.serving with
  | none => s
  | some (r, svc) =>
    let stamp := ((s.thread? svc).map (·.stamp)).getD Stamp.zero
    let lc := ((s.thread? svc).map Thread.lcore).getD 0
    let s := (s.dropThread svc).setCore
      { k with serving := none
               seqr := (match k.seqr with
                 | some q =>
                   if r.seqr then (if q.abandoned then none else some { q with stopped := false }) else some q
                 | none => none)
               mq := k.mq.map fun m => if r.mop = some m.id && m.stage = .stuck then { m with stage := .stale } else m
               streams := (match r.deferred with
                 | some u => k.streams.set u.val k.streams[u.val].refetch
                 | none => k.streams) }
    (s.updThread r.uid fun t => { t with run := t.run.served }).endThreadWait r.uid (engineId 9 lc) 12 stamp

end Sys2Proof.Machine
end

