-- ==== Sys2Proof/Machine/Plan.lean ====
section
/-! DEFINITION. The parameter checks and address phases of matrix operations (R160 to R164, R171, R176, R376) and
copies (R235, R238 to R240, R245, R247): what each reads and writes, or the first trap it meets. -/

namespace Sys2Proof.Machine

/-! ## Passes over addresses -/

/-- Places in order, and the distinct global pages that hold them. -/
structure Planned where
  locs : List Loc
  pages : List (Nat × Nat)
  deriving DecidableEq, Repr

/-- Decode, check and translate `n` bytes at each address, in order, through the named apertures only (R164, R235). -/
def State.planFrom (s : State) (i : Issuer) (aps : List Aperture) (n : Nat) (write : Bool) :
    List Word → List Loc → List (Nat × Nat) → Except Trap Planned × State
  | [], ls, ps => (.ok ⟨ls.reverse, ps⟩, s)
  | a :: rest, ls, ps =>
    match aperture a with
    | none => (.error (.address a), s)
    | some ap =>
      if !aps.contains ap then (.error (.address a), s)
      else
        match s.resolve i .plain a n write false true with
        | (.error t, s) => (.error t, s)
        | (.ok l, s) =>
          let ps := if ap = .global then
              (match s.tlbHit i.phys i.ctx (bits a 0 52).toNat with
              | some e => if ps.contains (e.page, e.size) then ps else (e.page, e.size) :: ps
              | none => ps)
            else ps
          State.planFrom s i aps n write rest (l :: ls) ps

/-- Several runs of addresses one after another, sharing the page count: each with its apertures, size and direction. -/
def State.planRuns (s : State) (i : Issuer) : List (List Aperture × Nat × Bool × List Word) → List (Nat × Nat) →
    Except Trap (List (List Loc) × List (Nat × Nat)) × State
  | [], ps => (.ok ([], ps), s)
  | (aps, n, w, as) :: rest, ps =>
    match s.planFrom i aps n w as [] ps with
    | (.error t, s) => (.error t, s)
    | (.ok p, s) =>
      match State.planRuns s i rest p.pages with
      | (.error t, s) => (.error t, s)
      | (.ok (ls, ps), s) => (.ok (p.locs :: ls, ps), s)

/-- The first of a list of starts that is not a multiple of its unit (R164, R235). -/
def firstMisaligned (starts : List (Word × Nat)) : Option Word :=
  (starts.find? fun a => a.1.toNat % a.2 ≠ 0).map (·.1)

/-! ## Format descriptors (R160) -/

def mfa (d : Word) : Fmt := Fmt.ofCode (bits d 0 4)
def mfb (d : Word) : Fmt := Fmt.ofCode (bits d 4 4)
def mscaled (d : Word) : Bool := d.getLsbD 8
def munfold (d : Word) : Bool := d.getLsbD 9
def msa (d : Word) : Nat := (bits d 16 16).toNat
def msb (d : Word) : Nat := (bits d 32 16).toNat
def mdepth (d : Word) : Nat := (bits d 48 11).toNat

/-- Classes of the accepted format pairs (R160). -/
inductive MClass where
  | integer | float8 | float4 | float16
  deriving DecidableEq, Repr

def mclass (a b : Fmt) : Option MClass :=
  match a, b with
  | .i8, .i8 | .i8, .n8 | .n8, .i8 | .n8, .n8 => some .integer
  | .e4, .e4 | .e4, .e5 | .e5, .e4 | .e5, .e5 => some .float8
  | .e2, .e2 => some .float4
  | .h, .h | .bf, .bf => some .float16
  | _, _ => none

/-- The descriptor is valid (R160). -/
def mfmtOk (d : Word) : Bool :=
  bits d 59 5 == 0 && bits d 10 6 == 0 && (mclass (mfa d) (mfb d)).isSome
    && (!mscaled d || (mfa d == .e4 && mfb d == .e4)) && !(munfold d && mfa d == .e2)
    && decide (16 ≤ mdepth d) && decide (mdepth d ≤ 512) && mdepth d % 16 == 0
    && (!mscaled d || mdepth d % 128 == 0)
    && msa d % 8 == 0 && msb d % 8 == 0 && (!munfold d || msa d == 0)

/-! ## The unfold unit (R162, R163) -/

/-- The unfold descriptor's fields. -/
structure Unfold where
  base : Word
  n : Nat
  c : Nat
  w : Nat
  h : Nat
  pb : Nat
  pr : Nat
  pl : Nat
  pt : Nat
  dw : Nat
  dh : Nat
  sw : Nat
  sh : Nat
  kw : Nat
  kh : Nat
  deriving DecidableEq, Repr

def Unfold.of (d : Word × Word × Word × Word) : Unfold :=
  let f (x : Word) (lo n : Nat) : Nat := (bits x lo n).toNat
  { base := d.1, n := f d.2.1 48 16, c := f d.2.1 32 16, w := f d.2.1 16 16, h := f d.2.1 0 16,
    pb := f d.2.2.1 56 8, pr := f d.2.2.1 48 8, pl := f d.2.2.1 40 8, pt := f d.2.2.1 32 8,
    dw := f d.2.2.1 28 4, dh := f d.2.2.1 24 4, sw := f d.2.2.1 20 4, sh := f d.2.2.1 16 4,
    kw := f d.2.2.1 8 8, kh := f d.2.2.1 0 8 }

/-- Output height and width (R162), below 1 where the window does not fit. -/
def Unfold.ho (u : Unfold) : Int := Int.fdiv (u.h + u.pt + u.pb - u.dh * (u.kh - 1) - 1) u.sh + 1
def Unfold.wo (u : Unfold) : Int := Int.fdiv (u.w + u.pl + u.pr - u.dw * (u.kw - 1) - 1) u.sw + 1

/-- The descriptor is valid (R162). -/
def munfOk (d : Word × Word × Word × Word) : Bool :=
  let u := Unfold.of d
  decide (1 ≤ u.n) && decide (1 ≤ u.c) && decide (1 ≤ u.w) && decide (1 ≤ u.h) && decide (1 ≤ u.dw)
    && decide (1 ≤ u.dh) && decide (1 ≤ u.sw) && decide (1 ≤ u.sh) && decide (1 ≤ u.kw) && decide (1 ≤ u.kh)
    && d.2.2.2 == 0 && aperture u.base == some .spad && u.base.toNat % 8 == 0
    && decide (1 ≤ u.ho) && decide (1 ≤ u.wo)
    && decide (u.n * u.ho * u.wo ≤ 2 ^ 24) && decide (u.kh * u.kw * u.c ≤ 2 ^ 24)

/-- The address of A(i, κ), none for a padding or out-of-range element (R163); `esize` in bytes. -/
def Unfold.addr (u : Unfold) (p0 k0 i k esize : Nat) : Option Word :=
  let p := p0 + i
  let x := k0 + k
  let wo := u.wo.toNat
  let ho := u.ho.toNat
  if u.n * ho * wo ≤ p || u.kh * u.kw * u.c ≤ x then none
  else
    let ow := p % wo
    let oh := p / wo % ho
    let n := p / (wo * ho)
    let c := x % u.c
    let s := x / u.c % u.kw
    let r := x / (u.c * u.kw)
    let h : Int := oh * u.sh + r * u.dh - u.pt
    let w : Int := ow * u.sw + s * u.dw - u.pl
    if h < 0 || u.h ≤ h || w < 0 || u.w ≤ w then none
    else some (u.base + BitVec.ofNat 64 ((((n * u.h + h.toNat) * u.w + w.toNat) * u.c + c) * esize))

/-! ## MMA (R164, R171, R376) -/

/-- The parameter check (R164 phase 1). -/
def MmaArgs.ok (m : MmaArgs) : Bool :=
  match m.fmt with
  | none => false
  | some d =>
    (!munfold d || (bits m.ra 48 16 == 0 && m.unfold.isSome
      && (bits m.ra 24 24).toNat % (if mscaled d then 128 else 16) == 0))
    && (!mscaled d || (bits m.k2 16 48 == 0 && (bits m.k2 0 16).toNat % 4 == 0))

/-- Address of element `k` of a row, elements of `w` bits (R161). -/
def elemAddr (row : Word) (w k : Nat) : Word := row + BitVec.ofNat 64 (k * w / 8)

/-- Addresses of A in (i, κ) order. -/
def MmaArgs.aAddrs (m : MmaArgs) (d : Word) : List (Option Word) :=
  (List.range 16).flatMap fun i => (List.range (mdepth d)).map fun k =>
    if munfold d then
      m.unfold.bind fun u =>
        (Unfold.of u).addr (bits m.ra 0 24).toNat (bits m.ra 24 24).toNat i k ((mfa d).width / 8)
    else some (elemAddr (m.ra + BitVec.ofNat 64 (i * msa d)) (mfa d).width k)

/-- Addresses of B in (κ, j) order. -/
def MmaArgs.bAddrs (m : MmaArgs) (d : Word) : List Word :=
  (List.range (mdepth d)).flatMap fun k => (List.range 32).map fun j =>
    elemAddr (m.rb + BitVec.ofNat 64 (k * msb d)) (mfb d).width j

/-- Addresses of the A scales in (i, q) order, and of the B scales. -/
def MmaArgs.saAddrs (m : MmaArgs) (d : Word) : List Word :=
  if mscaled d then
    (List.range 16).flatMap fun i => (List.range (mdepth d / 128)).map fun q =>
      m.k0 + BitVec.ofNat 64 (i * (bits m.k2 0 16).toNat + 4 * q)
  else []
def MmaArgs.sbAddrs (m : MmaArgs) (d : Word) : List Word :=
  if mscaled d then (List.range (mdepth d / 128)).map fun q => m.k1 + BitVec.ofNat 64 (4 * q) else []

/-- Put places back where addresses stood, leaving padding. -/
def spread : List (Option Word) → List Loc → List (Option Loc)
  | none :: as, ls => none :: spread as ls
  | some _ :: as, l :: ls => some l :: spread as ls
  | _, _ => []

/-- Places and pages of an MMA's operands (R164 phase 3, R376); `limit`: more than 32 pages are refused, which a restaging
does not check again (R174). -/
def State.mmaPlaces (s : State) (i : Issuer) (m : MmaArgs) (limit : Bool) :
    Except Trap (MKind × List (Nat × Nat)) × State :=
  match m.fmt with
  | none => (.error .matrixParam, s)
  | some d =>
    let starts := (if munfold d then [] else [(m.ra, 8)]) ++ [(m.rb, 8)]
      ++ (if mscaled d then [(m.k0, 4), (m.k1, 4)] else [])
    match firstMisaligned starts with
    | some a => (.error (.misaligned a), s)
    | none =>
      let sp := [Aperture.spad, .global]
      let as := m.aAddrs d
      let bytes (f : Fmt) := max 1 (f.width / 8)
      match s.planRuns i [(sp, bytes (mfa d), false, as.filterMap id), (sp, bytes (mfb d), false, m.bAddrs d),
          (sp, 4, false, m.saAddrs d), (sp, 4, false, m.sbAddrs d)] [] with
      | (.error t, s) => (.error t, s)
      | (.ok ([a, b, sa, sb], ps), s) =>
        if limit && decide (32 < ps.length) then (.error .matrixParam, s)
        else (.ok (.mma m.n (spread as a) (b.map some) (sa.map some) (sb.map some), ps), s)
      | (.ok _, s) => (.error .matrixParam, s)

/-- The address phase (R164 phase 3, R376). -/
def State.mmaPlan (s : State) (i : Issuer) (m : MmaArgs) : Except Trap (MKind × List (Nat × Nat)) × State :=
  s.mmaPlaces i m true

/-! ## MST (R176) -/

/-- Mode field of a store descriptor: 0 RNE, 1 RTZ, 2 SR, 3 RNE with .sat. -/
def mstMode (d : Word) : CvtMode := CvtMode.ofCode2 (bits d 4 2)

/-- Reading of the accumulator under a format context: FP32 or i32 (R176). -/
def mstSrc (fmt : Word) : Fmt := if mclass (mfa fmt) (mfb fmt) = some .integer then .i32 else .s

/-- The store descriptor is valid for the source reading (R176, R127). -/
def mstOk (src : Fmt) (d : Word) : Bool :=
  let dst := Fmt.ofCode (bits d 0 4)
  bits d 6 10 == 0 && bits d 32 32 == 0 && (bits d 16 16).toNat % 16 == 0
    && (match dst with
      | .i8 | .i16 | .i32 | .n8 | .n16 | .n32 | .s | .h | .bf | .e5 | .e4 | .e2 => true
      | _ => false)
    && (if dst == src then mstMode d == .dyn else modeOk src dst (mstMode d))

/-- Granules of an MST's rows, row-major. -/
def mstAddrs (base d : Word) : List Word :=
  let dst := Fmt.ofCode (bits d 0 4)
  (List.range 16).flatMap fun i => (List.range (dst.width * 32 / 128)).map fun g =>
    base + BitVec.ofNat 64 (i * (bits d 16 16).toNat + 16 * g)

/-- The checks of an MST after ownership, and its granules (R176). -/
def State.mstPlan (s : State) (i : Issuer) (fmt : Option Word) (base d : Word) : Except Trap (List Loc) × State :=
  match fmt with
  | none => (.error .matrixParam, s)
  | some f =>
    if !mstOk (mstSrc f) d then (.error .matrixParam, s)
    else if base.toNat % 16 ≠ 0 then (.error (.misaligned base), s)
    else
      match s.planFrom i [.spad] 16 true (mstAddrs base d) [] [] with
      | (.error t, s) => (.error t, s)
      | (.ok p, s) => (.ok p.locs, s)

/-! ## Copies (R235 to R247) -/

/-- What a copy moves, once its checks have passed. -/
structure CopyPlan where
  units : List (Loc × List Loc)
  slack : Nat
  pages : List (Nat × Nat)
  deriving DecidableEq, Repr

/-- Shape of CPG and SEND (R238). -/
structure Shape where
  n2 : Nat
  n1 : Nat
  n0 : Nat
  s1b : Word
  s1a : Word
  s2b : Word
  s2a : Word
  deriving DecidableEq, Repr

def Shape.of (k0 k1 k2 : Word) : Shape :=
  ⟨(bits k0 48 16).toNat, (bits k0 32 16).toNat, (bits k0 0 32).toNat, sext64 (bits k1 32 32), sext64 (bits k1 0 32),
    sext64 (bits k2 32 32), sext64 (bits k2 0 32)⟩

/-- Counts, strides and total are in range (R238). -/
def Shape.ok (h : Shape) : Bool :=
  decide (1 ≤ h.n2) && decide (1 ≤ h.n1) && decide (16 ≤ h.n0) && decide (h.n0 ≤ 2 ^ 21) && h.n0 % 16 == 0
    && [h.s1b, h.s1a, h.s2b, h.s2a].all (fun x => x.toNat % 16 == 0)
    && decide (h.n0 * h.n1 * h.n2 ≤ 2 ^ 21)

/-- Addresses of the 16-byte units of one side in row order (R235, R238). -/
def Shape.addrs (h : Shape) (base s1 s2 : Word) : List Word :=
  (List.range h.n2).flatMap fun i2 => (List.range h.n1).flatMap fun i1 => (List.range (h.n0 / 16)).map fun b =>
    base + BitVec.ofNat 64 i2 * s2 + BitVec.ofNat 64 i1 * s1 + BitVec.ofNat 64 (16 * b)

def Shape.aAddrs (h : Shape) (base : Word) : List Word := h.addrs base h.s1a h.s2a
def Shape.bAddrs (h : Shape) (base : Word) : List Word := h.addrs base h.s1b h.s2b

/-- CPG.in and CPG.out (R239). -/
def State.cpgPlan (s : State) (i : Issuer) (out : Bool) (ra rb k0 k1 k2 k3 : Word) : Except Trap CopyPlan × State :=
  let h := Shape.of k0 k1 k2
  if !h.ok || bits k3 8 56 != 0 then (.error .copyParam, s)
  else
    match firstMisaligned [(ra, 16), (rb, 16)] with
    | some a => (.error (.misaligned a), s)
    | none =>
      match s.planRuns i [([.global, .system, .canopy], 16, out, h.aAddrs ra), ([.spad], 16, out == false, h.bAddrs rb)]
          [] with
      | (.error t, s) => (.error t, s)
      | (.ok ([a, b], ps), s) =>
        if 64 < ps.length then (.error .copyParam, s)
        else
          let us := if out then b.zip (a.map ([·])) else a.zip (b.map ([·]))
          (.ok ⟨us, (bits k3 0 8).toNat, ps⟩, s)
      | (.ok _, s) => (.error .copyParam, s)

/-- Destination address `i` of a SEND (R240). -/
def sendDest (rb k3 : Word) (i : Nat) : Word :=
  0xE100000000000000 + (zext64 (bits k3 (8 * i) 8) <<< 21) + zext64 (bits rb 0 21)

/-- Destination `i` of every unit. -/
def transposeDests : List (List Loc) → Nat → List (List Loc)
  | [], n => List.replicate n []
  | d :: ds, n => d.zipWith (· :: ·) (transposeDests ds n)

/-- SEND (R240). -/
def State.sendPlan (s : State) (i : Issuer) (ra rb k0 k1 k2 k3 : Word) : Except Trap CopyPlan × State :=
  let h := Shape.of k0 k1 k2
  let cnt := (bits rb 24 3).toNat + 1
  let cls := (List.range cnt).map fun j => (bits k3 (8 * j) 8).toNat
  if !h.ok || bits rb 21 3 != 0 || bits rb 27 5 != 0 || bits rb 40 24 != 0
      || (List.range 8).any (fun j => decide (cnt ≤ j) && (bits k3 (8 * j) 8 != 0)) || !cls.Nodup then
    (.error .copyParam, s)
  else
    match firstMisaligned [(ra, 16), (sendDest rb k3 0, 16)] with
    | some a => (.error (.misaligned a), s)
    | none =>
      match s.planRuns i (([.spad], 16, false, h.aAddrs ra) ::
          (List.range cnt).map fun j => ([Aperture.cluster], 16, true, h.bAddrs (sendDest rb k3 j))) [] with
      | (.error t, s) => (.error t, s)
      | (.ok (a :: ds, ps), s) => (.ok ⟨a.zip (transposeDests ds a.length), (bits rb 32 8).toNat, ps⟩, s)
      | (.ok ([], _), s) => (.error .copyParam, s)

/-- Bytes of a context page (R244). -/
def pageBytes : Nat := 33792

/-- Addresses of a context page's 16-byte units. -/
def pageAddrs (a : Word) : List Word := (List.range (pageBytes / 16)).map fun b => a + BitVec.ofNat 64 (16 * b)

/-- The tag's tensor is one that the thread's kernel produces (R299, R245). -/
def State.produces (s : State) (grp : Nat) (name : BitVec 32) : Bool :=
  match s.kernelOf? grp with
  | some k => k.outtags.contains (bits name 24 8).toNat
  | none => false

/-- CPFAR.in and CPFAR.out (R245): the page's units, with no second side on the device. -/
def State.cpfarPlan (s : State) (i : Issuer) (out : Bool) (ra rb k1 : Word) : Except Trap CopyPlan × State :=
  let entry := (bits k1 0 6).toNat
  let filled := ((s.ctx? i.ctx).bind fun c => c.far.lookup entry).isSome
  let name : BitVec 32 := bits rb 0 32
  let rbOk := if out then rb == 1 || rb == 2
    else bits rb 33 31 == 0 && (if rb.getLsbD 32 then s.produces i.group name else name == 0)
  if bits k1 6 2 != 0 || bits k1 16 48 != 0 || !filled || !rbOk then (.error .copyParam, s)
  else
    match firstMisaligned [(ra, 256)] with
    | some a => (.error (.misaligned a), s)
    | none =>
      match s.planFrom i [.global] 16 (!out) (pageAddrs ra) [] [] with
      | (.error t, s) => (.error t, s)
      | (.ok p, s) => (.ok ⟨p.locs.map fun l => if out then (l, []) else (l, [l]), (bits k1 8 8).toNat, p.pages⟩, s)

/-- Communicator number, op, format, count and path of a COLL (R247). -/
structure CollArgs where
  comm : Nat
  op : Nat
  fmt : Fmt
  n : Nat
  path : Nat
  slack : Nat
  deriving DecidableEq, Repr

def CollArgs.of (k0 k1 : Word) : CollArgs :=
  ⟨(bits k1 0 16).toNat, (bits k0 32 4).toNat, Fmt.ofCode (bits k0 36 4), (bits k0 0 32).toNat, (bits k0 40 2).toNat,
    (bits k1 16 8).toNat⟩

/-- The op accepts the format (R247). -/
def CollArgs.accepts (c : CollArgs) : Bool :=
  match c.op with
  | 0 | 1 | 2 => (match c.fmt with
    | .i32 | .i64 | .n32 | .n64 | .d | .s | .h | .bf => true
    | _ => false)
  | 3 | 4 | 5 => (match c.fmt with
    | .i32 | .i64 | .n32 | .n64 => true
    | _ => false)
  | 15 => c.fmt.isArith
  | _ => false

/-- Elements of the destination (R247). -/
def CollArgs.dstCount (c : CollArgs) (p : Nat) : Nat := if c.op = 15 then p * c.n else c.n

/-- Element addresses of a buffer. -/
def bufAddrs (a : Word) (n size : Nat) : List Word := (List.range n).map fun e => a + BitVec.ofNat 64 (e * size)

/-- COLL (R247): source and destination places, one per element. -/
def State.collPlan (s : State) (i : Issuer) (ra rb k0 k1 : Word) :
    Except Trap (List Loc × List Loc × List (Nat × Nat)) × State :=
  let c := CollArgs.of k0 k1
  let size := c.fmt.width / 8
  match (s.ctx? i.ctx).bind fun x => x.comms.find? fun m => m.num == c.comm with
  | none => (.error .copyParam, s)
  | some m =>
    let dn := c.dstCount m.p
    let ovl := decide (ra.toNat < rb.toNat + dn * size) && decide (rb.toNat < ra.toNat + c.n * size)
    if bits k0 42 22 != 0 || bits k1 24 40 != 0 || c.path == 3 || !c.accepts || c.n == 0 || decide (2 ^ 31 < c.n)
        || (ovl && !(c.op != 15 && ra == rb)) then (.error .copyParam, s)
    else
      match firstMisaligned [(ra, size), (rb, size)] with
      | some a => (.error (.misaligned a), s)
      | none =>
        let aps := [Aperture.global, .canopy]
        match s.planRuns i [(aps, size, false, bufAddrs ra c.n size), (aps, size, true, bufAddrs rb dn size)] [] with
        | (.error t, s) => (.error t, s)
        | (.ok ([a, b], ps), s) => if 64 < ps.length then (.error .copyParam, s) else (.ok (a, b, ps), s)
        | (.ok _, s) => (.error .copyParam, s)

end Sys2Proof.Machine
end

