-- ==== Sys2Proof/Machine/Operands.lean ====
section
/-! DEFINITION. What each instruction names: the registers it reads and writes (R25, R42, R43, R52), who may issue it
(R347, R351), whether it takes a prefix (R50), and what it waits for at step 7 of R42 and in its own entry. -/

namespace Sys2Proof.Machine

/-! ## Registers -/

/-- Sources in field order with k0 to k3 last (R42 step 6), and destinations. -/
structure Regs where
  srcs : List Operand
  dsts : List Operand
  deriving DecidableEq, Repr

/-- The local register after a TAKE's destination (R307). -/
def takeNext : IReg → IReg
  | .l i => if h : i.val + 1 < 15 then .l ⟨i.val + 1, h⟩ else .zero
  | _ => .zero

/-- The registers of each instruction. FMA, BFI, LIS, ACAS, VFMA, VSEL, VPUT and a narrowing VCVT read their
destination; a store reads its data field. -/
def regsOf : Instr → Regs
  | .add d a b => ⟨[.int a, .int b], [.int d]⟩
  | .sub d a b => ⟨[.int a, .int b], [.int d]⟩
  | .and d a b => ⟨[.int a, .int b], [.int d]⟩
  | .or d a b => ⟨[.int a, .int b], [.int d]⟩
  | .xor d a b => ⟨[.int a, .int b], [.int d]⟩
  | .andn d a b => ⟨[.int a, .int b], [.int d]⟩
  | .orn d a b => ⟨[.int a, .int b], [.int d]⟩
  | .xnor d a b => ⟨[.int a, .int b], [.int d]⟩
  | .sll d a b => ⟨[.int a, .int b], [.int d]⟩
  | .srl d a b => ⟨[.int a, .int b], [.int d]⟩
  | .sra d a b => ⟨[.int a, .int b], [.int d]⟩
  | .ror d a b => ⟨[.int a, .int b], [.int d]⟩
  | .min d a b => ⟨[.int a, .int b], [.int d]⟩
  | .max d a b => ⟨[.int a, .int b], [.int d]⟩
  | .minu d a b => ⟨[.int a, .int b], [.int d]⟩
  | .maxu d a b => ⟨[.int a, .int b], [.int d]⟩
  | .adds d a b => ⟨[.int a, .int b], [.int d]⟩
  | .subs d a b => ⟨[.int a, .int b], [.int d]⟩
  | .addsu d a b => ⟨[.int a, .int b], [.int d]⟩
  | .subsu d a b => ⟨[.int a, .int b], [.int d]⟩
  | .addImm d a _ => ⟨[.int a], [.int d]⟩
  | .andImm d a _ => ⟨[.int a], [.int d]⟩
  | .orImm d a _ => ⟨[.int a], [.int d]⟩
  | .xorImm d a _ => ⟨[.int a], [.int d]⟩
  | .sllImm d a _ => ⟨[.int a], [.int d]⟩
  | .srlImm d a _ => ⟨[.int a], [.int d]⟩
  | .sraImm d a _ => ⟨[.int a], [.int d]⟩
  | .rorImm d a _ => ⟨[.int a], [.int d]⟩
  | .mulImm d a _ => ⟨[.int a], [.int d]⟩
  | .minImm d a _ => ⟨[.int a], [.int d]⟩
  | .maxImm d a _ => ⟨[.int a], [.int d]⟩
  | .li d _ => ⟨[], [.int d]⟩
  | .lis d _ => ⟨[.int d], [.int d]⟩
  | .mul d a b => ⟨[.int a, .int b], [.int d]⟩
  | .mulh d a b => ⟨[.int a, .int b], [.int d]⟩
  | .mulhu d a b => ⟨[.int a, .int b], [.int d]⟩
  | .mulhsu d a b => ⟨[.int a, .int b], [.int d]⟩
  | .div d a b => ⟨[.int a, .int b], [.int d]⟩
  | .divu d a b => ⟨[.int a, .int b], [.int d]⟩
  | .rem d a b => ⟨[.int a, .int b], [.int d]⟩
  | .remu d a b => ⟨[.int a, .int b], [.int d]⟩
  | .clz d a => ⟨[.int a], [.int d]⟩
  | .ctz d a => ⟨[.int a], [.int d]⟩
  | .popc d a => ⟨[.int a], [.int d]⟩
  | .brev d a => ⟨[.int a], [.int d]⟩
  | .bswap d a => ⟨[.int a], [.int d]⟩
  | .sxb d a => ⟨[.int a], [.int d]⟩
  | .sxh d a => ⟨[.int a], [.int d]⟩
  | .sxw d a => ⟨[.int a], [.int d]⟩
  | .bfx d a b => ⟨[.int a, .int b], [.int d]⟩
  | .bfxu d a b => ⟨[.int a, .int b], [.int d]⟩
  | .bfi d a b => ⟨[.int d, .int a, .int b], [.int d]⟩
  | .movk k a => ⟨[.int a], [.ext k]⟩
  | .rdk d k => ⟨[.ext k], [.int d]⟩
  | .rdpw d => ⟨[.pred 1, .pred 2, .pred 3, .pred 4, .pred 5, .pred 6, .pred 7], [.int d]⟩
  | .wrpw a => ⟨[.int a], [.pred 1, .pred 2, .pred 3, .pred 4, .pred 5, .pred 6, .pred 7]⟩
  | .mov a d => ⟨[.int a], [.int d]⟩
  | .movi _ d => ⟨[], [.int d]⟩
  | .cmp p q a b _ => ⟨[.int a, .int b], [.pred p, .pred q]⟩
  | .cmpi p q a _ _ => ⟨[.int a], [.pred p, .pred q]⟩
  | .fcmpD p q a b _ => ⟨[.int a, .int b], [.pred p, .pred q]⟩
  | .fcmpS p q a b _ => ⟨[.int a, .int b], [.pred p, .pred q]⟩
  | .fcmpH p q a b _ => ⟨[.int a, .int b], [.pred p, .pred q]⟩
  | .fcmpBf p q a b _ => ⟨[.int a, .int b], [.pred p, .pred q]⟩
  | .isap p q a _ => ⟨[.int a], [.pred p, .pred q]⟩
  | .plog p q a b _ => ⟨[.pred a, .pred b], [.pred p, .pred q]⟩
  | .call d _ => ⟨[], [.int d]⟩
  | .bri a _ => ⟨[.int a], []⟩
  | .callr d a _ => ⟨[.int a], [.int d]⟩
  | .ret a => ⟨[.int a], []⟩
  | .create d _ => ⟨[.ext 0, .ext 1, .ext 2, .ext 3], [.int d]⟩
  | .fgo a _ => ⟨[.int a], []⟩
  | .falloc d => ⟨[.ext 0, .ext 1, .ext 2, .ext 3], [.int d]⟩
  | .fsync d a => ⟨[.int a], [.int d]⟩
  | .frel a => ⟨[.int a], []⟩
  | .tix d => ⟨[], [.int d]⟩
  | .fputD a b _ => ⟨[.int a, .int b], []⟩
  | .fputG a b _ => ⟨[.int a, .int b], []⟩
  | .fget d a _ => ⟨[.int a], [.int d]⟩
  | .fkill a => ⟨[.int a], []⟩
  | .fkillTree a => ⟨[.int a], []⟩
  | .fstat d a => ⟨[.int a], [.int d]⟩
  | .detach a => ⟨[.int a], []⟩
  | .fplace a b => ⟨[.int a, .int b], []⟩
  | .ldBs d b _ => ⟨[.int b], [.int d]⟩
  | .ldBz d b _ => ⟨[.int b], [.int d]⟩
  | .ldHs d b _ => ⟨[.int b], [.int d]⟩
  | .ldHz d b _ => ⟨[.int b], [.int d]⟩
  | .ldWs d b _ => ⟨[.int b], [.int d]⟩
  | .ldWz d b _ => ⟨[.int b], [.int d]⟩
  | .ldD d b _ => ⟨[.int b], [.int d]⟩
  | .ldw d b _ => ⟨[.int b], [.wide d]⟩
  | .stB d b _ => ⟨[.int d, .int b], []⟩
  | .stH d b _ => ⟨[.int d, .int b], []⟩
  | .stW d b _ => ⟨[.int d, .int b], []⟩
  | .stD d b _ => ⟨[.int d, .int b], []⟩
  | .stw d b _ => ⟨[.wide d, .int b], []⟩
  | .ldk k b _ => ⟨[.int b], [.ext k]⟩
  | .ldfe d a b => ⟨[.int a, .int b], [.int d]⟩
  | .ldff d a b => ⟨[.int a, .int b], [.int d]⟩
  | .stfe d a b => ⟨[.int d, .int a, .int b], []⟩
  | .feinitE a b => ⟨[.int a, .int b], []⟩
  | .feinitF a b => ⟨[.int a, .int b], []⟩
  | .aadd d a b _ => ⟨[.int a, .int b], [.int d]⟩
  | .aand d a b _ => ⟨[.int a, .int b], [.int d]⟩
  | .aor d a b _ => ⟨[.int a, .int b], [.int d]⟩
  | .axor d a b _ => ⟨[.int a, .int b], [.int d]⟩
  | .amin d a b _ => ⟨[.int a, .int b], [.int d]⟩
  | .amax d a b _ => ⟨[.int a, .int b], [.int d]⟩
  | .aminu d a b _ => ⟨[.int a, .int b], [.int d]⟩
  | .amaxu d a b _ => ⟨[.int a, .int b], [.int d]⟩
  | .axchg d a b _ => ⟨[.int a, .int b], [.int d]⟩
  | .acas d a b _ => ⟨[.int d, .int a, .int b], [.int d]⟩
  | .afadd d a b _ => ⟨[.int a, .int b], [.int d]⟩
  | .redAdd a b _ => ⟨[.int a, .int b], []⟩
  | .redAnd a b _ => ⟨[.int a, .int b], []⟩
  | .redOr a b _ => ⟨[.int a, .int b], []⟩
  | .redXor a b _ => ⟨[.int a, .int b], []⟩
  | .redMin a b _ => ⟨[.int a, .int b], []⟩
  | .redMax a b _ => ⟨[.int a, .int b], []⟩
  | .redMinu a b _ => ⟨[.int a, .int b], []⟩
  | .redMaxu a b _ => ⟨[.int a, .int b], []⟩
  | .redfadd a b _ => ⟨[.int a, .int b], []⟩
  | .await d a b _ _ => ⟨[.int a, .int b], [.int d]⟩
  | .sumon p q a => ⟨[.int a], [.pred p, .pred q]⟩
  | .sumaddS a b => ⟨[.int a, .int b], []⟩
  | .sumaddBf a b => ⟨[.int a, .int b], []⟩
  | .sumaddH a b => ⟨[.int a, .int b], []⟩
  | .sumoff d a => ⟨[.int a], [.int d]⟩
  | .cvtaCl d a => ⟨[.int a], [.int d]⟩
  | .cvtaSp d a => ⟨[.int a], [.int d]⟩
  | .fadd _ d a b => ⟨[.int a, .int b], [.int d]⟩
  | .fsub _ d a b => ⟨[.int a, .int b], [.int d]⟩
  | .fmul _ d a b => ⟨[.int a, .int b], [.int d]⟩
  | .fdiv _ d a b => ⟨[.int a, .int b], [.int d]⟩
  | .fmin _ d a b => ⟨[.int a, .int b], [.int d]⟩
  | .fmax _ d a b => ⟨[.int a, .int b], [.int d]⟩
  | .fsqrt _ d a => ⟨[.int a], [.int d]⟩
  | .fabs _ d a => ⟨[.int a], [.int d]⟩
  | .fneg _ d a => ⟨[.int a], [.int d]⟩
  | .fma _ d a b => ⟨[.int d, .int a, .int b], [.int d]⟩
  | .fclass _ d a => ⟨[.int a], [.int d]⟩
  | .frcp _ d a => ⟨[.int a], [.int d]⟩
  | .frsq _ d a => ⟨[.int a], [.int d]⟩
  | .fexp2 _ d a => ⟨[.int a], [.int d]⟩
  | .flog2 _ d a => ⟨[.int a], [.int d]⟩
  | .fsin _ d a => ⟨[.int a], [.int d]⟩
  | .fcos _ d a => ⟨[.int a], [.int d]⟩
  | .ftanh _ d a => ⟨[.int a], [.int d]⟩
  | .cvt d a _ _ _ => ⟨[.int a], [.int d]⟩
  | .rdfp d => ⟨[], [.int d]⟩
  | .wrfp a => ⟨[.int a], []⟩
  | .vadd d a b _ => ⟨[.wide a, .wide b], [.wide d]⟩
  | .vsub d a b _ => ⟨[.wide a, .wide b], [.wide d]⟩
  | .vmul d a b _ => ⟨[.wide a, .wide b], [.wide d]⟩
  | .vfma d a b _ => ⟨[.wide d, .wide a, .wide b], [.wide d]⟩
  | .vmin d a b _ => ⟨[.wide a, .wide b], [.wide d]⟩
  | .vmax d a b _ => ⟨[.wide a, .wide b], [.wide d]⟩
  | .vadds d a b _ => ⟨[.wide a, .wide b], [.wide d]⟩
  | .vsubs d a b _ => ⟨[.wide a, .wide b], [.wide d]⟩
  | .vand d a b _ => ⟨[.wide a, .wide b], [.wide d]⟩
  | .vor d a b _ => ⟨[.wide a, .wide b], [.wide d]⟩
  | .vxor d a b _ => ⟨[.wide a, .wide b], [.wide d]⟩
  | .vsll d a b _ => ⟨[.wide a, .wide b], [.wide d]⟩
  | .vsrl d a b _ => ⟨[.wide a, .wide b], [.wide d]⟩
  | .vsra d a b _ => ⟨[.wide a, .wide b], [.wide d]⟩
  | .vdiv d a b _ => ⟨[.wide a, .wide b], [.wide d]⟩
  | .vsqrt d a _ => ⟨[.wide a], [.wide d]⟩
  | .vabs d a _ => ⟨[.wide a], [.wide d]⟩
  | .vneg d a _ => ⟨[.wide a], [.wide d]⟩
  | .vmulh d a b _ => ⟨[.wide a, .wide b], [.wide d]⟩
  | .vcmpEq d a b _ => ⟨[.wide a, .wide b], [.wide d]⟩
  | .vcmpNe d a b _ => ⟨[.wide a, .wide b], [.wide d]⟩
  | .vcmpLt d a b _ => ⟨[.wide a, .wide b], [.wide d]⟩
  | .vcmpLe d a b _ => ⟨[.wide a, .wide b], [.wide d]⟩
  | .vcmpUn d a b _ => ⟨[.wide a, .wide b], [.wide d]⟩
  | .vsel d a b _ => ⟨[.wide d, .wide a, .wide b], [.wide d]⟩
  | .vperm d a b _ => ⟨[.wide a, .wide b], [.wide d]⟩
  | .vzipl d a b _ => ⟨[.wide a, .wide b], [.wide d]⟩
  | .vziph d a b _ => ⟨[.wide a, .wide b], [.wide d]⟩
  | .vunzipl d a b _ => ⟨[.wide a, .wide b], [.wide d]⟩
  | .vunziph d a b _ => ⟨[.wide a, .wide b], [.wide d]⟩
  | .vredadd d a _ => ⟨[.wide a], [.wide d]⟩
  | .vredmin d a _ => ⟨[.wide a], [.wide d]⟩
  | .vredmax d a _ => ⟨[.wide a], [.wide d]⟩
  | .vredand d a _ => ⟨[.wide a], [.wide d]⟩
  | .vredor d a _ => ⟨[.wide a], [.wide d]⟩
  | .vredxor d a _ => ⟨[.wide a], [.wide d]⟩
  | .vscanAddInc d a b _ => ⟨[.wide a, .wide b], [.wide d]⟩
  | .vscanAddExc d a b _ => ⟨[.wide a, .wide b], [.wide d]⟩
  | .vscanMinInc d a b _ => ⟨[.wide a, .wide b], [.wide d]⟩
  | .vscanMinExc d a b _ => ⟨[.wide a, .wide b], [.wide d]⟩
  | .vscanMaxInc d a b _ => ⟨[.wide a, .wide b], [.wide d]⟩
  | .vscanMaxExc d a b _ => ⟨[.wide a, .wide b], [.wide d]⟩
  | .vcvt d a _ t _ s => ⟨if s.lanes < t.lanes then [.wide d, .wide a] else [.wide a], [.wide d]⟩
  | .vget d a b _ => ⟨[.wide a, .int b], [.int d]⟩
  | .vput d a b _ => ⟨[.wide d, .int a, .int b], [.wide d]⟩
  | .vbcast d a _ => ⟨[.int a], [.wide d]⟩
  | .scfg _ => ⟨[.ext 0, .ext 1, .ext 2, .ext 3], []⟩
  | .vown d => ⟨[], [.int d]⟩
  | .vloop a _ => ⟨[.int a], []⟩
  | .mfmt a => ⟨[.int a], []⟩
  | .munf => ⟨[.ext 0, .ext 1, .ext 2, .ext 3], []⟩
  | .mma _ a b => ⟨[.int a, .int b], []⟩
  | .mst _ a b => ⟨[.int a, .int b], []⟩
  | .mwait d => ⟨[], [.int d]⟩
  | .cpgIn _ a b => ⟨[.int a, .int b, .ext 0, .ext 1, .ext 2, .ext 3], []⟩
  | .cpgOut _ a b => ⟨[.int a, .int b, .ext 0, .ext 1, .ext 2, .ext 3], []⟩
  | .send _ a b => ⟨[.int a, .int b, .ext 0, .ext 1, .ext 2, .ext 3], []⟩
  | .cpfarIn _ a b => ⟨[.int a, .int b, .ext 0, .ext 1], []⟩
  | .cpfarOut _ a b => ⟨[.int a, .int b, .ext 0, .ext 1], []⟩
  | .coll _ a b => ⟨[.int a, .int b, .ext 0, .ext 1], []⟩
  | .tagpub a => ⟨[.int a], []⟩
  | .tagwait d a => ⟨[.int a], [.int d]⟩
  | .tagq d a => ⟨[.int a], [.int d]⟩
  | .retain a b => ⟨[.int a, .int b], []⟩
  | .take d a => ⟨[.int a], [.int d, .int (takeNext d)]⟩
  | .takeArm a => ⟨[.int a, .ext 0, .ext 1, .ext 2], []⟩
  | .grid d _ => ⟨[], [.int d]⟩
  | .gridParam d a => ⟨[.int a], [.int d]⟩
  | .sysr d _ => ⟨[], [.int d]⟩
  | .sysw a _ => ⟨[.int a], []⟩
  | .syswTlbShoot a => ⟨[.int a], []⟩
  | .syswCensusCtl a => ⟨[.int a], []⟩
  | .syswSeqState a => ⟨[.int a], []⟩
  | .syswSumStatus a => ⟨[.int a], []⟩
  | .syswFrameWindow _ a => ⟨[.int a], []⟩
  | .mark a => ⟨[.int a], []⟩
  | .rdcyc d => ⟨[], [.int d]⟩
  | _ => ⟨[], []⟩

/-- An MMA under a scaled format context reads k0 to k2 as well (R171). -/
def State.srcsOf (s : State) (t : Thread) (i : Instr) : List Operand :=
  match i with
  | .mma _ _ _ =>
    (regsOf i).srcs ++ (if ((s.coreAt t.phys t.core).fmtCtx.map mscaled).getD false then [.ext 0, .ext 1, .ext 2] else [])
  | _ => (regsOf i).srcs

/-! ## Who may issue what -/

/-- A system register that only trap service reads (R343, R346). -/
def SysReg.ofService : SysReg → Bool
  | .trapCause | .trapAddr | .trapWord | .trapData | .trapInfo | .trapHandle | .frame _ => true
  | _ => false

/-- Illegal outside trap service (R343, R346, R351). -/
def serviceOnly : Instr → Bool
  | .eret | .syswFrameWindow _ _ => true
  | .sysr _ n => SysReg.ofService n
  | _ => false

/-- Illegal in trap service (R347): FALLOC, CREATE, FGO, VOWN, majors 0x70, 0x71, 0x74 and 0x78, `.sr` conversions. -/
def serviceBarred : Instr → Bool
  | .falloc _ | .create _ _ | .fgo _ _ => true
  | .scfg _ | .sbind _ _ | .sunbind _ | .ssync _ | .vown _ | .vdisown | .vloop _ _ => true
  | .mfmt _ | .munf | .mma _ _ _ | .mz _ | .mst _ _ _ | .mwait _ => true
  | .cpgIn _ _ _ | .cpgOut _ _ _ | .send _ _ _ | .cpfarIn _ _ _ | .cpfarOut _ _ _ | .coll _ _ _ => true
  | .cvt _ _ m _ _ => m == .sr
  | .vcvt _ _ _ _ m _ => m == .sr
  | _ => false

/-- A plain load or store (R67). -/
def isPlain : Instr → Bool
  | .ldBs _ _ _ | .ldBz _ _ _ | .ldHs _ _ _ | .ldHz _ _ _ | .ldWs _ _ _ | .ldWz _ _ _ | .ldD _ _ _ | .ldw _ _ _ => true
  | .stB _ _ _ | .stH _ _ _ | .stW _ _ _ | .stD _ _ _ | .stw _ _ _ | .ldk _ _ _ => true
  | _ => false

/-- An access that waits by its class and holds by its class (R214, first row). -/
def isClassed : Instr → Bool
  | .ldfe _ _ _ | .ldff _ _ _ | .stfe _ _ _ | .feinitE _ _ | .feinitF _ _ => true
  | .aadd _ _ _ _ | .aand _ _ _ _ | .aor _ _ _ _ | .axor _ _ _ _ | .amin _ _ _ _ | .amax _ _ _ _ | .aminu _ _ _ _ => true
  | .amaxu _ _ _ _ | .axchg _ _ _ _ | .acas _ _ _ _ | .afadd _ _ _ _ => true
  | .await _ _ _ _ _ | .sumon _ _ _ | .sumoff _ _ => true
  | i => isPlain i

/-- A reduction (R214, second row). -/
def isReduction : Instr → Bool
  | .redAdd _ _ _ | .redAnd _ _ _ | .redOr _ _ _ | .redXor _ _ _ | .redMin _ _ _ | .redMax _ _ _ | .redMinu _ _ _ => true
  | .redMaxu _ _ _ | .redfadd _ _ _ | .sumaddS _ _ | .sumaddBf _ _ | .sumaddH _ _ => true
  | _ => false

/-- Takes an ORD prefix (R50). -/
def prefixable (i : Instr) : Bool := isClassed i || isReduction i

/-- Bytes of an instruction word (R22). -/
def lengthOf : Instr → Nat
  | .ord _ _ | .nop | .mov _ _ | .movi _ _ | .trap _ => 2
  | _ => 4

/-! ## The sequencer's registers (R147) -/

/-- The body words of a run, decoded. -/
def State.bodyOf (s : State) (r : SeqRun) : List (Guard × Instr) :=
  (List.range (r.n.val + 1)).filterMap fun k =>
    match decode (Mem.bytes s.mem (Loc.code ((r.vloop + 4).toNat + 4 * k)).key 4) with
    | .ok (g, i, _) => some (g, i)
    | .error _ => none

/-- The thread's sequencer run in progress, if any. -/
def State.runOf (s : State) (t : Thread) : Option SeqRun := (s.coreAt t.phys t.core).seqr.filter fun r => r.uid == t.uid

/-- Wide registers and predicates that a run's body names, guards included (R147). -/
def State.heldRegs (s : State) (t : Thread) : List Operand :=
  match s.runOf t with
  | none => []
  | some r => (s.bodyOf r).flatMap fun x => .pred x.1.p :: ((regsOf x.2).srcs ++ (regsOf x.2).dsts)

/-- A register that is held, p0 apart. -/
def State.isHeld (s : State) (t : Thread) (o : Operand) : Bool := o != .pred 0 && (s.heldRegs t).contains o

/-! ## Waits -/

/-- The register of a bound stream is named by the thread's run. -/
def State.streamInRun (s : State) (t : Thread) (u : Fin 4) : Bool :=
  match (s.coreAt t.phys t.core).streams[u.val].bound with
  | some w => s.isHeld t (.wide ⟨w.val, by omega⟩)
  | none => false

/-- Pushes of a stream unit that are not performed. -/
def State.pushesOf (s : State) (t : Thread) (u : Fin 4) : List Access :=
  s.accs.filter fun a => a.uid == some t.uid && (match a.op with
    | .push v _ => v == u
    | _ => false)

/-- Every push that the thread has made has been performed (R153). -/
def State.pushesDone (s : State) (t : Thread) : Bool := (List.finRange 4).all fun u => (s.pushesOf t u).isEmpty

/-- The thread owns its core's sequencer and streams (R145), saved or not. -/
def State.owns (s : State) (t : Thread) : Bool := (s.coreOf t).owner == some t.uid

/-- A stream of the thread stands bound as an output. -/
def State.boundOut (s : State) (t : Thread) (u : Fin 4) : Bool :=
  let st := (s.coreAt t.phys t.core).streams[u.val]
  st.bound.isSome && (st.cfg.map streamOut).getD false

/-- Matrix operations that the core queued for the thread. -/
def State.mopsOf (s : State) (t : Thread) : List MOp := (s.coreAt t.phys t.core).mq.filter fun m => m.uid == t.uid

/-- Every MST the thread issued has completed (R178). -/
def State.mstDone (s : State) (t : Thread) : Bool :=
  !((s.mopsOf t).any fun m => (match m.kind with
    | .mst _ _ _ _ => true
    | _ => false))

/-- Earlier floating-point results of the thread have arrived, and its run has ended (R125, R136). -/
def State.fpDone (s : State) (t : Thread) : Bool :=
  !(s.arrivals.any fun a => a.uid == t.uid && a.fp) && (s.runOf t).isNone

/-- The arguments of an MMA. -/
def State.mmaArgs (s : State) (t : Thread) (n : Fin 2) (a b : IReg) : MmaArgs :=
  let k := s.coreAt t.phys t.core
  ⟨n, t.int a, t.int b, t.ext 0, t.ext 1, t.ext 2, k.fmtCtx, k.unfold⟩

/-- The checks of a plan have passed. -/
def passes {α : Type} (r : Except Trap α × State) : Bool :=
  match r.1 with
  | .ok _ => true
  | .error _ => false

/-- The plan of a copy or an MMA: what the thread's address phase obtained before it was held for room (R159, R237), or
what it obtains now. -/
def State.keptPlan (s : State) (t : Thread) : Instr → Except Trap Kept × State
  | .mma n a b => match t.kept with
    | some k => (.ok k, s)
    | none => (match s.mmaPlan t.issuer (s.mmaArgs t n a b) with
      | (.ok (k, ps), s) => (.ok (.mma k ps), s)
      | (.error tr, s) => (.error tr, s))
  | .coll _ a b => match t.kept with
    | some k => (.ok k, s)
    | none => (match s.collPlan t.issuer (t.int a) (t.int b) (t.ext 0) (t.ext 1) with
      | (.ok (src, dst, ps), s) => (.ok (.coll src dst ps), s)
      | (.error tr, s) => (.error tr, s))
  | i =>
    let copy (r : Except Trap CopyPlan × State) : Except Trap Kept × State := match t.kept, r with
      | some k, _ => (.ok k, s)
      | none, (.ok c, s) => (.ok (.copy c.units c.slack c.pages), s)
      | none, (.error tr, s) => (.error tr, s)
    match i with
    | .cpgIn _ a b => copy (s.cpgPlan t.issuer false (t.int a) (t.int b) (t.ext 0) (t.ext 1) (t.ext 2) (t.ext 3))
    | .cpgOut _ a b => copy (s.cpgPlan t.issuer true (t.int a) (t.int b) (t.ext 0) (t.ext 1) (t.ext 2) (t.ext 3))
    | .send _ a b => copy (s.sendPlan t.issuer (t.int a) (t.int b) (t.ext 0) (t.ext 1) (t.ext 2) (t.ext 3))
    | .cpfarIn _ a b => copy (s.cpfarPlan t.issuer false (t.int a) (t.int b) (t.ext 1))
    | .cpfarOut _ a b => copy (s.cpfarPlan t.issuer true (t.int a) (t.int b) (t.ext 1))
    | _ => (.error .illegal, s)

/-- Copies in flight that threads of a cluster issued (R237). -/
def State.copiesFrom (s : State) (phys : Nat) : List Copy := s.copies.filter fun c => c.phys == phys

/-- A copy waits for the thread's accesses and reductions, its stream pushes and MSTs included, as a release at every scope
does (R153, R178, R235), and then, its checks passed, for room in the engine (R237). -/
def State.copyHold (s : State) (t : Thread) (i : Instr) : Option WaitOn :=
  if !(s.allPerformed t && t.reds == 0 && !s.engineInScope t .sys) then some .order
  else if passes (s.keptPlan t i) && decide (128 ≤ (s.copiesFrom t.phys).length) then some .engine
  else none

/-- A token of the mask has copies in flight and none of the mask carries an error (R243, R250). -/
def waitkHolds (t : Thread) (mask : BitVec 8) : Bool :=
  let named := (List.finRange 8).filter fun k => mask.getLsbD k.val
  named.all (fun k => t.tokErr[k.val].isNone) && named.any (fun k => t.tokens[k.val] != 0)

/-- The wait of an instruction whose operands are ready: step 7 of R42, and what its entry adds. `none`: it issues.
SUNBIND of a stream whose register a body of the thread's run names waits for the run's end: R147 suspends what names the
register, and SUNBIND names it by its stream (DEDUCED, log entry 78). -/
def State.holdOf (s : State) (t : Thread) (p : Port) (i : Instr) : Option WaitOn :=
  let order (ok : Bool) : Option WaitOn := if ok then none else some .order
  let engine (ok : Bool) : Option WaitOn := if ok then none else some .engine
  match i with
  | .fenceCore | .fenceCl | .fenceDev | .fenceSys => order (s.unblocked t)
  | .sbind m _ => if t.isPend (.wide m) then some (.operand (.wide m)) else order (s.unblocked t)
  | .ssync u =>
    if !s.owns t then none
    else if (s.coreAt t.phys t.core).streams[u.val].bound.isNone then engine (s.mstDone t)
    else if s.boundOut t u then engine (!s.streamInRun t u && s.pushesDone t && s.mstDone t)
    else if !(s.unblocked t && s.mstDone t) then some .order
    else engine (s.pushesDone t)
  | .sunbind u =>
    if !s.owns t then none
    else if (s.coreAt t.phys t.core).streams[u.val].bound.isNone then none
    else engine (!s.streamInRun t u && s.pushesDone t)
  | .vdisown =>
    if !s.owns t then engine (s.runOf t).isNone
    else engine ((s.runOf t).isNone && (s.mopsOf t).isEmpty && s.pushesDone t)
  | .vloop _ _ => engine (s.runOf t).isNone
  | .exit | .brk => engine (s.runOf t).isNone
  | .rdfp _ | .wrfp _ | .clrflg => if s.fpDone t then none else some .engine
  | .mma n a b =>
    let m := s.mmaArgs t n a b
    if !s.owns t || !m.ok then none
    else if !s.allPerformed t then some .order
    else engine (!passes (s.keptPlan t i) || decide ((s.coreAt t.phys t.core).mq.length < 4))
  | .mz _ => engine (!s.owns t || decide ((s.coreAt t.phys t.core).mq.length < 4))
  | .mst _ a b =>
    if !s.owns t then none
    else engine (!passes (s.mstPlan t.issuer (s.coreAt t.phys t.core).fmtCtx (t.int a) (t.int b))
      || decide ((s.coreAt t.phys t.core).mq.length < 4))
  | .cpgIn _ _ _ | .cpgOut _ _ _ | .send _ _ _ | .cpfarIn _ _ _ | .cpfarOut _ _ _ | .coll _ _ _ => s.copyHold t i
  | .waitk m => if waitkHolds t m then some .token else none
  | .tagpub _ => order (s.mayIssue t (some (.rel, .dev)))
  | .take _ _ | .takeArm _ => engine (!(s.pends.any fun x => x.uid == t.uid && (match x.op with
    | .takeArm _ _ _ _ _ => true
    | _ => false)))
  | .syswTlbShoot _ => order (s.allPerformed t)
  | .eret => order (s.allPerformed t && t.reds == 0 && s.pubs.all fun p => p.uid != some t.uid)
  | _ =>
    if isReduction i then
      order (s.mayIssue t (match p.pfx with
        | some (.acq, c) => some (.rlx, c)
        | some (.sc, c) => some (.rel, c)
        | x => x) && decide (t.reds < 8))
    else if isClassed i then order (s.mayIssue t p.pfx)
    else none

end Sys2Proof.Machine
end

