-- ==== Sys2Proof/Machine/Issue.lean ====
section
/-! DEFINITION. One attempt to issue, in the order of R42: what stops an instruction, and how one that issues leaves
its registers, its stream elements and its program counter before its own effect. -/

namespace Sys2Proof.Machine

/-! ## Fetch (R22, R23, R31) -/

/-- What a fetch finds at a program counter: the address of a halfword that could not be fetched, an illegal word, or a
guarded instruction. -/
inductive Fetched where
  | bad (data : Word)
  | illegal
  | ok (g : Guard) (i : Instr)
  deriving DecidableEq, Repr

/-- One instruction word at an address, of a thread's graph; a prefix counts as a word of its own. -/
def State.fetchWord (s : State) (graph : BitVec 32) (a : Word) : Fetched :=
  if a.getLsbD 0 || !s.inText graph a.toNat then .bad a
  else if (s.codeHalf a.toNat).getLsbD 0 && !s.inText graph (a + 2).toNat then .bad (a + 2)
  else
    match decode (Mem.bytes s.mem (Loc.code a.toNat).key 4) with
    | .ok (g, i, _) => .ok g i
    | .error _ => .illegal

/-- The fetch of R42 step 1: a prefix takes the word after it along (R31). -/
def State.fetch (s : State) (graph : BitVec 32) (a : Word) : Fetched :=
  match s.fetchWord graph a with
  | .bad d => .bad d
  | r =>
    if isPrefix (s.codeHalf a.toNat) then
      (match s.fetchWord graph (a + 2) with
      | .bad d => .bad d
      | _ => r)
    else r

/-- Bytes that a fetch reads: one word, or a prefix and the word after it. -/
def State.fetchLength (s : State) (a : Word) : Nat :=
  let n (a : Nat) : Nat := if (s.codeHalf a).getLsbD 0 then 4 else 2
  if isPrefix (s.codeHalf a.toNat) then 2 + n (a.toNat + 2) else n a.toNat

/-- A word of a cluster's code store that a fetch reads is poisoned (R8, R363). -/
def State.codeBad (s : State) (phys a n : Nat) : Bool :=
  s.poison.any fun w => decide (8 * w < codeKey phys a + n) && decide (codeKey phys a < 8 * w + 8)

/-- A fetch from a poisoned word is charged to the thread's context (R363). -/
def State.chargeCode (s : State) (t : Thread) : State := s.chargeRead (clusterId t.phys) t.ctx (some t.group) (some t)

/-! ## Operands at issue -/

/-- EMPTY at step 6 of R42: an input-bound register is EMPTY until its next element has arrived (R151); a pop past the
last element does not wait, and an output-bound register is never EMPTY (R153). -/
def State.empty (s : State) (t : Thread) (o : Operand) : Bool :=
  match o with
  | .wide w =>
    (match s.binding t w with
    | .plain => !t.isFull o
    | .input _ st => st.fifo.isEmpty && st.fault.isNone && decide (st.pos < (st.cfg.map streamTotal).getD 0)
    | .output _ _ => false)
  | _ => !t.isFull o

/-- Pending at step 5 of R42: a bound register never is (R151, R153). -/
def State.pending (s : State) (t : Thread) (o : Operand) : Bool :=
  match o with
  | .wide w =>
    (match s.binding t w with
    | .plain => t.isPend o
    | _ => false)
  | _ => t.isPend o

/-- A write to an output-bound register waits while 16 pushes are not performed (R153). -/
def State.pushFull (s : State) (t : Thread) (o : Operand) : Bool :=
  match o with
  | .wide w =>
    (match s.binding t w with
    | .output u _ => decide (16 ≤ (s.pushesOf t u).length)
    | _ => false)
  | _ => false

/-- The wide registers of a list, each once, in order. -/
def widesOf (os : List Operand) : List WReg :=
  (os.filterMap fun o => match o with
    | .wide w => some w
    | _ => none).dedup

/-- Pop the next element of each input-bound register (R151, R152): the thread as its operands stand. -/
def State.popAll (s : State) (t : Thread) : List WReg → Except Trap (State × Thread)
  | [] => .ok (s, t)
  | w :: ws =>
    match s.binding t w with
    | .plain => State.popAll s t ws
    | .output _ _ => .error .streamState
    | .input u st =>
      match st.fifo with
      | e :: rest =>
        let st' := { st with fifo := rest, pos := st.pos + 1, last := e, late := false }
        let s := s.updCore t.phys t.core fun k => { k with streams := k.streams.set u.val st' }
        State.popAll (s.countStream t.ctx t.lcore u .used 1) (t.setVal (.wide w) e) ws
      | [] =>
        match st.fault with
        | some f => .error ⟨f.code, f.data, f.info, none, none, some u⟩
        | none => .error .streamState

/-- Open the push of an output-bound destination (R153): its address is taken and translated now, and its value comes
with the result. -/
def State.pushAll (s : State) (t : Thread) (p : Port) : List WReg → Except Trap State
  | [] => .ok s
  | w :: ws =>
    match s.binding t w with
    | .plain => State.pushAll s t p ws
    | .input _ _ => .error .streamState
    | .output u st =>
      match st.cfg with
      | none => .error .streamState
      | some c =>
        if streamTotal c ≤ st.pos then .error .streamState
        else
          match s.resolve t.issuer .plain (streamAddr c st.pos) 32 true false false with
          | (.error tr, _) => .error tr
          | (.ok l, s) =>
            let s := s.updCore t.phys t.core fun k =>
              { k with streams := k.streams.set u.val { st with pos := st.pos + 1 } }
            let s := s.countStream t.ctx t.lcore u .pushed 1
            let s := s.sendAccess t { p with pfx := some (.rlx, .dev) } l 32 (.push u 0) false none
            State.pushAll { s with accs := s.accs.map fun a => if a.id == s.fresh - 1 then { a with phase := .unvalued }
              else a } t p ws

/-! ## The checks of R42 -/

/-- The breakpoint entry that the thread's next instruction hits (R319). -/
def State.breakpoint (s : State) (t : Thread) : Option Nat :=
  match s.ctx? t.ctx with
  | some c => (List.range 8).find? fun e =>
      (match c.bkpts[e]? with
      | some b => b.enable && b.addr == t.pc && t.handle &&& b.mask == b.handle &&& b.mask
      | none => false)
  | none => none

/-- What the checks find. -/
inductive Verdict where
  | trap (t : Trap)
  | skip
  | wait (w : WaitOn)
  | go
  deriving DecidableEq, Repr

/-- Illegal where it stands (R42 step 2): the guard, a field, a prefix that the instruction does not take, and who
issues it. -/
def illegalAt (t : Thread) (p : Port) (i : Instr) : Bool :=
  !p.guard.ok || !i.wf || (p.pfx.isSome && !prefixable i) || (t.isService && serviceBarred i)
    || (!t.isService && serviceOnly i)

/-- A register that an instruction names and neither reads nor writes (R150). -/
def namedOnly : Instr → List Operand
  | .sbind m _ => [.wide m]
  | _ => []

/-- Every register an instruction names, its guard's predicate apart. -/
def State.names (s : State) (t : Thread) (i : Instr) : List Operand := s.srcsOf t i ++ (regsOf i).dsts ++ namedOnly i

/-- The checks of R42 in order. The breakpoint test stands after step 3 (R319); a register that a sequencer run holds
suspends the thread before its guard is read (R147). -/
def State.verdict (s : State) (t : Thread) (p : Port) (i : Instr) : Verdict :=
  if illegalAt t p i then .trap .illegal
  else if !((s.names t i).all (inWindow t.window)) then .trap .window
  else
    match if p.seqr || t.bpSkip == some t.pc then none else s.breakpoint t with
    | some e => .trap ⟨0x12, 0, BitVec.ofNat 64 e, none, none, none⟩
    | none =>
      if !p.seqr && (.pred p.guard.p :: s.names t i).any (s.isHeld t) then .wait .engine
      else if !t.isFull (.pred p.guard.p) then .wait (.operand (.pred p.guard.p))
      else if t.pred p.guard.p == p.guard.neg then .skip
      else
        match (regsOf i).dsts.find? (s.pending t) with
        | some o => .wait (.operand o)
        | none =>
          match (s.srcsOf t i).find? (s.empty t) with
          | some o => .wait (.operand o)
          | none =>
            match s.holdOf t p i with
            | some w => .wait w
            | none => if (regsOf i).dsts.any (s.pushFull t) then .wait .engine else .go

/-! ## Readiness (R255) -/

/-- The thread's next instruction as it would issue: a prefix with the instruction after it (R31). -/
def State.nextOf (s : State) (t : Thread) : Option (Port × Instr) :=
  match s.fetch t.graph t.pc with
  | .ok g i =>
    (match i with
    | .ord o sc =>
      (match s.fetchWord t.graph (t.pc + 2) with
      | .ok g' j => some (⟨t.uid, g', some (o, sc), false⟩, j)
      | _ => none)
    | _ => some (⟨t.uid, g, none, false⟩, i))
  | _ => none

/-- The thread's own core may issue for it: it runs, its cluster is neither stopped nor gated. -/
def State.eligible (s : State) (t : Thread) : Bool :=
  t.run == .running && !(s.clusterAt t.phys).stopped && (s.clusterAt t.phys).corePt != .gated

/-- What the thread waits for, if anything: a fetch or decode that fails does not wait. -/
def State.waitOf (s : State) (t : Thread) : Option WaitOn :=
  match s.nextOf t with
  | none => none
  | some (p, i) =>
    match s.verdict t p i with
    | .wait w => some w
    | _ => none

/-- Ready (R255), a yield apart (R280). -/
def State.ready (s : State) (t : Thread) : Bool := s.eligible t && (s.waitOf t).isNone

/-! ## Moving on -/

/-- Bytes from the start of what issues to the next instruction in sequence (R22, R31). -/
def issueLength (p : Port) (i : Instr) : Nat := lengthOf i + (if p.pfx.isSome then 2 else 0)

/-- The sequencer moves to its next body instruction, or its next pass (R146). -/
def SeqRun.next (r : SeqRun) : SeqRun :=
  if r.pos = r.n.val then { r with pos := 0, left := r.left - 1 } else { r with pos := r.pos + 1 }

/-- Step past the instruction: the thread's program counter, or the sequencer's position. -/
def State.advance (s : State) (t : Thread) (p : Port) (i : Instr) : State :=
  if p.seqr then s.updCore t.phys t.core fun k => { k with seqr := k.seqr.map SeqRun.next }
  else s.updThread t.uid fun t =>
    { t with pc := t.pc + BitVec.ofNat 64 (issueLength p i), bpSkip := none, wait := none, kept := none }

/-- The destinations that become EMPTY and pending: those not bound to a stream (R37, R153). -/
def State.owedBy (s : State) (t : Thread) (i : Instr) : List Operand :=
  (regsOf i).dsts.filter fun o => match o with
    | .wide w => (match s.binding t w with
      | .plain => true
      | _ => false)
    | _ => true

/-- Step 8 of R42 up to the operation itself: elements are popped, pushes opened, destinations owed, and the
instruction is stepped past. The thread that comes back holds the operands as read at issue (R40). -/
def State.begin (s : State) (t : Thread) (p : Port) (i : Instr) : Except Trap (State × Thread) :=
  match s.popAll t (widesOf (s.srcsOf t i)) with
  | .error tr => .error tr
  | .ok (s1, t1) =>
    match s1.pushAll t p (widesOf (regsOf i).dsts) with
    | .error tr => .error tr
    | .ok s2 => .ok ((s2.updThread t.uid fun x => x.oweAll (s.owedBy t i)).advance t p i, t1)

/-- One attempt: the checks, then the operation `body`, which sees the state after `begin` and the thread with its
operands. A trap at any point leaves everything as it was (R41); a poisoned word that its translation read is charged (R363). -/
def State.attemptAt (s : State) (t : Thread) (p : Port) (i : Instr) (body : State → Thread → Port → Except Trap State) :
    State :=
  match s.verdict t p i with
  | .trap tr => s.takeTrap t p tr
  | .skip => s.advance t p i
  | .wait _ => s
  | .go =>
    match s.begin t p i with
    | .error tr => (s.chargeTrap t.ctx t.phys tr).takeTrap t p tr
    | .ok (s1, t1) =>
      match body s1 t1 p with
      | .error tr => (s.chargeTrap t.ctx t.phys tr).takeTrap t p tr
      | .ok s2 => s2

/-- An instruction issues only for a thread at the issue port. -/
def attempt (i : Instr) (s : State) (body : State → Thread → Port → Except Trap State) :
    Host.Outcome State Fault Refusal :=
  match s.port with
  | none => .fault .noIssuer
  | some p =>
    match s.thread? p.uid with
    | none => .fault .noIssuer
    | some t => .next (s.attemptAt t p i body)

/-- An instruction whose one result is a function of the operands (R37). -/
def compute (i : Instr) (s : State) (f : Thread → List (Operand × Wide)) : Host.Outcome State Fault Refusal :=
  attempt i s fun s t p => .ok (s.result t p (f t) .alu none)

/-- An integer result. -/
def intResult (d : IReg) (v : Word) : List (Operand × Wide) := [(.int d, v.setWidth 256)]

/-- Two predicates: a condition and its negation (R62). -/
def predResult (p q : PReg) (c : Bool) : List (Operand × Wide) :=
  [(.pred p, (boolWord c).setWidth 256), (.pred q, (boolWord (!c)).setWidth 256)]

end Sys2Proof.Machine
end

