-- ==== Sys2Proof/Machine/LoadStore.lean ====
section
/-! DEFINITION. Plain loads and stores (R67, R68). Each checks and translates its address before it leaves (R201). -/

namespace Sys2Proof.Machine

/-- Address of a MEM-format access of `size` bytes (R67). -/
def memAddr (t : Thread) (b : IReg) (o : BitVec 10) (size : Nat) : Word := t.int b + sext64 o * BitVec.ofNat 64 size

/-- Check and translate an access, then send it (R201). -/
def State.access (s : State) (t : Thread) (p : Port) (k : AKind) (a : Word) (size : Nat) (write aperFirst red : Bool)
    (push : Option Nat) (op : AccOp) : Except Trap State :=
  match s.resolve t.issuer k a size write aperFirst false with
  | (.error tr, _) => .error tr
  | (.ok l, s) => .ok (s.sendAccess t p l size op red push)

/-- A load into a register (R67). -/
def loadOp (i : Instr) (s : State) (d : Operand) (b : IReg) (o : BitVec 10) (size : Nat) (ext : Ext) :
    Host.Outcome State Fault Refusal :=
  attempt i s fun s t p =>
    s.access t p .plain (memAddr t b o size) size false false false (s.pushFor t d) (.load ext d)

/-- A store of the low bytes of a value (R67). -/
def storeOp (i : Instr) (s : State) (v : Thread → Wide) (b : IReg) (o : BitVec 10) (size : Nat) :
    Host.Outcome State Fault Refusal :=
  attempt i s fun s t p => s.access t p .plain (memAddr t b o size) size true false false none (.store (v t))

/-- LD.BS (R67): 1 byte, sign-extended. -/
def execLdBs (d b : IReg) (o : BitVec 10) (s : State) : Host.Outcome State Fault Refusal :=
  loadOp (.ldBs d b o) s (.int d) b o 1 .sx

/-- LD.BZ (R67): 1 byte, zero-extended. -/
def execLdBz (d b : IReg) (o : BitVec 10) (s : State) : Host.Outcome State Fault Refusal :=
  loadOp (.ldBz d b o) s (.int d) b o 1 .zx

/-- LD.HS (R67): 2 bytes, sign-extended. -/
def execLdHs (d b : IReg) (o : BitVec 10) (s : State) : Host.Outcome State Fault Refusal :=
  loadOp (.ldHs d b o) s (.int d) b o 2 .sx

/-- LD.HZ (R67): 2 bytes, zero-extended. -/
def execLdHz (d b : IReg) (o : BitVec 10) (s : State) : Host.Outcome State Fault Refusal :=
  loadOp (.ldHz d b o) s (.int d) b o 2 .zx

/-- LD.WS (R67): 4 bytes, sign-extended. -/
def execLdWs (d b : IReg) (o : BitVec 10) (s : State) : Host.Outcome State Fault Refusal :=
  loadOp (.ldWs d b o) s (.int d) b o 4 .sx

/-- LD.WZ (R67): 4 bytes, zero-extended. -/
def execLdWz (d b : IReg) (o : BitVec 10) (s : State) : Host.Outcome State Fault Refusal :=
  loadOp (.ldWz d b o) s (.int d) b o 4 .zx

/-- LD.D (R67): 8 bytes. -/
def execLdD (d b : IReg) (o : BitVec 10) (s : State) : Host.Outcome State Fault Refusal :=
  loadOp (.ldD d b o) s (.int d) b o 8 .zx

/-- LDW (R67, R68): 32 bytes into a wide register, or into the stream bound to it. -/
def execLdw (d : WReg) (b : IReg) (o : BitVec 10) (s : State) : Host.Outcome State Fault Refusal :=
  loadOp (.ldw d b o) s (.wide d) b o 32 .zx

/-- LDK (R67): 8 bytes into an extension register. -/
def execLdk (k : KReg) (b : IReg) (o : BitVec 10) (s : State) : Host.Outcome State Fault Refusal :=
  loadOp (.ldk k b o) s (.ext k) b o 8 .zx

/-- ST.B (R67). -/
def execStB (d b : IReg) (o : BitVec 10) (s : State) : Host.Outcome State Fault Refusal :=
  storeOp (.stB d b o) s (fun t => (t.int d).setWidth 256) b o 1

/-- ST.H (R67). -/
def execStH (d b : IReg) (o : BitVec 10) (s : State) : Host.Outcome State Fault Refusal :=
  storeOp (.stH d b o) s (fun t => (t.int d).setWidth 256) b o 2

/-- ST.W (R67). -/
def execStW (d b : IReg) (o : BitVec 10) (s : State) : Host.Outcome State Fault Refusal :=
  storeOp (.stW d b o) s (fun t => (t.int d).setWidth 256) b o 4

/-- ST.D (R67). -/
def execStD (d b : IReg) (o : BitVec 10) (s : State) : Host.Outcome State Fault Refusal :=
  storeOp (.stD d b o) s (fun t => (t.int d).setWidth 256) b o 8

/-- STW (R67, R68): all 256 bits of a wide register, or of the element popped through it. -/
def execStw (d : WReg) (b : IReg) (o : BitVec 10) (s : State) : Host.Outcome State Fault Refusal :=
  storeOp (.stw d b o) s (fun t => t.wide d) b o 32

end Sys2Proof.Machine
end

