-- ==== Sys2Proof/Machine/Atomics.lean ====
section
/-! DEFINITION. Full/empty instructions, fences, atomics, reductions, watches, exact sum slots, CVTA and ISAP
(R214 to R233), and the ORD prefix (R30, R31). -/

namespace Sys2Proof.Machine

/-! ## Shared forms -/

/-- Bytes of an atomic (R221). -/
def awBytes : AWidth → Nat
  | .d => 8
  | .w => 4

/-- A full/empty request at [ra + rb] (R216). -/
def granuleOp (i : Instr) (s : State) (a b : IReg) (write : Bool) (op : Thread → AccOp) :
    Host.Outcome State Fault Refusal :=
  attempt i s fun s t p => s.access t p .granule (t.int a + t.int b) 8 write true false none (op t)

/-- A returning atomic (R221). -/
def atomicOp (i : Instr) (s : State) (fn : BitVec 4) (d a b : IReg) (w : AWidth) : Host.Outcome State Fault Refusal :=
  attempt i s fun s t p =>
    s.access t p .atomic (t.int a) (awBytes w) true false false none (.rmw fn (t.int b) (t.int d) (some d))

/-- The count of pending reductions rises at issue (R225). -/
def State.raiseReds (s : State) (uid : Nat) : State := s.updThread uid fun t => { t with reds := t.reds + 1 }

/-- A reduction (R224, R225). -/
def reductionOp (i : Instr) (s : State) (fn : BitVec 4) (a b : IReg) (w : AWidth) : Host.Outcome State Fault Refusal :=
  attempt i s fun s t p =>
    (s.access t p .atomic (t.int a) (awBytes w) true false true none (.rmw fn (t.int b) 0 none)).map
      (·.raiseReds t.uid)

/-- An addend for the sum slot bound to a location (R229). -/
def sumaddOp (i : Instr) (s : State) (f : Fmt) (a b : IReg) : Host.Outcome State Fault Refusal :=
  attempt i s fun s t p =>
    (s.access t p .sum (t.int a) 8 true true true none (.sumAdd f (t.int b))).map (·.raiseReds t.uid)

/-- What a fence waits for: the thread's accesses, reductions and pushes with a home in the scope, and its MSTs where
the own scratchpad lies in it (R215). -/
def State.fenceAccs (s : State) (t : Thread) (sc : Scope) : List Nat :=
  (s.accs.filter fun a => a.uid == some t.uid && a.loc.inScope t.phys sc).map (·.id)

def State.fenceOps (s : State) (t : Thread) (sc : Scope) : List Nat :=
  if sc = .core then [] else
    ((s.mopsOf t).filter fun m => (match m.kind with
      | .mst _ _ _ _ => true
      | _ => false)).map (·.id)

/-- A fence at a scope (R215): it issues, and holds the thread's later accesses until what it waits for is performed. -/
def fenceOp (i : Instr) (s : State) (sc : Scope) : Host.Outcome State Fault Refusal :=
  attempt i s fun s t _ =>
    let as := s.fenceAccs t sc
    let ms := s.fenceOps t sc
    .ok (if as.isEmpty && ms.isEmpty then s else s.pend t .zero (.fence as ms))

/-! ## Full/empty (R216 to R220) -/

/-- LDFE (R218). -/
def execLdfe (d a b : IReg) (s : State) : Host.Outcome State Fault Refusal :=
  granuleOp (.ldfe d a b) s a b false fun _ => .ldfe true d

/-- LDFF (R218). -/
def execLdff (d a b : IReg) (s : State) : Host.Outcome State Fault Refusal :=
  granuleOp (.ldff d a b) s a b false fun _ => .ldfe false d

/-- STFE (R218). -/
def execStfe (d a b : IReg) (s : State) : Host.Outcome State Fault Refusal :=
  granuleOp (.stfe d a b) s a b true fun t => .stfe (t.int d)

/-- FEINIT.e (R219). -/
def execFeinitE (a b : IReg) (s : State) : Host.Outcome State Fault Refusal :=
  granuleOp (.feinitE a b) s a b true fun _ => .feinit false

/-- FEINIT.f (R219). -/
def execFeinitF (a b : IReg) (s : State) : Host.Outcome State Fault Refusal :=
  granuleOp (.feinitF a b) s a b true fun _ => .feinit true

/-! ## Fences (R215) -/

/-- FENCE.core (R215). -/
def execFenceCore (s : State) : Host.Outcome State Fault Refusal := fenceOp .fenceCore s .core

/-- FENCE.cl (R215). -/
def execFenceCl (s : State) : Host.Outcome State Fault Refusal := fenceOp .fenceCl s .cl

/-- FENCE.dev (R215). -/
def execFenceDev (s : State) : Host.Outcome State Fault Refusal := fenceOp .fenceDev s .dev

/-- FENCE.sys (R215). -/
def execFenceSys (s : State) : Host.Outcome State Fault Refusal := fenceOp .fenceSys s .sys

/-! ## Returning atomics (R221 to R223) -/

/-- AADD (R221). -/
def execAadd (d a b : IReg) (w : AWidth) (s : State) : Host.Outcome State Fault Refusal :=
  atomicOp (.aadd d a b w) s 0 d a b w

/-- AAND (R221). -/
def execAand (d a b : IReg) (w : AWidth) (s : State) : Host.Outcome State Fault Refusal :=
  atomicOp (.aand d a b w) s 1 d a b w

/-- AOR (R221). -/
def execAor (d a b : IReg) (w : AWidth) (s : State) : Host.Outcome State Fault Refusal :=
  atomicOp (.aor d a b w) s 2 d a b w

/-- AXOR (R221). -/
def execAxor (d a b : IReg) (w : AWidth) (s : State) : Host.Outcome State Fault Refusal :=
  atomicOp (.axor d a b w) s 3 d a b w

/-- AMIN (R221). -/
def execAmin (d a b : IReg) (w : AWidth) (s : State) : Host.Outcome State Fault Refusal :=
  atomicOp (.amin d a b w) s 4 d a b w

/-- AMAX (R221). -/
def execAmax (d a b : IReg) (w : AWidth) (s : State) : Host.Outcome State Fault Refusal :=
  atomicOp (.amax d a b w) s 5 d a b w

/-- AMINU (R221). -/
def execAminu (d a b : IReg) (w : AWidth) (s : State) : Host.Outcome State Fault Refusal :=
  atomicOp (.aminu d a b w) s 6 d a b w

/-- AMAXU (R221). -/
def execAmaxu (d a b : IReg) (w : AWidth) (s : State) : Host.Outcome State Fault Refusal :=
  atomicOp (.amaxu d a b w) s 7 d a b w

/-- AXCHG (R221). -/
def execAxchg (d a b : IReg) (w : AWidth) (s : State) : Host.Outcome State Fault Refusal :=
  atomicOp (.axchg d a b w) s 8 d a b w

/-- ACAS (R221). -/
def execAcas (d a b : IReg) (w : AWidth) (s : State) : Host.Outcome State Fault Refusal :=
  atomicOp (.acas d a b w) s 9 d a b w

/-- AFADD (R223). -/
def execAfadd (d a b : IReg) (w : AWidth) (s : State) : Host.Outcome State Fault Refusal :=
  atomicOp (.afadd d a b w) s 10 d a b w

/-! ## Reductions (R224, R225, R229) -/

/-- RED.ADD (R224). -/
def execRedAdd (a b : IReg) (w : AWidth) (s : State) : Host.Outcome State Fault Refusal :=
  reductionOp (.redAdd a b w) s 0 a b w

/-- RED.AND (R224). -/
def execRedAnd (a b : IReg) (w : AWidth) (s : State) : Host.Outcome State Fault Refusal :=
  reductionOp (.redAnd a b w) s 1 a b w

/-- RED.OR (R224). -/
def execRedOr (a b : IReg) (w : AWidth) (s : State) : Host.Outcome State Fault Refusal :=
  reductionOp (.redOr a b w) s 2 a b w

/-- RED.XOR (R224). -/
def execRedXor (a b : IReg) (w : AWidth) (s : State) : Host.Outcome State Fault Refusal :=
  reductionOp (.redXor a b w) s 3 a b w

/-- RED.MIN (R224). -/
def execRedMin (a b : IReg) (w : AWidth) (s : State) : Host.Outcome State Fault Refusal :=
  reductionOp (.redMin a b w) s 4 a b w

/-- RED.MAX (R224). -/
def execRedMax (a b : IReg) (w : AWidth) (s : State) : Host.Outcome State Fault Refusal :=
  reductionOp (.redMax a b w) s 5 a b w

/-- RED.MINU (R224). -/
def execRedMinu (a b : IReg) (w : AWidth) (s : State) : Host.Outcome State Fault Refusal :=
  reductionOp (.redMinu a b w) s 6 a b w

/-- RED.MAXU (R224). -/
def execRedMaxu (a b : IReg) (w : AWidth) (s : State) : Host.Outcome State Fault Refusal :=
  reductionOp (.redMaxu a b w) s 7 a b w

/-- REDFADD (R224). -/
def execRedfadd (a b : IReg) (w : AWidth) (s : State) : Host.Outcome State Fault Refusal :=
  reductionOp (.redfadd a b w) s 10 a b w

/-- SUMADD.s (R229). -/
def execSumaddS (a b : IReg) (s : State) : Host.Outcome State Fault Refusal := sumaddOp (.sumaddS a b) s .s a b

/-- SUMADD.bf (R229). -/
def execSumaddBf (a b : IReg) (s : State) : Host.Outcome State Fault Refusal := sumaddOp (.sumaddBf a b) s .bf a b

/-- SUMADD.h (R229). -/
def execSumaddH (a b : IReg) (s : State) : Host.Outcome State Fault Refusal := sumaddOp (.sumaddH a b) s .h a b

/-! ## Watches and sum slots (R226, R228, R230) -/

/-- AWAIT (R226). -/
def execAwait (d a b : IReg) (c : AwCond) (w : AWidth) (s : State) : Host.Outcome State Fault Refusal :=
  attempt (.await d a b c w) s fun s t p =>
    s.access t p .await_ (t.int a) (awBytes w) false false false none (.await c (t.int b) d)

/-- SUMON (R228), which needs write permission (R329). -/
def execSumon (p q : PReg) (a : IReg) (s : State) : Host.Outcome State Fault Refusal :=
  attempt (.sumon p q a) s fun s t pt => s.access t pt .sum (t.int a) 8 true true false none (.sumOn p q)

/-- SUMOFF (R230). -/
def execSumoff (d a : IReg) (s : State) : Host.Outcome State Fault Refusal :=
  attempt (.sumoff d a) s fun s t p => s.access t p .sum (t.int a) 8 true true false none (.sumOff d)

/-! ## CVTA and ISAP (R232, R233) -/

/-- Own-scratchpad address to cluster-space address, or all ones (R232). -/
def State.cvtaCl (s : State) (t : Thread) (a : Word) : Word :=
  match s.group? t.group with
  | some g =>
    if aperture a = some .spad && (s.place t.issuer a 1).isSome then
      0xE100000000000000 + BitVec.ofNat 64 (g.lcl * 2 ^ 21 + g.spadBase + (bits a 0 21).toNat)
    else BitVec.allOnes 64
  | none => BitVec.allOnes 64

/-- A cluster-space address names a byte of the group's own allotment. -/
def Group.ownByte (g : Group) (a : Word) : Bool :=
  let off := (bits a 0 21).toNat
  aperture a == some .cluster && bits a 29 27 == 0 && (bits a 21 8).toNat == g.lcl && decide (g.spadBase ≤ off)
    && decide (off < g.spadBase + g.spadSize)

/-- Cluster-space address of the own allotment to own-scratchpad address, or all ones (R232). -/
def State.cvtaSp (s : State) (t : Thread) (a : Word) : Word :=
  match s.group? t.group with
  | some g =>
    if g.ownByte a then 0xE200000000000000 + BitVec.ofNat 64 ((bits a 0 21).toNat - g.spadBase)
    else BitVec.allOnes 64
  | none => BitVec.allOnes 64

/-- CVTA.cl (R232). -/
def execCvtaCl (d a : IReg) (s : State) : Host.Outcome State Fault Refusal :=
  attempt (.cvtaCl d a) s fun s t p => .ok (s.result t p (intResult d (s.cvtaCl t (t.int a))) .alu none)

/-- CVTA.sp (R232). -/
def execCvtaSp (d a : IReg) (s : State) : Host.Outcome State Fault Refusal :=
  attempt (.cvtaSp d a) s fun s t p => .ok (s.result t p (intResult d (s.cvtaSp t (t.int a))) .alu none)

/-- The address lies in the class (R233). -/
def State.isap (s : State) (t : Thread) (c : ApClass) (a : Word) : Bool :=
  let at_ (ap : Aperture) : Bool := aperture a == some ap && (s.place t.issuer a 1).isSome
  match c with
  | .gl => at_ .global
  | .sys => aperture a == some .system
    && ((s.ctx? t.ctx).bind fun x => x.peers.lookup (bits a 47 9).toNat).isSome
  | .can => at_ .canopy
  | .cls => at_ .cluster
  | .sp => at_ .spad
  | .tcm => at_ .tcm
  | .own => at_ .spad || (at_ .cluster && ((s.group? t.group).map (·.ownByte a)).getD false)

/-- ISAP (R233). -/
def execIsap (p q : PReg) (a : IReg) (c : ApClass) (s : State) : Host.Outcome State Fault Refusal :=
  attempt (.isap p q a c) s fun s t pt => .ok (s.result t pt (predResult p q (s.isap t c (t.int a))) .alu none)

/-! ## The prefix (R30, R31, R50) -/

/-- The meaning of an instruction that follows a prefix; one that takes none is an illegal instruction. -/
def prefixed (i : Instr) (s : State) : Host.Outcome State Fault Refusal :=
  match i with
  | .ldBs d b o => execLdBs d b o s
  | .ldBz d b o => execLdBz d b o s
  | .ldHs d b o => execLdHs d b o s
  | .ldHz d b o => execLdHz d b o s
  | .ldWs d b o => execLdWs d b o s
  | .ldWz d b o => execLdWz d b o s
  | .ldD d b o => execLdD d b o s
  | .ldw d b o => execLdw d b o s
  | .stB d b o => execStB d b o s
  | .stH d b o => execStH d b o s
  | .stW d b o => execStW d b o s
  | .stD d b o => execStD d b o s
  | .stw d b o => execStw d b o s
  | .ldk d b o => execLdk d b o s
  | .ldfe d a b => execLdfe d a b s
  | .ldff d a b => execLdff d a b s
  | .stfe d a b => execStfe d a b s
  | .feinitE a b => execFeinitE a b s
  | .feinitF a b => execFeinitF a b s
  | .aadd d a b w => execAadd d a b w s
  | .aand d a b w => execAand d a b w s
  | .aor d a b w => execAor d a b w s
  | .axor d a b w => execAxor d a b w s
  | .amin d a b w => execAmin d a b w s
  | .amax d a b w => execAmax d a b w s
  | .aminu d a b w => execAminu d a b w s
  | .amaxu d a b w => execAmaxu d a b w s
  | .axchg d a b w => execAxchg d a b w s
  | .acas d a b w => execAcas d a b w s
  | .afadd d a b w => execAfadd d a b w s
  | .redAdd a b w => execRedAdd a b w s
  | .redAnd a b w => execRedAnd a b w s
  | .redOr a b w => execRedOr a b w s
  | .redXor a b w => execRedXor a b w s
  | .redMin a b w => execRedMin a b w s
  | .redMax a b w => execRedMax a b w s
  | .redMinu a b w => execRedMinu a b w s
  | .redMaxu a b w => execRedMaxu a b w s
  | .redfadd a b w => execRedfadd a b w s
  | .sumaddS a b => execSumaddS a b s
  | .sumaddBf a b => execSumaddBf a b s
  | .sumaddH a b => execSumaddH a b s
  | .await d a b c w => execAwait d a b c w s
  | .sumon p q a => execSumon p q a s
  | .sumoff d a => execSumoff d a s
  | _ => attempt i s fun _ _ _ => .error .illegal

/-- ORD (R30, R31): the prefix and the word after it issue as one, with the guard of the word after it. -/
def execOrd (o : Order) (sc : Scope) (s : State) : Host.Outcome State Fault Refusal :=
  match s.port with
  | none => .fault .noIssuer
  | some p =>
    match s.thread? p.uid with
    | none => .fault .noIssuer
    | some t =>
      match s.fetchWord t.graph (t.pc + 2) with
      | .bad d => .next (s.takeTrap t p (.plain 0x01 d))
      | .illegal => .next (s.takeTrap t p .illegal)
      | .ok g i => prefixed i { s with port := some { p with guard := g, pfx := some (o, sc) } }

end Sys2Proof.Machine
end

