-- ==== Sys2Proof/Machine/Copies.lean ====
section
/-! DEFINITION. The copy instructions (R234 to R247) and WAITK (R243, R250). -/

namespace Sys2Proof.Machine

/-- A copy issues: its token's count rises, and the engine holds it with the issuer's stamp (R235, R312). -/
def State.startCopy (s : State) (t : Thread) (kind : CopyKind) (n : Fin 8) (slack : Nat)
    (units : List (Loc × List Loc)) (pages : List (Nat × Nat)) : State :=
  let c : Copy := ⟨s.fresh, t.uid, t.group, t.ctx, t.phys, t.lcl, kind, n, slack, s.now, units, units, pages, [], false, 0, none, t.stamp⟩
  let s := { s with copies := s.copies ++ [c], fresh := s.fresh + 1 }
  s.updThread t.uid fun t => { t with tokens := t.tokens.set n.val (t.tokens[n.val] + 1) }

/-- A copy whose checks are a plan (R235): the first trap, or the copy. One that has waited for room keeps the translations
it obtained (R237). -/
def copyOp (i : Instr) (s : State) (n : Fin 8) (kind : Thread → CopyKind) : Host.Outcome State Fault Refusal :=
  attempt i s fun s t _ =>
    match s.keptPlan t i with
    | (.error tr, _) => .error tr
    | (.ok (.copy us slack ps), s) => .ok (s.startCopy t (kind t) n slack us ps)
    | _ => .error .copyParam

/-- CPG.in (R239). -/
def execCpgIn (n : Fin 8) (a b : IReg) (s : State) : Host.Outcome State Fault Refusal :=
  copyOp (.cpgIn n a b) s n fun _ => .cpg false

/-- CPG.out (R239). -/
def execCpgOut (n : Fin 8) (a b : IReg) (s : State) : Host.Outcome State Fault Refusal :=
  copyOp (.cpgOut n a b) s n fun _ => .cpg true

/-- SEND (R240). -/
def execSend (n : Fin 8) (a b : IReg) (s : State) : Host.Outcome State Fault Refusal :=
  copyOp (.send n a b) s n fun _ => .send

/-- Far-table entry that k1 names (R245). -/
def farEntryOf (t : Thread) : Nat := (bits (t.ext 1) 0 6).toNat

/-- CPFAR.in (R245): the tag to publish stands in Reg[rb] under its publish bit. -/
def execCpfarIn (n : Fin 8) (a b : IReg) (s : State) : Host.Outcome State Fault Refusal :=
  copyOp (.cpfarIn n a b) s n fun t =>
    .farIn (t.ext 0) (farEntryOf t) (if (t.int b).getLsbD 32 then some (bits (t.int b) 0 32) else none)

/-- CPFAR.out (R245). -/
def execCpfarOut (n : Fin 8) (a b : IReg) (s : State) : Host.Outcome State Fault Refusal :=
  copyOp (.cpfarOut n a b) s n fun t => .farOut (t.ext 0) (farEntryOf t) (bits (t.int b) 0 2).toNat

/-- The ring carries the collective: path 1, stratus mode, or a default on a communicator without a switch group
(R247; log entry 30). -/
def State.collRing (s : State) (t : Thread) (c : CollArgs) (m : Comm) : Bool :=
  c.path == 1 || ((s.replayOf? t.group).map fun r => decide (r.stratus ≠ 0)).getD false || (c.path == 0 && m.group == 0)

/-- Register the copy as the communicator's next collective, with the messages that came before it; its own
contribution is read and sent by the port engine later (R210). -/
def State.joinColl (s : State) (t : Thread) (c : CollArgs) (m : Comm) (copy : Nat) (src dst : List Loc) : State :=
  let coll : Coll := ⟨m.issued, copy, c.op, c.fmt.code.toNat, c.n, s.collRing t c m, src, dst,
    m.early.filter fun x => x.k == m.issued⟩
  s.updCtx t.ctx fun x => { x with comms := x.comms.map fun y =>
    if y.num == m.num then { y with issued := y.issued + 1, open_ := y.open_ ++ [coll]
                                    early := y.early.filter fun e => e.k != y.issued } else y }

/-- COLL (R247). -/
def execColl (n : Fin 8) (a b : IReg) (s : State) : Host.Outcome State Fault Refusal :=
  attempt (.coll n a b) s fun s t _ =>
    let c := CollArgs.of (t.ext 0) (t.ext 1)
    match s.keptPlan t (.coll n a b) with
    | (.error tr, _) => .error tr
    | (.ok (.coll src dst ps), s) =>
      (match (s.ctx? t.ctx).bind fun x => x.comms.find? fun m => m.num == c.comm with
      | none => .error .copyParam
      | some m =>
        let copy := s.fresh
        .ok ((s.startCopy t (.coll c.comm m.issued (c.fmt.width / 8)) n c.slack (src.map fun l => (l, [])) ps).joinColl t c m copy src dst))
    | _ => .error .copyParam

/-- WAITK (R243, R250): it issues once no copy is in flight on its tokens, or one of them carries an error, which it
reports. -/
def execWaitk (m : BitVec 8) (s : State) : Host.Outcome State Fault Refusal :=
  attempt (.waitk m) s fun s t _ =>
    match (List.finRange 8).find? fun k => m.getLsbD k.val && t.tokErr[k.val].isSome with
    | some k =>
      (match t.tokErr[k.val] with
      | some e => .error ⟨0x10, 0, BitVec.ofNat 64 (e.detail * 2 ^ 32 + e.code % 8 * 16 + k.val), none, some k, none⟩
      | none => .ok s)
    | none => .ok s

end Sys2Proof.Machine
end

