-- ==== Sys2Proof/Machine/Special.lean ====
section
/-! DEFINITION. Approximations of the functions of R133 in fixed point, 128 bits after the binary point, from which the bounds
of R133 are tested. Each is right to far less than the smallest ulp that its bound is counted in. -/

namespace Sys2Proof.Machine

/-- 1, ln 2 and, with 256 bits after the point, π. -/
def fxOne : Nat := 2 ^ 128
def fxLn2 : Nat := 0xB17217F7D1CF79ABC9E3B39803F2F6AF
def fxPi256 : Nat := 0x3243F6A8885A308D313198A2E03707344A4093822299F31D0082EFA98EC4E6C89

def fxMul (a b : Nat) : Nat := a * b / fxOne
def fxDiv (a b : Nat) : Nat := a * fxOne / b

/-- A fixed-point number from m · 2^e, cut off. -/
def fxOf (m : Nat) (e : Int) : Nat := if 0 ≤ e + 128 then m * 2 ^ (e + 128).toNat else m / 2 ^ (-e - 128).toNat

/-- 2^f for 0 ≤ f < 1: the Taylor series of exp at f · ln 2. -/
def fxExp2 (f : Nat) : Nat :=
  let t := fxMul f fxLn2
  (List.range 40).foldr (fun k r => fxOne + fxMul t r / (k + 1)) fxOne

/-- log2 y for 1 ≤ y < 2: 2 · artanh((y − 1) / (y + 1)) / ln 2. -/
def fxLog2 (y : Nat) : Nat :=
  let z := fxDiv (y - fxOne) (y + fxOne)
  let z2 := fxMul z z
  let sum := (List.range 45).foldr (fun k r => fxOne / (2 * k + 1) + fxMul z2 r) 0
  fxDiv (2 * fxMul z sum) fxLn2

/-- sin r and cos r for 0 ≤ r ≤ π/4. -/
def fxSin (r : Nat) : Nat :=
  fxMul r ((List.range 20).foldr (fun k s => fxOne - fxMul (fxMul r r) s / ((2 * k + 2) * (2 * k + 3))) fxOne)
def fxCos (r : Nat) : Nat :=
  (List.range 20).foldr (fun k s => fxOne - fxMul (fxMul r r) s / ((2 * k + 1) * (2 * k + 2))) fxOne

/-- Sign and magnitude of the sine, or the cosine, of m · 2^e, e ≥ −149: the quadrant, and the rest of the argument, which is
reduced exactly but for the last bits of π. -/
def fxTrig (cos : Bool) (m : Nat) (e : Int) : Bool × Nat :=
  let x := m * 2 ^ (e + 256).toNat
  let half := fxPi256 / 2
  let q := (x + half / 2) / half
  let neg := decide (x < q * half)
  let r := ((x : Int) - (q * half : Nat)).natAbs / 2 ^ 128
  match q % 4, cos with
  | 0, false => (neg, fxSin r)
  | 1, false => (false, fxCos r)
  | 2, false => (!neg, fxSin r)
  | _, false => (true, fxCos r)
  | 0, true => (false, fxCos r)
  | 1, true => (!neg, fxSin r)
  | 2, true => (true, fxCos r)
  | _, true => (neg, fxSin r)

/-- tanh of m · 2^e > 0, as a · 2^s: its series for a small argument, else from e^(2x). -/
def fxTanh (m : Nat) (e : Int) : Nat × Int :=
  let top : Int := Nat.log2 m + e
  if top < -20 then
    let x := fxOf m e
    (m * (fxOne - fxMul x x / 3), e - 128)
  else if 5 ≤ top then (fxOne - 1, -128)
  else
    let u := fxDiv (2 * fxOf m e) fxLn2
    let y := fxExp2 (u % fxOne) * 2 ^ (u / fxOne)
    (fxDiv (y - fxOne) (y + fxOne), -128)

/-- 2^x for x = ±m · 2^e, as a · 2^s; below 2^−400 it stands for any value as small. -/
def fxPow2 (neg : Bool) (m : Nat) (e : Int) : Nat × Int :=
  let v := if 400 ≤ (if 0 ≤ e then m * 2 ^ (min e 20).toNat else m / 2 ^ (-e).toNat) then 400 * fxOne else fxOf m e
  let whole := v / fxOne
  let f := v % fxOne
  if !neg then (fxExp2 f, (whole : Int) - 128)
  else if f = 0 then (fxOne, -(whole : Int) - 128)
  else (fxExp2 (fxOne - f), -(whole : Int) - 1 - 128)

/-- Sign and magnitude of log2 of m · 2^e > 0. -/
def fxLog (m : Nat) (e : Int) : Bool × Nat :=
  let k := Nat.log2 m
  let l : Int := (k + e) * (fxOne : Nat) + fxLog2 (fxOf m (-(k : Int)))
  (decide (l < 0), l.natAbs)

end Sys2Proof.Machine
end

