-- ==== Sys2Proof/Machine/Flags.lean ====
section
/-! DEFINITION. Number formats, rounding and the five sticky flags (R109 to R123), conversions (R126 to R128), the
arithmetic of scalar and wide lanes (R130 to R134), and the stochastic generator (R118, R119). Values are computed
exactly and narrowed once, by `roundTo`. -/

namespace Sys2Proof.Machine

/-! ## Flags (R123) -/

def fInvalid : FFlags := 16
def fDivZero : FFlags := 8
def fOverflow : FFlags := 4
def fUnderflow : FFlags := 2
def fInexact : FFlags := 1

/-- A result with the flags it sets. -/
abbrev Flagged := Nat × FFlags

/-! ## Formats (R111) -/

/-- Fraction bits. -/
def fracBits : Fmt → Nat
  | .d => 52
  | .s => 23
  | .h => 10
  | .bf => 7
  | .e5 => 2
  | .e4 => 3
  | .e2 => 1
  | _ => 0

/-- Exponent bias. -/
def expBias : Fmt → Nat
  | .d => 1023
  | .s => 127
  | .h => 15
  | .bf => 127
  | .e5 => 15
  | .e4 => 7
  | .e2 => 1
  | _ => 127

/-- Largest finite magnitude, as a bit pattern. -/
def maxFinite : Fmt → Nat
  | .d => 0x7FEFFFFFFFFFFFFF
  | .s => 0x7F7FFFFF
  | .h => 0x7BFF
  | .bf => 0x7F7F
  | .e5 => 0x7B
  | .e4 => 0x7E
  | .e2 => 7
  | _ => 0

/-- The format has infinities. -/
def hasInf : Fmt → Bool
  | .d | .s | .h | .bf | .e5 => true
  | _ => false

/-- The canonical NaN; E2M1 has none, and +0 stands for it (R120). -/
def canonNaN : Fmt → Nat
  | .d => 0x7FF8000000000000
  | .s => 0x7FC00000
  | .h => 0x7E00
  | .bf => 0x7FC0
  | .e5 => 0x7E
  | .e4 => 0x7F
  | .x8 => 0xFF
  | _ => 0

/-- Infinity, without its sign. -/
def infBits (f : Fmt) : Nat := maxFinite f + 1

/-- FTZ and DAZ apply to the format (R121, R122). -/
def flushable : Fmt → Bool
  | .d | .s | .h | .bf => true
  | _ => false

/-- The sign bit's place value. -/
def signBit (f : Fmt) : Nat := 2 ^ (f.width - 1)

def withSign (f : Fmt) (neg : Bool) (mag : Nat) : Nat := if neg then signBit f + mag else mag

/-- A value of a floating-point format: m · 2^e with a sign, or special. -/
inductive FVal where
  | nan
  | inf (neg : Bool)
  | fin (neg : Bool) (m : Nat) (e : Int)
  deriving DecidableEq, Repr

/-- Smallest normal exponent (R117). -/
def emin (f : Fmt) : Int := 1 - expBias f

/-- Read an encoding (R111). -/
def unpack (f : Fmt) (b : Nat) : FVal :=
  let mag := b % signBit f
  let neg := decide (signBit f ≤ b % 2 ^ f.width)
  let E := mag / 2 ^ fracBits f
  if maxFinite f < mag then (if hasInf f && mag == infBits f then .inf neg else .nan)
  else if E = 0 then .fin neg mag (emin f - fracBits f)
  else .fin neg (2 ^ fracBits f + mag % 2 ^ fracBits f) (E - expBias f - fracBits f)

/-- The encoding is a NaN. -/
def isNaN (f : Fmt) (b : Nat) : Bool := unpack f b == .nan

/-- A subnormal encoding. -/
def isSubnormal (f : Fmt) (b : Nat) : Bool :=
  b % signBit f / 2 ^ fracBits f == 0 && b % 2 ^ fracBits f != 0

/-! ## Rounding (R116, R117, R120) -/

inductive RMode where
  | rne | rtz | rup | rdn | rna
  /-- stochastic, with the draw -/
  | sr (draw : BitVec 32)
  deriving DecidableEq, Repr

/-- The dynamic mode (R116); codes 5 to 7 never stand in the field. -/
def RMode.ofCode (b : BitVec 3) : RMode :=
  match b.toNat with
  | 1 => .rtz
  | 2 => .rup
  | 3 => .rdn
  | 4 => .rna
  | _ => .rne

/-- What rounding depends on: the mode, FTZ and DAZ of the control word, and `.sat`. -/
structure FEnv where
  rm : RMode
  ftz : Bool
  daz : Bool
  sat : Bool
  deriving DecidableEq, Repr

/-- A thread's control word. -/
def Thread.fenv (t : Thread) : FEnv := ⟨.ofCode t.rm, t.ftz, t.daz, false⟩

/-- RNE with nothing flushed (R122, R124). -/
def FEnv.plain : FEnv := ⟨.rne, false, false, false⟩

/-- Overflow (R120): the encoding, sign included. -/
def overflowBits (f : Fmt) (rm : RMode) (sat neg : Bool) : Nat :=
  let toMax := match rm with
    | .rtz => true
    | .rup => neg
    | .rdn => !neg
    | _ => false
  if sat || f == .e2 || toMax then withSign f neg (maxFinite f)
  else if hasInf f then withSign f neg (infBits f)
  else canonNaN f

/-- Rounding goes away from zero: `n` the truncated units, remainder r / 2^k (R117). -/
def roundsUp (rm : RMode) (neg : Bool) (n r k : Nat) : Bool :=
  match rm with
  | .rne => decide (2 ^ k < 2 * r) || (2 * r == 2 ^ k && n % 2 == 1 && r != 0)
  | .rna => decide (2 ^ k ≤ 2 * r) && r != 0
  | .rtz => false
  | .rup => r != 0 && !neg
  | .rdn => r != 0 && neg
  | .sr d => decide (d.toNat < r * 2 ^ 32 / 2 ^ k)

/-- Round(±m · 2^e, f) of R117 with R120 and R122, for a finite value. -/
def roundTo (f : Fmt) (v : FEnv) (neg : Bool) (m : Nat) (e : Int) : Flagged :=
  if m = 0 then (withSign f neg 0, 0)
  else
    let p := fracBits f
    let ex := max ((Nat.log2 m : Int) + e) (emin f)
    let sh := ex - p
    let k := (sh - e).toNat
    let n := if e ≥ sh then m * 2 ^ (e - sh).toNat else m / 2 ^ k
    let r := if e ≥ sh then 0 else m % 2 ^ k
    let n' := n + if roundsUp v.rm neg n r k then 1 else 0
    -- the encoding of n' units at exponent ex, whatever binade n' reaches
    let mag := (ex + expBias f - 1).toNat * 2 ^ p + n'
    if maxFinite f < mag then (overflowBits f v.rm v.sat neg, fOverflow ||| fInexact)
    else
      let tiny := decide (mag < 2 ^ p)
      if v.ftz && flushable f && tiny && mag != 0 then (withSign f neg 0, fUnderflow ||| fInexact)
      else (withSign f neg mag, (if r != 0 then fInexact else 0) ||| (if r != 0 && tiny then fUnderflow else 0))

/-- Replace a subnormal source by a zero of its sign (R121). -/
def daz (f : Fmt) (v : FEnv) (b : Nat) : Nat :=
  let b := b % 2 ^ f.width
  if v.daz && flushable f && isSubnormal f b then withSign f (decide (signBit f ≤ b)) 0 else b

/-! ## Arithmetic on lanes (R115, R130) -/

/-- Integer numerator of a signed magnitude. -/
def signed (neg : Bool) (m : Nat) : Int := if neg then -(m : Int) else m

/-- Round an exact sum; `zneg` is the sign that R115 gives an exact zero. -/
def roundInt (f : Fmt) (v : FEnv) (x : Int) (e : Int) (zneg : Bool) : Flagged :=
  if x = 0 then (withSign f zneg 0, 0) else roundTo f v (decide (x < 0)) x.natAbs e

/-- Sum of two values (R115, R123). -/
def addVals (f : Fmt) (v : FEnv) (a b : FVal) : Flagged :=
  match a, b with
  | .nan, _ | _, .nan => (canonNaN f, 0)
  | .inf x, .inf y => if x = y then (withSign f x (infBits f), 0) else (canonNaN f, fInvalid)
  | .inf x, _ | _, .inf x => (withSign f x (infBits f), 0)
  | .fin x m e, .fin y n g =>
    let lo := min e g
    let sum := signed x (m * 2 ^ (e - lo).toNat) + signed y (n * 2 ^ (g - lo).toNat)
    let zneg := if m = 0 ∧ n = 0 ∧ x = y then x else v.rm == .rdn
    roundInt f v sum lo zneg

/-- Negate. -/
def FVal.neg : FVal → FVal
  | .nan => .nan
  | .inf x => .inf !x
  | .fin x m e => .fin (!x) m e

/-- Exact product; none for 0 × ∞ (R123). -/
def mulExact (a b : FVal) : Option FVal :=
  match a, b with
  | .nan, _ | _, .nan => some .nan
  | .inf x, .inf y => some (.inf (x != y))
  | .inf x, .fin y m _ | .fin y m _, .inf x => if m = 0 then none else some (.inf (x != y))
  | .fin x m e, .fin y n g => some (.fin (x != y) (m * n) (e + g))

/-- Round a value. -/
def roundVal (f : Fmt) (v : FEnv) : FVal → Flagged
  | .nan => (canonNaN f, 0)
  | .inf x => (withSign f x (infBits f), 0)
  | .fin x m e => roundTo f v x m e

def fAdd (f : Fmt) (v : FEnv) (a b : Nat) : Flagged := addVals f v (unpack f (daz f v a)) (unpack f (daz f v b))
def fSub (f : Fmt) (v : FEnv) (a b : Nat) : Flagged := addVals f v (unpack f (daz f v a)) (unpack f (daz f v b)).neg

def fMul (f : Fmt) (v : FEnv) (a b : Nat) : Flagged :=
  match mulExact (unpack f (daz f v a)) (unpack f (daz f v b)) with
  | none => (canonNaN f, fInvalid)
  | some x => roundVal f v x

/-- a × b + c with one rounding; 0 × ∞ is invalid whatever c is (R130). -/
def fFma (f : Fmt) (v : FEnv) (a b c : Nat) : Flagged :=
  match mulExact (unpack f (daz f v a)) (unpack f (daz f v b)) with
  | none => (canonNaN f, fInvalid)
  | some x => addVals f v x (unpack f (daz f v c))

/-- a / b: the quotient to enough bits, the rest as one sticky bit, rounded once (R130, R123). -/
def fDiv (f : Fmt) (v : FEnv) (a b : Nat) : Flagged :=
  match unpack f (daz f v a), unpack f (daz f v b) with
  | .nan, _ | _, .nan => (canonNaN f, 0)
  | .inf _, .inf _ => (canonNaN f, fInvalid)
  | .inf x, .fin y _ _ => (withSign f (x != y) (infBits f), 0)
  | .fin x _ _, .inf y => (withSign f (x != y) 0, 0)
  | .fin x m e, .fin y n g =>
    if n = 0 then (if m = 0 then (canonNaN f, fInvalid) else (withSign f (x != y) (infBits f), fDivZero))
    else
      let k := fracBits f + 4 + Nat.log2 n
      let q := m * 2 ^ k / n
      let st := if m * 2 ^ k % n = 0 then 0 else 1
      roundTo f v (x != y) (2 * q + st) (e - g - k - 1)

/-- Integer square root, by bits from 2^(k-1) down. -/
def isqrt (x : Nat) : Nat → Nat → Nat
  | 0, r => r
  | k + 1, r => isqrt x k (if (r + 2 ^ k) * (r + 2 ^ k) ≤ x then r + 2 ^ k else r)

/-- Square root of m · 2^e to enough bits, with a sticky bit: mantissa and exponent. -/
def sqrtParts (p m : Nat) (e : Int) : Nat × Int :=
  let k := 2 * (p + 4)
  let odd := (e % 2).toNat
  let x := m * 2 ^ (k + odd)
  let r := isqrt x (Nat.log2 x / 2 + 1) 0
  (2 * r + (if r * r = x then 0 else 1), (e - odd - k) / 2 - 1)

def fSqrt (f : Fmt) (v : FEnv) (a : Nat) : Flagged :=
  match unpack f (daz f v a) with
  | .nan => (canonNaN f, 0)
  | .inf x => if x then (canonNaN f, fInvalid) else (infBits f, 0)
  | .fin x m e =>
    if m = 0 then (withSign f x 0, 0)
    else if x then (canonNaN f, fInvalid)
    else
      let r := sqrtParts (fracBits f) m e
      roundTo f v false r.1 r.2

/-- Order of non-NaN encodings, −0 below +0 (R131). -/
def orderKey (f : Fmt) (b : Nat) : Int := if signBit f ≤ b then -((b - signBit f : Nat) : Int) - 1 else b
/-- Order of non-NaN encodings, the zeros equal (R134). -/
def valueKey (f : Fmt) (b : Nat) : Int := if signBit f ≤ b then -((b - signBit f : Nat) : Int) else b

/-- FMIN, or FMAX (R131). -/
def fMinMax (f : Fmt) (v : FEnv) (max_ : Bool) (a b : Nat) : Nat :=
  let a := daz f v a
  let b := daz f v b
  if isNaN f a then (if isNaN f b then canonNaN f else b)
  else if isNaN f b then a
  else if decide (orderKey f a ≤ orderKey f b) != max_ then a else b

def fAbs (f : Fmt) (a : Nat) : Nat := a % signBit f
def fNeg (f : Fmt) (a : Nat) : Nat := (a + signBit f) % 2 ^ f.width

/-- FCLASS (R132). -/
def fClass (f : Fmt) (a : Nat) : Nat :=
  match unpack f a with
  | .nan => 256
  | .inf neg => if neg then 1 else 128
  | .fin neg m _ =>
    if m = 0 then (if neg then 8 else 16)
    else if isSubnormal f a then (if neg then 4 else 32)
    else if neg then 2 else 64

/-- FCMP (R134): the condition and whether invalid is set. -/
def fCmp (f : Fmt) (v : FEnv) (c : FCond) (a b : Nat) : Bool × FFlags :=
  let a := daz f v a
  let b := daz f v b
  let nan := isNaN f a || isNaN f b
  let x := valueKey f a
  let y := valueKey f b
  match c with
  | .eq => (!nan && x == y, 0)
  | .ne => (nan || x != y, 0)
  | .lt => (!nan && decide (x < y), if nan then fInvalid else 0)
  | .le => (!nan && decide (x ≤ y), if nan then fInvalid else 0)
  | .gt => (!nan && decide (y < x), if nan then fInvalid else 0)
  | .ge => (!nan && decide (y ≤ x), if nan then fInvalid else 0)
  | .un => (nan, 0)
  | .ord => (!nan, 0)

/-! ## Special functions (R133) -/

inductive SFun where
  | rcp | rsq | exp2 | log2 | sin | cos | tanh
  deriving DecidableEq, Repr

/-- The func of R130. -/
def SFun.code : SFun → Nat
  | .rcp => 16
  | .rsq => 17
  | .exp2 => 18
  | .log2 => 19
  | .sin => 20
  | .cos => 21
  | .tanh => 22

/-- FP32 1.0. -/
def one32 : Nat := 0x3F800000

/-- The FP32 value that the device gives where R133 states a bound and no value (log entry 4). -/
def freeSpecial (g : SFun) (b : Nat) : Nat := (Config.special g.code (BitVec.ofNat 32 b)).toNat

/-- A value within one ulp of a correctly truncated one: the free value where it keeps the bound, else the truncated
value itself. -/
def withinUlp (free lo : Nat) (exact : Bool) : Nat :=
  if free = lo + 1 || (exact && free + 1 == lo) then free else lo

/-- An FP32 value lies within 2 ulp of ±a · 2^s, or within 2^k of it (R133). The approximation's own error counts as
nothing: a 2^60th of it is allowed for. -/
def nearReal (b : Nat) (neg : Bool) (a : Nat) (s : Int) (abs : Option Int) : Bool :=
  match unpack .s b with
  | .fin n m e =>
    let c := min e s
    let real := a * 2 ^ (s - c).toNat
    let far := (signed n (m * 2 ^ (e - c).toNat) - signed neg real).natAbs
    let fits (k : Int) : Bool := decide (c ≤ k) && decide (far ≤ 2 ^ (k - c).toNat + real / 2 ^ 60 + 1)
    fits (max (Nat.log2 a + s - 23) (-149) + 1) || (abs.map fits).getD false
  | _ => false

/-- Flags of a free FP32 result, which no rational source makes exact. -/
def freeFlags (b : Nat) : FFlags :=
  fInexact ||| (if b % signBit .s < 2 ^ 23 then fUnderflow else 0) ||| (if b % signBit .s = infBits .s then fOverflow else 0)

/-- An FP32 value that is exact: n as an integer. -/
def ofInt32 (n : Int) : Nat := (roundTo .s FEnv.plain (decide (n < 0)) n.natAbs 0).1

/-- The device's value where it keeps the bound of R133, else the truncated one, which does (log entry 4). -/
def bounded (g : SFun) (b : Nat) (neg : Bool) (a : Nat) (s : Int) (abs : Option Int) : Flagged :=
  let v := if nearReal (freeSpecial g b) neg a s abs then freeSpecial g b
    else (roundTo .s ⟨.rtz, false, false, false⟩ neg a s).1
  (v, freeFlags v)

/-- A special function in FP32, nothing flushed in the result: special values exact, FRCP and FRSQ within one ulp,
every other result within its bound. -/
def special32 (g : SFun) (b : Nat) : Flagged :=
  let rtz : FEnv := ⟨.rtz, false, false, false⟩
  let clamp (q : Flagged) (neg : Bool) : Flagged :=
    let lo := q.1 % signBit .s
    let r := withinUlp (freeSpecial g b % signBit .s) lo (q.2 == 0)
    let exactFlags := if r = lo && q.2 == 0 then (0 : FFlags) else fInexact
    (withSign .s neg r, exactFlags ||| (q.2 &&& fOverflow) ||| (if r < 2 ^ 23 && exactFlags != 0 then fUnderflow else 0))
  match unpack .s b with
  | .nan => (canonNaN .s, 0)
  | .inf neg =>
    match g with
    | .rcp => (withSign .s neg 0, 0)
    | .rsq => if neg then (canonNaN .s, fInvalid) else (0, 0)
    | .exp2 => if neg then (0, 0) else (infBits .s, 0)
    | .log2 => if neg then (canonNaN .s, fInvalid) else (infBits .s, 0)
    | .sin | .cos => (canonNaN .s, fInvalid)
    | .tanh => (withSign .s neg one32, 0)
  | .fin neg m e =>
    if m = 0 then
      match g with
      | .rcp | .rsq => (withSign .s neg (infBits .s), fDivZero)
      | .exp2 => (one32, 0)
      | .log2 => (withSign .s true (infBits .s), fDivZero)
      | .sin | .tanh => (withSign .s neg 0, 0)
      | .cos => (one32, 0)
    else
      match g with
      | .rcp =>
        let q := fDiv .s rtz one32 (withSign .s false (b % signBit .s))
        if q.2 &&& fOverflow != 0 then (withSign .s neg (infBits .s), fOverflow ||| fInexact) else clamp q neg
      | .rsq =>
        if neg then (canonNaN .s, fInvalid)
        else
          let p := sqrtParts 80 m e
          let k := 60 + Nat.log2 p.1
          let q := 2 ^ k / p.1
          let st := if 2 ^ k % p.1 = 0 && p.1 % 2 = 0 then 0 else 1
          clamp (roundTo .s rtz false (2 * q + st) (-p.2 - k - 1)) false
      | .exp2 =>
        let int := decide (0 ≤ e) || m % 2 ^ (-e).toNat == 0
        let n := signed neg (if 0 ≤ e then m * 2 ^ (min e 20).toNat else m / 2 ^ (-e).toNat)
        if !neg && decide (128 ≤ n) then (infBits .s, fOverflow ||| fInexact)
        else if int && decide (-149 ≤ n) then roundTo .s FEnv.plain false 1 n
        else
          let p := fxPow2 neg m e
          bounded g b false p.1 p.2 none
      | .log2 =>
        if neg then (canonNaN .s, fInvalid)
        else if m = 2 ^ Nat.log2 m then (ofInt32 (Nat.log2 m + e), 0)
        else
          let p := fxLog m e
          bounded g b p.1 p.2 (-128) (if Nat.log2 m + e = 0 || Nat.log2 m + e = -1 then some (-22) else none)
      | .sin =>
        let p := fxTrig false m e
        bounded g b (p.1 != neg) p.2 (-128) (if p.2 < fxOne / 2 then some (-23) else none)
      | .cos =>
        let p := fxTrig true m e
        bounded g b p.1 p.2 (-128) (if p.2 < fxOne / 2 then some (-23) else none)
      | .tanh =>
        let p := fxTanh m e
        bounded g b neg p.1 p.2 none

/-- A special function of a format other than FP64: in FP32, then rounded once to the format under RNE (R133). -/
def fSpecial (f : Fmt) (v : FEnv) (g : SFun) (a : Nat) : Flagged :=
  let b := match unpack f (daz f v a) with
    | .fin neg m e => (roundTo .s FEnv.plain neg m e).1
    | .inf neg => withSign .s neg (infBits .s)
    | .nan => canonNaN .s
  let r := special32 g b
  match unpack .s r.1 with
  | .fin neg m e =>
    let q := roundTo f ⟨.rne, v.ftz, false, false⟩ neg m e
    let tiny := q.1 % signBit f < 2 ^ fracBits f
    (q.1, q.2 ||| (r.2 &&& (fInvalid ||| fDivZero ||| fInexact))
      ||| (if tiny && (r.2 &&& fInexact) != 0 then fUnderflow else 0))
  | .inf neg => (withSign f neg (infBits f), r.2)
  | .nan => (canonNaN f, r.2)

/-! ## Conversions (R126 to R128) -/

/-- The value of an integer lane (R109). -/
def intVal (f : Fmt) (b : Nat) : Int :=
  let b := b % 2 ^ f.width
  if f.isSigned && decide (2 ^ (f.width - 1) ≤ b) then (b : Int) - 2 ^ f.width else b

/-- Range of an integer format (R109). -/
def intMin (f : Fmt) : Int := if f.isSigned then -(2 ^ (f.width - 1)) else 0
def intMax (f : Fmt) : Int := if f.isSigned then 2 ^ (f.width - 1) - 1 else 2 ^ f.width - 1

def clampInt (f : Fmt) (x : Int) : Int := max (intMin f) (min (intMax f) x)

/-- The low bits of an integer, as a lane of width w. -/
def wrap (w : Nat) (x : Int) : Nat := (x % (2 ^ w : Nat)).toNat

/-- Rounding environment of a conversion mode (R126). -/
def cvtEnv (v : FEnv) (m : CvtMode) (draw : BitVec 32) : FEnv :=
  match m with
  | .dyn => { v with sat := false }
  | .rtz => { v with rm := .rtz, sat := false }
  | .sr => { v with rm := .sr draw, sat := false }
  | .sat => { v with sat := true }

/-- A value rounded to an integer, and whether it changed. -/
def roundToInt (rm : RMode) (neg : Bool) (m : Nat) (e : Int) : Int × Bool :=
  if 0 ≤ e then (signed neg (m * 2 ^ e.toNat), false)
  else
    let k := (-e).toNat
    let n := m / 2 ^ k
    let r := m % 2 ^ k
    (signed neg (n + if roundsUp rm neg n r k then 1 else 0), r != 0)

/-- Convert one element (R126, R128), in a control environment, with the draw that `.sr` takes. -/
def convert (src dst : Fmt) (m : CvtMode) (v : FEnv) (draw : BitVec 32) (b : Nat) : Flagged :=
  let u := cvtEnv v m draw
  if dst = .x8 then
    match unpack .s (daz .s v b) with
    | .fin _ n e =>
      if n = 0 || isSubnormal .s (b % 2 ^ 32) then (0, fUnderflow ||| fInexact)
      else ((Nat.log2 n + e + 127).toNat, if n = 2 ^ Nat.log2 n then 0 else fInexact)
    | _ => (0xFF, fInvalid)
  else if src = .x8 then
    if b % 256 = 255 then (canonNaN dst, 0) else roundTo dst u false 1 ((b % 256 : Nat) - 127)
  else if src.isInt then
    let x := intVal src b
    if dst.isInt then (wrap dst.width (if m = .sat then clampInt dst x else x), 0)
    else roundTo dst u (decide (x < 0)) x.natAbs 0
  else
    match unpack src (daz src v b) with
    | .nan =>
      if dst.isInt then (0, fInvalid)
      else (canonNaN dst, if dst = .e2 then fInvalid else 0)
    | .inf neg =>
      if dst.isInt then (wrap dst.width (if neg then intMin dst else intMax dst), fInvalid)
      else if hasInf dst then (withSign dst neg (infBits dst), 0)
      else if dst = .e2 || m = .sat then (withSign dst neg (maxFinite dst), fInvalid)
      else (canonNaN dst, fInvalid)
    | .fin neg n e =>
      if dst.isInt then
        let r := roundToInt u.rm neg n e
        if r.1 < intMin dst then (wrap dst.width (intMin dst), fInvalid)
        else if intMax dst < r.1 then (wrap dst.width (intMax dst), fInvalid)
        else (wrap dst.width r.1, if r.2 then fInexact else 0)
      else roundTo dst u neg n e

/-! ## The stochastic generator (R118, R119) -/

def mix64 (x : Word) : Word :=
  let x := (x ^^^ (x >>> 31)) * 0x9E6C63D0676A9A99
  let x := (x ^^^ (x >>> 29)) * 0xD2B74407B1CE6E93
  x ^^^ (x >>> 32)

def streamKey (seed lcore cseq m : Word) : Word :=
  mix64 (mix64 (mix64 (mix64 (seed ^^^ 0x5851F42D4C957F2D) ^^^ lcore) ^^^ cseq) ^^^ m)

def rootKey (seed lcore g : Word) : Word := streamKey seed lcore (mix64 (g ^^^ 0x6A09E667F3BCC909)) 0

def creationSeq (key c : Word) : Word := mix64 (key ^^^ ((c <<< 1) ||| 1))

/-- The n-th draw of a key. -/
def drawAt (key : Word) (n : BitVec 32) : BitVec 32 := bits (mix64 (key ^^^ (zext64 n * 0x2545F4914F6CDD1D))) 32 32

/-- Draw number `i` from the thread's counter on. -/
def Thread.draw (t : Thread) (i : Nat) : BitVec 32 := drawAt t.key (t.draws + BitVec.ofNat 32 i)

/-! ## Lanes of a wide register (R112, R137) -/

/-- Lane i of width w. -/
def lane (w : Nat) (x : Wide) (i : Nat) : Nat := (x.toNat >>> (w * i)) % 2 ^ w

/-- Every lane, lowest first. -/
def lanesOf (w : Nat) (x : Wide) : List Nat := (List.range (256 / w)).map (lane w x)

/-- A wide value from its lanes, lowest first. -/
def lanesNat (w : Nat) : List Nat → Nat
  | [] => 0
  | v :: vs => v % 2 ^ w + 2 ^ w * lanesNat w vs

def ofLanes (w : Nat) (vs : List Nat) : Wide := BitVec.ofNat 256 (lanesNat w vs)

/-- The OR of the lanes' flags, and their values (R137). -/
def collect (rs : List Flagged) : List Nat × FFlags := (rs.map (·.1), rs.foldl (fun f r => f ||| r.2) 0)

/-! ## Integer lanes (R109, R110) -/

/-- Quotient of R58, of any width: all ones for a zero divisor, the minimum for the overflow. -/
def divLane (f : Fmt) (a b : Nat) : Nat :=
  let y := intVal f b
  if y = 0 then 2 ^ f.width - 1 else wrap f.width (Int.tdiv (intVal f a) y)

/-- Low log2(w) bits of a shift count (R110). -/
def shiftCount (f : Fmt) (b : Nat) : Nat := b % f.width

end Sys2Proof.Machine
end

