-- ==== Sys2Proof/Machine/Float.lean ====
section
/-! DEFINITION. Scalar floating point (R129 to R136). -/

namespace Sys2Proof.Machine

/-! ## Shared forms -/

/-- The element format of a scalar group (R130). -/
def scalarFmt : FFmt → Fmt
  | .d => .d
  | .s => .s
  | .h => .h
  | .bf => .bf

/-- A scalar operation: the result, zero-extended, and its flags, delivered together (R123, R129). -/
def fpOp (i : Instr) (s : State) (d : IReg) (g : Thread → Flagged) : Host.Outcome State Fault Refusal :=
  attempt i s fun s t p =>
    let r := g t
    .ok (s.result t p [(.int d, BitVec.ofNat 256 r.1)] .alu (some r.2))

/-- A floating-point compare into two predicates (R134). -/
def fpCmp (i : Instr) (s : State) (f : Fmt) (p q : PReg) (a b : IReg) (c : FCond) : Host.Outcome State Fault Refusal :=
  attempt i s fun s t pt =>
    let r := fCmp f t.fenv c (t.int a).toNat (t.int b).toNat
    .ok (s.result t pt (predResult p q r.1) .alu (some r.2))

/-- The low bits of a register as an encoding of a format (R129). -/
def fpSrc (f : Fmt) (t : Thread) (a : IReg) : Nat := (t.int a).toNat % 2 ^ f.width

/-! ## Arithmetic (R130 to R132) -/

/-- FADD (R130). -/
def execFadd (f : FFmt) (d a b : IReg) (s : State) : Host.Outcome State Fault Refusal :=
  fpOp (.fadd f d a b) s d fun t => fAdd (scalarFmt f) t.fenv (fpSrc (scalarFmt f) t a) (fpSrc (scalarFmt f) t b)

/-- FSUB (R130). -/
def execFsub (f : FFmt) (d a b : IReg) (s : State) : Host.Outcome State Fault Refusal :=
  fpOp (.fsub f d a b) s d fun t => fSub (scalarFmt f) t.fenv (fpSrc (scalarFmt f) t a) (fpSrc (scalarFmt f) t b)

/-- FMUL (R130). -/
def execFmul (f : FFmt) (d a b : IReg) (s : State) : Host.Outcome State Fault Refusal :=
  fpOp (.fmul f d a b) s d fun t => fMul (scalarFmt f) t.fenv (fpSrc (scalarFmt f) t a) (fpSrc (scalarFmt f) t b)

/-- FDIV (R130). -/
def execFdiv (f : FFmt) (d a b : IReg) (s : State) : Host.Outcome State Fault Refusal :=
  fpOp (.fdiv f d a b) s d fun t => fDiv (scalarFmt f) t.fenv (fpSrc (scalarFmt f) t a) (fpSrc (scalarFmt f) t b)

/-- FMIN (R131). -/
def execFmin (f : FFmt) (d a b : IReg) (s : State) : Host.Outcome State Fault Refusal :=
  fpOp (.fmin f d a b) s d fun t =>
    (fMinMax (scalarFmt f) t.fenv false (fpSrc (scalarFmt f) t a) (fpSrc (scalarFmt f) t b), 0)

/-- FMAX (R131). -/
def execFmax (f : FFmt) (d a b : IReg) (s : State) : Host.Outcome State Fault Refusal :=
  fpOp (.fmax f d a b) s d fun t =>
    (fMinMax (scalarFmt f) t.fenv true (fpSrc (scalarFmt f) t a) (fpSrc (scalarFmt f) t b), 0)

/-- FSQRT (R130). -/
def execFsqrt (f : FFmt) (d a : IReg) (s : State) : Host.Outcome State Fault Refusal :=
  fpOp (.fsqrt f d a) s d fun t => fSqrt (scalarFmt f) t.fenv (fpSrc (scalarFmt f) t a)

/-- FABS (R130): the sign bit alone. -/
def execFabs (f : FFmt) (d a : IReg) (s : State) : Host.Outcome State Fault Refusal :=
  fpOp (.fabs f d a) s d fun t => (fAbs (scalarFmt f) (fpSrc (scalarFmt f) t a), 0)

/-- FNEG (R130): the sign bit alone. -/
def execFneg (f : FFmt) (d a : IReg) (s : State) : Host.Outcome State Fault Refusal :=
  fpOp (.fneg f d a) s d fun t => (fNeg (scalarFmt f) (fpSrc (scalarFmt f) t a), 0)

/-- FMA (R130): ra × rb + rd, rounded once. -/
def execFma (f : FFmt) (d a b : IReg) (s : State) : Host.Outcome State Fault Refusal :=
  fpOp (.fma f d a b) s d fun t =>
    fFma (scalarFmt f) t.fenv (fpSrc (scalarFmt f) t a) (fpSrc (scalarFmt f) t b) (fpSrc (scalarFmt f) t d)

/-- FCLASS (R132). -/
def execFclass (f : FFmt) (d a : IReg) (s : State) : Host.Outcome State Fault Refusal :=
  fpOp (.fclass f d a) s d fun t => (fClass (scalarFmt f) (fpSrc (scalarFmt f) t a), 0)

/-! ## Special functions (R133) -/

/-- FRCP (R133). -/
def execFrcp (f : FFmt) (d a : IReg) (s : State) : Host.Outcome State Fault Refusal :=
  fpOp (.frcp f d a) s d fun t => fSpecial (scalarFmt f) t.fenv .rcp (fpSrc (scalarFmt f) t a)

/-- FRSQ (R133). -/
def execFrsq (f : FFmt) (d a : IReg) (s : State) : Host.Outcome State Fault Refusal :=
  fpOp (.frsq f d a) s d fun t => fSpecial (scalarFmt f) t.fenv .rsq (fpSrc (scalarFmt f) t a)

/-- FEXP2 (R133). -/
def execFexp2 (f : FFmt) (d a : IReg) (s : State) : Host.Outcome State Fault Refusal :=
  fpOp (.fexp2 f d a) s d fun t => fSpecial (scalarFmt f) t.fenv .exp2 (fpSrc (scalarFmt f) t a)

/-- FLOG2 (R133). -/
def execFlog2 (f : FFmt) (d a : IReg) (s : State) : Host.Outcome State Fault Refusal :=
  fpOp (.flog2 f d a) s d fun t => fSpecial (scalarFmt f) t.fenv .log2 (fpSrc (scalarFmt f) t a)

/-- FSIN (R133). -/
def execFsin (f : FFmt) (d a : IReg) (s : State) : Host.Outcome State Fault Refusal :=
  fpOp (.fsin f d a) s d fun t => fSpecial (scalarFmt f) t.fenv .sin (fpSrc (scalarFmt f) t a)

/-- FCOS (R133). -/
def execFcos (f : FFmt) (d a : IReg) (s : State) : Host.Outcome State Fault Refusal :=
  fpOp (.fcos f d a) s d fun t => fSpecial (scalarFmt f) t.fenv .cos (fpSrc (scalarFmt f) t a)

/-- FTANH (R133). -/
def execFtanh (f : FFmt) (d a : IReg) (s : State) : Host.Outcome State Fault Refusal :=
  fpOp (.ftanh f d a) s d fun t => fSpecial (scalarFmt f) t.fenv .tanh (fpSrc (scalarFmt f) t a)

/-! ## Compares (R134) -/

/-- FCMP.d (R134). -/
def execFcmpD (p q : PReg) (a b : IReg) (c : FCond) (s : State) : Host.Outcome State Fault Refusal :=
  fpCmp (.fcmpD p q a b c) s .d p q a b c

/-- FCMP.s (R134). -/
def execFcmpS (p q : PReg) (a b : IReg) (c : FCond) (s : State) : Host.Outcome State Fault Refusal :=
  fpCmp (.fcmpS p q a b c) s .s p q a b c

/-- FCMP.h (R134). -/
def execFcmpH (p q : PReg) (a b : IReg) (c : FCond) (s : State) : Host.Outcome State Fault Refusal :=
  fpCmp (.fcmpH p q a b c) s .h p q a b c

/-- FCMP.bf (R134). -/
def execFcmpBf (p q : PReg) (a b : IReg) (c : FCond) (s : State) : Host.Outcome State Fault Refusal :=
  fpCmp (.fcmpBf p q a b c) s .bf p q a b c

/-! ## Conversions (R135) -/

/-- A CVT result in a 64-bit register: a signed integer is sign-extended (R129). -/
def cvtWord (dst : Fmt) (r : Nat) : Nat := if dst.isInt then wrap 64 (intVal dst r) else r

/-- Take draws (R119). -/
def State.takeDraws (s : State) (uid n : Nat) : State :=
  s.updThread uid fun t => { t with draws := t.draws + BitVec.ofNat 32 n }

/-- CVT (R135): the destination format `dst`, the source format `src`. -/
def execCvt (d a : IReg) (m : CvtMode) (src dst : Fmt) (s : State) : Host.Outcome State Fault Refusal :=
  attempt (.cvt d a m src dst) s fun s t p =>
    let r := convert src dst m t.fenv (t.draw 0) (t.int a).toNat
    let s := if m = .sr then s.takeDraws t.uid 1 else s
    .ok (s.result t p [(.int d, BitVec.ofNat 256 (cvtWord dst r.1))] .alu (some r.2))

/-! ## The control word (R136) -/

/-- Bits [63:54] of the control word: flags, FTZ, DAZ, mode (R136). -/
def Thread.fpWord (t : Thread) : BitVec 10 := t.flags ++ BitVec.ofBool t.ftz ++ BitVec.ofBool t.daz ++ t.rm

/-- Write the ten bits; mode values 5 to 7 leave the mode (R116, R136). -/
def Thread.setFpWord (t : Thread) (v : BitVec 10) : Thread :=
  { t with flags := bits v 5 5
           ftz := v.getLsbD 4
           daz := v.getLsbD 3
           rm := if bits v 0 3 ≤ 4 then bits v 0 3 else t.rm }

/-- RDFP (R136). -/
def execRdfp (d : IReg) (s : State) : Host.Outcome State Fault Refusal :=
  attempt (.rdfp d) s fun s t p => .ok (s.result t p (intResult d (zext64 t.fpWord)) .alu none)

/-- WRFP (R136). -/
def execWrfp (a : IReg) (s : State) : Host.Outcome State Fault Refusal :=
  attempt (.wrfp a) s fun s t _ => .ok (s.updThread t.uid fun x => x.setFpWord (bits (t.int a) 0 10))

/-- CLRFLG (R136). -/
def execClrflg (s : State) : Host.Outcome State Fault Refusal :=
  attempt .clrflg s fun s t _ => .ok (s.updThread t.uid fun x => { x with flags := 0 })

end Sys2Proof.Machine
end

