-- ==== Sys2Proof/Machine/Frame.lean ====
section
/-! DEFINITION. A thread's frame as words and bytes (R44, R346), and the inline frames of a core's TCM (R258, R266). -/

namespace Sys2Proof.Machine

/-! ## The frame (R44) -/

/-- FULL as a frame shows it: an input-bound register is EMPTY until its next element has arrived (R151), an output-bound
one never is (R153). -/
def State.shownFull (s : State) (t : Thread) (o : Operand) : Bool :=
  match o with
  | .wide w => (match s.binding t w with
    | .plain => t.isFull o
    | .input _ st => !st.fifo.isEmpty
    | .output _ _ => true)
  | _ => t.isFull o

/-- Pending as a frame shows it. -/
def State.shownPend (s : State) (t : Thread) (o : Operand) : Bool := s.pending t o

/-- The operand of each bit of the full and pending words. -/
def frameBit (n : Nat) : Option Operand :=
  if n < 15 then (if h : n < 15 then some (.int (.l ⟨n, h⟩)) else none)
  else if n < 19 then (if h : n - 15 < 4 then some (.int (.s ⟨n - 15, h⟩)) else none)
  else if n < 27 then (if h : n - 19 < 8 then some (.int (.g ⟨n - 19, h⟩)) else none)
  else if n < 31 then (if h : n - 27 < 4 then some (.int (.d ⟨n - 27, h⟩)) else none)
  else if n < 39 then (if h : n - 31 < 8 then some (.wide ⟨n - 31, h⟩) else none)
  else if n < 46 then (if h : n - 38 < 8 then some (.pred ⟨n - 38, h⟩) else none)
  else if n < 50 then (if h : n - 46 < 4 then some (.ext ⟨n - 46, h⟩) else none)
  else none

/-- 50 bits, one for each register. -/
def bitWord (f : Operand → Bool) : Word :=
  BitVec.ofNat 64 (((List.range 50).filter fun n => ((frameBit n).map f).getD false).foldl (fun a n => a + 2 ^ n) 0)

/-- The control word (R44); an EMPTY predicate is stored as zero. -/
def State.controlWord (s : State) (t : Thread) : Word :=
  let preds : BitVec 7 := t.preds &&& bits t.full 39 7
  let toks : BitVec 8 := BitVec.ofNat 8 (((List.finRange 8).filter fun k => t.tokens[k.val] ≠ 0).foldl
    (fun a k => a + 2 ^ k.val) 0)
  zext64 t.fpWord <<< 54 ||| zext64 (BitVec.ofBool (s.owns t)) <<< 53 ||| zext64 toks <<< 45
    ||| BitVec.ofNat 64 (t.reds % 16) <<< 41 ||| zext64 (bits t.window 0 16) <<< 25 ||| zext64 preds <<< 18
    ||| zext64 (bits t.pc 0 18)

/-- Word `n` of a thread's frame (R44, R346). -/
def State.frameWord (s : State) (t : Thread) (n : Nat) : Word :=
  if h : n < 31 then t.ints[n]
  else if h : n < 63 then bits t.wides[(n - 31) / 4] (64 * ((n - 31) % 4)) 64
  else if h : n < 67 then t.exts[n - 63]
  else if n = 67 then bitWord (s.shownFull t)
  else if n = 68 then bitWord (s.shownPend t)
  else if n = 69 then s.controlWord t
  else if n = 70 then t.index
  else zext64 t.handle ||| zext64 t.draws <<< 32

/-- The register holds a value from now on, unless a result is on its way. -/
def Thread.poke (t : Thread) (o : Operand) (v : Wide) : Thread := if t.isPend o then t else t.put o v

/-- Predicates that are not pending take bits [24:18] of a control word and become FULL (R346). -/
def Thread.pokePreds (t : Thread) (v : Word) : Thread :=
  (List.finRange 8).foldl (fun (t : Thread) k =>
    if k.val = 0 then t else t.poke (.pred k) (BitVec.ofNat 256 (if v.getLsbD (17 + k.val) then 1 else 0))) t

/-- Write word `n` of a thread's frame (R346). -/
def State.pokeFrame (s : State) (t : Thread) (n : Nat) (v : Word) : Thread :=
  if n < 19 then
    (match frameBit n with
    | some o => t.poke o (v.setWidth 256)
    | none => t)
  else if n < 31 then t
  else if h : n < 63 then
    let w : WReg := ⟨(n - 31) / 4, by omega⟩
    let sh := 64 * ((n - 31) % 4)
    let mask : Wide := (BitVec.allOnes 64).setWidth 256 <<< sh
    (match s.binding t w with
    | .plain => t.poke (.wide w) (t.wide w &&& ~~~mask ||| v.setWidth 256 <<< sh)
    | _ => t)
  else if n < 67 then
    (match frameBit (n - 63 + 46) with
    | some o => t.poke o (v.setWidth 256)
    | none => t)
  else if n = 69 then
    { ((t.setFpWord (bits v 54 10)).pokePreds v) with pc := zext64 (bits v 0 18) }
  else t

/-- The frame of a thread as bytes (R44). -/
def State.frameBytes (s : State) (t : Thread) : List Byte := (List.range 72).flatMap fun n => leBytes 8 (s.frameWord t n).toNat

/-! ## Inline frames (R258, R266) -/

/-- Where the inline area of a TCM begins (R258). -/
def State.inlineBase (s : State) : Nat := 0x20000 - 768 * s.cfg.frames

/-- Where byte `off` of inline frame `fr` of a core lies. -/
def State.framePlace (s : State) (phys core fr off : Nat) : Loc := .tcm phys core (s.inlineBase + 768 * fr + off)

/-- Write bytes from a place on; a word of 8 bytes that is written whole is no longer poisoned (R363). -/
def State.writeBytes (s : State) (l : Loc) (bs : List Byte) : State :=
  { s with mem := Mem.setBytes s.mem l.key bs
           poison := s.poison.filter fun w => !(decide (l.key ≤ 8 * w) && decide (8 * w + 8 ≤ l.key + bs.length)) }

/-- The family that runs inline in a thread's slot, with its frame. -/
def State.hosted? (s : State) (uid : Nat) : Option (Family × Nat) :=
  s.families.findSome? fun f => if f.creator == uid && f.status.isNone then f.runFrame.map fun fr => (f, fr) else none

/-- The context of a thread whose slot runs an inline index stands in its frame, as results reach it (R266). -/
def State.keepFrame (s : State) (uid : Nat) : State :=
  match s.thread? uid, s.hosted? uid with
  | some t, some (_, fr) => if 256 ≤ t.phys then s else s.writeBytes (s.framePlace t.phys t.core fr 0) (s.frameBytes t)
  | _, _ => s

/-- Word `n` of a frame goes back to its thread (R44, R266). Its owner bit, tokens and reductions stand with the core and
the thread's copies and accesses, and are not taken from there. -/
def Thread.loadWord (t : Thread) (n : Nat) (v : Word) : Thread :=
  if h : n < 31 then { t with ints := t.ints.set n v }
  else if h : n < 63 then
    let sh := 64 * ((n - 31) % 4)
    let old := t.wides[(n - 31) / 4]
    { t with wides := t.wides.set ((n - 31) / 4) (old &&& ~~~((BitVec.allOnes 64).setWidth 256 <<< sh) ||| v.setWidth 256 <<< sh) }
  else if h : n < 67 then { t with exts := t.exts.set (n - 63) v }
  else if n = 67 then { t with full := bits v 0 50 }
  else if n = 68 then { t with pend := bits v 0 50 }
  else if n = 69 then { t.setFpWord (bits v 54 10) with window := bits v 25 16, preds := bits v 18 7, pc := zext64 (bits v 0 18) }
  else if n = 70 then { t with index := v }
  else { t with handle := bits v 0 32, draws := bits v 32 32 }

/-- The frame of a creator is restored from its core's TCM when its inline run ends (R266); a poisoned word is a fault of
its context (R363). -/
def State.restoreFrame (s : State) (t : Thread) (fr : Nat) : State :=
  if 256 ≤ t.phys then s
  else
    (List.range 72).foldl (fun (s : State) n =>
      let r := s.homeRead (s.framePlace t.phys t.core fr (8 * n)) 8 t.ctx (some t.group) (some t)
      r.2.updThread t.uid fun t => t.loadWord n (BitVec.ofNat 64 r.1)) s

/-- The thread whose frame a slot shows: the one that executes there. -/
def State.inSlot (s : State) (phys c slot : Nat) : Option Thread :=
  let ts := s.threads.filter fun t => t.phys == phys && t.core == c && t.slot == slot && t.live
  (ts.find? fun t => !t.run.isHosting) <|> ts.head?

end Sys2Proof.Machine
end

