-- ==== Sys2Proof/Machine/Streams.lean ====
section
/-! DEFINITION. Vector ownership, the sequencer's VLOOP, and the stream units (R145 to R154). -/

namespace Sys2Proof.Machine

/-! ## Ownership (R145, R156) -/

/-- The matrix state that a thread of another group than the last owner's finds (R156). -/
def CoreSt.handOver (k : CoreSt) (uid grp : Nat) : CoreSt :=
  let k := if k.ownerGroup = some grp then k else { k with acc0 := 0, acc1 := 0, fmtCtx := none, unfold := none }
  { k with owner := some uid, ownerGroup := some grp }

/-- Every VOWN that waits at a core and that its owner itself issued is answered with 1 (R145). -/
def State.answerOwner (s : State) (phys core : Nat) : State :=
  let k := s.coreAt phys core
  let mine := s.pends.filter fun p => k.vownQ.contains p.id && k.owner == some p.uid
  mine.foldl (fun s p => s.deliver p 1 .vown 0 0 (((s.thread? p.uid).map (·.stamp)).getD Stamp.zero))
    (s.setCore { k with vownQ := k.vownQ.filter fun n => !(mine.any fun p => p.id == n) })

/-- A free core goes to the first thread whose VOWN still waits, in the order of issue, and what its owner waits for is
answered (R145). -/
def State.grantVown (s : State) (phys core : Nat) : State :=
  let k := s.coreAt phys core
  if k.vownQ.isEmpty then s
  else
    let q := k.vownQ.filter fun n => s.pends.any fun p => p.id == n && (s.thread? p.uid).isSome
    let first := (q.head?.bind fun n => s.pends.find? fun p => p.id == n).bind fun p => s.thread? p.uid
    let k := { k with vownQ := q }
    (s.setCore (match k.owner, first with
      | none, some t => k.handOver t.uid t.group
      | _, _ => k)).answerOwner phys core

/-- VOWN (R145). -/
def execVown (d : IReg) (s : State) : Host.Outcome State Fault Refusal :=
  attempt (.vown d) s fun s t p =>
    if s.owns t then .ok (s.result t p (intResult d 1) .alu none)
    else
      let id := s.fresh
      let s := s.pend t d .vown
      .ok ((s.updCore t.phys t.core fun k => { k with vownQ := k.vownQ ++ [id] }).grantVown t.phys t.core)

/-! ## Unbinding (R154, R310) -/

/-- A unit drops what it has fetched, with its recorded fault. -/
def Stream.discard (st : Stream) : Stream := { st with fifo := [], fault := none, late := false, since := none }

/-- What a unit drops is counted; the element of a recorded fault counts as fetched, too (R310). -/
def State.discard (s : State) (t : Thread) (u : Fin 4) : State :=
  let st := (s.coreAt t.phys t.core).streams[u.val]
  let bad := if st.fault.isSome then 1 else 0
  let s := s.updCore t.phys t.core fun k => { k with streams := k.streams.set u.val st.discard }
  (s.countStream t.ctx t.lcore u .fetched bad).countStream t.ctx t.lcore u .discarded (st.fifo.length + bad)

/-- Change one stream unit of a thread's core. -/
def State.updStream (s : State) (t : Thread) (u : Fin 4) (f : Stream → Stream) : State :=
  s.updCore t.phys t.core fun k => { k with streams := k.streams.set u.val (f k.streams[u.val]) }

/-- SUNBIND of a bound unit: the register becomes ordinary, FULL, and holds the last element (R154). -/
def State.unbind (s : State) (t : Thread) (u : Fin 4) : State :=
  let st := (s.coreAt t.phys t.core).streams[u.val]
  match st.bound with
  | none => s
  | some w =>
    let s := (s.discard t u).updStream t u fun st => { st with bound := none }
    s.updThread t.uid fun t => t.put (.wide ⟨w.val, by omega⟩) st.last

/-- Unbind every stream of the owner. -/
def State.unbindAll (s : State) (t : Thread) : State := (List.finRange 4).foldl (fun s u => s.unbind t u) s

/-- Release ownership: the streams are unbound, and the next waiting VOWN is granted (R145). -/
def State.disown (s : State) (t : Thread) : State :=
  if s.owns t then
    ((s.unbindAll t).updCore t.phys t.core fun k => { k with owner := none }).grantVown t.phys t.core
  else s

/-- VDISOWN (R145): a thread that is not the owner does nothing. -/
def execVdisown (s : State) : Host.Outcome State Fault Refusal := attempt .vdisown s fun s t _ => .ok (s.disown t)

/-! ## Stream instructions (R149, R150, R154) -/

/-- The owner's instruction, or a vector-ownership trap (R145). -/
def ownerOp (i : Instr) (s : State) (body : State → Thread → Except Trap State) : Host.Outcome State Fault Refusal :=
  attempt i s fun s t _ => if s.owns t then body s t else .error .ownership

/-- The stream descriptor is valid (R149). -/
def streamCfgOk (c : Word × Word × Word × Word) : Bool :=
  c.1.toNat % 32 == 0 && bits c.2.1 48 16 != 0 && bits c.2.1 24 24 != 0 && bits c.2.1 0 24 != 0
    && bits c.2.2.1 0 5 == 0 && bits c.2.2.1 32 5 == 0 && bits c.2.2.2 0 5 == 0 && bits c.2.2.2 33 31 == 0

/-- SCFG (R149). -/
def execScfg (n : Fin 4) (s : State) : Host.Outcome State Fault Refusal :=
  ownerOp (.scfg n) s fun s t =>
    let c := (t.ext 0, t.ext 1, t.ext 2, t.ext 3)
    if (s.coreAt t.phys t.core).streams[n.val].bound.isSome then .error .streamState
    else if !streamCfgOk c then .error .streamParam
    else .ok (s.updStream t n fun st => { st with cfg := some c })

/-- SBIND (R150, R310): counters 0, element count 0, the owner's stamp (R312). It waits while the register is pending, as
a destination (R38, log entry 75). -/
def execSbind (m : WReg) (n : Fin 4) (s : State) : Host.Outcome State Fault Refusal :=
  ownerOp (.sbind m n) s fun s t =>
    let k := s.coreAt t.phys t.core
    let st := k.streams[n.val]
    if h : m.val < 4 then
      if st.cfg.isNone || st.bound.isSome || k.streams.toList.any (fun x => x.bound == some ⟨m.val, h⟩) then
        .error .streamState
      else
        .ok ((s.clearStream t.ctx t.lcore n).updStream t n fun st =>
          { Stream.fresh with cfg := st.cfg, bound := some ⟨m.val, h⟩, stamp := t.stamp })
    else .error .illegal

/-- SUNBIND (R154). -/
def execSunbind (n : Fin 4) (s : State) : Host.Outcome State Fault Refusal :=
  ownerOp (.sunbind n) s fun s t => .ok (s.unbind t n)

/-- SSYNC (R154): an input stream's run-ahead is discarded and its fetches take the owner's stamp (R312); the waits of
the other forms stand in `holdOf`. -/
def execSsync (n : Fin 4) (s : State) : Host.Outcome State Fault Refusal :=
  ownerOp (.ssync n) s fun s t =>
    let st := (s.coreAt t.phys t.core).streams[n.val]
    if st.bound.isSome && !(st.cfg.map streamOut).getD false then
      .ok ((s.discard t n).updStream t n fun st => { st with stamp := t.stamp })
    else .ok s

/-! ## VLOOP (R146) -/

/-- An instruction of majors 0x60 to 0x65. -/
def isBody : Instr → Bool
  | .vadd _ _ _ _ | .vsub _ _ _ _ | .vmul _ _ _ _ | .vfma _ _ _ _ | .vmin _ _ _ _ | .vmax _ _ _ _ => true
  | .vadds _ _ _ _ | .vsubs _ _ _ _ | .vand _ _ _ _ | .vor _ _ _ _ | .vxor _ _ _ _ | .vsll _ _ _ _ => true
  | .vsrl _ _ _ _ | .vsra _ _ _ _ | .vdiv _ _ _ _ | .vsqrt _ _ _ | .vabs _ _ _ | .vneg _ _ _ | .vmulh _ _ _ _ => true
  | .vcmpEq _ _ _ _ | .vcmpNe _ _ _ _ | .vcmpLt _ _ _ _ | .vcmpLe _ _ _ _ | .vcmpUn _ _ _ _ | .vsel _ _ _ _ => true
  | .vperm _ _ _ _ | .vzipl _ _ _ _ | .vziph _ _ _ _ | .vunzipl _ _ _ _ | .vunziph _ _ _ _ => true
  | .vredadd _ _ _ | .vredmin _ _ _ | .vredmax _ _ _ | .vredand _ _ _ | .vredor _ _ _ | .vredxor _ _ _ => true
  | .vscanAddInc _ _ _ _ | .vscanAddExc _ _ _ _ | .vscanMinInc _ _ _ _ | .vscanMinExc _ _ _ _ => true
  | .vscanMaxInc _ _ _ _ | .vscanMaxExc _ _ _ _ | .vcvt _ _ _ _ _ _ => true
  | _ => false

/-- What the checks of R42 steps 1 to 3 find in one body word. -/
def State.bodyTrap (s : State) (t : Thread) (a : Word) : Option Trap :=
  if !s.inText t.graph a.toNat then some (.plain 0x01 a)
  else if !s.inText t.graph (a + 2).toNat then some (.plain 0x01 (a + 2))
  else
    match decode (Mem.bytes s.mem (Loc.code a.toNat).key 4) with
    | .error _ => some .illegal
    | .ok (g, i, _) =>
      if !isBody i || !g.ok || !i.wf then some .illegal
      else if !((s.names t i).all (inWindow t.window)) then some .window
      else none

/-- VLOOP (R146): the body's words are checked in order; the thread goes on after them, and the sequencer takes the run
unless the count is 0. -/
def execVloop (a : IReg) (n : Fin 16) (s : State) : Host.Outcome State Fault Refusal :=
  ownerOp (.vloop a n) s fun s t =>
    match (List.range (n.val + 1)).findSome? fun k => s.bodyTrap t (t.pc + 4 + BitVec.ofNat 64 (4 * k)) with
    | some tr => .error tr
    | none =>
      let s := s.goto t.uid (t.pc + 8 + BitVec.ofNat 64 (4 * n.val))
      if t.int a = 0 then .ok s
      else .ok (s.updCore t.phys t.core fun k => { k with seqr := some ⟨t.uid, t.pc, n, 0, t.int a, false, false⟩ })

/-- A run ends when its last instruction has issued and every result it owes has arrived (R147). -/
def State.endRun (s : State) (phys core : Nat) : State :=
  let k := s.coreAt phys core
  match k.seqr with
  | some r =>
    if r.left = 0 && !(s.arrivals.any fun a => a.uid == r.uid && a.seqr) then s.setCore { k with seqr := none } else s
  | none => s

end Sys2Proof.Machine
end

