-- ==== Sys2Proof/Machine/Families.lean ====
section
/-! DEFINITION. What families share: parameters (R69 to R71), handles (R257), slots and placement (R256 to R261),
starting a member (R39, R74), forwards (R75, R265), inline runs (R266), and the end of a member and of a family
(R76 to R78, R267, R276, R277). -/

namespace Sys2Proof.Machine

/-! ## Parameters (R69 to R71) -/

namespace Family

def window (f : Family) : BitVec 16 := bits f.k2 48 16
def block (f : Family) : Nat := (bits f.k2 32 16).toNat
def stepBy (f : Family) : Word := sext64 (bits f.k2 0 32)
def shared (f : Family) : Nat := winShared f.window
def placeKind (f : Family) : Nat := (bits f.k3 0 3).toNat
def delegate (f : Family) : Bool := f.k3.getLsbD 3

/-- Index of member `m` (R71). -/
def index (f : Family) (m : Nat) : Word := f.k0 + BitVec.ofNat 64 m * f.stepBy

/-- Member `m` exists (R71). -/
def has (f : Family) (m : Nat) : Bool :=
  if f.k1 = 0x7FFFFFFFFFFFFFFF then true
  else
    let x := f.k0.toInt + m * f.stepBy.toInt
    if 0 < f.stepBy.toInt then decide (x < f.k1.toInt) else decide (f.k1.toInt < x)

/-- A logical cluster lies in the place of a kind 2 or 3 family (R69). -/
def inPlace (f : Family) (lcl : Nat) : Bool :=
  f.placeKind == 3 || (decide ((bits f.k3 8 8).toNat ≤ lcl)
    && decide (lcl < (bits f.k3 8 8).toNat + (bits f.k3 16 9).toNat))

/-- The members that have not started still may (R267, R276). -/
def more (f : Family) : Bool :=
  f.started && f.status.isNone && !f.killed && f.has f.next && f.decided.isNone

end Family

/-- The k3 checks of R70. -/
def placeOk (k3 : Word) : Bool :=
  let kind := (bits k3 0 3).toNat
  let base := (bits k3 8 8).toNat
  let count := (bits k3 16 9).toNat
  bits k3 25 39 == 0 && bits k3 4 4 == 0 && decide (kind ≤ 4)
    && (if kind = 2 then decide (1 ≤ count) && decide (base + count ≤ 256) else count == 0 && base == 0)
    && (!k3.getLsbD 3 || kind == 2 || kind == 3)

/-- The checks of R70. -/
def familyOk (k2 k3 : Word) : Bool :=
  windowOk (bits k2 48 16) && bits k2 0 32 != 0 && decide ((bits k2 32 16).toNat ≤ 63) && placeOk k3

/-! ## Handles, entries and frames (R72, R257, R258) -/

/-- A family handle (R257). -/
def handleOf (ctx lcl core entry seq : Nat) : BitVec 32 :=
  BitVec.ofNat 32 (ctx % 64 * 2 ^ 26 + lcl % 256 * 2 ^ 18 + core % 8 * 2 ^ 15 + entry % 16 * 2 ^ 11 + seq % 2 ^ 11)

/-- Families that a core holds: those it created and has not released. -/
def State.heldBy (s : State) (t : Thread) : List Family :=
  s.families.filter fun f => f.ctx == t.ctx && f.lcl == t.lcl && f.core == t.core

/-- The lowest-numbered free entry of the core's family table. -/
def State.freeEntry (s : State) (t : Thread) : Option Nat :=
  (List.range 16).find? fun e => !((s.heldBy t).any fun f => f.entry == some e)

/-- The lowest-numbered free inline frame of the core. -/
def State.freeFrame (s : State) (t : Thread) : Option Nat :=
  (List.range s.cfg.frames).find? fun e => !((s.heldBy t).any fun f => f.frame == some e || f.runFrame == some e)

/-- The next creation count whose sequence value may be used: not 0, and not one that reproduces a held handle
(R257); `fuel` bounds the skips. -/
def State.nextCount (s : State) (t : Thread) (entry : Nat) : Nat → Nat → Nat
  | 0, c => c
  | fuel + 1, c =>
    if c % 2048 = 0 || (s.heldBy t).any (fun f => f.handle == handleOf t.ctx t.lcl t.core entry c) then
      State.nextCount s t entry fuel (c + 1)
    else c

/-! ## The record of a family that lives in a frame (R258) -/

/-- The forwards that the last index that finished passed on, or the puts before the first has; the output once the family
has terminated. `m`: the index that runs, or runs next. -/
def Family.carried (f : Family) (m : Nat) (i : Fin 4) : Word :=
  if f.status.isSome then f.out[i.val]
  else ((f.log.reverse.find? fun x => x.2.1 == i && decide (x.1 < m)).map (·.2.2)).getD f.dputs[i.val]

/-- Bytes 0x240 to 0x2FF of the frame that a family lives in (R258). -/
def Family.recordBytes (f : Family) : List Byte :=
  let m := if f.runFrame.isSome then f.next - 1 else f.next
  leBytes 4 f.handle.toNat
    ++ leBytes 4 ((if f.started then 0 else 1) + (if f.runFrame.isSome then 2 else 0) + if f.decided.isSome then 4 else 0)
    ++ leBytes 8 f.k0.toNat ++ leBytes 8 f.k1.toNat ++ leBytes 8 f.k2.toNat ++ leBytes 8 f.k3.toNat
    ++ leBytes 8 f.cseq.toNat ++ leBytes 8 (f.index m).toNat
    ++ (List.finRange 4).flatMap (fun i => leBytes 8 f.dputs[i.val].toNat)
    ++ (List.finRange 8).flatMap (fun j => leBytes 8 f.gputs[j.val].toNat)
    ++ (List.finRange 4).flatMap (fun i => leBytes 8 (f.carried m i).toNat)
    ++ leBytes 8 (f.status.getD 0)

/-- The frame that a family lives in shows its record (R258). -/
def State.keepRecord (s : State) (fam : Nat) : State :=
  match s.family? fam with
  | some f =>
    (match f.frame with
    | some fr => if 256 ≤ f.phys then s else s.writeBytes (s.framePlace f.phys f.core fr 0x240) f.recordBytes
    | none => s)
  | none => s

/-! ## Reservation (R72) -/

/-- Reserve a family (R72): the family, or none where neither an entry nor a frame is free. -/
def State.reserve (s : State) (t : Thread) : Option (Family × State) :=
  let make (entry : Option Nat) (frame : Option Nat) (num : Nat) : Family × State :=
    let k := s.coreAt t.phys t.core
    let c := s.nextCount t num 64 (k.count + 1)
    let f : Family :=
      { uid := s.fresh, handle := handleOf t.ctx t.lcl t.core num c, ctx := t.ctx, group := t.group,
        graph := t.graph, creator := t.uid, phys := t.phys, lcl := t.lcl, core := t.core, entry := entry,
        frame := frame, runFrame := none, k0 := t.ext 0, k1 := t.ext 1, k2 := t.ext 2, k3 := t.ext 3,
        cseq := creationSeq t.key (BitVec.ofNat 64 t.creations), dputs := Vector.replicate 4 0,
        gputs := Vector.replicate 8 0, started := false, body := 0, ftz := false, daz := false, rm := 0, fgo := 0,
        where_ := 3, hostPhys := t.phys, hostLcl := t.lcl, spare := t.delegated, next := 0, last := 0,
        held := Vector.replicate 4 none, log := [], decided := none, killed := false, status := none,
        out := Vector.replicate 4 0, detached := false, probe := none, nameless := false, prior := k.count, after := [],
        carry := [], stamp := t.stamp }
    let s := (s.setCore { k with count := c }).updThread t.uid fun t => { t with creations := t.creations + 1 }
    (f, { s with families := s.families ++ [f], fresh := s.fresh + 1 }.keepRecord f.uid)
  match s.freeEntry t with
  | some e => some (make (some e) none e)
  | none =>
    match s.freeFrame t with
    | some fr => some (make none (some fr) (fr % 16))
    | none => none

/-! ## Slots and room (R256, R260) -/

/-- The thread created a family whose start is being probed, or that runs inline in its slot (R262, R266). -/
def State.hosts (s : State) (uid : Nat) : Bool :=
  s.families.any fun f => f.creator == uid && (f.runFrame.isSome || f.probe.isSome) && f.status.isNone

/-- The thread holds its slot: it has not ended, or its slot still runs an inline index, or may have to (R266). -/
def State.seats (s : State) (t : Thread) : Bool := t.live || s.hosts t.uid

/-- Threads that hold a slot of a core. -/
def State.onCore (s : State) (phys core : Nat) : List Thread :=
  s.threads.filter fun t => t.phys == phys && t.core == core && s.seats t

/-- The lowest-numbered free slot among 0 to 62. -/
def State.freeSlot (s : State) (phys core : Nat) : Option Nat :=
  (List.range 63).find? fun n => !((s.onCore phys core).any fun t => t.slot == n)

/-- Free slots of a core. -/
def State.freeSlots (s : State) (phys core : Nat) : Nat :=
  ((List.range 63).filter fun n => !((s.onCore phys core).any fun t => t.slot == n)).length

/-- A thread that holds a slot by itself: an inline index stands in its creator's, service in slot 63. -/
def State.ownSlot (s : State) (t : Thread) : Bool :=
  s.seats t && (match t.kind with
    | .root | .member _ _ => true
    | _ => false)

/-- Slots that a group holds on its own cluster (R256). -/
def State.groupHeld (s : State) (grp : Nat) : Nat :=
  (s.threads.filter fun t => t.group == grp && s.ownSlot t && !t.delegated).length

/-- Resident on a cluster: placed or restored there, and neither retired nor saved (R256). -/
def Group.resident (g : Group) : Bool := g.st == .placed || g.st == .running

/-- Spare slots of a cluster: those that no resident group's allotment claims and no delegated member holds. -/
def State.spareSlots (s : State) (phys : Nat) : Nat :=
  504 - ((s.groups.filter fun g => g.phys == phys && g.resident).map (·.slots)).sum
    - (s.threads.filter fun t => t.phys == phys && s.ownSlot t && t.delegated).length

/-- Room on a core for a family (R260). -/
def State.room (s : State) (f : Family) (core : Nat) : Nat :=
  min (s.freeSlots f.hostPhys core)
    (if f.spare then s.spareSlots f.hostPhys
      else ((s.group? f.group).map (·.slots)).getD 0 - s.groupHeld f.group)

/-- The cores of the host set in try order (R259). -/
def Family.order (f : Family) : List Nat :=
  if f.where_ = 1 then List.range 8
  else if f.placeKind = 0 then [f.core]
  else (List.range 8).map fun i => (f.core + i) % 8

/-- The try order from the core after `last` on, cyclically. -/
def after (last : Nat) (order : List Nat) : List Nat :=
  ((order.dropWhile (· != last)).drop 1) ++ (order.takeWhile (· != last)) ++ (order.filter (· == last))

/-! ## Starting a member (R39, R74, R124, R118) -/

/-- The registers with which a member or index starts: d registers from values that have arrived, g registers from the
puts, the rest EMPTY and zero. -/
def Thread.fill (t : Thread) (d : List (Fin 4 × Word)) (g : List (Fin 8 × Word)) : Thread :=
  let t := d.foldl (fun (t : Thread) x => t.put (.int (.d x.1)) (x.2.setWidth 256)) t
  g.foldl (fun (t : Thread) x => t.put (.int (.g x.1)) (x.2.setWidth 256)) t

/-- A thread with every register EMPTY and zero. -/
def Thread.blank (uid : Nat) (kind : ThreadKind) (ctx group : Nat) (graph : BitVec 32) (phys lcl core slot : Nat) :
    Thread :=
  { uid := uid, kind := kind, run := .running, ctx := ctx, group := group, graph := graph, phys := phys, lcl := lcl,
    core := core, slot := slot, delegated := false, ints := Vector.replicate 31 0, wides := Vector.replicate 8 0,
    exts := Vector.replicate 4 0, preds := 0, full := 0, pend := 0, flags := 0, ftz := false, daz := false, rm := 0,
    tokens := Vector.replicate 8 0, tokErr := Vector.replicate 8 none, reds := 0, window := 0, pc := 0, index := 0,
    handle := 0, draws := 0, key := 0, creations := 0, fwd := 0, bpSkip := none, yield := [], wait := none, kept := none, after := [],
    tokEnd := Vector.replicate 8 none, stamp := Stamp.zero }

/-- The d registers that are FULL when member `m` starts: the puts for member 0, what the home entry holds for others. -/
def Family.startD (f : Family) (m : Nat) : List (Fin 4 × Word) :=
  (List.finRange 4).filterMap fun i =>
    if f.shared ≤ i.val then none
    else if m = 0 then some (i, f.dputs[i.val])
    else (f.held[i.val]).map fun v => (i, v)

/-- Every g register of the window (R74). -/
def Family.startG (f : Family) : List (Fin 8 × Word) :=
  (List.finRange 8).filterMap fun j => if winGlobals f.window ≤ j.val then none else some (j, f.gputs[j.val])

/-- Start the family's next member, or inline index, in a slot. -/
def State.startNext (s : State) (f : Family) (kind : Nat → ThreadKind) (core slot : Nat) (stamp : Stamp) : State :=
  let seed := ((s.replayOf? f.group).map (·.seed)).getD 0
  let lcore : Word := zext64 (bits f.handle 15 11)
  let t0 := Thread.blank s.fresh (kind f.next) f.ctx f.group f.graph f.hostPhys f.hostLcl core slot
  let t : Thread :=
    { t0 with delegated := f.spare, ftz := f.ftz, daz := f.daz, rm := f.rm, window := f.window, pc := f.body,
              index := f.index f.next, handle := f.handle,
              key := streamKey seed lcore f.cseq (f.index f.next), after := f.after, stamp := stamp }
  let t := t.fill (f.startD f.next) f.startG
  { s with threads := s.threads ++ [t]
           fresh := s.fresh + 1
           families := s.families.map fun (x : Family) =>
             if x.uid == f.uid then { x with next := x.next + 1, held := Vector.replicate 4 none } else x }

/-- Start up to `n` members on a core, in the lowest free slots. -/
def State.startMany (s : State) (fam core : Nat) : Nat → State
  | 0 => s
  | n + 1 =>
    match s.family? fam, (s.family? fam).bind fun f => s.freeSlot f.hostPhys core with
    | some f, some slot =>
      if f.more then State.startMany (s.startNext f (.member fam) core slot f.stamp) fam core n else s
    | _, _ => s

/-- Place (R260), a block at a time; every round starts at least one member. -/
def State.placeFrom (s : State) (fam : Nat) : Nat → State
  | 0 => s
  | fuel + 1 =>
    match s.family? fam with
    | none => s
    | some f =>
      if !f.more then s
      else
        match (after f.last f.order).find? fun c => decide (0 < s.room f c) with
        | none => s
        | some c =>
          let n := s.room f c
          let k := if f.block = 0 then n else min n f.block
          let s := s.startMany fam c k
          State.placeFrom (s.updFamily fam fun f => { f with last := c }) fam fuel

def State.place_ (s : State) (fam : Nat) : State := s.placeFrom fam 504

/-- The core before the head of the try order (R260). -/
def Family.beforeHead (f : Family) : Nat := f.order.getLastD f.core

/-- Give out a freed slot (R261): to the next member of the family `own` that held it, else to the family with the
oldest FGO for which it is room. -/
def State.offerSlot (s : State) (phys core slot : Nat) (own : Option Nat) : State :=
  match (own.bind s.family?).filter Family.more with
  | some f => s.startNext f (.member f.uid) core slot f.stamp
  | none =>
    let fits (f : Family) : Bool :=
      f.more && decide (f.where_ ≤ 1) && f.hostPhys == phys && f.order.contains core && decide (0 < s.room f core)
    match ((s.families.filter fits).foldl (fun (best : Option Family) f => match best with
        | none => some f
        | some b => if f.fgo < b.fgo then some f else some b) none) with
    | none => s
    | some f =>
      let prev := (f.order.takeWhile (· != core)).getLastD (f.order.getLastD core)
      (s.updFamily f.uid fun f => { f with last := prev }).place_ f.uid

/-! ## The end of a family (R77 to R79, R257, R277) -/

/-- The value of s_i that was forwarded by the highest member, if any. -/
def Family.lastForward (f : Family) (i : Fin 4) : Option Word :=
  ((f.log.filter fun x => x.2.1 == i).foldl (fun (best : Option (Nat × Word)) x => match best with
    | none => some (x.1, x.2.2)
    | some b => if b.1 ≤ x.1 then some (x.1, x.2.2) else some b) none).map (·.2)

/-- The output for s_i (R75, R77, R79, R277, R278). -/
def Family.output (f : Family) (i : Fin 4) : Word :=
  match f.decided, f.killed with
  | some d, false => ((f.log.find? fun x => x.1 == d && x.2.1 == i).map (·.2.2)).getD 0
  | _, _ => (f.lastForward i).getD f.dputs[i.val]

/-- Release a family: the handle names nothing and its entry or frame is free (R80). -/
def State.freeFamily (s : State) (fam : Nat) : State := { s with families := s.families.filter (·.uid != fam) }

/-- What the thread's later accesses come after that is not performed yet (R209, R321). -/
def State.behind (s : State) (t : Thread) : List Nat := t.after.filter s.outstanding

/-- The result that has just been queued carries what its family's ended members stood behind (R321). -/
def State.carrying (s : State) (deps : List Nat) : State :=
  { s with arrivals := s.arrivals.map fun (a : Arrival) =>
      if a.id + 1 == s.fresh then { a with after := deps.filter s.outstanding } else a }

/-- Deliver the waiting FSYNCs and FGETs of a terminated family (R78, R79), one after another. -/
def State.answerWaiters (s : State) (f : Family) (status : Nat) : State :=
  s.pends.foldl (fun s p => match p.op with
    | .fsync g =>
      if g = f.uid then (s.deliver p (BitVec.ofNat 64 status) .fsync 4 f.handle f.stamp).carrying f.carry else s
    | .fget g i => if g = f.uid then (s.deliver p f.out[i.val] .fget 4 f.handle f.stamp).carrying f.carry else s
    | _ => s) s

/-- Terminate a family with a status and the stamp of its last member (R78, R79, R257, R279, R312). It is released at once
where it is detached, and where its creator has exited; a creator in a save record has not. -/
def State.finishFamily (s : State) (fam status : Nat) (stamp : Option Stamp) : State :=
  match s.family? fam with
  | none => s
  | some f =>
    let f := { f with status := some status
                      stamp := stamp.getD f.stamp
                      out := Vector.ofFn fun i => if i.val < f.shared then f.output i else 0 }
    let s := (((s.updFamily fam fun _ => f).answerWaiters f status).stampGroup f.group f.stamp).keepRecord fam
    if f.detached || !s.lives f.creator then s.freeFamily fam else s

/-- A member or inline index of the family is listed: running, or ended with accesses outstanding. -/
def State.membersOf (s : State) (fam : Nat) : List Thread := s.threads.filter fun t => t.fam? == some fam

/-- Terminate the family if nothing of it is left (R78). -/
def State.tryFinish (s : State) (fam : Nat) (stamp : Option Stamp) : State :=
  match s.family? fam with
  | none => s
  | some f =>
    if f.started && f.status.isNone && f.probe.isNone && !f.more && (s.membersOf fam).isEmpty
        && !(s.saves.any fun x => x.threads.any fun t => t.fam? == some fam) then
      s.finishFamily fam (if f.killed then 2 else if f.decided.isSome then 1 else 0) stamp
    else s

/-! ## Inline runs (R266) -/

/-- Start the next index in the creator's slot, or end the run and let the creator go on with the context that its frame
holds; a creator that has been ended stays so. -/
def State.inlineNext (s : State) (fam : Nat) (stamp : Stamp) : State :=
  match s.family? fam with
  | none => s
  | some f =>
    match s.thread? f.creator with
    | none => s.tryFinish fam (some stamp)
    | some c =>
      if f.more then (s.startNext f (fun m => .inline fam m c.uid) c.core c.slot stamp).keepRecord fam
      else
        let s := match f.runFrame with
          | some fr => if c.live then s.restoreFrame c fr else s
          | none => s
        let s := s.updFamily fam fun f => { f with runFrame := none }
        let s := s.updThread c.uid fun t => { t with run := t.run.behind fun r => if r == .hosting fam then .running else r }
        let s := if c.live then s else s.offerSlot c.phys c.core c.slot none
        s.tryFinish fam (some stamp)

/-- A creator's slot runs an inline index; one that its trap service has ended leaves when the run has ended (R351). -/
def RunState.hostFor (fam : Nat) : RunState → RunState
  | .leaving brk => .leaving brk
  | _ => .hosting fam

/-- Begin an inline run (R266): the creator's context goes to the frame, whose record stays as it is for a family that
lives there and is zero for one that holds an entry (R258). None where it needs a frame and finds none. A creator that was
ended while its family was probed stays ended. -/
def State.runInline (s : State) (fam : Nat) (c : Thread) : Option State :=
  match s.family? fam with
  | none => none
  | some f =>
    match (match f.frame with
      | some fr => some fr
      | none => s.freeFrame c) with
    | none => none
    | some fr =>
      let s := s.updFamily fam fun f =>
        { f with where_ := 2, runFrame := some fr, hostPhys := c.phys, hostLcl := c.lcl, probe := none }
      let s := s.updThread c.uid fun t =>
        { t with run := if t.live then t.run.behind (RunState.hostFor fam) else t.run, wait := none }
      let s := if f.frame.isSome then s else s.writeBytes (s.framePlace c.phys c.core fr 0x240) (List.replicate 192 0)
      some ((s.keepFrame c.uid).inlineNext fam c.stamp)

/-! ## Forwards (R75, R264, R265) -/

/-- Everything but AWAITs that the thread issued has been performed, its reductions, matrix operations and publications
included (R75, R76, R159, R299). -/
def State.drained (s : State) (t : Thread) : Bool :=
  !(s.accs.any fun a => a.uid == some t.uid && (match a.op with
      | .await _ _ _ => false
      | _ => true))
    && t.reds == 0 && (s.mopsOf t).isEmpty && (s.pubs.all fun p => p.uid != some t.uid)

/-- The forward of member `m` for s_i arrives: at the member above it, at the home entry, or as output (R75, R265). What
the sender stood behind comes before what the receiver issues from then on (R321). -/
def State.sendForward (s : State) (fam m : Nat) (i : Fin 4) (v : Word) (stamp : Stamp) : State :=
  match s.family? fam with
  | none => s
  | some f =>
    let deps := ((s.threads.find? fun t => t.member? == some (fam, m)).map s.behind).getD []
    let s := s.updFamily fam fun f => { f with log := f.log ++ [(m, i, v)] }
    match s.threads.find? fun t => t.member? == some (fam, m + 1) && t.live with
    | some t =>
      let o : Operand := .int (.d i)
      let waits := t.wait == some (.operand o)
        || (t.run == .passing && !t.fwd.getLsbD i.val && !t.isFull o)
      let s := s.updThread t.uid fun t =>
        { t.put o (v.setWidth 256) with wait := if t.wait == some (.operand o) then none else t.wait
                                        after := t.after ++ deps }
      if waits then s.endThreadWait t.uid f.handle 1 stamp else s.keepFrame t.uid
    | none =>
      if m + 1 = f.next && f.more then
        s.updFamily fam fun f => { f with held := f.held.set i.val (some v), after := f.after ++ deps }
      else s

/-- A member's first write to s_i leaves for the member above (R38, R75). -/
def State.forwardOn (s : State) (uid seq : Nat) (o : Operand) (v : Wide) : State :=
  match s.thread? uid, o with
  | some t, .int (.s i) =>
    (match t.member? with
    | some (fam, m) =>
      if i.val < winShared t.window && !t.fwd.getLsbD i.val then
        let s := s.updThread uid fun t => { t with fwd := setBit t.fwd i.val true }
        { s with fwds := s.fwds ++ [⟨s.fresh, fam, m, i, v.setWidth 64, uid, seq, t.stamp⟩], fresh := s.fresh + 1 }
      else s
    | none => s)
  | _, _ => s

/-! ## The end of a thread (R76, R77, R267, R276, R347) -/

/-- The message that cancels an AWAIT waiting at a peer (R227). -/
def Access.cancelOut (a : Access) : Option Out :=
  match a.loc, a.op with
  | .peer id off, .await c v _ => if a.phase == .waiting then some (.peerCancel a.ctx id off a.size c v) else none
  | _, _ => none

/-- Cancel the thread's AWAITs and, for an ended member, its waiting full/empty requests (R220, R227): those waiting or
queued are removed, at a peer by a message, and those still travelling are settled on arrival. -/
def State.cancelWaiters (s : State) (uid : Nat) (all : Bool) : State :=
  let mine (a : Access) : Bool := a.uid == some uid && a.waiter && (all || (match a.op with
    | .await _ _ _ => true
    | _ => false))
  { s with accs := (s.accs.filter fun a => !(mine a && (a.phase == .waiting || a.held))).map fun (a : Access) =>
             if mine a then { a with cancelled := true } else a
           out := s.out ++ (s.accs.filter mine).filterMap Access.cancelOut }

/-- A request that the range unit has: it is served whether or not its thread is still there (R306, R307). -/
def PendOp.isTake : PendOp → Bool
  | .take _ | .takeArm _ _ _ _ _ => true
  | _ => false

/-- Results on their way to an ended thread are discarded, those of its loads and atomics in flight included (R76, R276);
acknowledgements still count, a push still takes the value it waits for (R153), and the range unit still serves what was
issued to it (R306, R307). -/
def State.dropResults (s : State) (uid : Nat) : State :=
  { s with arrivals := (s.arrivals.filter fun a => a.uid != uid || a.red || a.push.isSome || a.writes.isEmpty).map fun (a : Arrival) =>
             if a.uid == uid then { a with writes := if a.push.isSome then a.writes else [] } else a
           accs := s.accs.map fun (a : Access) =>
             if a.uid == some uid && a.push.isNone && !a.engine then { a with cancelled := true } else a
           pends := s.pends.filter fun p => p.uid != uid || p.op.isTake }

/-- The results that R76 step 4 cancels, and every wait of the thread but a request of the range unit's. -/
def State.dropWaits (s : State) (uid : Nat) : State :=
  { s with arrivals := s.arrivals.filter fun a => a.uid != uid || (match a.prod with
             | .fsync | .fget | .tagwait | .await_ => false
             | _ => true)
           pends := s.pends.filter fun p => p.uid != uid || p.op.isTake }

/-- A forward waits for the accesses, reductions and matrix operations that its member issued before it (R75, R159); an
AWAIT that has been cancelled is none of them (R76 step 4). -/
def State.fwdHeld (s : State) (f : Fwd) : Bool :=
  (s.accs.any fun a => a.uid == some f.from_ && decide (a.id < f.seq) && !(a.cancelled && a.waiter))
    || s.allCores.any fun k => k.mq.any fun m => m.uid == f.from_ && decide (m.id < f.seq)

/-- Forwards that the member's earlier accesses no longer hold have been sent; those still held are dropped (R77,
R276). -/
def State.dropForwards (s : State) (uid : Nat) : State :=
  let s' := { s with fwds := s.fwds.filter fun f => f.from_ != uid }
  (s.fwds.filter fun f => f.from_ == uid && !s.fwdHeld f).foldl
    (fun s f => s.sendForward f.fam f.m f.reg f.value f.stamp) s'

/-- An ended thread leaves the queue, with every record of it, and its trap service stops (R347). -/
def State.leaveTraps (s : State) (t : Thread) : State :=
  let k := { s.coreAt t.phys t.core with trapQ := (s.coreAt t.phys t.core).trapQ.filter (·.uid != t.uid) }
  match k.serving with
  | some (r, svc) =>
    if r.uid = t.uid then
      let s := (s.setCore { k with serving := none }).updThread svc fun x => { x with run := .ended }
      (s.cancelWaiters svc true).dropResults svc
    else s.setCore k
  | none => s.setCore k

/-- End a member that another's BREAK or an FKILL ends (R77, R276): it stops at once and its slot is free; its issued
accesses are still performed, without a result for it. Its sequencer run stops. A member whose slot runs an inline index,
or whose start is being probed, keeps the slot until that run has ended. -/
def State.endMember (s : State) (uid : Nat) : State :=
  match s.thread? uid with
  | none => s
  | some t =>
    if !t.live then s
    else
      let s := ((s.dropForwards uid).cancelWaiters uid true).dropResults uid
      let s := s.leaveTraps t
      let s := s.updCore t.phys t.core fun k => { k with seqr := k.seqr.filter fun r => r.uid != uid }
      s.updThread uid fun t => { t with run := .ended, wait := none }

/-- Ascending core and then slot order (R261). -/
def slotOrder (a b : Thread) : Bool := decide (64 * a.core + a.slot ≤ 64 * b.core + b.slot)

/-- BREAK takes effect in member `m` (R77, R267): the lowest breaking member decides, and every member above it is
ended; their slots are given out in ascending core and then slot order (R261). -/
def State.breakAt (s : State) (fam m : Nat) : State :=
  match s.family? fam with
  | none => s
  | some f =>
    if (f.decided.map fun d => decide (d ≤ m)).getD false then s
    else
      let s := s.updFamily fam fun f => { f with decided := some m, held := Vector.replicate 4 none }
      let above := (s.membersOf fam).filter fun t => (t.member?.map fun x => decide (m < x.2)).getD false && t.live
      let s := (above.foldl (fun s t => s.endMember t.uid) s).keepRecord fam
      (above.mergeSort slotOrder).foldl (fun s t => s.offerSlot t.phys t.core t.slot none) s

/-- Send a kill on its way (R276, R277). -/
def State.sendKill (s : State) (fam : Nat) (tree : Bool) : State :=
  { s with kills := s.kills ++ [⟨s.fresh, fam, tree⟩], fresh := s.fresh + 1 }

/-- Status 1 is fixed: a BREAK decided the family, and the deciding member and every member below it have terminated (R267,
R278). -/
def State.breakFixed (s : State) (f : Family) : Bool :=
  match f.decided with
  | some d => !((s.membersOf f.uid).any fun t => (t.member?.map fun x => decide (x.2 ≤ d)).getD false)
  | none => false

/-- A kill takes effect (R276 to R278); with `tree`, on every family that an ended member created, down to any depth:
`fuel` is at least the number of families. A kill that meets members on a saved cluster is held until its restore (R278,
R357); a termination by BREAK that is fixed stands (R278). -/
def State.killFamily (s : State) (tree : Bool) : Nat → Nat → State
  | 0, _ => s
  | fuel + 1, fam =>
    match s.family? fam with
    | none => s
    | some f =>
      if f.status.isSome || f.killed then s
      else if !f.started then
        (s.updFamily fam fun f => { f with killed := true, started := true, dputs := Vector.replicate 4 0 }).finishFamily
          fam 2 none
      else if 256 ≤ f.hostPhys then s.sendKill fam tree
      else if s.breakFixed f then s
      else
        let victims := (s.membersOf fam).filter (·.live)
        let s := s.updFamily fam fun f => { f with killed := true, held := Vector.replicate 4 none }
        let s := victims.foldl (fun s t => s.endMember t.uid) s
        let s := if tree then
            (s.families.filter fun g => victims.any fun t => t.uid == g.creator).foldl
              (fun s g => State.killFamily s tree fuel g.uid) s
          else s
        s.tryFinish fam none

/-- Families that the thread created: those that have terminated, and those never started, are released at its end
(R76, R257). -/
def State.releaseFamilies (s : State) (uid : Nat) : State :=
  { s with families := s.families.filter fun f => !(f.creator == uid && (f.status.isSome || !f.started)) }

/-- The forward of s_i has been sent, or none is to come and d_i can be passed on (R38, R76 step 6): no write of s_i is in
flight, and d_i is FULL. -/
def State.passable (s : State) (t : Thread) (i : Fin 4) : Bool :=
  if t.fwd.getLsbD i.val then !(s.fwds.any fun f => f.from_ == t.uid && f.reg == i)
  else
    !(s.arrivals.any fun a => a.uid == t.uid && a.writes.any fun w => w.1 == .int (.s i)) && t.isFull (.int (.d i))

/-- Shared registers that a thread must forward: those of a member's window; a root's reach nobody. -/
def Thread.sharedRegs (t : Thread) : List (Fin 4) :=
  match t.member? with
  | some _ => (List.finRange 4).filter fun i => decide (i.val < winShared t.window)
  | none => []

/-- Pass d_i on for every s_i that was never forwarded (R76 step 6). -/
def State.passThrough (s : State) (t : Thread) (fam m : Nat) : State :=
  (t.sharedRegs.filter fun i => !t.fwd.getLsbD i.val).foldl
    (fun s i => s.sendForward fam m i (t.int (.d i)) t.stamp) s

/-- Steps 4 and 5 of R76: waits are cancelled, and vector ownership and stream bindings are released. A write of an s
register that issued before the EXIT and is in flight is still delivered and forwarded (R38, log entry 24). -/
def State.beginPassing (s : State) (t : Thread) : State :=
  (((s.cancelWaiters t.uid false).dropWaits t.uid).disown t).updThread t.uid fun t => { t with run := .passing }

/-- The context holds the cluster: a group of it is placed or runs there, or a delegated member (R289). -/
def State.holds (s : State) (ctx phys : Nat) : Bool :=
  (s.groups.any fun g => g.ctx == ctx && g.phys == phys && g.resident)
    || s.threads.any fun t => t.ctx == ctx && t.phys == phys && s.ownSlot t && t.delegated

/-- No other context may take the cluster: the context holds it, or an allotment is kept there for a successor (R289, R305,
log entry 38). -/
def State.resides (s : State) (ctx phys : Nat) : Bool :=
  s.holds ctx phys || s.groups.any fun g => g.ctx == ctx && g.phys == phys && g.st == .retained

/-- Release the clusters that nothing of their context holds any longer; a frozen context keeps its own (R289, R368). -/
def State.releaseClusters (s : State) : State :=
  { s with clusters := s.clusters.map fun (k : Cluster) => match k.ctx with
      | some c =>
        if s.resides c k.phys || ((s.ctx? c).bind (·.freeze)).isSome then k else
          { k with ctx := none, stopped := false, saving := false }
      | none => k }

/-- The last step of a thread (R76 step 7): results still on their way are discarded, unstarted families freed, the slot
given out; then what its family or group makes of it. What the thread stood behind stays with its family (R321). -/
def State.finishThread (s : State) (t : Thread) : State :=
  let rest := s.behind t
  let s := ((s.cancelWaiters t.uid false).dropResults t.uid).disown t
  let s := s.dropThread t.uid
  let s := s.releaseFamilies t.uid
  match t.kind with
  | .root =>
    (s.updGroup t.group fun g => { g with rootDone := true, stamp := t.stamp }).offerSlot t.phys t.core t.slot none
  | .member fam _ =>
    let s := s.updFamily fam fun f => { f with carry := f.carry ++ rest }
    let s := if t.live then s.offerSlot t.phys t.core t.slot (some fam) else s
    let s := s.tryFinish fam (some t.stamp)
    if t.delegated then s.releaseClusters else s
  | .inline fam _ _ =>
    (s.updFamily fam fun f => { f with carry := f.carry ++ rest, after := f.after ++ rest }).inlineNext fam t.stamp
  | .service _ => s

end Sys2Proof.Machine
end

