-- ==== Sys2Proof/Machine/CopyTurn.lean ====
section
/-! DEFINITION. Which copy an engine moves next, and what of a copy can move now (R242): the homes look at it too (R197). -/

namespace Sys2Proof.Machine

/-- The engine that carries a copy: its cluster's copy engine, or the engine of a far-table entry's or a communicator's
port. -/
def State.engineOf (s : State) (c : Copy) : Nat × Nat :=
  match c.kind with
  | .cpg _ | .send => (1, c.phys)
  | .farOut _ e _ | .farIn _ e _ => (2, (((s.ctx? c.ctx).bind fun x => x.far.lookup e).map (·.port)).getD 0)
  | .coll comm _ _ => (2, Config.commPort c.ctx comm % 16)

/-- Bytes of a unit. -/
def Copy.unitSize (c : Copy) : Nat :=
  match c.kind with
  | .coll _ _ size => size
  | _ => 16

/-- The open collective of a copy: one whose result is not known yet. -/
def State.openColl (s : State) (c : Copy) : Option Coll :=
  match c.kind with
  | .coll comm k _ =>
    ((s.ctx? c.ctx).bind fun x => x.comms.find? fun m => m.num == comm).bind fun m => m.open_.find? fun y => y.k == k
  | _ => none

/-- Effective slack: one less for every 1,024 cycles of 2.4 GHz waited. -/
def State.effSlack (s : State) (c : Copy) : Nat := c.slack - (s.now - c.issued) * 12 / 5 / 1024

/-- Two places of `n` and `m` bytes overlap. -/
def overlapsAny (l : Loc) (n : Nat) (ls : List Loc) (m : Nat) : Bool := ls.any fun x => x.overlaps m l n

/-- Places that a copy has still to write, a collective's destination included. -/
def State.unwritten (s : State) (c : Copy) : List Loc :=
  match s.openColl c with
  | some y => y.dst
  | none => c.units.flatMap (·.2)

/-- An earlier copy of the thread has still to write bytes of the place (R242). -/
def State.behindCopy (s : State) (c : Copy) (l : Loc) (n : Nat) : Bool :=
  s.copies.any fun x => x.uid == c.uid && decide (x.id < c.id) && overlapsAny l n (s.unwritten x) x.unitSize

/-- The value of a unit has been read, or has arrived. -/
def Copy.has (c : Copy) (i : Nat) : Bool := (c.got.lookup i).isSome

/-- A copy whose units are read by its engine: not a page from the far tier, nor a collective that writes its result. -/
def State.reads (s : State) (c : Copy) : Bool :=
  match c.kind with
  | .cpg _ | .send => true
  | .farOut _ _ _ => !c.sent
  | .farIn _ _ _ => false
  | .coll _ _ _ => !c.sent && (s.openColl c).isSome

/-- A unit's value can be had now: it is there, or its source can be read. -/
def State.canRead (s : State) (c : Copy) (i : Nat) (src : Loc) : Bool := c.has i || (s.reads c && src.present)

/-- A unit has bytes that can move now: a read that is due, the read of a SEND that a saved cluster keeps from being
written (R182, R357), or a write whose home is present and whose turn it is. -/
def State.canMove (s : State) (c : Copy) (i : Nat) (u : Loc × List Loc) : Bool :=
  let n := c.unitSize
  s.canRead c i u.1 && ((!c.has i && u.2.isEmpty && s.reads c && !(match c.kind with
      | .cpg _ | .send => true
      | _ => false))
    || (!c.has i && u.2.any fun l => !l.present)
    || u.2.any fun l => l.present && !s.behindCopy c l n)

/-- The copy has bytes to move now. -/
def State.movable (s : State) (c : Copy) : Bool :=
  (match c.kind with
    | .farIn _ _ _ => !c.sent
    | _ => false) || c.units.zipIdx.any fun u => s.canMove c u.2 u.1

/-- The engine's choice among the copies it holds: the one whose burst it has begun, or, before a burst, the one with the
least effective slack, then the earliest issued (R242). -/
def State.copyTurn (s : State) (c : Copy) : Bool :=
  s.movable c && (decide (0 < c.burst) || !(s.copies.any fun x => x.id != c.id && s.engineOf x == s.engineOf c && s.movable x
    && (decide (s.effSlack x < s.effSlack c) || (s.effSlack x == s.effSlack c && decide (x.id < c.id)))))

end Sys2Proof.Machine
end

