-- ==== Sys2Proof/Machine/Homes.lean ====
section
/-! DEFINITION. What homes do with the accesses that reach them (R196 to R202, R217 to R231), which of them may be performed
(R197, R200, R202), and the arrival of results at registers (R37, R45, R75). An event that cannot happen in a state leaves
the state as it is. -/

namespace Sys2Proof.Machine

/-! ## Reads (R201) -/

/-- The read of an access: at a peer, what the peer answers. -/
def State.accRead (s : State) (a : Access) (peer : Wide) : Nat × State :=
  match a.loc with
  | .peer _ _ => (peer.toNat % 2 ^ (8 * a.size), s)
  | _ => s.homeRead a.loc a.size a.ctx (some a.group) (a.uid.bind s.thread?)

/-! ## Which access may be performed (R197, R200, R202) -/

def Access.channel (a : Access) : Option Nat :=
  match a.loc with
  | .hbm pa => some (channelOf pa)
  | _ => none

/-- Two accesses keep their order where they overlap: those of one thread (R202), its pushes among themselves (R153), the
granules of its MSTs among themselves, so that of rows that overlap the later one stands (R176), and those of peers, which
stand in the order of their arrival (R200, R212). -/
def Access.together (a b : Access) : Bool :=
  (a.uid.isSome && a.uid == b.uid && b.engine == a.engine && (match a.op, b.op with
      | .mst _, .mst _ => true
      | .mst _, _ | _, .mst _ => false
      | _, _ => true))
    || (a.peer.isSome && b.peer.isSome)

/-- An earlier access that it must follow is still on its way: one that overlaps it, or, for a full/empty request or AWAIT, one
that its core has sent again for the same list. A request that waits at its home delays nothing (R211, R220). -/
def State.heldBack (s : State) (a : Access) : Bool :=
  s.accs.any fun b => decide (b.id < a.id) && (b.phase == .sent || b.phase == .unvalued)
    && ((a.together b && b.loc.overlaps b.size a.loc a.size)
      || (b.resent && b.sameQueue a))

/-- On its way and free to be performed, the home's own preferences apart. -/
def State.performable (s : State) (a : Access) : Bool :=
  a.phase == .sent && a.loc.present && !s.heldBack a

/-- Place of requester `r` in the round-robin of a bank, 8 being the copy engine (R197, R379). -/
def Cluster.turnOf (k : Cluster) (bank r : Nat) : Nat := (r + 8 - k.blast[bank]?.getD 8) % 9

/-- An aged request, by its age, requester and id, comes before another at a bank: before one that is not aged, before a
younger one, and among those of equal age in round-robin order (R197). -/
def Cluster.agedFirst (k : Cluster) (bank : Nat) (x : Nat × Nat × Nat) (y : Option Nat × Nat × Nat) : Bool :=
  match y.1 with
  | none => true
  | some t =>
    let p := k.turnOf bank x.2.1
    let q := k.turnOf bank y.2.1
    decide (x.1 < t) || (x.1 == t && (decide (p < q) || (p == q && decide (x.2.2 < y.2.2))))

/-- Banks of a cluster that `n` bytes at a scratchpad place touch. -/
def Loc.banks (l : Loc) (n : Nat) : Option (Nat × List Nat) :=
  match l with
  | .spad phys off => some (phys, (List.range ((off % 8 + n + 7) / 8)).map fun i => (off / 8 + i) % 64)
  | _ => none

/-- The bank that two requests meet in. -/
def meetIn (x y : Option (Nat × List Nat)) : Option Nat :=
  match x, y with
  | some a, some b => if a.1 = b.1 then a.2.find? b.2.contains else none
  | _, _ => none

/-- An aged request of `m` bytes at a place, whose age, requester and id `x` gives, comes before one for banks `bs` (R197). -/
def Cluster.outranks (k : Cluster) (bs : Option (Nat × List Nat)) (me : Option Nat × Nat × Nat) (x : Nat × Nat × Nat)
    (l : Loc) (m : Nat) : Bool :=
  match meetIn bs (l.banks m) with
  | some bank => k.agedFirst bank x me
  | none => false

/-- The age of a stream fetch that waits at a bank: it is aged after 4 cycles, 2 ns (R197). -/
def Stream.aged (st : Stream) (now : Nat) : Option Nat :=
  (st.since.filter fun x => decide (x.1 + 2 ≤ now)).map (·.1)

/-- Aged accesses, copies and stream fetches that a cluster's banks serve before a request of `n` bytes at a place, whose age,
requester and id `me` gives (R197). -/
def State.agedBefore (s : State) (phys : Nat) (l : Loc) (n : Nat) (me : Option Nat × Nat × Nat) : Bool :=
  let k := s.clusterAt phys
  let first := k.outranks (l.banks n) me
  (s.accs.any fun b => match b.agedAt with
      | some t => b.id != me.2.2 && s.performable b && first (t, b.core, b.id) b.loc b.size
      | none => false)
    || (s.copies.any fun c => match c.agedAt with
      | some t => c.id != me.2.2 && s.copyTurn c && (c.units.zipIdx.any fun u => s.canMove c u.2 u.1
          && ((if c.has u.2 then [] else [u.1.1]) ++ u.1.2).any fun d => first (t, 8, c.id) d c.unitSize)
      | none => false)
    || s.cores.any fun c => !k.stopped && !(c.core == me.2.1 && me.2.2 == 0) && c.streams.toList.any fun st =>
      match st.since, st.aged s.now with
      | some (_, d), some t => st.bound.isSome && first (t, c.core, 0) d 32
      | _, _ => false

/-- A home serves other requests before one of `n` bytes at a place, whose age, requester and id `me` gives: aged ones of its
banks (R197), and those of its channel that 64 later ones have passed (R200). -/
def State.homeBusy (s : State) (l : Loc) (n : Nat) (me : Option Nat × Nat × Nat) : Bool :=
  match l with
  | .spad phys _ => s.agedBefore phys l n me
  | .hbm pa => s.accs.any fun b => decide (64 ≤ b.passedBy) && b.id != me.2.2 && s.performable b
      && b.channel == some (channelOf pa)
      && !(s.accs.any fun x => x.id == me.2.2 && decide (64 ≤ x.passedBy) && decide (x.id < b.id))
  | _ => false

/-- The banks of a place serve a requester (R197). -/
def State.bankServed (s : State) (l : Loc) (n r : Nat) : State :=
  match l.banks n with
  | some (phys, bs) => s.updCluster phys fun k => { k with blast := bs.foldl (fun v b => v.set! b r) k.blast }
  | none => s

/-- A request with id `id` that has been performed at a place has passed those that reached its channel core before it (R200). -/
def State.passBelow (s : State) (l : Loc) (id : Nat) : State :=
  match l with
  | .hbm pa => { s with accs := s.accs.map fun (b : Access) =>
      if b.phase == .sent && decide (b.id < id) && b.channel == some (channelOf pa) then { b with passedBy := b.passedBy + 1 } else b }
  | _ => s

/-- An access that has been performed has passed those that left before it (R200). -/
def State.countPass (s : State) (a : Access) : State := s.passBelow a.loc a.id

/-- A request of an engine, a stream unit or a walker arrives when it is performed: it passes all that is there (R200). -/
def State.passAll (s : State) (l : Loc) : State := s.passBelow l s.fresh

/-! ## Loads, stores and atomics (R67, R196, R221 to R224) -/

/-- The register value of a load (R67). -/
def loadValue (e : Ext) (d : Operand) (n v : Nat) : Wide :=
  match d, e with
  | .int _, .sx => ((BitVec.ofNat (8 * n) v).signExtend 64).setWidth 256
  | _, _ => BitVec.ofNat 256 v

/-- Op(old, v, e) of R221 on `w` bits; none where nothing is written. -/
def atomicValue (op : BitVec 4) (w old v e : Nat) : Option Nat :=
  let x := BitVec.ofNat w old
  let y := BitVec.ofNat w v
  match op.toNat with
  | 0 => some (x + y).toNat
  | 1 => some (x &&& y).toNat
  | 2 => some (x ||| y).toNat
  | 3 => some (x ^^^ y).toNat
  | 4 => some (if x.toInt ≤ y.toInt then x.toNat else y.toNat)
  | 5 => some (if x.toInt ≤ y.toInt then y.toNat else x.toNat)
  | 6 => some (min x.toNat y.toNat)
  | 7 => some (max x.toNat y.toNat)
  | 8 => some y.toNat
  | 9 => if x = BitVec.ofNat w e then some y.toNat else none
  | _ => some (fAdd (if w = 32 then .s else .d) FEnv.plain x.toNat y.toNat).1

/-- The arriver of a wait that an access ends (R314). -/
def Access.arriver (a : Access) : BitVec 32 := a.handle

/-- Write at the home of an access; a peer's home is on another device. -/
def State.accWrite (s : State) (a : Access) (v : Nat) : State :=
  match a.loc with
  | .peer _ _ => s
  | _ => s.homeWrite a.loc a.size v a.arriver a.stamp

/-! ## Exact sum slots (R228 to R231) -/

/-- The slot of the context bound to an HBM address. -/
def State.sumSlot? (s : State) (ctx pa : Nat) : Option SumSlot := s.sums.find? fun x => x.ctx == ctx && x.pa == pa

def State.dropSum (s : State) (ctx pa : Nat) : State := { s with sums := s.sums.filter fun x => !(x.ctx == ctx && x.pa == pa) }

/-- Add an addend (R231). -/
def SumSlot.take (x : SumSlot) (f : Fmt) (v : Word) : SumSlot :=
  if 2 ^ 40 ≤ x.count then { x with count := 2 ^ 40 + 1 }
  else
    match unpack f (v.toNat % 2 ^ f.width) with
    | .nan => { x with nan := true, count := x.count + 1 }
    | .inf neg => { x with pinf := x.pinf || !neg, ninf := x.ninf || neg, count := x.count + 1 }
    | .fin neg m e => { x with a := x.a + signed neg m * 2 ^ (e + 149).toNat, count := x.count + 1 }

/-- The total as FP32 (R231). -/
def SumSlot.value (x : SumSlot) : Nat :=
  if x.nan || (x.pinf && x.ninf) || decide (2 ^ 40 < x.count) then 0x7FC00000
  else if x.pinf then 0x7F800000
  else if x.ninf then 0xFF800000
  else (roundInt .s FEnv.plain x.a (-149) false).1

/-- Set a bit of SUM_STATUS (R231). -/
def State.sumFlag (s : State) (ctx : Nat) (b : BitVec 2) : State :=
  s.updCtx ctx fun c => { c with sumStatus := c.sumStatus ||| b }

/-- Reading a slot in a poisoned word is charged to the access, and gives a free value (R363, log entry 6). -/
def State.sumRead (s : State) (a : Access) (x : SumSlot) : Nat × State :=
  if x.bad then
    let r := s.newFree
    ((Config.upsetValue r.1).toNat % 2 ^ 32, r.2.chargeRead (s.homeId a.loc) a.ctx (some a.group) (a.uid.bind s.thread?))
  else (x.value, s)

/-- A sum access at its home (R228 to R230). -/
def State.sumAccess (s : State) (a : Access) (pa : Nat) : State :=
  match a.op with
  | .sumOn p q =>
    let bound := (s.sumSlot? a.ctx pa).isSome
    let free := decide ((s.sums.filter fun x => channelOf x.pa == channelOf pa).length < 64)
    let s := if !bound && free then { s with sums := s.sums ++ [⟨a.ctx, pa, 0, false, false, false, 0, false⟩] } else s
    let ok := bound || free
    s.reply a [(.pred p, BitVec.ofNat 256 ok.toNat), (.pred q, BitVec.ofNat 256 (!ok).toNat)] .other 0 0 a.stamp
  | .sumAdd f v =>
    let s := match s.sumSlot? a.ctx pa with
      | some x =>
        let s := (s.sumRead a x).2
        { s with sums := s.sums.map fun (x : SumSlot) => if x.ctx == a.ctx && x.pa == pa then x.take f v else x }
      | none => s.sumFlag a.ctx 1
    (s.stampGroup a.group a.stamp).reply a [] .mem 0 0 a.stamp
  | .sumOff d =>
    (match s.sumSlot? a.ctx pa with
    | some x =>
      let r := s.sumRead a x
      let v := r.1
      ((r.2.dropSum a.ctx pa).homeWrite a.loc 8 v a.arriver a.stamp).reply a [(.int d, BitVec.ofNat 256 v)] .other 0 0
        a.stamp
    | none =>
      (s.sumFlag a.ctx 2).reply a [(.int d, BitVec.ofNat 256 (2 ^ 64 - 1))] .other 0 0 a.stamp)
  | _ => s

/-! ## Full/empty requests (R217 to R220) -/

def AccOp.granuleOp : AccOp → Bool
  | .ldfe _ _ | .stfe _ | .feinit _ => true
  | _ => false

/-- The granule state admits the request (R217). -/
def AccOp.admitted (op : AccOp) (full : Bool) : Bool :=
  match op with
  | .ldfe _ _ => full
  | .stfe _ => !full
  | _ => true

/-- Two scratchpad places lie in one granule. -/
def Loc.sameGranule (a b : Loc) : Bool :=
  match a, b with
  | .spad p x, .spad q y => p == q && x / 16 == y / 16
  | _, _ => false

/-- Perform an admitted request (R218, R219). `fill`: the agent and stamp of the granule fill that admits it; what
comes back is the fill that stands afterwards. -/
def State.admitted (s : State) (a : Access) (fill : Option (BitVec 32 × Stamp)) : State × Option (BitVec 32 × Stamp) :=
  match a.op with
  | .ldfe consume d =>
    let s := s.settle a.id
    let r := s.homeRead a.loc 8 a.ctx (some a.group) (a.uid.bind s.thread?)
    let s := if consume then r.2.setGranule a.loc false else r.2
    let w := [(Operand.int d, BitVec.ofNat 256 r.1)]
    (match fill with
    | some f => (s.reply a w .fe 3 f.1 f.2, fill)
    | none => (s.reply a w .fe 0 0 a.stamp, fill))
  | .stfe v =>
    (((s.acknowledge a).homeWrite a.loc 8 v.toNat a.arriver a.stamp).setGranule a.loc true, some (a.arriver, a.stamp))
  | .feinit full => ((s.acknowledge a).setGranule a.loc full, none)
  | _ => (s, fill)

/-- Serve a granule's waiters, the oldest admitted one first, until none is admitted (R217); `fuel` is at least their
number. -/
def State.serveFrom (s : State) (l : Loc) (fill : Option (BitVec 32 × Stamp)) : Nat → State
  | 0 => s
  | fuel + 1 =>
    match s.accs.find? fun a => a.phase == .waiting && a.op.granuleOp && a.loc.sameGranule l
        && a.op.admitted (s.granuleFull l) with
    | none => s
    | some a =>
      let r := s.admitted a fill
      State.serveFrom r.1 l r.2 fuel

def State.serve (s : State) (l : Loc) (fill : Option (BitVec 32 × Stamp)) : State := s.serveFrom l fill s.accs.length

/-- An engine's write of a 16-byte granule: its data, then FULL, then its waiters (R198, R217, R176). -/
def State.fillGranule (s : State) (l : Loc) (v : Nat) (agent : BitVec 32) (stamp : Stamp) : State :=
  ((s.homeWrite l 16 v agent stamp).setGranule l true).serve l (some (agent, stamp))

/-- Entries of a list of this device. -/
def listRoom (key : Nat) : Nat := if key < 512 then 4096 else 32

/-- The entries of a list that are taken: by requests that wait there, and by those for which one has been granted. -/
def State.waitingAt (s : State) (key : Nat) : Nat :=
  (s.accs.filter fun a => (a.phase == .waiting || a.granted) && a.listKey == key && a.waiter).length

/-- The list of a place at a peer is the peer's own. -/
def peerList (key : Nat) : Bool := decide (peerLists ≤ key)

/-- An entry that a request's core has been granted, and that the request does not take, is for the next one that the core
has sent again for the list (R220, R227). -/
def State.passGrant (s : State) (a : Access) : State :=
  match if a.granted then s.accs.find? fun b => b.id != a.id && b.resent && b.phase == .sent && b.sameQueue a else none with
  | none => s
  | some b => { s with accs := s.accs.map fun (x : Access) => if x.id == b.id then { x with granted := true } else x }

/-- An entry of its list is free for a request: `full`: a peer's list is full. -/
def State.entryFor (s : State) (a : Access) (full : Bool) : Bool :=
  if peerList a.listKey then !full else a.granted || decide (s.waitingAt a.listKey < listRoom a.listKey)

/-- A request must wait: it takes an entry, behind those that wait already, or returns to its core where the list is full; one
whose thread has been ended is withdrawn (R220, R227). `full`, `home`: what a peer answers of its list and channel core. -/
def State.hold (s : State) (a : Access) (full : Bool) (home : BitVec 32) : State :=
  if a.cancelled then (s.passGrant a).settle a.id
  else if s.entryFor a full then
    { s with accs := (s.accs.filter (·.id != a.id)) ++ [{ a with phase := .waiting, granted := false }] }
  else
    let back (x : Access) : Access := if x.id == a.id then { x with phase := .outbound, queue := home.toNat } else x
    { s with accs := s.accs.map back }

/-- A request that finds its granule's bits in a poisoned word is charged for it, and finds a free value (R363, log entry 6). -/
def State.granuleRead (s : State) (a : Access) : State :=
  if s.granuleBad a.loc then
    let r := s.newFree
    (r.2.chargeRead (s.errorId a.loc) a.ctx (some a.group) (a.uid.bind s.thread?)).setGranule a.loc
      ((Config.upsetValue r.1).getLsbD 0)
  else s

/-- A full/empty request or an AWAIT arrives at its home: one that the state admits is performed at once and takes no entry. -/
def State.arrive (s : State) (a : Access) (peer : Wide) (full : Bool) (home : BitVec 32) : State :=
  match a.op with
  | .await c v d =>
    let r := s.accRead a peer
    if awHolds c a.size r.1 v.toNat then
      ((r.2.passGrant a).settle a.id).reply a [(.int d, BitVec.ofNat 256 r.1)] .await_ 0 0 a.stamp
    else r.2.hold a full home
  | _ =>
    let s := s.granuleRead a
    if a.op.admitted (s.granuleFull a.loc) then
      let r := (s.passGrant a).admitted a none
      r.1.serve a.loc r.2
    else s.hold a full home

/-! ## ACCESS_PERFORM -/

/-- Perform an access at its home (R201), `peer`, `full` and `mark` being what a peer answers: the value, that its list has no
entry free, and its home. An access that the exporter refuses is performed nowhere, and its context takes the peer-loss
fault (R337). -/
def State.commit (s : State) (a : Access) (peer : Wide) (full : Bool) (mark : PeerMark) : State :=
  let out (s : State) : State := match a.loc with
    | .peer id off => s.send (.peerAccess a.ctx id off a.size a.op (a.stamp.mark a.handle (8 * a.lcl + a.core)))
    | _ => s
  let home := match a.loc with
    | .peer _ _ => mark.who
    | l => s.homeId l
  if a.loc == .nowhere then (s.settle a.id).unitFault a.ctx ((s.group? a.group).map (·.replay)) 0x43 (engineId 2 0)
  else
    match a.op with
    | .load e d =>
      let r := (out s).accRead a peer
      (r.2.settle a.id).reply a [(d, loadValue e d a.size r.1)] .mem 0 0 a.stamp
    | .store v =>
      if a.peer.isSome then ((s.settle a.id).accWrite a v.toNat).reply a [] .mem 0 0 a.stamp
      else ((out s).acknowledge a).accWrite a v.toNat
    | .rmw op v e dst =>
      let r := (out s).accRead a peer
      let s := r.2.settle a.id
      let s := match atomicValue op (8 * a.size) r.1 v.toNat e.toNat with
        | some x => s.accWrite a x
        | none => s
      (match dst with
      | some d => s.reply a [(.int d, BitVec.ofNat 256 r.1)] .atomic 10 home a.stamp
      | none => (s.stampGroup a.group a.stamp).reply a [] .mem 0 0 a.stamp)
    | .push _ v => ((out s).settle a.id).accWrite a v.toNat
    | .mst v => (s.settle a.id).fillGranule a.loc v.toNat (engineId 7 a.lcl) a.stamp
    | .sumOn _ _ | .sumAdd _ _ | .sumOff _ =>
      (match a.loc with
      | .hbm pa => (s.settle a.id).sumAccess a pa
      | _ => s.settle a.id)
    | .await _ _ _ => (out s).arrive a peer full mark.who
    | .ldfe _ _ | .stfe _ | .feinit _ => s.arrive a peer full mark.who

/-- A peer's word satisfies an AWAIT that waits there, by a write whose agent and stamp `mark` gives (R212, R226, R318). -/
def State.peerWake (s : State) (a : Access) (peer : Wide) (mark : PeerMark) : State :=
  match a.loc, a.op with
  | .peer _ _, .await c v d =>
    let x := peer.toNat % 2 ^ (8 * a.size)
    if a.phase == .waiting && awHolds c a.size x v.toNat then
      (s.settle a.id).reply a [(.int d, BitVec.ofNat 256 x)] .await_ 11 mark.who (markStamp mark)
    else s
  | _, _ => s

/-! ## RESULT_ARRIVAL (R37, R41, R45, R75, R123, R153) -/

/-- The value of a push comes with a result (R153). SUNBIND leaves the value of the last element pushed, whichever value
arrives last (R154). -/
def State.valuePush (s : State) (t : Thread) (pid : Nat) (v : Wide) : State :=
  match s.accs.find? fun a => a.id == pid with
  | none => s
  | some a =>
    match a.op with
    | .push u _ =>
      let s := { s with accs := s.accs.map fun (x : Access) =>
        if x.id == pid then { x with op := .push u v, phase := if x.loc.present then .sent else .away } else x }
      s.updCore t.phys t.core fun k =>
        let st := k.streams[u.val]
        { k with streams := k.streams.set u.val (if st.lastPush ≤ pid then { st with last := v, lastPush := pid } else st) }
    | _ => s

/-- Deliver one value: to the push that takes it, or to a register that is owed it. -/
def State.deliverOne (s : State) (uid seq : Nat) (push : Option Nat) (o : Operand) (v : Wide) : State :=
  match s.thread? uid with
  | none => s
  | some t =>
    match push, o with
    | some pid, .wide _ => s.valuePush t pid v
    | _, _ =>
      if t.isPend o then (s.updThread uid fun t => t.put o v).forwardOn uid seq o v else s

/-- The wait that the result ends writes its record first, so that what it forwards carries the new stamp (R313). -/
def State.arriveWait (s : State) (t : Thread) (r : Arrival) : State :=
  match t.wait with
  | some (.operand o) =>
    if r.writes.any fun w => w.1 == o then
      let s := if r.kind = 0 then s else s.endThreadWait t.uid r.arriver r.kind r.stamp
      s.updThread t.uid fun t => { t with wait := none }
    else s
  | _ => s

/-- Loads, atomics and full/empty loads: a thread that has issued EXIT or BREAK takes none of their results (R76 step 3). -/
def Prod.memory : Prod → Bool
  | .mem | .atomic | .fe => true
  | _ => false

/-- The thread has issued EXIT or BREAK. -/
def Thread.onItsWay (t : Thread) : Bool := t.run.base == .exiting || t.run.base == .breaking || t.run.base == .passing

/-- What a result still writes: nothing of a load for a thread on its way out, but the push that takes it (R76, R153). -/
def Thread.taking (t : Thread) (r : Arrival) : Arrival :=
  if t.onItsWay && r.prod.memory && r.push.isNone then { r with writes := [] } else r

/-- A result reaches its thread. It shows in the frame of a thread whose slot runs an inline index (R266). -/
def State.land (s : State) (r : Arrival) : State :=
  match s.thread? r.uid with
  | none => s
  | some t =>
    let r := t.taking r
    let s := s.arriveWait t r
    let s := s.updThread t.uid fun t =>
      { t with flags := t.flags ||| r.flags, reds := if r.red then t.reds - 1 else t.reds, after := t.after ++ r.after }
    let s := r.writes.foldl (fun s w => s.deliverOne t.uid r.seq r.push w.1 w.2) s
    (s.keepFrame t.uid).endRun t.phys t.core

/-- A result reaches its registers (R37). -/
def execResultArrival (arr : Nat) (s : State) : Host.Outcome State Fault Refusal :=
  .next (match s.arrivals.find? fun r => r.id == arr with
    | none => s
    | some r =>
      if s.isSaved r.uid then s else ({ s with arrivals := s.arrivals.filter (·.id != arr) }.acknowledged r.seq).land r)

end Sys2Proof.Machine
end

