-- ==== Sys2Proof/Machine/Matrix.lean ====
section
/-! DEFINITION. The matrix instructions (R160 to R164, R175 to R177). -/

namespace Sys2Proof.Machine

/-- Queue an operation for the thread's core. -/
def State.queueOp (s : State) (t : Thread) (kind : MKind) (fmt : Word) (args : Option MmaArgs)
    (pages : List (Nat × Nat)) : State :=
  let m : MOp := ⟨s.fresh, t.uid, t.pc, kind, fmt, args, pages, .ready, [], false, t.stamp⟩
  { s.updCore t.phys t.core fun k => { k with mq := k.mq ++ [m] } with fresh := s.fresh + 1 }

/-- MFMT (R160). -/
def execMfmt (a : IReg) (s : State) : Host.Outcome State Fault Refusal :=
  ownerOp (.mfmt a) s fun s t =>
    if mfmtOk (t.int a) then .ok (s.updCore t.phys t.core fun k => { k with fmtCtx := some (t.int a) })
    else .error .matrixParam

/-- MUNF (R162). -/
def execMunf (s : State) : Host.Outcome State Fault Refusal :=
  ownerOp .munf s fun s t =>
    let d := (t.ext 0, t.ext 1, t.ext 2, t.ext 3)
    if munfOk d then .ok (s.updCore t.phys t.core fun k => { k with unfold := some d }) else .error .matrixParam

/-- MMA (R164): phases 1 and 3; the ordering wait of phase 2 and the wait for room stand in `holdOf`, and one that
has waited for room keeps the translations it obtained (R159). -/
def execMma (n : Fin 2) (a b : IReg) (s : State) : Host.Outcome State Fault Refusal :=
  ownerOp (.mma n a b) s fun s t =>
    let m := s.mmaArgs t n a b
    if !m.ok then .error .matrixParam
    else
      match s.keptPlan t (.mma n a b) with
      | (.error tr, _) => .error tr
      | (.ok (.mma k ps), s) => .ok (s.queueOp t k (m.fmt.getD 0) (some m) ps)
      | _ => .error .matrixParam

/-- MZ (R175). -/
def execMz (n : Fin 2) (s : State) : Host.Outcome State Fault Refusal :=
  ownerOp (.mz n) s fun s t => .ok (s.queueOp t (.mz n) 0 none [])

/-- Draws that an MST takes (R176). -/
def mstDraws (d : Word) : Nat := if mstMode d = .sr then 512 else 0

/-- MST (R176). -/
def execMst (n : Fin 2) (a b : IReg) (s : State) : Host.Outcome State Fault Refusal :=
  ownerOp (.mst n a b) s fun s t =>
    let fmt := (s.coreAt t.phys t.core).fmtCtx
    match s.mstPlan t.issuer fmt (t.int a) (t.int b) with
    | (.error tr, _) => .error tr
    | (.ok ls, s) =>
      let k := mstDraws (t.int b)
      .ok ((s.takeDraws t.uid k).queueOp t (.mst n ls (t.int b) ((List.range k).map t.draw)) (fmt.getD 0) none [])

/-- MWAIT (R177): it waits for every operation queued before it. -/
def execMwait (d : IReg) (s : State) : Host.Outcome State Fault Refusal :=
  attempt (.mwait d) s fun s t p =>
    if !s.owns t then .error .ownership
    else
      let ops := (s.coreAt t.phys t.core).mq.map (·.id)
      .ok (if ops.isEmpty then s.result t p (intResult d 0) .mwait none else s.pend t d (.mwait ops))

end Sys2Proof.Machine
end

