-- ==== Sys2Proof/Machine/MatrixUnit.lean ====
section
/-! DEFINITION. What the matrix unit does with its queues: staging, the choice of the next operation (R158, R167), the
summation order (R168 to R171), MST's writes (R176), and what pre-emption leaves to be translated again (R174). -/

namespace Sys2Proof.Machine

/-! ## Sums of products (R168 to R170) -/

/-- Exponent of the largest power of two that is not above a product: floor(log2 |p|). -/
def topExp (m : Nat) (e : Int) : Int := Nat.log2 m + e

/-- Finite products of a set; none if one of them is not finite. -/
def finProducts (ps : List (Option FVal)) : Option (List (Bool × Nat × Int)) :=
  ps.mapM fun p => match p with
    | some (.fin neg m e) => some (neg, m, e)
    | _ => none

/-- The lowest exponent of a list of products. -/
def lowExp (ps : List (Bool × Nat × Int)) : Int := (ps.map fun p => p.2.2).foldl min ((ps.head?.map fun p => p.2.2).getD 0)

/-- Sum of finite products, each cut toward zero at the weight 2^q, or exact where `q` is none (R169, R170): the value, as
a signed magnitude of a power of two. A zero sum has the sign that R115 gives. -/
def sumProducts (ps : List (Bool × Nat × Int)) (q : Option Int) : FVal :=
  let u := q.getD (lowExp ps)
  let scale (m : Nat) (e : Int) : Nat := if u ≤ e then m * 2 ^ (e - u).toNat else m / 2 ^ (u - e).toNat
  let total : Int := (ps.map fun p => signed p.1 (scale p.2.1 p.2.2)).sum
  if ps.all fun p => p.2.1 == 0 then .fin (ps.all fun p => p.1) 0 0
  else .fin (decide (total < 0)) total.natAbs u

/-- GroupSum (R168), cut in a window of 48 bits where `window` says so (R170). -/
def groupSum (window : Bool) (ps : List (Option FVal)) : FVal :=
  if ps.any fun p => p == none || p == some .nan then .nan
  else
    let up := ps.any fun p => p == some (.inf false)
    let down := ps.any fun p => p == some (.inf true)
    if up && down then .nan
    else if up then .inf false
    else if down then .inf true
    else
      match finProducts ps with
      | none => .nan
      | some fs =>
        let tops := (fs.filter fun p => p.2.1 != 0).map fun p => topExp p.2.1 p.2.2
        sumProducts fs (if window then tops.max?.map (· - 47) else none)

/-- Round a group's sum to FP32 (R169 to R171). -/
def roundSum (x : FVal) : Nat := (roundVal .s FEnv.plain x).1

/-! ## One accumulator element (R169 to R171) -/

/-- Products of a run of element pairs. -/
def products (as bs : List FVal) : List (Option FVal) := List.zipWith mulExact as bs

/-- Groups of `n` pairs, ascending, folded into the accumulator; `fuel` is at least their number. -/
def foldGroups (n : Nat) (window : Bool) : Nat → Nat → List FVal → List FVal → Nat
  | 0, c, _, _ => c
  | fuel + 1, c, as, bs =>
    if as.isEmpty then c
    else
      let s := roundSum (groupSum window (products (as.take n) (bs.take n)))
      foldGroups n window fuel (fAdd .s FEnv.plain c s).1 (as.drop n) (bs.drop n)

/-- Blocks of 128 pairs with their scales, ascending (R171). -/
def foldScaled : List (Nat × Nat) → Nat → List FVal → List FVal → Nat
  | [], c, _, _ => c
  | (x, y) :: rest, c, as, bs =>
    let p := roundSum (groupSum false (products (as.take 128) (bs.take 128)))
    let f := (fMul .s FEnv.plain x y).1
    let v := (fMul .s FEnv.plain p f).1
    foldScaled rest (fAdd .s FEnv.plain c v).1 (as.drop 128) (bs.drop 128)

/-- One element under a format descriptor: the accumulator bits, the row of A, the column of B, and the scales of each
block. -/
def mmaElement (d : Word) (c : Nat) (as bs : List Nat) (scales : List (Nat × Nat)) : Nat :=
  let fa := mfa d
  let fb := mfb d
  match mclass fa fb with
  | some .integer =>
    wrap 32 ((c : Int) + (List.zipWith (fun x y => intVal fa x * intVal fb y) as bs).sum)
  | some k =>
    let av := as.map (unpack fa)
    let bv := bs.map (unpack fb)
    if mscaled d then foldScaled scales c av bv
    else foldGroups 16 (k == .float16) as.length c av bv
  | none => c

/-- The new tile (R164, R172): every element from the old one and the operand values by position. -/
def mmaTile (d : Word) (acc : BitVec 16384) (vals : Array Nat) : BitVec 16384 :=
  let k := mdepth d
  let q := if mscaled d then k / 128 else 0
  let at_ (n : Nat) : Nat := vals.getD n 0
  let elems := (List.range 16).flatMap fun i =>
    let as := (List.range k).map fun x => at_ (i * k + x)
    (List.range 32).map fun j =>
      let bs := (List.range k).map fun x => at_ (16 * k + x * 32 + j)
      let sc := (List.range q).map fun b => (at_ (48 * k + i * q + b), at_ (48 * k + 16 * q + b))
      mmaElement d (acc.toNat / 2 ^ (32 * (32 * i + j)) % 2 ^ 32) as bs sc
  BitVec.ofNat 16384 (lanesNat 32 elems)

/-! ## Operand reads (R167, R178) -/

/-- The place and size of each operand element of an operation, by position. -/
def MOp.operands (m : MOp) : List (Option Loc × Nat) :=
  match m.kind with
  | .mma _ a b sa sb =>
    a.map (fun l => (l, max 1 ((mfa m.fmt).width / 8))) ++ b.map (fun l => (l, max 1 ((mfb m.fmt).width / 8)))
      ++ (sa ++ sb).map fun l => (l, 4)
  | _ => []

/-- An element out of the bytes read: for E2M1 the nibble of the position (R112). -/
def MOp.element (m : MOp) (pos v : Nat) : Nat := if mfa m.fmt = .e2 then v / 16 ^ (pos % 2) % 16 else v

/-- The context and group of an operation's thread. -/
def State.opOwner (s : State) (m : MOp) : Nat × Option Nat :=
  match s.thread? m.uid with
  | some t => (t.ctx, some t.group)
  | none => (0, none)

/-- Read one element for an operation. -/
def State.readElement (s : State) (m : MOp) (pos : Nat) (l : Loc) (n : Nat) : Nat × State :=
  let o := s.opOwner m
  let r := (s.passAll l).homeRead l n o.1 o.2 (s.thread? m.uid)
  (m.element pos r.1, r.2)

/-- Change an operation of a core's queue. -/
def State.updOp (s : State) (phys c id : Nat) (f : MOp → MOp) : State :=
  s.updCore phys c fun k => { k with mq := k.mq.map fun (m : MOp) => if m.id == id then f m else m }

/-- The element at a position may be read now: a global one while the operation is staged, a scratchpad one while it is in
the array; each is read once. -/
def State.readNow (s : State) (phys c q pos : Nat) : State :=
  match (s.coreAt phys c).mq[q]? with
  | none => s
  | some m =>
    match m.operands[pos]? with
    | some (some l, n) =>
      let may := (match l with
        | .hbm _ => m.stage == .ready
        | _ => (s.clusterAt phys).array == some (c, m.id))
      if may && (m.got.lookup pos).isNone && !s.homeBusy l n (none, 9, m.id) then
        let r := s.readElement m pos l n
        r.2.updOp phys c m.id fun m => { m with got := (pos, BitVec.ofNat 32 r.1) :: m.got }
      else s
    | _ => s

/-- A bank serves aged requests before a read that an operation has still to make (R197). -/
def State.readsBusy (s : State) (m : MOp) : Bool :=
  m.operands.zipIdx.any fun x => match x.1.1 with
    | some l => (m.got.lookup x.2).isNone && s.homeBusy l x.1.2 (none, 9, m.id)
    | none => false

/-- The values of an operation by position, those not read yet read now; padding is 0. -/
def State.readRest (s : State) (m : MOp) : List (Option Loc × Nat) → Nat → List Nat → List Nat × State
  | [], _, acc => (acc.reverse, s)
  | (l, n) :: rest, pos, acc =>
    match l, m.got.lookup pos with
    | _, some v => State.readRest s m rest (pos + 1) (v.toNat :: acc)
    | none, none => State.readRest s m rest (pos + 1) (0 :: acc)
    | some l, none =>
      let r := s.readElement m pos l n
      State.readRest r.2 m rest (pos + 1) (r.1 :: acc)

/-! ## Translations after a restore (R174) -/

/-- Report a refused operation against its owner, at the MMA's address (R173, R174). An exiting thread resumes at its EXIT
or BREAK, and any other goes back to what it stood at. The record names the operation. -/
def State.opTrap (s : State) (t : Thread) (m : MOp) (tr : Trap) : State :=
  let w := s.trapWord tr.code m.pc.toNat
  let s := w.2.updThread t.uid fun t =>
    if t.run == .exiting || t.run == .breaking then
      { t with run := .trapped .running, wait := none, pc := t.pc - 4 }
    else { t with run := .trapped t.run, wait := none }
  (s.updCore t.phys t.core fun k => { k with trapQ := k.trapQ ++ [⟨t.uid, tr.code, false, some m.id, none, m.pc, w.1, tr.data, tr.info⟩] }).updOp
    t.phys t.core m.id fun m => { m with stage := .stuck }

/-- The head of a core's queue gets its translations again, and nothing else of its address phase is repeated; one that is
refused waits for its owner's trap service, and the operation of an ended thread is dropped. -/
def State.restage (s : State) (phys c : Nat) : State :=
  match (s.coreAt phys c).mq with
  | [] => s
  | m :: rest =>
    let dropped := (s.updCore phys c fun k => { k with mq := rest }).liftFences
    if m.stage == .stuck && ((s.thread? m.uid).map fun t => !t.live).getD true then dropped
    else if m.stage != .stale then s
    else
      match s.thread? m.uid, m.args with
      | some t, some a =>
        (match s.mmaPlaces t.issuer a false with
        | (.ok (k, ps), s) => s.updOp phys c m.id fun m => { m with kind := k, pages := ps, stage := .ready }
        | (.error tr, _) =>
          if !t.live then dropped else (s.chargeTrap t.ctx phys tr).opTrap t m tr)
      | _, _ => s.updOp phys c m.id fun m => { m with stage := .ready }

/-! ## MATRIX_OP_START (R158) -/

/-- The operation at the head of a queue is ready: its global operands have been staged. -/
def MOp.staged (m : MOp) : Bool :=
  m.stage == .ready && (m.operands.zipIdx.all fun x => match x.1.1 with
    | some (.hbm _) => (m.got.lookup x.2).isSome
    | _ => true)

/-- The core that the unit serves next: round-robin over the cores with a ready head, after the one it served last. -/
def State.nextMatrixCore (s : State) (phys : Nat) : Option Nat :=
  let last := (s.clusterAt phys).mlast
  ((List.range 8).map fun i => (last + 1 + i) % 8).find? fun c => ((s.coreAt phys c).mq.head?.map MOp.staged).getD false

/-- The unit reads operand elements for a core's operations, `reads` naming each as 65536 · queue place + position, and then
starts the core's head operation if it is ready and its turn. -/
def execMatrixOpStart (phys c : Nat) (reads : List Nat) (s : State) : Host.Outcome State Fault Refusal :=
  .next (
    let k := s.clusterAt phys
    if k.stopped then s
    else
    let s := s.restage phys c
    let s := reads.foldl (fun s r => s.readNow phys c (r / 65536) (r % 65536)) s
    match (s.coreAt phys c).mq with
    | [] => s
    | m :: _ =>
      if k.array.isNone && k.matPt != .gated && m.staged && s.nextMatrixCore phys == some c then
        s.updCluster phys fun k => { k with array := some (c, m.id), mlast := c }
      else s)

/-! ## MATRIX_OP_COMPLETE (R164 to R166, R175 to R177) -/

/-- Answer the MWAITs that wait for nothing any more (R177). -/
def State.answerMwaits (s : State) (id : Nat) (stamp : Stamp) (lcl : Nat) : State :=
  s.pends.foldl (fun s p => match p.op with
    | .mwait ops =>
      if ops.contains id && !(s.cores.any fun k => k.mq.any fun m => ops.contains m.id) then
        s.deliver p 0 .mwait 14 (engineId 7 lcl) stamp
      else s
    | _ => s) s

/-- The operation in the array leaves it and its queue. -/
def State.finishOp (s : State) (phys c : Nat) (m : MOp) : State :=
  let s := (s.updCore phys c fun k => { k with mq := k.mq.filter fun x => x.id != m.id }).updCluster phys fun k =>
    { k with array := none }
  let t := s.thread? m.uid
  let s := (match t with
    | some t => s.stampGroup t.group m.stamp
    | none => s)
  (s.answerMwaits m.id m.stamp ((t.map (·.lcl)).getD 0)).liftFences

/-- Replace a tile of a core. -/
def CoreSt.setAcc (k : CoreSt) (n : Fin 2) (v : BitVec 16384) : CoreSt :=
  if n = 0 then { k with acc0 := v } else { k with acc1 := v }

def CoreSt.acc (k : CoreSt) (n : Fin 2) : BitVec 16384 := if n = 0 then k.acc0 else k.acc1

/-- The bits that an MST writes for each element, row-major (R176). -/
def mstValues (fmt desc : Word) (acc : BitVec 16384) (draws : List (BitVec 32)) : List Nat :=
  let src := mstSrc fmt
  let dst := Fmt.ofCode (bits desc 0 4)
  (List.range 512).map fun e =>
    let v := acc.toNat / 2 ^ (32 * e) % 2 ^ 32
    if dst == src then v else (convert src dst (mstMode desc) FEnv.plain (draws.getD e 0) v).1

/-- The granules of an MST, row-major: rows of 32 elements are whole granules. -/
def mstGranules (desc : Word) (vals : List Nat) : List (BitVec 128) :=
  let w := (Fmt.ofCode (bits desc 0 4)).width
  let all := lanesNat w vals
  (List.range (w * 512 / 128)).map fun g => BitVec.ofNat 128 (all / 2 ^ (128 * g))

/-- One granule write of an MST on its way. -/
def State.sendMst (s : State) (t : Thread) (m : MOp) (l : Loc) (v : BitVec 128) : State :=
  let a : Access :=
    { id := s.fresh, uid := some t.uid, fam := t.fam?, group := t.group, ctx := t.ctx, phys := t.phys, lcl := t.lcl,
      core := t.core, order := some .rlx, scope := .cl, blocking := false, red := false, loc := l, size := 16,
      op := .mst v, phase := .sent, agedAt := none, passedBy := 0, resent := false, granted := false, queue := 0, cancelled := false, push := none, peer := none,
      handle := t.handle, stamp := m.stamp }
  { s with accs := s.accs ++ [a], fresh := s.fresh + 1 }

/-- An MST's writes are on their way: its accesses of the core. -/
def State.mstOut (s : State) (m : MOp) : Bool :=
  s.accs.any fun a => a.uid == some m.uid && (match a.op with
    | .mst _ => true
    | _ => false)

/-- A datapath fault: the context of the operation's core is charged, the accumulator stays (R166, R363). -/
def State.datapathFault (s : State) (phys c : Nat) (m : MOp) : State :=
  let s := (s.updCluster phys fun k => { k with array := none }).countFault phys
  match s.thread? m.uid with
  | some t =>
    let s := s.report (clusterId phys) 5 (BitVec.ofNat 16 t.ctx) (BitVec.ofNat 64 (t.lcl + c * 256))
    s.contextFault t.ctx ((s.group? t.group).map (·.replay)) (s.threadFault t 0x46 m.pc 0 0)
  | none => s

/-- The operation in the array completes: a tile is replaced in one cycle, or an MST's writes leave, and then have all been
performed. `upset`: the residue check found a datapath fault (R166). -/
def execMatrixOpComplete (phys : Nat) (upset : Bool) (s : State) : Host.Outcome State Fault Refusal :=
  .next (match (s.clusterAt phys).array with
    | none => s
    | some (c, id) =>
      match (s.coreAt phys c).mq.find? fun m => m.id == id with
      | none => s
      | some m =>
        match m.kind with
        | .mma n _ _ _ _ =>
          if s.readsBusy m then s
          else if upset then s.datapathFault phys c m
          else
            let (vals, s) := s.readRest m m.operands 0 []
            let s := s.updCore phys c fun k => k.setAcc n (mmaTile m.fmt (k.acc n) vals.toArray)
            s.finishOp phys c m
        | .mz n => (s.updCore phys c fun k => k.setAcc n 0).finishOp phys c m
        | .mst n dst desc draws =>
          if m.sent then (if s.mstOut m then s else s.finishOp phys c m)
          else
            match s.thread? m.uid with
            | none => s.finishOp phys c m
            | some t =>
              let vals := mstValues m.fmt desc ((s.coreAt phys c).acc n) draws
              let s := (dst.zip (mstGranules desc vals)).foldl (fun s x => s.sendMst t m x.1 x.2) s
              s.updOp phys c id fun m => { m with sent := true })

end Sys2Proof.Machine
end

