-- ==== Sys2Proof/Machine/Tags.lean ====
section
/-! DEFINITION. The tag and scheduling instructions (R293, R294, R299 to R301, R305 to R307), and the entries of the tag
table they name (R295 to R297). -/

namespace Sys2Proof.Machine

/-! ## Tag names and entries -/

/-- The tensor id of a tag name (R283). -/
def tagTensor (name : BitVec 32) : Nat := (bits name 24 8).toNat

/-- A replay's generation (R287). -/
def Replay.gen (r : Replay) : BitVec 16 := bits r.seq 0 16

def State.tag? (s : State) (ctx : Nat) (name : BitVec 32) : Option TagEntry :=
  s.tags.find? fun e => e.ctx == ctx && e.name == name

/-- A thread's graph. -/
def State.graphOf? (s : State) (grp : Nat) : Option Graph := (s.replayOf? grp).bind fun r => s.graph? r.graph

/-- The tensor of a tag is one of the graph's (R300). -/
def Graph.names (g : Graph) (name : BitVec 32) : Bool := g.kernels.any fun k => k.outtags.contains (tagTensor name)

/-! ## Grids and input tags (R288, R296) -/

def Kernel.grid (k : Kernel) : Nat := k.gx * k.gy * k.gz

/-- Coordinates of a linear index (R288). -/
def Kernel.coords (k : Kernel) (lin : Nat) : Nat × Nat × Nat := (lin / (k.gy * k.gz), lin / k.gz % k.gy, lin % k.gz)

/-- Name of a tile (R283). -/
def tileName (tensor : Nat) (tile : Int) : BitVec 32 := BitVec.ofNat 32 (tensor * 2 ^ 24 + tile.toNat)

/-- The distinct input tags of a group (R288, R296). -/
def Kernel.inputTags (k : Kernel) (lin : Nat) : List (BitVec 32) :=
  let (i, j, l) := k.coords lin
  (k.intags.map fun (t, ci, cj, ck, c0) => tileName t (ci * i + cj * j + ck * l + c0)).dedup

/-- Groups from `i` on, of `n`, with a property. -/
def countFrom (p : Nat → Bool) : Nat → Nat → Nat
  | 0, _ => 0
  | n + 1, i => (if p i then 1 else 0) + countFrom p n (i + 1)

/-! ## TAGPUB, TAGWAIT, TAGQ (R299 to R301) -/

/-- TAGPUB (R299): the publication leaves for the tag table. -/
def execTagpub (a : IReg) (s : State) : Host.Outcome State Fault Refusal :=
  attempt (.tagpub a) s fun s t _ =>
    let name : BitVec 32 := bits (t.int a) 0 32
    if bits (t.int a) 32 32 != 0 || !s.produces t.group name then .error .schedule
    else
      match s.replayOf? t.group with
      | none => .error .schedule
      | some r =>
        .ok { s with pubs := s.pubs ++ [⟨s.fresh, t.ctx, t.group, r.uid, name, some t.uid, none, false, t.stamp, t.handle⟩]
                     fresh := s.fresh + 1 }

/-- The name in a register names a tensor of the thread's graph (R300). -/
def State.tagOk (s : State) (t : Thread) (v : Word) : Bool :=
  bits v 32 32 == 0 && ((s.graphOf? t.group).map fun g => g.names (bits v 0 32)).getD false

/-- TAGWAIT (R300): the look leaves for the tag table. -/
def execTagwait (d a : IReg) (s : State) : Host.Outcome State Fault Refusal :=
  attempt (.tagwait d a) s fun s t _ =>
    if s.tagOk t (t.int a) then .ok (s.pend t d (.tagwait (bits (t.int a) 0 32) false)) else .error .schedule

/-- Declared consumers of a tile that the replay has still to start (R296, R301). -/
def State.consumersLeft (s : State) (r : Replay) (name : BitVec 32) : Nat :=
  match s.graph? r.graph with
  | some g => ((g.kernels.zip r.kernels).map fun (k, kr) =>
      if k.intags.any fun t => t.1 == tagTensor name then
        countFrom (fun lin => (k.inputTags lin).contains name && !kr.started.contains lin) k.grid 0
      else 0).sum
  | none => 0

/-- TAGQ's snapshot (R301). The generation is 0 in fallback; the count is the entry's, or, where there is none, the replay's
(log entry 85). -/
def State.tagWord (s : State) (t : Thread) (name : BitVec 32) : Word :=
  let entry := s.tag? t.ctx name
  match (s.replayOf? t.group).filter fun r => r.fallback.contains (tagTensor name) with
  | some r =>
    let n := (entry.map (·.count)).getD (s.consumersLeft r name)
    BitVec.ofNat 64 (n % 65536 * 2 ^ 24 + 3 * 2 ^ 16)
  | none =>
    match entry with
    | none => 0
    | some e => BitVec.ofNat 64 (e.count % 65536 * 2 ^ 24 + (if e.published then 2 else 1) * 2 ^ 16 + e.gen.toNat)

/-- TAGQ (R301). -/
def execTagq (d a : IReg) (s : State) : Host.Outcome State Fault Refusal :=
  attempt (.tagq d a) s fun s t p =>
    if s.tagOk t (t.int a) then .ok (s.result t p (intResult d (s.tagWord t (bits (t.int a) 0 32))) .alu none)
    else .error .schedule

/-! ## RETAIN (R305) -/

/-- The checks of RETAIN. -/
def State.retainOk (s : State) (t : Thread) (lin kern : Word) : Bool :=
  match s.group? t.group, s.graphOf? t.group, s.replayOf? t.group with
  | some g, some gr, some r =>
    bits lin 60 4 == 0 && bits kern 8 56 == 0 && decide (g.kern < kern.toNat)
      && (match gr.kernels[kern.toNat]?, gr.kernels[g.kern]? with
        | some k, some mine => decide (lin.toNat < k.gx * k.gy * k.gz) && k.spad == mine.spad
        | _, _ => false)
      && (r.stratus == 0 || lin.toNat % r.stratus == g.lcl)
  | _, _, _ => false

/-- RETAIN (R305): the record leaves for the launch unit. -/
def execRetain (a b : IReg) (s : State) : Host.Outcome State Fault Refusal :=
  attempt (.retain a b) s fun s t _ =>
    if s.retainOk t (t.int a) (t.int b) then
      .ok (s.updGroup t.group fun g => { g with retainMsg := g.retainMsg ++ [((t.int b).toNat, (t.int a).toNat)] })
    else .error .schedule

/-! ## TAKE (R306, R307) -/

/-- The range that a register names, granted to the thread's context. -/
def State.rangeOf (s : State) (t : Thread) (v : Word) : Option Nat :=
  let n := (bits v 0 6).toNat
  if bits v 6 58 == 0 && (s.ranges[n]?.bind (·.owner)) == some t.ctx then some n else none

/-- TAKE (R307): the request leaves for the range unit. -/
def execTake (d a : IReg) (s : State) : Host.Outcome State Fault Refusal :=
  attempt (.take d a) s fun s t _ =>
    match s.rangeOf t (t.int a) with
    | some n => .ok (s.pend t d (.take n))
    | none => .error .schedule

/-- TAKE.arm (R306). -/
def execTakeArm (a : IReg) (s : State) : Host.Outcome State Fault Refusal :=
  attempt (.takeArm a) s fun s t _ =>
    let p := (bits (t.ext 2) 0 16).toNat
    let m := (bits (t.ext 2) 16 32).toNat
    match s.rangeOf t (t.int a) with
    | some n =>
      if p = 0 || m = 0 || bits (t.ext 2) 48 16 != 0 then .error .schedule
      else .ok (s.pend t .zero (.takeArm n (t.ext 0) (t.ext 1) p m))
    | none => .error .schedule

/-! ## GRID (R294) -/

/-- The value of a selector for a group. -/
def gridValue (g : Group) (k : Kernel) (r : Replay) : GridSel → Word
  | .i => BitVec.ofNat 64 (g.lin / (k.gy * k.gz))
  | .j => BitVec.ofNat 64 (g.lin / k.gz % k.gy)
  | .k => BitVec.ofNat 64 (g.lin % k.gz)
  | .lin => BitVec.ofNat 64 g.lin
  | .nx => BitVec.ofNat 64 k.gx
  | .ny => BitVec.ofNat 64 k.gy
  | .nz => BitVec.ofNat 64 k.gz
  | .kern => BitVec.ofNat 64 g.kern
  | .seq => zext64 r.seq
  | .lcl => BitVec.ofNat 64 g.lcl
  | .graph => zext64 r.graph

/-- A selector's value for the thread's group; 0 where the thread's group is not listed. -/
def State.grid (s : State) (grp : Nat) (sel : GridSel) : Word :=
  match s.group? grp, s.kernelOf? grp, s.replayOf? grp with
  | some g, some k, some r => gridValue g k r sel
  | _, _, _ => 0

/-- GRID (R294). -/
def execGrid (d : IReg) (sel : GridSel) (s : State) : Host.Outcome State Fault Refusal :=
  attempt (.grid d sel) s fun s t p => .ok (s.result t p (intResult d (s.grid t.group sel)) .alu none)

/-- GRID.param (R294): 0 where the register names no declared slot. -/
def execGridParam (d a : IReg) (s : State) : Host.Outcome State Fault Refusal :=
  attempt (.gridParam d a) s fun s t p =>
    let v := ((s.replayOf? t.group).bind fun r => r.params.lookup (t.int a).toNat).getD 0
    .ok (s.result t p (intResult d v) .alu none)

end Sys2Proof.Machine
end

