-- ==== Sys2Proof/Machine/Launch.lean ====
section
/-! DEFINITION. The launch unit: kicks (R15, R284 to R287), readiness and placement (R288 to R290, R181, R182), the start
of a group's root (R13, R39, R118), retirement (R16, R17, R205), waves (R302 to R304) and allotments (R198, R241,
R305). -/

namespace Sys2Proof.Machine

/-! ## Endpoints (R335) -/

/-- A message passes an endpoint's source list and policy. -/
def accepts (srcs : List Nat) (p : Policy) (e : Envelope) : Bool :=
  srcs.contains e.src && (match p with
    | .required => e.secured && !e.roce
    | _ => true)

/-- A message passes the list and policy of a numbered endpoint: a far-table entry's or a communicator's (R337). -/
def acceptsAt (xs : List (Nat × List Nat × Policy)) (n : Nat) (e : Envelope) : Bool :=
  match xs.lookup n with
  | some (srcs, p) => accepts srcs p e
  | none => false

/-- A message that an endpoint does not accept (R335). -/
def State.drop (s : State) : State := { s with dropped := s.dropped + 1 }

/-- A message accepted at a context's command endpoint; any other is dropped. -/
def State.onCommand (s : State) (h : Hdr) (f : Context → State) : State :=
  match s.ctx? h.ctx with
  | some c => if accepts c.cmdSrcs c.cmdPolicy h.env then f c else s.drop
  | none => s.drop

/-! ## Clusters (R10, R182, R289, R333) -/

/-- The physical cluster of a logical one; none where the map gives it none. -/
def State.physOf (s : State) (lcl : Nat) : Option Nat := (s.lmap[lcl]?).filter fun p => decide (p < 256)

/-- Unfenced physical clusters of an allotment, ascending (R182). -/
def State.hosts_ (s : State) (c : Context) : List Nat :=
  let ps := c.allot.filterMap s.physOf
  (List.range 256).filter fun p => ps.contains p && !(s.clusterAt p).fenced

/-- The host of a logical cluster in stratus mode (R182). -/
def State.hostOf (s : State) (c : Context) (lcl : Nat) : Option Nat :=
  let hs := s.hosts_ c
  if hs.isEmpty then none else hs[lcl % hs.length]?

/-- Clear a cluster completely (R333); its arbiters start again (R379), its cores' creation counts stay. -/
def State.clearCluster (s : State) (phys : Nat) : State :=
  let spad := (Loc.spad phys 0).key
  let tcm := (Loc.tcm phys 0 0).key
  let m := Mem.clear (Mem.clear s.mem spad (2 ^ 21)) tcm (2 ^ 20)
  let inside (w : Nat) : Bool := (decide (spad ≤ 8 * w) && decide (8 * w < spad + 2 ^ 21))
    || (decide (tcm ≤ 8 * w) && decide (8 * w < tcm + 2 ^ 20)) || onGranules phys w
  let k := s.clusterAt phys
  { (s.setCluster { k with array := none, mlast := 7, blast := Vector.replicate 64 8 }) with
    mem := m
    granules := s.granules.filter fun g => g / 131072 != phys
    poison := s.poison.filter fun w => !inside w
    cores := s.cores.map fun (k : CoreSt) =>
      if k.phys == phys then { CoreSt.fresh phys k.core with count := k.count } else k
    tlb := s.tlb.filter fun l => l.tlb != phys
    watchLast := s.watchLast.filter fun w => !(decide (1024 + phys * 64 ≤ w.1) && decide (w.1 < 1024 + phys * 64 + 64)) }

/-- A context takes a cluster, which is cleared first if another context used it last; the quantum starts with the first
hold (R289, R291, R333). -/
def State.takeCluster (s : State) (ctx phys : Nat) (lcl : Option Nat) : State :=
  let k := s.clusterAt phys
  let s := if k.lastCtx.isSome && k.lastCtx != some ctx then s.clearCluster phys else s
  s.updCluster phys fun (k : Cluster) =>
    { k with ctx := some ctx, lastCtx := some ctx, lcl := lcl
             quantum := if k.ctx = some ctx then k.quantum else s.now
             slice := if k.ctx = some ctx && k.lcl = lcl then k.slice else s.now }

/-- The launch unit acts for the context: it is neither suspended nor frozen, nor being destroyed. -/
def Context.active (c : Context) : Bool := !c.suspended && c.freeze.isNone && c.destroying.isNone

/-! ## Kicks (R15, R284 to R287) -/

/-- The bytes of a completion message (R284). -/
def completionBytes (graph seq status : BitVec 32) : List Byte :=
  leBytes 4 graph.toNat ++ leBytes 4 seq.toNat ++ leBytes 4 status.toNat ++ leBytes 4 0

/-- Send a completion message. -/
def State.complete (s : State) (ctx : Nat) (req graph seq status : BitVec 32) : State :=
  s.send (.completion ctx req (completionBytes graph seq status))

/-- The bytes of a kick message, read (R284): entries are the whole ones that it holds; bytes that it lacks read as zero. -/
def readKick (m : List Byte) : KickMsg :=
  let at_ (off n : Nat) : Nat := leNat ((m.drop off).take n)
  { graph := BitVec.ofNat 32 (at_ 0 4)
    seq := BitVec.ofNat 32 (at_ 4 4)
    count := BitVec.ofNat 16 (at_ 8 2)
    rsv := BitVec.ofNat 48 (at_ 10 6)
    entries := (List.range ((m.length - 16) / 16)).map fun e =>
      ⟨BitVec.ofNat 16 (at_ (16 + 16 * e) 2), BitVec.ofNat 48 (at_ (18 + 16 * e) 6), BitVec.ofNat 64 (at_ (24 + 16 * e) 8)⟩ }

/-- A kick joins its context's queue: behind those received before it, before those of the same cycle from higher-numbered
ports (R15). -/
def enqueueKick (k : Kick) : List Kick → List Kick
  | [] => [k]
  | x :: xs => if x.at_ = k.at_ && k.port < x.port then k :: x :: xs else x :: enqueueKick k xs

/-- A kick message arrives at a command endpoint: it joins the context's queue of 64; the one for which that has no room is
refused (R15). -/
def execKick (h : Hdr) (port : Nat) (msg : List Byte) (s : State) : Host.Outcome State Fault Refusal :=
  .next (s.onCommand h fun c =>
    let m := readKick msg
    if c.destroying.isSome then s.complete c.id h.req m.graph m.seq 0x80000002
    else
      let q := enqueueKick ⟨h.req, port % 16, m, s.now, none⟩ c.kicks
      match q.drop 64 with
      | [] => s.updCtx c.id fun c => { c with kicks := q }
      | x :: _ => (s.updCtx c.id fun c => { c with kicks := q.take 64 }).complete c.id x.req x.msg.graph x.msg.seq 0x80000001)

/-- Entries of a kick that count. -/
def usedEntries (m : KickMsg) : List KickPatch := m.entries.take m.count.toNat

/-- The first check of R285 that a kick breaks. -/
def State.kickError (s : State) (c : Context) (m : KickMsg) : Option (BitVec 32) :=
  match if c.ptRoot.isNone then none else s.graphs.find? fun g => g.id == m.graph && g.ctx == c.id with
  | none => some 0x80000002
  | some g =>
    if m.seq ≠ (match g.lastSeq with
        | some q => q + 1
        | none => 0) then some 0x80000003
    else if (usedEntries m).any fun e => (g.params.lookup e.slot.toNat).isNone then some 0x80000004
    else if 4096 < m.count.toNat || m.entries.length < m.count.toNat || m.rsv != 0 || (usedEntries m).any fun e => e.rsv != 0 then
      some 0x80000005
    else none

/-- A kernel of a replay that has just been accepted. -/
def KRun.fresh : KRun := ⟨[], [], none, [], [], none, []⟩

/-- The parameter block of a replay: defaults, overwritten by the patches, the later one standing (R285, R286). -/
def paramBlock (defaults : List (Nat × Word)) (ps : List KickPatch) : List (Nat × Word) :=
  defaults.map fun d => (d.1, ps.foldl (fun v p => if p.slot.toNat = d.1 then p.value else v) d.2)

/-- FREEZE_LIMIT and the dump buffer that the host set take effect at the next kick taken (R367). -/
def Context.applyFreeze (c : Context) : Context :=
  match c.newFreeze with
  | some (l, b, z) => { c with freezeLimit := l, dumpBase := b, dumpSize := z, newFreeze := none }
  | none => c

/-- Running replays of a graph. -/
def State.running (s : State) (g : BitVec 32) : Nat := (s.replays.filter fun r => r.graph == g).length

/-- A replay completes (R17): one completion message, and its block is freed (R286). -/
def State.endReplay (s : State) (r : Replay) (status : BitVec 32) : State :=
  { s with replays := s.replays.filter fun x => x.uid != r.uid }.complete r.ctx r.req r.graph r.seq status

/-- The status of a replay that completes (R17). -/
def Replay.status (r : Replay) : BitVec 32 := BitVec.ofNat 32 (r.fault.getD 0)

/-- Start a replay (R286, R287); what the registers hold now is the replay's from here on (R118, R181, R316), that is at the
start of a kick that has waited for its graph's depth (DESIGN CHOICE, log entry 107). One of a graph
without kernels has nothing left to retire, and completes (R17). -/
def State.startReplay (s : State) (c : Context) (g : Graph) (k : Kick) : State :=
  let r : Replay :=
    { uid := s.fresh, ctx := c.id, graph := g.id, seq := k.msg.seq, req := k.req, port := k.port,
      params := paramBlock g.params (usedEntries k.msg), kernels := g.kernels.map fun _ => KRun.fresh, fault := none,
      seed := c.jobSeed, stratus := (bits c.stratusCtl 0 9).toNat, ctrlBase := c.contrailBase, ctrlCtl := c.contrailCtl,
      fallback := [], stamp := ⟨0, 0, k.at_, none⟩ }
  let s := { s with
    replays := s.replays ++ [r]
    fresh := s.fresh + 1
    graphs := s.graphs.map fun (x : Graph) => if x.id == g.id then { x with lastSeq := some k.msg.seq } else x }
  let s := s.updCtx c.id fun c => c.applyFreeze
  if g.kernels.isEmpty then s.endReplay r 0 else s

/-- The context is away: some cluster of it is saved (R15). -/
def State.isOut (s : State) (ctx : Nat) : Bool := s.saves.any fun x => x.ctx == ctx

/-- An accepted kick starts, unless its graph runs D replays: it then waits for the oldest of them (R287). -/
def State.acceptKick (s : State) (c : Context) (g : Graph) (k : Kick) (rest : List Kick) : State :=
  let start := (s.updCtx c.id fun c => { c with kicks := rest }).startReplay c g k
  match k.waits with
  | some u => if (s.replay? u).isSome then s else start
  | none =>
    match if g.depth ≤ s.running g.id then s.replays.find? fun r => r.graph == g.id else none with
    | some r => s.updCtx c.id fun c => { c with kicks := { k with waits := some r.uid } :: rest }
    | none => start

/-- The launch unit takes the context's next kick, once the cycle in which it arrived is over (R15, R285). The kicks of a
context that is away, or that has no unfenced cluster, wait (R364). -/
def execKickTake (ctx : Nat) (s : State) : Host.Outcome State Fault Refusal :=
  .next (match s.ctx? ctx with
    | none => s
    | some c =>
      match c.kicks with
      | [] => s
      | k :: rest =>
        if !c.active || s.isOut ctx || (s.hosts_ c).isEmpty || s.now ≤ k.at_ then s
        else
          match s.kickError c k.msg with
          | some e =>
            (s.updCtx ctx fun c => { c.applyFreeze with kicks := rest }).complete ctx k.req k.msg.graph k.msg.seq e
          | none =>
            match s.graph? k.msg.graph with
            | none => s
            | some g => s.acceptKick c g k rest)

/-! ## Waves (R302) -/

/-- Predecessors of a group (R302). -/
def Kernel.preds (k : Kernel) (lin : Nat) : List Nat :=
  let (i, j, l) := k.coords lin
  (k.depvecs.filterMap fun (a, b, c) =>
    let x : Int := i - a
    let y : Int := j - b
    let z : Int := l - c
    if 0 ≤ x && x < k.gx && 0 ≤ y && y < k.gy && 0 ≤ z && z < k.gz then
      some ((x.toNat * k.gy + y.toNat) * k.gz + z.toNat)
    else none).dedup

/-- The first number from `i` on, of `n` numbers, with a property. -/
def firstFrom (p : Nat → Bool) : Nat → Nat → Option Nat
  | 0, _ => none
  | n + 1, i => if p i then some i else firstFrom p n (i + 1)

/-- Kernel that produces a tensor, in a graph. -/
def Graph.producer (g : Graph) (tensor : Nat) : Option Nat :=
  (List.range g.kernels.length).find? fun i => ((g.kernels[i]?).map fun k => k.outtags.contains tensor).getD false

/-- The producer of a tag's tensor has retired in the replay: by what (R295). -/
def State.producerFin (s : State) (r : Replay) (name : BitVec 32) : Option Rise :=
  match s.graph? r.graph with
  | some g => (g.producer (tagTensor name)).bind fun i => (r.kernels[i]?).bind (·.fin)
  | none => none

/-- Engine id of the launch unit. -/
def launchId : BitVec 32 := engineId 6 0

/-- Group name (R314). -/
def groupName (kern lin : Nat) : BitVec 32 := BitVec.ofNat 32 (kern % 256 * 2 ^ 24 + lin % 2 ^ 24)

/-! ## Readiness (R288) -/

/-- A group of a replay that names the other as its successor (R305). -/
def State.retainer? (s : State) (r : Replay) (kern lin : Nat) : Option Group :=
  s.groups.find? fun g => g.replay == r.uid && g.retain == some (kern, lin)

/-- What satisfied an input tag of a group, if it is satisfied. -/
def State.tagRise (s : State) (r : Replay) (k : KRun) (lin : Nat) (name : BitVec 32) : Option Rise :=
  match k.sat.find? fun x => x.1 == lin && x.2.1 == name with
  | some x => some x.2.2
  | none => (s.producerFin r name).map fun x => { x with arriver := launchId }

/-- Every event that a waiting group's start waits for, with its wait kind; none while one has not happened (R288,
R314). A group whose counter is 0 when it enters its window is released by no decrement, and has no event of the wave (DESIGN
CHOICE, log entry 104). -/
def State.rises (s : State) (r : Replay) (kern lin : Nat) : Option (List (Nat × Rise)) :=
  match (s.graph? r.graph).bind fun g => g.kernels[kern]?, r.kernels[kern]? with
  | some k, some kr =>
    let afters := k.afters.map fun a => ((r.kernels[a]?).bind (·.fin)).map fun x => (8, x)
    let tags := (k.inputTags lin).map fun n => (s.tagRise r kr lin n).map fun x => (5, x)
    let wave : List (Option (Nat × Rise)) :=
      if k.depvecs.isEmpty then []
      else
        match kr.wave with
        | none => [none]
        | some w =>
          if lin < w.low || w.low + w.width ≤ lin || (w.counts.lookup lin).getD 0 ≠ 0 then [none]
          else
            match kr.released.lookup lin with
            | some x => [some (7, x)]
            | none => []
    let kept : List (Option (Nat × Rise)) :=
      match s.retainer? r kern lin with
      | some g =>
        if g.st = .retained then [some (8, ⟨groupName g.kern g.lin, g.stamp, g.retiredAt⟩)] else [none]
      | none => []
    let all := afters ++ tags ++ wave ++ kept
    if all.all (·.isSome) then
      some ((16, ⟨engineId 10 r.port, r.stamp, r.stamp.at_⟩) :: all.filterMap id)
    else none
  | _, _ => none

/-- A group is waiting and ready (R288). In stratus mode the groups of one logical cluster start in ascending order
(R181). -/
def State.isReady (s : State) (r : Replay) (kern lin : Nat) : Bool :=
  match r.kernels[kern]? with
  | some kr =>
    !kr.started.contains lin && (s.rises r kern lin).isSome
      && (r.stratus == 0 || lin < r.stratus || kr.started.contains (lin - r.stratus))
  | none => false

/-- The event that came last: by time, then path length, then the lower arriver (R313). -/
def lastRise (now : Nat) (xs : List (Nat × Rise)) : Option (Nat × Rise) :=
  xs.foldl (fun best x => match best with
    | none => some x
    | some b =>
      let l := x.2.stamp.length now
      let m := b.2.stamp.length now
      if b.2.time < x.2.time || (b.2.time == x.2.time && (m < l || (m == l && x.2.arriver < b.2.arriver))) then some x
      else best) none

/-! ## Room (R256, R258, R290) -/

/-- Allotments that stand on a physical cluster: base and size of each scratchpad range. -/
def State.spadClaims (s : State) (phys : Nat) : List (Nat × Nat) :=
  (s.groups.filter fun g => g.phys == phys && g.spadSize != 0).map fun g => (g.spadBase, g.spadSize)

/-- TCM ranges of a core that its resident groups hold; a retained allotment keeps its scratchpad only (R305). -/
def State.tcmClaims (s : State) (phys : Nat) (core : Fin 8) : List (Nat × Nat) :=
  (s.groups.filter fun g => g.phys == phys && g.resident && g.tcmSize != 0).map fun g => (g.tcmBase[core.val], g.tcmSize)

/-- The lowest base, a multiple of `unit`, at which `size` bytes below `top` meet no claim. -/
def lowestFit (claims : List (Nat × Nat)) (unit size top : Nat) : Option Nat :=
  if size = 0 then some 0
  else ((List.range (top / unit)).map (· * unit)).find? fun b =>
    decide (b + size ≤ top) && !(claims.any fun c => decide (c.1 < b + size) && decide (b < c.1 + c.2))

/-- The TCM base of a group on each core, the lowest that fits (R290). -/
def State.tcmFit (s : State) (phys size : Nat) : Option (Vector Nat 8) :=
  match (List.finRange 8).map fun i => lowestFit (s.tcmClaims phys i) 4096 size s.inlineBase with
  | [some a0, some a1, some a2, some a3, some a4, some a5, some a6, some a7] => some #v[a0, a1, a2, a3, a4, a5, a6, a7]
  | _ => none

/-- Nothing of another logical cluster stands on a physical one: two may share it only in time (R182, R292). -/
def State.lclClear (s : State) (phys lcl : Nat) : Bool :=
  !(s.groups.any fun g => g.phys == phys && g.lcl != lcl && (g.resident || g.st == .retained))
    && !(s.threads.any fun t => t.phys == phys && t.lcl != lcl)

/-- Where a group would stand on a physical cluster: its scratchpad base and its TCM bases (R290). `core0`: the root
takes core 0 (R181). -/
def State.fitOn (s : State) (ctx phys lcl : Nat) (k : Kernel) (core0 : Bool) : Option (Nat × Vector Nat 8) :=
  let c := s.clusterAt phys
  if c.fenced || c.fencing || c.stopped || (c.ctx.isSome && c.ctx != some ctx) || !s.lclClear phys lcl then none
  else if s.spareSlots phys < k.slots || (core0 && (s.freeSlot phys 0).isNone) then none
  else
    match lowestFit (s.spadClaims phys) 16384 k.spad (2 ^ 21), s.tcmFit phys k.tcm with
    | some b, some t => some (b, t)
    | _, _ => none

/-! ## Hosting (R182) -/

/-- Logical clusters of a context's stratus replays that have a group waiting to run, or saved, on a host. -/
def State.hostWork (s : State) (c : Context) (phys : Nat) : List Nat :=
  (List.range 256).filter fun l => s.hostOf c l == some phys &&
    ((s.saves.any fun x => x.ctx == c.id && x.lcl == l)
      || s.replays.any fun r => r.ctx == c.id && r.stratus != 0 && decide (l < r.stratus) &&
        (match s.graph? r.graph with
          | some g => (List.range g.kernels.length).any fun kern => (match g.kernels[kern]? with
              | some k => (firstFrom (fun g => g % r.stratus == l && s.isReady r kern g) k.grid 0).isSome
              | none => false)
          | none => false))

/-- The logical cluster that a host takes up next: the one it holds while a group of it resides there, else the next
with work, round-robin (R182). -/
def State.hostNext (s : State) (c : Context) (phys : Nat) : Option Nat :=
  let k := s.clusterAt phys
  if s.resides c.id phys then k.lcl else roundRobin k.lcl (s.hostWork c phys)

/-! ## Placement (R290) -/

/-- Where a ready group goes. -/
structure Spot where
  lcl : Nat
  phys : Nat
  base : Nat
  tcm : Vector Nat 8
  /-- the retained allotment that it takes over (R305) -/
  keep : Option Nat
  deriving DecidableEq, Repr

/-- A saved cluster of the context stands before its new groups on a logical cluster (R292). -/
def State.savedOn (s : State) (ctx lcl : Nat) : Bool := s.saves.any fun x => x.ctx == ctx && x.lcl == lcl

/-- The place of a ready group (R290, R305, R181). -/
def State.spotFor (s : State) (c : Context) (r : Replay) (k : Kernel) (kern lin : Nat) : Option Spot :=
  match s.retainer? r kern lin with
  | some g =>
    let cl := s.clusterAt g.phys
    if 256 ≤ g.phys || cl.stopped || cl.fencing || s.savedOn c.id g.lcl || s.spareSlots g.phys < k.slots
        || (r.stratus != 0 && (s.freeSlot g.phys 0).isNone) then none
    else (s.tcmFit g.phys k.tcm).map fun t => ⟨g.lcl, g.phys, g.spadBase, t, some g.uid⟩
  | none =>
    if r.stratus = 0 then
      (List.range 256).findSome? fun l =>
        if c.allot.contains l && !s.savedOn c.id l then
          (s.physOf l).bind fun p => (s.fitOn c.id p l k false).map fun f => ⟨l, p, f.1, f.2, none⟩
        else none
    else
      let l := lin % r.stratus
      (s.hostOf c l).bind fun p =>
        if s.savedOn c.id l || s.hostNext c p != some l then none
        else (s.fitOn c.id p l k true).map fun f => ⟨l, p, f.1, f.2, none⟩

/-- The first ready group of a kernel, by linear index, that fits, with its place. -/
def State.firstReady (s : State) (c : Context) (r : Replay) (kern : Nat) (k : Kernel) : Option (Nat × Spot) :=
  (firstFrom (fun lin => s.isReady r kern lin && (s.spotFor c r k kern lin).isSome) k.grid 0).bind fun lin =>
    (s.spotFor c r k kern lin).map fun p => (lin, p)

/-- The first ready group of a context that fits: replays in the order of their kicks, kernels in order. -/
def State.nextGroup (s : State) (c : Context) : Option (Replay × Kernel × Nat × Nat × Spot) :=
  if !c.active then none
  else
    (s.replays.filter fun r => r.ctx == c.id).findSome? fun r =>
      match s.graph? r.graph with
      | none => none
      | some g =>
        (List.range g.kernels.length).findSome? fun kern => match g.kernels[kern]? with
          | some k => (s.firstReady c r kern k).map fun x => (r, k, kern, x.1, x.2)
          | none => none

/-- Contexts of a level, from the one after the one served last, cyclically (R290). -/
def State.levelOrder (s : State) (level : Nat) : List Context :=
  let ids := (List.range 64).filterMap fun i => (s.ctx? i).filter fun c => c.prio == level
  let last := s.launchLast[level]?.getD 63
  (ids.filter fun c => last < c.id) ++ (ids.filter fun c => c.id ≤ last)

/-- Change one kernel of a replay. -/
def State.updKRun (s : State) (rep kern : Nat) (f : KRun → KRun) : State :=
  s.updReplay rep fun r => { r with kernels := r.kernels.modify kern f }

/-- A declared consumer starts: the counts of its tags fall (R296). -/
def State.consume (s : State) (r : Replay) (names : List (BitVec 32)) : State :=
  { s with tags := s.tags.map fun (e : TagEntry) =>
             if e.ctx == r.ctx && e.gen == r.gen && names.contains e.name then
               { e with count := e.count - 1, changed := s.fresh }
             else e
           fresh := s.fresh + 1 }

/-- Put a ready group on its cluster (R290): it is started from this cycle on, and its dispatch message leaves. -/
def State.putGroup (s : State) (c : Context) (r : Replay) (k : Kernel) (kern lin : Nat) (p : Spot) : State :=
  let why := (lastRise s.now ((s.rises r kern lin).getD [])).getD (16, ⟨0, r.stamp, s.now⟩)
  let g : Group :=
    { uid := s.fresh, ctx := c.id, replay := r.uid, kern := kern, lin := lin, lcl := p.lcl, phys := p.phys,
      spadBase := p.base, spadSize := k.spad, tcmBase := p.tcm, tcmSize := k.tcm, slots := k.slots, st := .placed,
      rootDone := false, retain := none, retainMsg := [], retiredAt := 0, kind := why.1, arriver := why.2.arriver,
      stamp := why.2.stamp }
  let s := { s with fresh := s.fresh + 1, groups := (s.groups.filter fun (x : Group) => p.keep != some x.uid) ++ [g] }
  let s := s.takeCluster c.id p.phys (if r.stratus = 0 then none else some p.lcl)
  (s.updKRun r.uid kern fun x => { x with started := x.started ++ [lin] }).consume r (k.inputTags lin)

/-- The launch unit places one group (R290). -/
def execGroupPlacement (s : State) : Host.Outcome State Fault Refusal :=
  .next (match [3, 2, 1, 0].findSome? fun l => (s.levelOrder l).findSome? fun c =>
      (s.nextGroup c).map fun x => (l, c, x) with
    | none => s
    | some (l, c, r, k, kern, lin, p) =>
      let s := s.putGroup c r k kern lin p
      { s with launchLast := s.launchLast.set! l c.id })

/-! ## The root thread (R13, R39, R118, R124, R256) -/

/-- Root and service threads start with every d and g register FULL and zero (R39, R344). -/
def Thread.zeros (t : Thread) : Thread :=
  t.fill ((List.finRange 4).map fun i => (i, 0)) ((List.finRange 8).map fun i => (i, 0))

/-- The lowest-numbered core with a free slot, and the slot; core 0 in stratus mode. -/
def State.rootSlot (s : State) (g : Group) (stratus : Bool) : Option (Nat × Nat) :=
  (if stratus then [0] else List.range 8).findSome? fun c => (s.freeSlot g.phys c).map fun n => (c, n)

/-- The dispatch message reaches the cluster, and the root starts (R13); the wait of the group ends with its record. In
stratus mode roots start in the order of their groups (R181). -/
def execGroupDispatch (grp : Nat) (s : State) : Host.Outcome State Fault Refusal :=
  .next (match s.group? grp with
    | none => s
    | some g =>
      match s.replay? g.replay, s.kernelOf? grp with
      | some r, some k =>
        let earlier := r.stratus != 0 && s.groups.any fun x => x.st == .placed && x.ctx == g.ctx && x.lcl == g.lcl
          && decide (x.uid < g.uid)
        if g.st != .placed || (s.clusterAt g.phys).corePt == .gated || earlier
            || ((s.ctx? g.ctx).bind (·.destroying)).isSome then s
        else
          match s.rootSlot g (r.stratus != 0) with
          | none => s
          | some (core, slot) =>
            let (stamp, s) := s.endWait (some r) g.ctx g.phys 272 (groupName g.kern g.lin) g.arriver g.kind g.stamp
            let lcore : Word := BitVec.ofNat 64 (8 * g.lcl + core)
            let t0 := Thread.blank s.fresh .root g.ctx grp r.graph g.phys g.lcl core slot
            let ctl := ((s.ctx? g.ctx).map (·.fpCtl)).getD 0
            let t : Thread := (({ t0 with
              window := k.window, pc := k.entry, handle := handleOf g.ctx g.lcl core 0 0,
              key := rootKey r.seed lcore (BitVec.ofNat 64 g.lin), stamp := stamp } : Thread).setFpWord ctl).zeros
            let s := { s with threads := s.threads ++ [t], fresh := s.fresh + 1 }
            s.updGroup grp fun g => { g with st := .running, stamp := stamp }
      | _, _ => s)

/-! ## Waves (R303, R304) -/

/-- Counters in use by every running replay. -/
def State.waveUsed (s : State) : Nat :=
  (s.replays.map fun r => (r.kernels.map fun k => (k.wave.map (·.width)).getD 0).sum).sum

/-- Counters of the groups that enter the window, set to their predecessors that have not retired (R303). -/
def Kernel.enter (k : Kernel) (retired : List Nat) (lo hi : Nat) : List (Nat × Nat) :=
  ((List.range (hi - lo)).map (lo + ·)).map fun g =>
    (g, ((k.preds g).filter fun p => !retired.contains p).length)

/-- The window advances over the groups that have retired (R303). -/
def Wave.advance (k : Kernel) (retired : List Nat) (w : Wave) : Wave :=
  let low := (firstFrom (fun g => !retired.contains g) (k.grid - w.low) w.low).getD k.grid
  let top := min (w.low + w.width) k.grid
  { w with low := low
           counts := (w.counts.filter fun c => decide (low ≤ c.1)) ++ k.enter retired top (min (low + w.width) k.grid) }

/-- A kernel with dependence vectors obtains its window (R303). -/
def execWaveCounterAllocation (replay kern : Nat) (s : State) : Host.Outcome State Fault Refusal :=
  .next (match s.replay? replay with
    | none => s
    | some r =>
      match (s.graph? r.graph).bind fun g => g.kernels[kern]?, r.kernels[kern]? with
      | some k, some kr =>
        let free := 65536 - s.waveUsed
        let ready := k.afters.all fun a => ((r.kernels[a]?).bind (·.fin)).isSome
        if k.depvecs.isEmpty || kr.wave.isSome || kr.fin.isSome || !ready || free == 0 then s
        else
          let w := min 16384 (min k.grid free)
          s.updKRun replay kern fun x => { x with wave := some ⟨w, 0, k.enter [] 0 w⟩ }
      | _, _ => s)

/-- A group has retired: its successors' counters fall, then the window advances (R304, R303). `fault`: a counter stood
at 0. -/
def KRun.retire (kr : KRun) (k : Kernel) (lin : Nat) (by_ : Rise) : KRun × Bool :=
  let retired := kr.retired ++ [lin]
  match kr.wave with
  | none => ({ kr with retired := retired }, false)
  | some w =>
    let succ (g : Nat) : Bool := (k.preds g).contains lin
    let fell := w.counts.filter fun c => succ c.1
    let w' := { w with counts := w.counts.map fun (c : Nat × Nat) => if succ c.1 then (c.1, c.2 - 1) else c }
    let freed := (fell.filter fun c => c.2 == 1).map fun c => (c.1, by_)
    ({ kr with retired := retired, wave := some (w'.advance k retired), released := kr.released ++ freed },
      fell.any fun c => c.2 == 0)

/-! ## Retirement (R16, R17, R205, R295) -/

/-- The successor of a group's allotment has not started (R305). -/
def State.successorWaits (s : State) (g : Group) : Bool :=
  match g.retain, s.replay? g.replay with
  | some (k, l), some r => ((r.kernels[k]?).map fun x => !x.started.contains l).getD false
  | _, _ => false

/-- The group's events of R16 have all happened, and nothing of it is on its way, its RETAINs included (R305). -/
def State.mayRetire (s : State) (g : Group) : Bool :=
  g.st == .running && g.rootDone
    && !(s.threads.any fun t => t.group == g.uid)
    && !(s.families.any fun f => f.group == g.uid && f.started && f.status.isNone)
    && !(s.copies.any fun c => c.group == g.uid)
    && !(s.accs.any fun a => a.group == g.uid)
    && !(s.pubs.any fun p => p.group == g.uid)
    && g.retainMsg.isEmpty
    && ((s.ctx? g.ctx).map fun c => c.freeze.isNone && c.destroying.isNone).getD false

/-- Answer a TAGWAIT with the generation (R300). -/
def State.satisfyThread (s : State) (pend : Nat) (gen : BitVec 16) (by_ : Rise) : State :=
  match s.pends.find? fun p => p.id == pend with
  | some p => s.deliver p (zext64 gen) .tagwait 6 by_.arriver by_.stamp
  | none => s

/-- Satisfy a waiter (R295). -/
def State.satisfy (s : State) (name : BitVec 32) (gen : BitVec 16) (by_ : Rise) (w : Waiter) : State :=
  match w with
  | .thread pend => s.satisfyThread pend gen by_
  | .group rep kern lin => s.updKRun rep kern fun k =>
      { k with sat := (lin, name, by_) :: k.sat, looked := k.looked.erase (lin, name) }

/-- A kernel has retired: every waiting entry of its tensors with the replay's generation becomes published (R295). A
TAGWAIT that waits without an entry finds the retirement when it looks again (R297, `execTagLookup`). -/
def State.publishAll (s : State) (r : Replay) (k : Kernel) (by_ : Rise) : State :=
  let by_ := { by_ with arriver := launchId }
  let hit (e : TagEntry) : Bool := e.ctx == r.ctx && e.gen == r.gen && !e.published && k.outtags.contains (tagTensor e.name)
  let es := s.tags.filter hit
  let s := { s with
    tags := s.tags.map fun (e : TagEntry) =>
      if hit e then
        { e with published := true, waiters := [], changed := s.fresh, stamp := by_.stamp, arriver := launchId }
      else e
    fresh := s.fresh + 1 }
  es.foldl (fun s e => e.waiters.foldl (fun s w => s.satisfy e.name e.gen by_ w) s) s

/-- Clear a group's TCM ranges: R19 lets no value that a program reads depend on whether the island is gated in between, and a
gated island's TCMs read as zero (R20, log entry 40). -/
def State.clearTcm (s : State) (g : Group) : State :=
  (List.finRange 8).foldl (fun s c =>
    let lo := (Loc.tcm g.phys c.val g.tcmBase[c.val]).key
    { s with mem := Mem.clear s.mem lo g.tcmSize
             poison := s.poison.filter fun w => !(decide (lo ≤ 8 * w) && decide (8 * w + 8 ≤ lo + g.tcmSize)) }) s

/-- A group retires. -/
def State.retire (s : State) (g : Group) : State :=
  let keep := s.successorWaits g
  let s := s.clearTcm g
  let by_ : Rise := ⟨groupName g.kern g.lin, g.stamp, s.now⟩
  let s := s.updGroup g.uid fun g =>
    { g with st := if keep then .retained else .freeing, retain := if keep then g.retain else none, retiredAt := s.now }
  match s.replay? g.replay with
  | none => s.releaseClusters
  | some r =>
    match (s.graph? r.graph).bind fun x => x.kernels[g.kern]?, r.kernels[g.kern]? with
    | some k, some kr =>
      let (kr, bad) := kr.retire k g.lin by_
      let done := decide (k.grid ≤ kr.retired.length)
      let kr := if done then { kr with fin := some by_, wave := none } else kr
      let s := s.updKRun r.uid g.kern fun _ => kr
      let s := if bad then s.unitFault r.ctx (some r.uid) 0x42 launchId else s
      let s := if done then s.publishAll r k by_ else s
      let s := (match s.replay? r.uid with
        | some r => if r.kernels.all fun k => k.fin.isSome then s.endReplay r r.status else s
        | none => s)
      s.releaseClusters
    | _, _ => s.releaseClusters

/-- A host in stratus mode goes on to its next logical cluster when a group retires (R182). -/
def State.switchHost (s : State) (g : Group) : State :=
  match s.ctx? g.ctx with
  | some c =>
    let k := s.clusterAt g.phys
    if k.lcl = some g.lcl && k.ctx = some g.ctx && (s.hostWork c g.phys).any (fun l => l != g.lcl) then
      s.updCluster g.phys fun k => { k with stopped := true, saving := true }
    else s
  | none => s

/-- A group retires once all of R16 has happened. -/
def execGroupRetirement (grp : Nat) (s : State) : Host.Outcome State Fault Refusal :=
  .next (match s.group? grp with
    | none => s
    | some g => if s.mayRetire g then (s.retire g).switchHost g else s)

/-! ## Allotments (R198, R241, R305) -/

/-- Bytes of an allotment's scratchpad range. -/
def Group.spadHolds (g : Group) (l : Loc) : Bool :=
  match l with
  | .spad phys off => phys == g.phys && decide (g.spadBase ≤ off) && decide (off < g.spadBase + g.spadSize)
  | _ => false

/-- A copy that has not completed writes into the allotment, whether or not it has done so already (R241). -/
def Copy.writesInto (c : Copy) (g : Group) : Bool := c.plan.any fun u => u.2.any fun l => g.spadHolds l

/-- Clear a scratchpad range: zeros, EMPTY granules (R198). -/
def State.clearSpad (s : State) (phys base size : Nat) : State :=
  let lo := (Loc.spad phys base).key
  { s with mem := Mem.clear s.mem lo size
           granules := s.granules.filter fun n => !(decide (granuleNo phys base ≤ n)
             && decide (n < granuleNo phys base + size / 16))
           poison := s.poison.filter fun w => !(decide (lo ≤ 8 * w) && decide (8 * w + 8 ≤ lo + size))
             && !(decide (granuleKey phys (base / 1024) ≤ 8 * w) && decide (8 * w < granuleKey phys ((base + size) / 1024))) }

/-- A retired group's allotment is cleared and freed, once the copies that write into it have completed (R241) and the
accesses into it, waiting full/empty requests included, have been performed; a saved one is freed after its restore. No
rule says what becomes of another group's request that waits there: the freeing waits for it (DESIGN CHOICE, log entry
84). -/
def execAllotmentFreeing (grp : Nat) (s : State) : Host.Outcome State Fault Refusal :=
  .next (match s.group? grp with
    | none => s
    | some g =>
      if g.st != .freeing || decide (256 ≤ g.phys) || (s.copies.any fun c => c.writesInto g) || (s.accs.any fun a => g.spadHolds a.loc) then s
      else { s.clearSpad g.phys g.spadBase g.spadSize with groups := s.groups.filter fun x => x.uid != grp })

/-- The oldest RETAIN of a group on its way is recorded (R305): without effect where its successor has started or another
group names it. -/
def execRetainRecord (grp : Nat) (s : State) : Host.Outcome State Fault Refusal :=
  .next (match s.group? grp with
    | none => s
    | some g =>
      match g.retainMsg, s.replay? g.replay with
      | (k, l) :: rest, some r =>
        let started := ((r.kernels[k]?).map fun x => x.started.contains l).getD true
        let named := s.groups.any fun x => x.uid != grp && x.replay == g.replay && x.retain == some (k, l)
        if g.st != .running && g.st != .saved then s
        else
          s.updGroup grp fun g => { g with retainMsg := rest, retain := if started || named then g.retain else some (k, l) }
      | _, _ => s)

end Sys2Proof.Machine
end

