-- ==== Sys2Proof/Machine/TagTable.lean ====
section
/-! DEFINITION. The tag table (R295 to R298) and the range unit (R306, R307). -/

namespace Sys2Proof.Machine

/-! ## Entries (R295, R296) -/

/-- Generation `a` is newer than `b` (R295). -/
def newer (a b : BitVec 16) : Bool := decide (1 ≤ (a - b).toNat) && decide ((a - b).toNat ≤ 32767)

/-- Declared consumers of a tile in a graph (R296). -/
def Graph.consumers (g : Graph) (name : BitVec 32) : Nat :=
  (g.kernels.map fun k =>
    if k.intags.any fun t => t.1 == tagTensor name then countFrom (fun lin => (k.inputTags lin).contains name) k.grid 0
    else 0).sum

def TagEntry.reclaimable (e : TagEntry) : Bool := e.count == 0 && e.waiters.isEmpty

/-- Make room for one more entry: nothing to do below 65,536, else the least recently changed reclaimable entry goes;
none where there is none (R296, R297). -/
def State.tagRoom (s : State) : Option State :=
  if s.tags.length < 65536 then some s
  else
    match (s.tags.filter TagEntry.reclaimable).foldl (fun (best : Option TagEntry) e => match best with
        | none => some e
        | some b => if e.changed < b.changed then some e else some b) none with
    | none => none
    | some v => some { s with tags := s.tags.filter fun e => !(e.ctx == v.ctx && e.name == v.name) }

/-- Put an entry, replacing the one with its key. -/
def State.putTag (s : State) (e : TagEntry) : State :=
  { s with tags := { e with changed := s.fresh } :: s.tags.filter fun x => !(x.ctx == e.ctx && x.name == e.name)
           fresh := s.fresh + 1 }

/-- A tensor falls back for the rest of a replay (R297). -/
def State.fallBack (s : State) (rep : Nat) (tensor : Nat) : State :=
  s.updReplay rep fun r => { r with fallback := if r.fallback.contains tensor then r.fallback else tensor :: r.fallback }

/-- The tensor is in fallback for the replay. -/
def Replay.fellBack (r : Replay) (name : BitVec 32) : Bool := r.fallback.contains (tagTensor name)

/-- Declared consumers of a tile of a replay's graph. -/
def State.consumersOf (s : State) (r : Replay) (name : BitVec 32) : Nat :=
  ((s.graph? r.graph).map fun g => g.consumers name).getD 0

/-- The replay that a waiter belongs to. -/
def State.waiterReplay (s : State) : Waiter → Option Nat
  | .group rep _ _ => some rep
  | .thread pend => ((s.pends.find? fun p => p.id == pend).bind fun p => s.anyThread? p.uid).bind fun t =>
      (s.group? t.group).map (·.replay)

/-- A stale-wait fault on the context of a waiter (R298). -/
def State.staleWait (s : State) (ctx : Nat) (rep : Option Nat) : State := s.unitFault ctx rep 0x41 launchId

/-- The waiters of an older generation take the stale-wait fault (R295). -/
def State.dropWaiters (s : State) (e : TagEntry) : State :=
  e.waiters.foldl (fun s w => s.staleWait e.ctx (s.waiterReplay w)) s

/-! ## TAG_PUBLICATION (R295, R299) -/

/-- The publication meets an entry of a newer generation (R295, R298). -/
def State.stalePublish (s : State) (p : Pub) (r : Replay) : Bool :=
  match s.tag? p.ctx p.name with
  | some e => e.gen != r.gen && !newer r.gen e.gen
  | none => false

/-- The publication acts on the table. An entry whose generation differs by exactly 32,768, for which R295 gives neither order,
is treated as newer (DESIGN CHOICE, log entry 98). -/
def State.publish (s : State) (p : Pub) (r : Replay) (by_ : Rise) : State :=
  let fresh : TagEntry := ⟨p.ctx, p.name, r.gen, true, s.consumersOf r p.name, [], 0, by_.stamp, by_.arriver⟩
  match s.tag? p.ctx p.name with
  | none =>
    if r.fellBack p.name then s
    else
      match s.tagRoom with
      | some s => s.putTag fresh
      | none => s.fallBack r.uid (tagTensor p.name)
  | some e =>
    if e.gen = r.gen then
      if e.published then s
      else
        let s := s.putTag { e with published := true, waiters := [], stamp := by_.stamp, arriver := by_.arriver }
        e.waiters.foldl (fun s w => s.satisfy p.name e.gen by_ w) s
    else if newer r.gen e.gen then (s.dropWaiters e).putTag fresh
    else s.unitFault p.ctx (some r.uid) 0x40 launchId

/-- Engine id of the engine that carries a copy (R314). -/
def State.copyAgent (s : State) (c : Copy) : BitVec 32 :=
  match c.kind with
  | .cpg _ | .send => engineId 1 c.lcl
  | .farOut _ _ _ | .farIn _ _ _ => engineId 2 (s.engineOf c).2
  | .coll _ _ _ => engineId 2 (s.engineOf c).2

/-- Tokens that the thread's next instruction waits for, where that is a WAITK. -/
def State.waitedTokens (s : State) (t : Thread) : List (Fin 8) :=
  match s.nextOf t with
  | some (_, .waitk m) => (List.finRange 8).filter fun k => m.getLsbD k.val
  | _ => []

/-- A WAITK that has waited and does so no longer: its wait ends with the copy of its tokens that completed last, also where
that was while its cluster was saved (R313, R314, R318). -/
def State.endWaitk (s : State) (uid : Nat) : State :=
  match s.thread? uid with
  | some t =>
    if t.wait == some .token && s.waitOf t != some .token then
      let s' := s.updThread uid fun t => { t with wait := none }
      match lastRise s.now ((s.waitedTokens t).filterMap fun k => t.tokEnd[k.val].map fun x => (9, x)) with
      | some x => s'.endThreadWait uid x.2.arriver 9 x.2.stamp
      | none => s'
    else s
  | none => s

/-- What a copy's completion changes in its thread: the token's count falls, and its error and its last copy are noted; of
copies that complete at one time, the one with the greatest path (R236, R313). Where the token carries an error already, the
later error takes its place: no rule says which stands (DESIGN CHOICE, log entry 82). -/
def Thread.copyDone (t : Thread) (k : Fin 8) (err : Option CopyErr) (now : Nat) (by_ : Rise) : Thread :=
  { t with tokens := t.tokens.set k.val (t.tokens[k.val] - 1)
           tokErr := match err with
             | some e => t.tokErr.set k.val (some e)
             | none => t.tokErr
           tokEnd := t.tokEnd.set k.val
             ((lastRise now ((t.tokEnd[k.val].toList ++ [by_]).map fun x => (9, x))).map (·.2)) }

/-- A copy has completed: its thread's token shows it, and a WAITK that waits for nothing else goes on (R236, R243). -/
def State.finishCopy (s : State) (c : Copy) (err : Option CopyErr) : State :=
  let done (t : Thread) : Thread := t.copyDone c.token err s.now ⟨s.copyAgent c, c.stamp, s.now⟩
  let s := { s with
    copies := s.copies.filter fun x => x.id != c.id
    saves := s.saves.map fun (x : SaveRec) =>
      { x with threads := x.threads.map fun (t : Thread) => if t.uid == c.uid then done t else t } }
  (((s.updThread c.uid done).stampGroup c.group c.stamp).keepFrame c.uid).endWaitk c.uid

/-- A publication reaches the tag table; a CPFAR.in that published completes then (R245). A stale one is not completed: a
CPFAR.in is dropped, and a TAGPUB stays, so that its thread never sees it done (R298). -/
def execTagPublication (pub : Nat) (s : State) : Host.Outcome State Fault Refusal :=
  .next (match s.pubs.find? fun p => p.id == pub && !p.stale with
    | none => s
    | some p =>
      let stale := ((s.replay? p.replay).map (s.stalePublish p)).getD false
      let st := ((p.uid.bind s.thread?).map (·.stamp)).getD p.stamp
      let st := if p.copy.isSome then p.stamp else st
      let pubs := if stale && p.copy.isNone
        then s.pubs.map fun (x : Pub) => if x.id == pub then { x with stale := true } else x
        else s.pubs.filter fun x => x.id != pub
      let s := { s with pubs := pubs }
      let s := match s.replay? p.replay with
        | some r => s.publish p r ⟨p.arriver, st, s.now⟩
        | none => s
      match p.copy.bind fun id => s.copies.find? fun c => c.id == id with
      | some c => if stale then { s with copies := s.copies.filter fun x => x.id != c.id } else s.finishCopy c none
      | none => s)

/-! ## TAG_LOOKUP (R295, R297) -/

/-- A look that finds no satisfaction becomes a waiter on an entry of its generation; in fallback it waits for the
producer's retirement alone, and one that takes the stale-wait fault is not made again (R297, R298). An entry whose generation
differs by exactly 32,768 is treated as newer (DESIGN CHOICE, log entry 98). -/
def State.look (s : State) (r : Replay) (name : BitVec 32) (w : Waiter) : State :=
  let entry : TagEntry := ⟨r.ctx, name, r.gen, false, s.consumersOf r name, [w], 0, Stamp.zero, 0⟩
  let wait (s : State) : State := match w with
    | .group rep kern lin => s.updKRun rep kern fun k => { k with looked := (lin, name) :: k.looked }
    | .thread pend => { s with pends := s.pends.map fun (p : Pend) => if p.id == pend then { p with op := .tagwait name true } else p }
  match s.producerFin r name with
  | some x => s.satisfy name r.gen { x with arriver := launchId } w
  | none =>
    match s.tag? r.ctx name with
    | none =>
      if r.fellBack name then wait s
      else
        match s.tagRoom with
        | some s => wait (s.putTag entry)
        | none => wait (s.fallBack r.uid (tagTensor name))
    | some e =>
      if e.gen = r.gen then
        if e.published then s.satisfy name e.gen ⟨e.arriver, e.stamp, s.now⟩ w
        else wait (s.putTag { e with waiters := e.waiters ++ [w] })
      else if newer r.gen e.gen then wait ((s.dropWaiters e).putTag entry)
      else wait (s.staleWait r.ctx (some r.uid))

/-- A consumer's look reaches the tag table: a waiting group's, for one of its input tags, or a TAGWAIT's. -/
def execTagLookup (look : TagLook) (s : State) : Host.Outcome State Fault Refusal :=
  .next (match look with
    | .group rep kern lin name =>
      (match s.replay? rep with
      | none => s
      | some r =>
        match (s.graph? r.graph).bind fun g => g.kernels[kern]?, r.kernels[kern]? with
        | some k, some kr =>
          if kr.started.contains lin || k.grid ≤ lin || !(k.inputTags lin).contains name
              || (s.tagRise r kr lin name).isSome || kr.looked.contains (lin, name) then s
          else s.look r name (.group rep kern lin)
        | _, _ => s)
    | .thread pend =>
      (match s.pends.find? fun p => p.id == pend with
      | none => s
      | some p =>
        match p.op, (s.anyThread? p.uid).bind fun t => s.replayOf? t.group with
        | .tagwait name looked, some r =>
          if looked && (s.producerFin r name).isNone then s else s.look r name (.thread pend)
        | _, _ => s))

/-! ## The range unit (R306, R307) -/

/-- The range that a pending TAKE or arm names. -/
def PendOp.rangeNo : PendOp → Option Nat
  | .take n => some n
  | .takeArm n _ _ _ _ => some n
  | _ => none

/-- The chunk of a TAKE: start, length, and the range afterwards (R307). -/
def Range.chunk (r : Range) : Int × Nat × Range :=
  let rem := r.stop - r.next
  if !r.armed || rem ≤ 0 then (-1, 0, r)
  else
    let q := (rem.toNat + 2 * r.p - 1) / (2 * r.p)
    let len := Nat.min rem.toNat (Nat.max r.min q)
    (r.next, len, { r with next := r.next + len })

/-- Deliver a chunk in one cycle (R41, R307). -/
def State.deliverChunk (s : State) (p : Pend) (start : Int) (len : Nat) (st : Stamp) : State :=
  let w : List (Operand × Wide) :=
    [(.int p.dst, ((BitVec.ofInt 64 start : Word)).setWidth 256), (.int (takeNext p.dst), BitVec.ofNat 256 len)]
  let r : Arrival :=
    { id := s.fresh, uid := p.uid, writes := w, flags := 0, fp := false, red := false, prod := .take, seqr := false,
      push := none, seq := p.id, kind := 0, arriver := 0, stamp := st, after := [] }
  { s with arrivals := s.arrivals ++ [r], fresh := s.fresh + 1, pends := s.pends.filter (·.id != p.id) }

/-- The range unit serves a TAKE or an arm; those of one thread to one range in issue order (R306, R307). -/
def execTakeService (pend : Nat) (s : State) : Host.Outcome State Fault Refusal :=
  .next (match s.pends.find? fun p => p.id == pend with
    | none => s
    | some p =>
      let st := ((s.thread? p.uid).map (·.stamp)).getD Stamp.zero
      let earlier (n : Nat) : Bool :=
        s.pends.any fun x => x.uid == p.uid && x.op.rangeNo == some n && decide (x.id < p.id)
      match p.op with
      | .take n =>
        if h : n < 64 then
          if earlier n then s
          else
            let (start, len, r) := s.ranges[n].chunk
            { s with ranges := s.ranges.set n r }.deliverChunk p start len st
        else s
      | .takeArm n a b k m =>
        if h : n < 64 then
          if earlier n then s
          else
            { s with ranges := s.ranges.set n { s.ranges[n] with armed := true, next := a.toInt, stop := b.toInt, p := k
                                                                 min := m }
                     pends := s.pends.filter (·.id != p.id) }
        else s
      | _ => s)

/-- A revoke takes effect once every TAKE and arm issued before it has been served and delivered (R306). -/
def execRangeRevokeComplete (range : Nat) (s : State) : Host.Outcome State Fault Refusal :=
  .next (if h : range < 64 then
      match s.ranges[range].revoking with
      | none => s
      | some (hdr, ids) =>
        if (s.pends.any fun p => ids.contains p.id) || s.arrivals.any (fun a => ids.contains a.seq) then s
        else
          { s with ranges := s.ranges.set range ⟨none, false, 0, 0, 0, 0, none⟩ }.send (.reply hdr 0x0C 0 [])
    else s)

end Sys2Proof.Machine
end

