-- ==== Sys2Proof/Machine/CopyEngine.lean ====
section
/-! DEFINITION. What the copy engines and the port engines do with the copies they hold: bursts (R236, R239 to R242), the
far tier (R245, R246), collectives (R186, R247, R248) and errors (R249). -/

namespace Sys2Proof.Machine

/-! ## Reading and writing units -/

def State.updCopy (s : State) (id : Nat) (f : Copy → Copy) : State :=
  { s with copies := s.copies.map fun (c : Copy) => if c.id == id then f c else c }

/-- Read a unit at its home; at a peer, what the peer answers. -/
def State.readUnit (s : State) (c : Copy) (src : Loc) (n : Nat) (peer : BitVec 128) : Nat × State :=
  match src with
  | .peer id off => (peer.toNat % 2 ^ (8 * n), s.send (.peerAccess c.ctx id off n (.load .zx (.int .zero)) (c.stamp.mark (s.copyAgent c) 0)))
  | _ => s.homeRead src n c.ctx (some c.group) (s.thread? c.uid)

/-- Write a unit at a destination: a scratchpad granule turns FULL in the same cycle (R198). -/
def State.writeUnit (s : State) (c : Copy) (l : Loc) (n v : Nat) : State :=
  let agent := s.copyAgent c
  match l with
  | .spad _ _ => s.fillGranule l v agent c.stamp
  | .peer id off => s.send (.peerAccess c.ctx id off n (.store (BitVec.ofNat 256 v)) (c.stamp.mark agent 0))
  | _ => s.homeWrite l n v agent c.stamp

/-- Units whose source or destination is lost move no more (R194): nothing is written there, nor from there, and what a
gathering engine still had to read of them is a free value (log entry 6). -/
def State.loseUnits (s : State) (id : Nat) (lost : Loc → Bool) : State :=
  match s.copies.find? fun c => c.id == id with
  | none => s
  | some c =>
    let gone := (c.units.zipIdx.filter fun u => lost u.1.1 && !c.has u.2).map fun u =>
      (u.2, (Config.upsetValue (s.free + u.2)).toNat % 2 ^ (8 * c.unitSize))
    { s with free := s.free + c.units.length }.updCopy id fun c =>
      { c with units := c.units.map fun (u : Loc × List Loc) => (u.1, if lost u.1 then [] else u.2.filter fun l => !lost l)
               got := c.got ++ (match c.kind with
                 | .cpg _ | .send => []
                 | _ => gone) }

/-- An engine's request of a unit may be served now: its home serves no other before it (R197, R200). -/
def State.unitTurn (s : State) (c : Copy) (l : Loc) : Bool := !s.homeBusy l c.unitSize (c.agedAt, 8, c.id)

/-- An engine's request at a place has been served: it waits no more (R197), and it has passed what its channel core had
before it (R200). -/
def State.unitServed (s : State) (c : Copy) (ls : List Loc) : State :=
  (ls.foldl (fun s l => (s.bankServed l c.unitSize 8).passAll l) s).updCopy c.id fun c => { c with agedAt := none }

/-- Move one unit: `part` 1 reads it only, 2 + d writes its d-th remaining destination only, anything else moves all of
it. A unit that a window of this device refuses moves no more, and the context takes the peer-loss fault (R337). -/
def State.moveUnit (s : State) (id i part : Nat) (peer : BitVec 128) : State :=
  match s.copies.find? fun c => c.id == id with
  | none => s
  | some c =>
    match c.units[i]? with
    | none => s
    | some (src, dsts) =>
      let n := c.unitSize
      if src == .nowhere || dsts.contains .nowhere then
        (s.loseUnits id (· == .nowhere)).unitFault c.ctx ((s.group? c.group).map (·.replay)) 0x43 (engineId 2 0)
      else if (!s.canMove c i (src, dsts) && !(part == 1 && s.canRead c i src)) || (!c.has i && !s.unitTurn c src) then s
      else
        let r := match c.got.lookup i with
          | some v => (v, s)
          | none => s.readUnit c src n peer
        let go := (dsts.zipIdx.filter fun d => part != 1 && (part < 2 || 9 < part || part == 2 + d.2) && d.1.present
          && s.unitTurn c d.1 && !s.behindCopy c d.1 n).map (·.1)
        let left := dsts.filter fun l => !go.contains l
        let s := r.2.updCopy id fun c =>
          { c with units := c.units.set i (src, left)
                   got := if left.isEmpty && !dsts.isEmpty then c.got.filter fun g => g.1 != i
                     else if c.has i then c.got else (i, r.1) :: c.got }
        (go.foldl (fun s l => s.writeUnit c l n r.1) s).unitServed c (if c.has i then go else src :: go)

/-! ## The context page on the wire (R246) -/

/-- The value of little-endian 4-byte and 8-byte fields, and byte `i`. -/
def pageByte (bs : List Nat) (i : Nat) : Nat := bs.getD i 0

/-- Largest magnitude of 32 elements that are not NaN, as an E4M3 encoding. -/
def blockMax (xs : List Nat) : Nat := ((xs.map (· % 128)).filter (· != 127)).foldl max 0

/-- The sub-scale of a sub-block. -/
def subScale (xs : List Nat) : Nat :=
  match unpack .e4 (blockMax xs) with
  | .fin _ m e => if m = 0 then 127 else (min (max (topExp m e - 2 + 127) 0) 254).toNat
  | _ => 127

/-- One element in E2M1 under a sub-scale. -/
def toE2 (scale x : Nat) : Nat :=
  match unpack .e4 x with
  | .fin neg m e => (roundTo .e2 FEnv.plain neg m (e - ((scale : Int) - 127))).1
  | _ => 0

/-- One element back in E4M3; a sub-scale of 0xFF is a NaN (R111). -/
def ofE2 (scale y : Nat) : Nat :=
  if scale = 255 then canonNaN .e4
  else
    match unpack .e2 y with
    | .fin neg m e => (roundTo .e4 FEnv.plain neg m (e + ((scale : Int) - 127))).1
    | _ => 0

/-- Consecutive runs of `n` elements; `fuel` is at least their number. -/
def chunks {α : Type} (n : Nat) : Nat → List α → List (List α)
  | 0, _ => []
  | fuel + 1, xs => if xs.isEmpty then [] else xs.take n :: chunks n fuel (xs.drop n)

/-- Pack nibbles, the even one low (R112). -/
def packNibbles : List Nat → List Nat
  | a :: b :: rest => (a % 16 + 16 * (b % 16)) :: packNibbles rest
  | _ => []

def unpackNibbles (bs : List Nat) : List Nat := bs.flatMap fun b => [b % 16, b / 16]

/-- Mode and payload of a group. -/
def encodeGroup (enc : Nat) (xs : List Nat) : Nat × List Nat :=
  if xs.all (· == 0) then (0, [])
  else if enc = 2 then
    let subs := (chunks 32 4 xs).map fun b => (subScale b, b)
    (2, packNibbles (subs.flatMap fun b => b.2.map (toE2 b.1)) ++ subs.map (·.1))
  else (1, xs)

/-- The wire bytes of a page: 32,768 elements, then 1,024 scale bytes. -/
def pageToWire (key : Word) (enc : Nat) (page : List Nat) : List Byte :=
  let gs := (chunks 128 256 (page.take 32768)).map (encodeGroup enc)
  let body := gs.flatMap (·.2)
  leBytes 8 key.toNat ++ leBytes 4 (1296 + body.length) ++ leBytes 2 1 ++ leBytes 2 0
    ++ ((page.drop 32768) ++ gs.map (·.1) ++ body).map (BitVec.ofNat 8)

/-- Bytes of a group's payload. -/
def payloadSize (mode : Nat) : Nat := if mode = 0 then 0 else if mode = 1 then 128 else 68

/-- The elements of a group. -/
def decodeGroup (mode : Nat) (bs : List Nat) : List Nat :=
  if mode = 0 then List.replicate 128 0
  else if mode = 1 then bs
  else
    let ys := chunks 32 4 (unpackNibbles (bs.take 64))
    (ys.zip (bs.drop 64)).flatMap fun b => b.1.map (ofE2 b.2)

/-- The elements of every group. -/
def decodeGroups : List Nat → List Nat → List Nat
  | [], _ => []
  | m :: ms, bs => decodeGroup m (bs.take (payloadSize m)) ++ decodeGroups ms (bs.drop (payloadSize m))

/-- A page from the wire; none where it is malformed. -/
def pageOfWire (wire : List Byte) : Option (List Nat) :=
  let bs := wire.map (·.toNat)
  let len := leNat (wire.drop 8 |>.take 4)
  let modes := (bs.drop 1040).take 256
  if 34064 < len || bs.length != len || leNat ((wire.drop 12).take 2) != 1 || modes.length != 256
      || modes.any (fun m => decide (2 < m)) || len != 1296 + (modes.map payloadSize).sum then none
  else some (decodeGroups modes (bs.drop 1296) ++ (bs.drop 16).take 1024)

/-- A page's bytes as 16-byte units. -/
def pageUnits (page : List Nat) : List (Nat × Nat) :=
  ((chunks 16 2112 page).map fun b => leNat (b.map (BitVec.ofNat 8))).zipIdx.map fun x => (x.2, x.1)

/-- The bytes of units in order. -/
def unitBytes (n : Nat) (got : List (Nat × Nat)) : List Nat :=
  (List.range n).flatMap fun i => (leBytes 16 ((got.lookup i).getD 0)).map (·.toNat)

/-! ## Collectives (R186, R247, R248) -/

/-- Combine two elements. -/
def collCombine (op : Nat) (f : Fmt) (a b : Nat) : Nat :=
  match op with
  | 0 => if f.isInt then wrap f.width (intVal f a + intVal f b) else (fAdd f FEnv.plain a b).1
  | 1 => if f.isInt then (if intVal f a ≤ intVal f b then a else b) else fMinMax f FEnv.plain false a b
  | 2 => if f.isInt then (if intVal f a ≤ intVal f b then b else a) else fMinMax f FEnv.plain true a b
  | 3 => a &&& b
  | 4 => a ||| b
  | _ => a ^^^ b

/-- Chunk of an element among `p` chunks of `n` elements (R186). -/
def chunkOf (p n e : Nat) : Nat := ((List.range p).find? fun c => decide (e < (c + 1) * n / p)).getD 0

/-- One element reduced in ring order from its chunk's rank on. -/
def ringElement (op : Nat) (f : Fmt) (p n e : Nat) (data : Nat → Nat) : Nat :=
  let c := chunkOf p n e
  ((List.range (p - 1)).map fun i => (c + 1 + i) % p).foldl (fun v r => collCombine op f v (data r)) (data c)

/-- Communicator of a copy. -/
def State.commOf (s : State) (ctx num : Nat) : Option Comm := (s.ctx? ctx).bind fun x => x.comms.find? fun m => m.num == num

def State.updComm (s : State) (ctx num : Nat) (f : Comm → Comm) : State :=
  s.updCtx ctx fun x => { x with comms := x.comms.map fun (m : Comm) => if m.num == num then f m else m }

/-- This rank's own message of a collective. -/
def Coll.own (c : Coll) (m : Comm) (got : List (Nat × Nat)) : CollMsg :=
  ⟨m.rank, c.k, BitVec.ofNat 4 c.op, BitVec.ofNat 4 c.fmt, c.n,
    (List.range c.n).map fun i => BitVec.ofNat 64 ((got.lookup i).getD 0)⟩

/-- The first rank whose parameters differ from rank 0's. -/
def disagrees (p : Nat) (msgs : List CollMsg) : Option Nat :=
  match msgs.find? fun x => x.rank == 0 with
  | none => none
  | some z => (List.range p).find? fun r =>
      (msgs.find? fun x => x.rank == r).any fun x => x.op != z.op || x.fmt != z.fmt || x.n != z.n

/-- The elements of the destination, from every rank's contribution: in ring order, or as a switch sums them. -/
def collResult (free : Nat) (c : Coll) (p : Nat) (msgs : List CollMsg) : List Nat :=
  let f := Fmt.ofCode (BitVec.ofNat 4 c.fmt)
  let data (r e : Nat) : Nat := (((msgs.find? fun x => x.rank == r).bind fun x => x.data[e]?).map (·.toNat)).getD 0
  if c.op = 15 then (List.range p).flatMap fun r => (List.range c.n).map fun e => data r e
  else
    (List.range c.n).map fun e =>
      if !c.ring && c.op = 0 && !f.isInt then
        (Config.switchSum (free + e) (BitVec.ofNat 4 c.fmt) ((List.range p).map fun r => BitVec.ofNat 64 (data r e))).toNat
          % 2 ^ f.width
      else ringElement c.op f p c.n e fun r => data r e

/-- Every rank has contributed: parameters that disagree end the copy with error 3, and otherwise the results are ready to
be written. What a switch has summed is beyond its timeout (R248): the copy counts as sent on a ring only. -/
def State.tryCollective (s : State) (ctx num : Nat) (y : Coll) : State :=
  match s.commOf ctx num, s.copies.find? fun c => c.id == y.copy with
  | some m, some c =>
    if !c.sent || y.msgs.length < m.p then s
    else
      let s := s.updComm ctx num fun m => { m with open_ := m.open_.filter fun x => x.k != y.k }
      match disagrees m.p y.msgs with
      | some r => s.finishCopy c (some ⟨3, r⟩)
      | none =>
        let vals := collResult s.free y m.p y.msgs
        { s with free := s.free + y.n }.updCopy c.id fun c =>
          { c with units := y.dst.map fun l => (l, [l])
                   sent := y.ring
                   got := vals.zipIdx.map fun (v : Nat × Nat) => (v.2, v.1) }
  | _, _ => s

/-! ## COPY_BURST (R242) -/

/-- What follows a burst: a copy whose writes are all performed completes (R236), a page that has been read goes on the
wire (R245), and a contribution that has been read goes to the other ranks (R247). -/
def State.afterBurst (s : State) (id : Nat) : State :=
  match s.copies.find? fun c => c.id == id with
  | none => s
  | some c =>
    let written := c.units.all fun u => u.2.isEmpty
    match c.kind with
    | .cpg _ | .send => if written then s.finishCopy c none else s
    | .farOut key e enc =>
      if !c.sent && decide (c.units.length ≤ c.got.length) then
        let page := unitBytes c.units.length c.got
        (s.updCopy id fun c => { c with sent := true, got := [] }).send (.farPage c.ctx e (pageToWire key enc page))
      else s
    | .farIn _ _ tag =>
      if c.sent && written then
        (match tag, s.group? c.group with
        | some name, some g =>
          if s.pubs.any fun p => p.copy == some id then s
          else
            { s with pubs := s.pubs ++ [⟨s.fresh, c.ctx, c.group, g.replay, name, none, some id, false, c.stamp, s.copyAgent c⟩]
                     fresh := s.fresh + 1 }
        | _, _ => s.finishCopy c none)
      else s
    | .coll num k _ =>
      match s.commOf c.ctx num with
      | none => s
      | some m =>
        match m.open_.find? fun y => y.k == k with
        | none => if written then s.finishCopy c none else s
        | some y =>
          if !c.sent && decide (c.units.length ≤ c.got.length) then
            let msg := y.own m c.got
            let y := { y with msgs := y.msgs ++ [msg] }
            let s := (s.updComm c.ctx num fun m =>
              { m with open_ := m.open_.map fun (x : Coll) => if x.k == k then y else x }).updCopy id fun c =>
              { c with sent := true, got := [] }
            (s.send (.coll c.ctx num msg)).tryCollective c.ctx num y
          else s

/-- An engine goes on with a copy's burst, or begins one, of at most 256 bytes; a burst begun ends every other of the
engine (R242). -/
def State.takeBurst (s : State) (c : Copy) (count : Nat) : State :=
  let left := (if c.burst = 0 then 256 / max 1 c.unitSize else c.burst) - count
  let e := s.engineOf c
  { s with copies := s.copies.map fun (x : Copy) =>
      if x.id == c.id then { x with burst := left } else if x.burst != 0 && s.engineOf x == e then { x with burst := 0 } else x }

/-- An engine moves units of a burst of a copy, as many of `units` as the burst has left; the units of a copy have no order among
themselves (R210), so events of one unit each move them in any order. `part`: what of each unit (see `moveUnit`); `peer`:
what peers answer to the reads, in order. A CPFAR.in sends its request first. -/
def execCopyBurst (copy : Nat) (units : UnitRun) (part : Nat) (peer : List (BitVec 128)) (s : State) :
    Host.Outcome State Fault Refusal :=
  .next (match s.copies.find? fun c => c.id == copy with
    | none => s
    | some c =>
      if !s.copyTurn c then s
      else
        let n := min units.count (if c.burst = 0 then 256 / max 1 c.unitSize else c.burst)
        let move (s : State) : State :=
          ((List.range n).foldl (fun s i => s.moveUnit copy (units.first + i) part (peer.getD i 0)) (s.takeBurst c n)).afterBurst copy
        match c.kind with
        | .farIn key e _ =>
          if c.sent then move s else (s.updCopy copy fun c => { c with sent := true }).send (.farReq c.ctx e key)
        | _ => move s)

/-! ## The far tier (R245, R249) -/

/-- A far-tier copy's entry; none for another copy. -/
def Copy.farEntry (c : Copy) : Option Nat :=
  match c.kind with
  | .farOut _ e _ | .farIn _ e _ => some e
  | _ => none

/-- A CPFAR.in whose page has not come. -/
def Copy.awaitsPage (c : Copy) : Bool :=
  match c.kind with
  | .farIn _ _ _ => c.sent && c.got.isEmpty && c.units.all fun u => !u.2.isEmpty
  | _ => false

/-- A CPFAR.out whose page has been pushed. -/
def Copy.awaitsAck (c : Copy) : Bool :=
  match c.kind with
  | .farOut _ _ _ => c.sent
  | _ => false

/-- A far-tier server's message about a copy, at the endpoint of the copy's far-table entry; one that is not accepted there
is dropped (R335, R337). -/
def State.onFar (s : State) (h : FarHdr) (f : Copy → State) : State :=
  match s.copies.find? fun c => c.id == h.copy with
  | none => s.drop
  | some c =>
    match c.farEntry, s.ctx? c.ctx with
    | some e, some x => if acceptsAt x.farAccept e h.env then f c else s.drop
    | _, _ => s.drop

/-- The server acknowledges a page, and the copy completes. -/
def execFarTierAck (h : FarHdr) (s : State) : Host.Outcome State Fault Refusal :=
  .next (s.onFar h fun c => if c.awaitsAck then s.finishCopy c none else s)

/-- A page arrives: a malformed one ends the copy with error 6 and writes nothing (R246). -/
def execFarPageArrival (h : FarHdr) (page : List Byte) (s : State) : Host.Outcome State Fault Refusal :=
  .next (s.onFar h fun c =>
    if !c.awaitsPage then s
    else
      match pageOfWire page with
      | none => s.finishCopy c (some ⟨6, c.farEntry.getD 0⟩)
      | some p => s.updCopy h.copy fun c => { c with got := pageUnits p })

/-- Timeout of a copy's far-table entry, in ns. -/
def State.farTimeout (s : State) (c : Copy) : Nat :=
  ((c.farEntry.bind fun e => (s.ctx? c.ctx).bind fun x => x.far.lookup e).map fun f => f.timeoutUs * 1000).getD 0

/-- A far-tier request passes its timeout (R249). -/
def execFarTierTimeout (copy : Nat) (s : State) : Host.Outcome State Fault Refusal :=
  .next (match s.copies.find? fun c => c.id == copy with
    | some c =>
      if (c.awaitsPage || c.awaitsAck) && decide (c.issued + s.farTimeout c ≤ s.now) then
        s.finishCopy c (some ⟨5, c.farEntry.getD 0⟩)
      else s
    | none => s)

/-- A server refuses, or reports its key absent (R249). -/
def execFarServerRefusal (h : FarHdr) (s : State) : Host.Outcome State Fault Refusal :=
  .next (s.onFar h fun c =>
    if c.awaitsPage || c.awaitsAck then s.finishCopy c (some ⟨4, c.farEntry.getD 0⟩) else s)

/-! ## COLLECTIVE_MESSAGE, COLLECTIVE_TIMEOUT (R247, R248) -/

/-- Another rank's message: it joins its collective, or waits for this rank's COLL of the same number. -/
def execCollectiveMessage (h : Hdr) (comm : Nat) (msg : CollMsg) (s : State) : Host.Outcome State Fault Refusal :=
  .next (match s.commOf h.ctx comm with
    | none => s.drop
    | some m =>
      if !((s.ctx? h.ctx).map fun c => acceptsAt c.commAccept comm h.env).getD false then s.drop
      else if m.p ≤ msg.rank || msg.rank == m.rank then s
      else
        match m.open_.find? fun y => y.k == msg.k with
        | some y =>
          if y.msgs.any fun x => x.rank == msg.rank then s
          else
            let y := { y with msgs := y.msgs ++ [msg] }
            (s.updComm h.ctx comm fun m =>
              { m with open_ := m.open_.map fun (x : Coll) => if x.k == msg.k then y else x }).tryCollective h.ctx comm y
        | none =>
          if msg.k < m.issued || m.early.any (fun x => x.rank == msg.rank && x.k == msg.k) then s
          else s.updComm h.ctx comm fun m => { m with early := m.early ++ [msg] })

/-- The earliest collective of a communicator that has not completed. -/
def State.collCopy (s : State) (ctx comm : Nat) : Option (Copy × Nat) :=
  s.copies.findSome? fun c => match c.kind with
    | .coll n k _ => if c.ctx == ctx && n == comm then some (c, k) else none
    | _ => none

/-- The communicator's earliest collective, number `k`, ends in error (R248): it has passed its timeout, or a rank is lost. On a switch every destination is
unchanged (error 1); on a ring the elements that bursts have written hold their final values and the others their old
ones (error 2). -/
def execCollectiveTimeout (ctx comm k : Nat) (missing : Nat) (lost : Bool) (s : State) : Host.Outcome State Fault Refusal :=
  .next (match s.commOf ctx comm, s.collCopy ctx comm with
    | some m, some (c, first) =>
      if first != k || m.p ≤ missing || !(lost || decide (c.issued + m.timeoutUs * 1000 ≤ s.now)) then s
      else
        match m.open_.find? fun y => y.k == k with
        | some y =>
          (s.updComm ctx comm fun m => { m with open_ := m.open_.filter fun x => x.k != k }).finishCopy c
            (some ⟨if y.ring then 2 else 1, missing⟩)
        | none =>
          if !c.sent then s else s.finishCopy c (some ⟨2, missing⟩)
    | _, _ => s)

end Sys2Proof.Machine
end

