-- ==== Sys2Proof/Machine/Banks.lean ====
section
/-! DEFINITION. What is performed next at a home: the arbiters of scratchpad banks and channel cores (R197, R200, R379), and
the requests that an outbound queue sends again (R220, R227). -/

namespace Sys2Proof.Machine

/-! ## ACCESS_PERFORM (R197, R200, R201) -/

/-- The home serves other requests before an access. -/
def State.yields (s : State) (a : Access) : Bool := s.homeBusy a.loc a.size (a.agedAt, a.core, a.id)

/-- What serving an access moves on: the banks' arbiters and the channel core's count of what passed whom. -/
def State.servedFor (s : State) (a : Access) : State := (s.bankServed a.loc a.size a.core).countPass a

/-- The home performs an access now. -/
def State.perform (s : State) (a : Access) (peer : PeerAnswer) : State := (s.servedFor a).commit a peer.value peer.full peer.mark

/-- A home commits an access (R201), or a peer's word satisfies an AWAIT there. -/
def execAccessPerform (acc : Nat) (peer : PeerAnswer) (s : State) : Host.Outcome State Fault Refusal :=
  .next (match s.accs.find? fun a => a.id == acc with
    | none => s
    | some a => if s.performable a && !s.yields a then s.perform a peer else s.peerWake a peer.value peer.mark)

/-! ## REQUEST_PASS_LIMIT, REQUEST_AGED -/

/-- A channel-core request that 64 later arrivals have passed is performed next (R200). -/
def execRequestPassLimit (acc : Nat) (s : State) : Host.Outcome State Fault Refusal :=
  .next (match s.accs.find? fun a => a.id == acc with
    | none => s
    | some a =>
      if a.channel.isSome && decide (64 ≤ a.passedBy) && s.performable a && !s.yields a then
        s.perform a PeerAnswer.none
      else s)

/-- A core's or a copy engine's scratchpad request has waited 4 cycles (R197); the matrix unit's never age. -/
def execRequestAged (acc : Nat) (s : State) : Host.Outcome State Fault Refusal :=
  .next (
    let old (a : Access) : Access :=
      if a.id == acc && a.phase == .sent && (a.loc.banks a.size).isSome && a.agedAt.isNone && (match a.op with
          | .mst _ => false
          | _ => true) then { a with agedAt := some s.now }
      else a
    let oldCopy (c : Copy) : Copy :=
      if c.id == acc && c.agedAt.isNone && s.copyTurn c then { c with agedAt := some s.now } else c
    { s with accs := s.accs.map old, copies := s.copies.map oldCopy })

/-! ## OUTBOUND_RESEND (R220, R227) -/

/-- The list of a bank or channel core; channels from `peerLists` on stand for those of peers (`Access.listKey`). -/
def UnitId.list : UnitId → Option Nat
  | .bank phys b => some (1024 + phys * 64 + b / 2 * 2)
  | .channel n => if n < 512 || peerList n then some n else none
  | _ => none

/-- The core of a request sends again what it holds for the request's list: the request takes the entry that the core has
been granted, and the later ones stay behind it in the order of issue (R220, R227). -/
def State.resend (s : State) (a : Access) : State :=
  { s with accs := s.accs.map fun (x : Access) =>
      if x.phase == .outbound && x.sameQueue a then { x with phase := .sent, resent := true, granted := x.id == a.id } else x }

/-- A free entry is granted to a requester that holds requests for the list, round-robin, and reserved for it: it sends them
again (R220, R227, R379). -/
def execOutboundResend (u : UnitId) (s : State) : Host.Outcome State Fault Refusal :=
  .next (match UnitId.list u with
    | none => s
    | some key =>
      let held := s.accs.filter fun a => a.phase == .outbound && a.waiter && a.listKey == key && a.loc.present
      if !peerList key && listRoom key ≤ s.waitingAt key then s
      else
        match (roundRobin (s.watchLast.lookup key) (held.map Access.requester)).bind fun c => held.find? fun a => a.requester == c with
        | none => s
        | some a => { s.resend a with watchLast := (key, a.requester) :: s.watchLast.filter (·.1 != key) })

end Sys2Proof.Machine
end

