-- ==== Sys2Proof/Machine/FamilyOps.lean ====
section
/-! DEFINITION. The family instructions (R72 to R82), family control (R272 to R280), EXIT and BREAK (R76, R77, R351),
and YIELD. -/

namespace Sys2Proof.Machine

/-! ## Starting a family (R74, R259, R262, R266) -/

/-- Everything that the creator issued before the start, and what its own start still waits for (R209). -/
def State.issuedBy (s : State) (t : Thread) : List Nat :=
  t.after ++ (s.accs.filter fun a => a.uid == some t.uid).map (·.id) ++ (s.mopsOf t).map (·.id)

/-- How a family's start went. -/
inductive Started where
  /-- members have started, or there are none -/
  | placed
  /-- its first index runs in the creator's slot -/
  | inline
  /-- the creator is held while other clusters are asked -/
  | probing
  deriving DecidableEq, Repr

/-- Inline, or the inline-depth trap (R266). -/
def State.goInline (s : State) (t : Thread) (fam : Nat) : Except Trap (State × Started) :=
  match s.runInline fam t with
  | some s => .ok (s, .inline)
  | none => .error .inlineDepth

/-- Ask for candidate clusters (R262). -/
def State.goProbe (s : State) (fam : Nat) : State :=
  s.updFamily fam fun f => { f with where_ := 3, probe := some ⟨false, [], none, 0⟩ }

/-- Start a reserved family with a body (R74, R259, R260). -/
def State.goFamily (s : State) (t : Thread) (fam : Nat) (body : Word) : Except Trap (State × Started) :=
  match s.family? fam with
  | none => .error (.familyHandle 0)
  | some f =>
    let deps := s.issuedBy t
    let s := { s.updFamily fam fun f => { f with started := true, body := body, ftz := t.ftz, daz := t.daz,
                                                 rm := t.rm, fgo := s.fresh, after := deps, stamp := t.stamp }
               with fresh := s.fresh + 1 }
    let wide := f.placeKind == 2 || f.placeKind == 3
    let inside := !wide || f.inPlace t.lcl
    let delegate := wide && f.delegate && ((s.replayOf? t.group).map fun r => decide (r.stratus = 0)).getD true
    let inlineOnly := f.frame.isSome || f.placeKind == 4 || (!inside && !delegate)
    if !f.has 0 then
      .ok ((s.updFamily fam fun f => { f with where_ := if inlineOnly then 2 else 0 }).finishFamily fam 0
        (some t.stamp), .placed)
    else if inlineOnly then s.goInline t fam
    else if !inside then .ok (s.goProbe fam, .probing)
    else
      let s := (s.updFamily fam fun f => { f with where_ := 0, last := f.beforeHead }).place_ fam
      if ((s.family? fam).map fun f => decide (0 < f.next)).getD false then .ok (s, .placed)
      else if delegate then .ok (s.goProbe fam, .probing)
      else s.goInline t fam

/-- The creator is held at its FGO or CREATE, which has not issued yet (R262). -/
def State.holdCreator (s : State) (t : Thread) (fam : Nat) : State :=
  s.updThread t.uid fun _ => { t with run := .probing fam, wait := none }

/-- The family that a handle register names for the thread (R82, R273); no register names a family whose CREATE had rd
`zero` (R253). A register with a bit of [63:32] set names none: R257 compares the 32 bits of a handle and no rule says
what the upper half does (DESIGN CHOICE, log entry 79). -/
def State.named (s : State) (t : Thread) (h : Word) : Except Trap Family :=
  match s.families.find? fun f => zext64 f.handle == h && f.creator == t.uid && !f.detached && !f.nameless with
  | some f => .ok f
  | none => .error (.familyHandle h)

/-- An instruction on a family that its handle register names. -/
def handleOp (i : Instr) (s : State) (a : IReg) (body : State → Thread → Port → Family → Except Trap State) :
    Host.Outcome State Fault Refusal :=
  attempt i s fun s t p =>
    match s.named t (t.int a) with
    | .error tr => .error tr
    | .ok f => body s t p f

/-- An instruction on a family that has not started (R73, R74, R274). -/
def reservedOp (i : Instr) (s : State) (a : IReg) (body : State → Thread → Port → Family → Except Trap State) :
    Host.Outcome State Fault Refusal :=
  handleOp i s a fun s t p f => if f.started then .error (.familyHandle (t.int a)) else body s t p f

/-! ## Creation (R69 to R74) -/

/-- FALLOC (R72). -/
def execFalloc (d : IReg) (s : State) : Host.Outcome State Fault Refusal :=
  attempt (.falloc d) s fun s t p =>
    if !familyOk (t.ext 2) (t.ext 3) then .error .familyParam
    else
      match s.reserve t with
      | none => .error .inlineDepth
      | some (f, s) => .ok (s.result t p (intResult d (zext64 f.handle)) .alu none)

/-- FGO (R74). -/
def execFgo (a : IReg) (i : BitVec 15) (s : State) : Host.Outcome State Fault Refusal :=
  reservedOp (.fgo a i) s a fun s t _ f =>
    match s.goFamily t f.uid (t.pc + 2 * sext64 i) with
    | .error tr => .error tr
    | .ok (s, .probing) => .ok (s.holdCreator t f.uid)
    | .ok (s, _) => .ok s

/-- The handle of a family whose members run inline is FULL at once, and is forwarded like any first write (R38, R74, R75);
the creator's frame shows it (R266). -/
def State.fillHandle (s : State) (uid : Nat) (d : IReg) (h : BitVec 32) : State :=
  let v : Wide := (zext64 h).setWidth 256
  ((s.updThread uid fun t => t.put (.int d) v).forwardOn uid s.fresh (.int d) v).keepFrame uid

/-- CREATE (R74): FALLOC and FGO in one. Where the family runs inline its handle is FULL when the creator goes on. With
rd `zero` no thread can name the family (R253). -/
def execCreate (d : IReg) (i : BitVec 15) (s : State) : Host.Outcome State Fault Refusal :=
  attempt (.create d i) s fun s t p =>
    if !familyOk (t.ext 2) (t.ext 3) then .error .familyParam
    else
      match s.reserve t with
      | none => .error .inlineDepth
      | some (f, s) =>
        match (s.updFamily f.uid fun f => { f with nameless := d == .zero }).goFamily t f.uid (t.pc + 2 * sext64 i) with
        | .error tr => .error tr
        | .ok (s, .probing) => .ok (s.holdCreator t f.uid)
        | .ok (s, .inline) => .ok (s.fillHandle t.uid d f.handle)
        | .ok (s, .placed) => .ok (s.result t p (intResult d (zext64 f.handle)) .alu none)

/-- FPUT.d (R73). -/
def execFputD (a b : IReg) (i : Fin 4) (s : State) : Host.Outcome State Fault Refusal :=
  reservedOp (.fputD a b i) s a fun s t _ f =>
    if f.shared ≤ i.val then .error .familyParam
    else .ok ((s.updFamily f.uid fun f => { f with dputs := f.dputs.set i.val (t.int b) }).keepRecord f.uid)

/-- FPUT.g (R73). -/
def execFputG (a b : IReg) (i : Fin 8) (s : State) : Host.Outcome State Fault Refusal :=
  reservedOp (.fputG a b i) s a fun s t _ f =>
    if winGlobals f.window ≤ i.val then .error .familyParam
    else .ok ((s.updFamily f.uid fun f => { f with gputs := f.gputs.set i.val (t.int b) }).keepRecord f.uid)

/-! ## Results (R78 to R81) -/

/-- FSYNC (R78). -/
def execFsync (d a : IReg) (s : State) : Host.Outcome State Fault Refusal :=
  handleOp (.fsync d a) s a fun s t p f =>
    match f.status with
    | some v => .ok ((s.result t p (intResult d (BitVec.ofNat 64 v)) .fsync none).carrying f.carry)
    | none => .ok (s.pend t d (.fsync f.uid))

/-- FGET (R79). -/
def execFget (d a : IReg) (i : Fin 4) (s : State) : Host.Outcome State Fault Refusal :=
  handleOp (.fget d a i) s a fun s t p f =>
    if f.shared ≤ i.val then .error .familyParam
    else
      match f.status with
      | some _ => .ok ((s.result t p (intResult d f.out[i.val]) .fget none).carrying f.carry)
      | none => .ok (s.pend t d (.fget f.uid i))

/-- FREL (R80): of a running family, a family-handle trap. An FSYNC or FGET that waits for a reserved family which FREL
releases is never answered, and its rd stays EMPTY: no rule says what becomes of it (DESIGN CHOICE, log entry 80). -/
def execFrel (a : IReg) (s : State) : Host.Outcome State Fault Refusal :=
  handleOp (.frel a) s a fun s t _ f =>
    if f.started && f.status.isNone then .error (.familyHandle (t.int a)) else .ok (s.freeFamily f.uid)

/-- TIX (R81). -/
def execTix (d : IReg) (s : State) : Host.Outcome State Fault Refusal :=
  attempt (.tix d) s fun s t p => .ok (s.result t p (intResult d t.index) .alu none)

/-! ## Control (R274 to R279) -/

/-- FKILL (R276). -/
def execFkill (a : IReg) (s : State) : Host.Outcome State Fault Refusal :=
  handleOp (.fkill a) s a fun s _ _ f => .ok (s.sendKill f.uid false)

/-- FKILL.tree (R277). -/
def execFkillTree (a : IReg) (s : State) : Host.Outcome State Fault Refusal :=
  handleOp (.fkillTree a) s a fun s _ _ f => .ok (s.sendKill f.uid true)

/-- A member below the one whose BREAK decides the family, in a slot or a save record, is still there (R275). -/
def State.belowDecided (s : State) (f : Family) : Bool :=
  match f.decided with
  | none => false
  | some d => (s.threads ++ s.saves.flatMap fun x => x.threads).any fun t =>
      (t.member?.map fun x => x.1 == f.uid && decide (x.2 < d)).getD false

/-- FSTAT's word (R275). -/
def State.statusWord (s : State) (f : Family) : Word :=
  let state := if !f.started then 0 else if f.status.isSome then 2 else if s.belowDecided f then 3 else 1
  BitVec.ofNat 64 ((if f.where_ = 3 then 0 else f.hostLcl % 256) * 2 ^ 32 + min f.next (2 ^ 24 - 1) * 2 ^ 8
    + f.status.getD 0 % 4 * 16 + state * 4 + f.where_ % 4)

/-- FSTAT (R275). -/
def execFstat (d a : IReg) (s : State) : Host.Outcome State Fault Refusal :=
  handleOp (.fstat d a) s a fun s t p f => .ok (s.result t p (intResult d (s.statusWord f)) .alu none)

/-- DETACH (R279). -/
def execDetach (a : IReg) (s : State) : Host.Outcome State Fault Refusal :=
  handleOp (.detach a) s a fun s t _ f =>
    if !f.started then .error (.familyHandle (t.int a))
    else if f.status.isSome then .ok (s.freeFamily f.uid)
    else .ok (s.updFamily f.uid fun f => { f with detached := true })

/-- FPLACE (R274). -/
def execFplace (a b : IReg) (s : State) : Host.Outcome State Fault Refusal :=
  reservedOp (.fplace a b) s a fun s t _ f =>
    if placeOk (t.int b) then .ok ((s.updFamily f.uid fun f => { f with k3 := t.int b }).keepRecord f.uid)
    else .error .familyParam

/-! ## Ending and yielding (R76, R77, R280, R351) -/

/-- EXIT of a thread, or BREAK of one (R76 step 1, R77): a root belongs to no family. -/
def State.startExit (s : State) (t : Thread) (brk : Bool) : State :=
  let out : RunState := if brk then .breaking else .exiting
  let s := s.updThread t.uid fun t => { t with run := t.run.behind fun _ => out, wait := none }
  match brk, t.member? with
  | true, some (fam, m) => s.breakAt fam m
  | _, _ => s

/-- A sequencer run of the thread is in progress, or an inline index runs in its slot. -/
def State.busyElsewhere (s : State) (t : Thread) : Bool :=
  ((s.coreAt t.phys t.core).seqr.any fun r => r.uid == t.uid) || s.hosts t.uid

/-- A served thread is ended as if it had issued EXIT or BREAK itself (R351): while its sequencer run is in progress, that
suspends (R147), and while its slot runs an inline index, it waits for that. -/
def State.exitServed (s : State) (v : Thread) (brk : Bool) : State :=
  let s := s.updThread v.uid fun t => { t with run := t.run.served }
  if s.busyElsewhere v then s.updThread v.uid fun t => { t with run := t.run.behind fun _ => .leaving brk, wait := none }
  else s.startExit v brk

/-- The trap slot is free again after a service that ended its thread. A sequencer run that stands at the trap is abandoned,
and a queued MMA that was refused is dropped: neither could end any more (log entry 97). -/
def CoreSt.leaveServed (k : CoreSt) : CoreSt :=
  match k.serving with
  | none => k
  | some (r, _) =>
    { k with serving := none, seqr := if r.seqr then none else k.seqr, mq := k.mq.filter fun m => r.mop != some m.id }

/-- EXIT or BREAK. In trap service it ends the service, and the trapped thread as if that had issued it (R351). -/
def exitOp (i : Instr) (s : State) (brk : Bool) : Host.Outcome State Fault Refusal :=
  attempt i s fun s t _ =>
    match t.kind with
    | .service of_ =>
      let s := s.updCore t.phys t.core CoreSt.leaveServed
      let s := ((s.updThread t.uid fun t => { t with run := .ended, wait := none }).dropResults t.uid).liftFences
      (match s.thread? of_ with
      | some v => .ok (s.exitServed v brk)
      | none => .ok s)
    | _ => .ok (s.startExit t brk)

/-- EXIT (R76). -/
def execExit (s : State) : Host.Outcome State Fault Refusal := exitOp .exit s false

/-- BREAK (R77). -/
def execBrk (s : State) : Host.Outcome State Fault Refusal := exitOp .brk s true

/-- A slot is ready: its thread is, and no yield of its own is in progress (R280). -/
def State.readySlot (s : State) (t : Thread) : Bool :=
  s.ready t && !(t.yield.any fun u => ((s.thread? u).map s.ready).getD false)

/-- YIELD (R280): not ready until every other slot that is ready now has issued once or has stopped being ready. -/
def execYield (s : State) : Host.Outcome State Fault Refusal :=
  attempt .yield s fun s t _ =>
    let others := (s.onCore t.phys t.core).filter fun x => x.uid != t.uid && s.readySlot x
    .ok (s.updThread t.uid fun t => { t with yield := others.map (·.uid) })

end Sys2Proof.Machine
end

