-- ==== Sys2Proof/Machine/Delegation.lean ====
section
/-! DEFINITION. Delegation of a family to another cluster (R262, R263). -/

namespace Sys2Proof.Machine

/-- Insert a candidate: descending spare count, then ascending logical number (R262). -/
def insertSpare (x : Nat × Nat) : List (Nat × Nat) → List (Nat × Nat)
  | [] => [x]
  | y :: ys => if y.2 < x.2 || (y.2 == x.2 && x.1 < y.1) then x :: y :: ys else y :: insertSpare x ys

/-- The first four candidates of a summary: cluster and spare count (R262). -/
def State.candidates (s : State) (f : Family) (spare : List (Nat × Nat)) : List Nat :=
  let allot := ((s.ctx? f.ctx).map (·.allot)).getD []
  let ok := spare.filter fun x => f.inPlace x.1 && allot.contains x.1 && x.1 != f.lcl && decide (1 ≤ x.2)
  ((ok.foldr insertSpare []).map (·.1)).dedup.take 4

/-- The thread is held at the start of the family (R262). -/
def Thread.probes (t : Thread) (fam : Nat) : Bool := t.run.base == .probing fam

/-- The held FGO or CREATE completes (R74): the creator goes past it; CREATE's handle register takes the handle. -/
def State.passStart (s : State) (t : Thread) (f : Family) (inline : Bool) : State :=
  let go (t : Thread) : Thread :=
    { t with pc := t.pc + 4, bpSkip := none
             run := if inline then t.run else t.run.behind fun _ => .running }
  match s.fetchWord t.graph t.pc with
  | .ok _ (.create d _) =>
    let s := s.updThread t.uid fun t => { (go t).owe (.int d) with creations := t.creations + 1 }
    if inline then s.fillHandle t.uid d f.handle
    else s.result t ⟨t.uid, ⟨false, 0⟩, none, false⟩ [(.int d, (zext64 f.handle).setWidth 256)] .alu none
  | _ => (s.updThread t.uid go).keepFrame t.uid

/-- How far a reservation advanced its core's creation count: by one, and by one for each value that it skipped (R257). -/
def Family.advance (f : Family) : Nat := (f.handle.toNat % 2048 + 2047 - f.prior % 2048) % 2048 + 1

/-- A CREATE that traps after its probe has created nothing: its family is gone, and its core's creation count no longer holds
its advance (R72, log entry 28). -/
def State.undoCreate (s : State) (f : Family) : State :=
  (s.updCore f.phys f.core fun k => { k with count := k.count - f.advance }).freeFamily f.uid

/-- The slot of a creator that was ended while its family was probed is free. -/
def State.offerEnded (s : State) (t : Thread) : State := if t.live then s else s.offerSlot t.phys t.core t.slot none

/-- No cluster took the family: it runs inline, in the slot that its creator held even where the creator has been ended
meanwhile, or its start traps (R262, R266, R277). A family that has been killed starts no member. -/
def State.probeFails (s : State) (f : Family) : State :=
  match s.thread? f.creator with
  | none => s.freeFamily f.uid
  | some t =>
    if f.killed then
      let s := s.updFamily f.uid fun f => { f with probe := none }
      (if t.probes f.uid then s.passStart t f false else s.offerEnded t).tryFinish f.uid none
    else
      match s.runInline f.uid t with
      | some s => if t.probes f.uid then s.passStart t f true else s
      | none =>
        if !t.probes f.uid then (s.freeFamily f.uid).offerEnded t
        else
          let s := match s.fetchWord t.graph t.pc with
            | .ok _ (.create _ _) => s.undoCreate f
            | _ => (s.updFamily f.uid fun f => { f with started := false, probe := none, where_ := 3 }).keepRecord f.uid
          s.takeTrap t ⟨t.uid, ⟨false, 0⟩, none, false⟩ .inlineDepth

/-- The spare slots of every logical cluster as they stand now (R256). -/
def State.spareNow (s : State) : List (Nat × Nat) :=
  (List.range 256).filterMap fun l => (s.physOf l).map fun p => (l, s.spareSlots p)

/-- The launch unit takes its free-slot summary, or answers from the one it took within the last 1 µs (R262). -/
def execDelegationCandidates (fam : Nat) (take : Bool) (s : State) : Host.Outcome State Fault Refusal :=
  .next (
    if take then { s with summary := s.spareNow, summaryAt := some s.now }
    else if !((s.summaryAt.map fun a => decide (s.now ≤ a + 1000)).getD false) then s
    else
      match s.family? fam with
      | none => s
      | some f =>
        match f.probe with
        | some p =>
          if p.answered then s
          else
            let cs := s.candidates f s.summary
            if cs.isEmpty then s.probeFails f
            else s.updFamily fam fun f => { f with probe := some ⟨true, cs, none, 0⟩ }
        | none => s)

/-- A cluster can take a member of a delegated family (R262, R289, R357); a context that is frozen or suspended meanwhile takes
no further cluster (R360, R368). -/
def State.mayHost (s : State) (ctx lcl phys : Nat) : Bool :=
  let k := s.clusterAt phys
  ((s.ctx? ctx).map (·.active)).getD false && !k.fenced && !k.fencing && !k.stopped && s.lclClear phys lcl && (k.ctx.isNone || k.ctx == some ctx) && !s.savedOn ctx lcl
    && decide (0 < s.spareSlots phys) && (List.range 8).any fun c => (s.freeSlot phys c).isSome

/-- A probed cluster accepts and places the family, or refuses (R262). -/
def execDelegationProbe (fam : Nat) (s : State) : Host.Outcome State Fault Refusal :=
  .next (match s.family? fam with
    | none => s
    | some f =>
      match f.probe with
      | some ⟨true, l :: rest, none, n⟩ =>
        (match s.physOf l with
        | some phys =>
          if s.mayHost f.ctx l phys && !f.killed then
            let s := s.takeCluster f.ctx phys (s.clusterAt phys).lcl
            (s.updFamily fam fun f =>
              { f with hostPhys := phys, hostLcl := l, where_ := 1, spare := true, last := 7
                       probe := some ⟨true, l :: rest, some (l, true), n⟩ }).place_ fam
          else s.updFamily fam fun f => { f with probe := some ⟨true, l :: rest, some (l, false), n⟩ }
        | none => s.updFamily fam fun f => { f with probe := some ⟨true, l :: rest, some (l, false), n⟩ })
      | _ => s)

/-- A probe's answer reaches the creating cluster (R262). -/
def execProbeReply (fam : Nat) (s : State) : Host.Outcome State Fault Refusal :=
  .next (match s.family? fam with
    | none => s
    | some f =>
      match f.probe with
      | some ⟨true, _ :: rest, some (_, ok), n⟩ =>
        if ok then
          let s := s.updFamily fam fun f => { f with probe := none }
          (match s.thread? f.creator with
          | some t =>
            if t.probes fam then (s.passStart t f false).tryFinish fam none
            else (s.offerEnded t).tryFinish fam none
          | none => s.tryFinish fam none)
        else if rest.isEmpty then s.probeFails f
        else s.updFamily fam fun f => { f with probe := some ⟨true, rest, none, n + 1⟩ }
      | _ => s)

end Sys2Proof.Machine
end

