-- ==== Sys2Proof/Machine/Members.lean ====
section
/-! DEFINITION. Forwards, terminations and kills on their way (R75 to R77, R264 to R267, R276 to R278). -/

namespace Sys2Proof.Machine

/-- A forward reaches the member above, the home entry, or the family's outputs (R264, R265). -/
def State.arriveForward (s : State) (f : Fwd) : State :=
  s.sendForward f.fam f.m f.reg f.value f.stamp

/-- A forward arrives; one for a saved cluster is held (R357). -/
def execForwardArrival (fwd : Nat) (s : State) : Host.Outcome State Fault Refusal :=
  .next (match s.fwds.find? fun f => f.id == fwd with
    | none => s
    | some f =>
      if s.fwdHeld f || ((s.family? f.fam).map fun x => decide (256 ≤ x.hostPhys)).getD false then s
      else
        { s with fwds := s.fwds.filter (·.id != fwd) }.arriveForward f)

/-- What a thread's end still waits for has happened (R76 steps 2, 3 and 6, R77, R276). -/
def State.mayEnd (s : State) (t : Thread) : Bool :=
  match t.run with
  | .passing => t.sharedRegs.all fun i => s.passable t i
  | .ended => s.drained t && !s.hosts t.uid
  | _ => false

/-- An exiting or breaking thread whose accesses have been performed takes steps 3 to 5 of R76; one that its trap service has
ended starts its EXIT or BREAK once nothing of it runs elsewhere (R147, R351). -/
def State.pass (s : State) (t : Thread) : State :=
  match t.run with
  | .leaving brk => if s.busyElsewhere t then s else s.startExit t brk
  | _ => if (t.run == .exiting || t.run == .breaking) && s.drained t then s.beginPassing t else s

/-- A thread that passes its values on, or that was ended, goes (R76 steps 6 and 7, R276). -/
def State.leave (s : State) (t : Thread) : State :=
  if !s.mayEnd t then s
  else
    match t.run, t.member? with
    | .ended, _ | _, none => s.finishThread t
    | _, some (fam, m) => (s.passThrough t fam m).finishThread t

/-- An exiting, breaking or ended thread goes (R76, R77, R276). -/
def execThreadTermination (uid : Nat) (s : State) : Host.Outcome State Fault Refusal :=
  .next (match s.thread? uid with
    | none => s
    | some t =>
      let s := s.pass t
      match s.thread? uid with
      | none => s
      | some t => s.leave t)

/-- A kill takes effect where the family's members run; one for a saved cluster is held (R276, R357). -/
def execFkillArrival (kill : Nat) (s : State) : Host.Outcome State Fault Refusal :=
  .next (match s.kills.find? fun k => k.id == kill with
    | none => s
    | some k =>
      if ((s.family? k.fam).map fun f => decide (256 ≤ f.hostPhys)).getD false then s
      else
        { s with kills := s.kills.filter (·.id != kill) }.killFamily k.tree (s.families.length + 1) k.fam)

end Sys2Proof.Machine
end

