-- ==== Sys2Proof/Machine/Traps.lean ====
section
/-! DEFINITION. Trap service (R344, R345, R377), and what a trap service or a save waits for (R45, R356). -/

namespace Sys2Proof.Machine

/-! ## Bounded writes (R45, R344) -/

/-- A producer that R45 calls unbounded in time. -/
def Prod.unbounded : Prod → Bool
  | .fsync | .fget | .tagwait | .await_ | .fe | .vown | .mwait => true
  | _ => false

/-- A forward that has left for member `m` of a family is in flight. -/
def State.fwdTo (s : State) (t : Thread) : Bool :=
  match t.member? with
  | some (fam, m) => s.fwds.any fun f => f.fam == fam && f.m + 1 == m && !s.fwdHeld f
  | none => false

/-- Every register write whose producer is bounded has arrived (R45). -/
def State.writesArrived (s : State) (t : Thread) : Bool :=
  !(s.arrivals.any fun a => a.uid == t.uid && !a.prod.unbounded) && !s.fwdTo t
    && !(s.pends.any fun p => p.uid == t.uid && (match p.op with
      | .take _ | .takeArm _ _ _ _ _ => true
      | _ => false))

/-- An AWAIT, or a full/empty request that waits at its home or in the outbound queue: it may stay outstanding (R213, R220). -/
def Access.mayStay (a : Access) : Bool :=
  match a.op with
  | .await _ _ _ => true
  | .ldfe _ _ | .stfe _ | .feinit _ => a.phase == .waiting || a.held
  | _ => false

/-- Every access of the thread has been performed, its publications included (R299), but for those that may stay (R344, R378). -/
def State.accessesDone (s : State) (t : Thread) : Bool :=
  (s.ownAccs t.uid).all Access.mayStay && s.pubs.all fun p => p.uid != some t.uid

/-! ## TRAP_SERVICE_START (R344, R345) -/

/-- Window and address of a TRAP_VEC. -/
def vecWindow (v : Word) : BitVec 16 := bits v 18 16
def vecAddr (v : Word) : Word := zext64 (bits v 0 18)

/-- The graph of the context whose `.text` holds the service body; none where the trap is unserved (R345). -/
def State.serviceGraph (s : State) (c : Context) : Option Graph :=
  let a := vecAddr c.trapVec
  if a == 0 || a.getLsbD 0 || !windowOk (vecWindow c.trapVec) then none
  else s.graphs.find? fun g => g.ctx == c.id && s.inText g.id a.toNat

/-- The trap service thread of a trapped thread (R344, R39, R377). It starts with the trapped thread's stamp: R312 has no row for
it (DESIGN CHOICE, log entry 103). -/
def State.serviceThread (s : State) (c : Context) (g : Graph) (v : Thread) : Thread :=
  let t0 := Thread.blank s.fresh (.service v.uid) v.ctx v.group g.id v.phys v.lcl v.core 63
  let t : Thread :=
    { t0 with delegated := v.delegated, window := vecWindow c.trapVec, pc := vecAddr c.trapVec,
              handle := engineId 9 v.lcore, stamp := v.stamp }
  { (t.setFpWord c.fpCtl).zeros with flags := 0 }

/-- The trap slot takes the head of the queue once what the thread issued before its trap has drained; an unserved trap
is fatal with its own code. -/
def execTrapServiceStart (phys c : Nat) (s : State) : Host.Outcome State Fault Refusal :=
  let k := s.coreAt phys c
  .next (match k.trapQ, k.serving with
    | r :: rest, none =>
      (match s.thread? r.uid with
      | none => s.setCore { k with trapQ := rest }
      | some v =>
        if !v.live then s.setCore { k with trapQ := rest }
        else if (s.clusterAt phys).stopped || !s.writesArrived v || !s.accessesDone v then s
        else
          match s.ctx? v.ctx with
          | none => s
          | some x =>
            match s.serviceGraph x with
            | none => s.threadContextFault v r.code r.addr r.data r.info
            | some g =>
              let t := s.serviceThread x g v
              { s.setCore { k with trapQ := rest, serving := some (r, t.uid) } with
                threads := s.threads ++ [t]
                fresh := s.fresh + 1 })
    | _, _ => s)

end Sys2Proof.Machine
end

