-- ==== Sys2Proof/Machine/Preempt.lean ====
section
/-! DEFINITION. Pre-emption, saving and restoring a cluster (R182, R291, R292, R356 to R360). What stands on a saved
cluster is numbered as if it stood on a physical cluster of its own, 256 + 256 · context + logical cluster, where no
access is performed and no message is delivered. -/

namespace Sys2Proof.Machine

/-! ## Drain (R356 step 2) -/

/-- The place lies in a cluster's scratchpad. -/
def Loc.onSpad (l : Loc) (phys : Nat) : Bool :=
  match l with
  | .spad p _ => p == phys
  | _ => false

/-- The place lies in a cluster's scratchpad or TCMs. -/
def Loc.onCluster (l : Loc) (phys : Nat) : Bool :=
  match l with
  | .spad p _ | .tcm p _ _ => p == phys
  | _ => false

/-- A copy reads or writes a cluster's scratchpad, whatever part of it has been done (R251). -/
def Copy.touches (c : Copy) (phys : Nat) : Bool := c.plan.any fun u => u.1.onSpad phys || u.2.any fun l => l.onSpad phys

/-- The replays whose groups stand on a saved cluster, its retained allotments included, run in stratus mode. -/
def State.savedStratus (s : State) (ctx lcl : Nat) : Bool :=
  s.groups.any fun g => g.ctx == ctx && g.phys == 256 + 256 * ctx + lcl
    && ((s.replay? g.replay).map fun r => decide (r.stratus ≠ 0)).getD false

/-- A place on a saved cluster that comes back only after `phys` has been saved: both are logical clusters of that one host
(R182), or the context is being suspended whole (R360). -/
def State.afterSave (s : State) (phys : Nat) (l : Loc) : Bool :=
  match l with
  | .spad p _ | .tcm p _ _ =>
    decide (256 ≤ p) && (match s.ctx? ((p - 256) / 256) with
      | some c => c.suspended || (s.savedStratus c.id (p % 256) && s.hostOf c (p % 256) == some phys)
      | none => false)
  | _ => false

/-- A copy has done everything that it does on a cluster, and waits at its engine for one that comes back only after this one
has been saved (R182, R357, R360). -/
def State.parked (s : State) (c : Copy) (phys : Nat) : Bool :=
  (c.units.zipIdx.all fun u => u.1.2.isEmpty
    || ((c.got.lookup u.2).isSome || !u.1.1.onSpad phys) && !(u.1.2.any fun l => l.onSpad phys))
    && c.units.any fun u => u.2.any fun l => s.afterSave phys l

/-- An access waits in its core's outbound queue for a cluster that comes back only after this one has been saved. -/
def State.waitsBeyond (s : State) (phys : Nat) (a : Access) : Bool := a.phase == .away && s.afterSave phys a.loc

/-- Everything of R356 step 2 has happened on a cluster, and no probe of its threads is in progress (R262, R320). An access or
a copy that can not go on before this cluster has been saved does not hold the save (R182, R360, log entry 83). -/
def State.clusterDrained (s : State) (phys : Nat) : Bool :=
  let ts := s.threads.filter fun t => t.phys == phys
  let beyond (t : Thread) : Nat := (s.accs.filter fun a => a.red && a.uid == some t.uid && s.waitsBeyond phys a).length
  (ts.all fun t => s.writesArrived t && t.reds == beyond t)
    && !(s.families.any fun f => f.phys == phys && f.probe.isSome)
    && (s.accs.all fun a => a.peer.isSome || a.phys != phys || a.mayStay || s.waitsBeyond phys a)
    && (s.pubs.all fun p => p.stale || ts.all fun t => p.uid != some t.uid)
    && (s.clusterAt phys).array.isNone && !(s.copies.any fun c => c.touches phys && !s.parked c phys)

/-- No group of the cluster is on its way to it. -/
def State.settledGroups (s : State) (phys : Nat) : Bool := !(s.groups.any fun g => g.phys == phys && g.st == .placed)

/-! ## Where a saved cluster's things stand -/

def savedPhys (ctx lcl : Nat) : Nat := 256 + 256 * ctx + lcl

/-- The same byte on another cluster. -/
def Loc.move (from_ to_ : Nat) (l : Loc) : Loc :=
  match l with
  | .spad p off => .spad (if p = from_ then to_ else p) off
  | .tcm p c off => .tcm (if p = from_ then to_ else p) c off
  | _ => l

def movePhys (from_ to_ p : Nat) : Nat := if p = from_ then to_ else p

/-- The places of an operation's operands move with it. -/
def MKind.move (from_ to_ : Nat) : MKind → MKind
  | .mma n a b sa sb =>
    let f (l : Option Loc) := l.map (Loc.move from_ to_)
    .mma n (a.map f) (b.map f) (sa.map f) (sb.map f)
  | .mz n => .mz n
  | .mst n dst d draws => .mst n (dst.map (Loc.move from_ to_)) d draws

/-- A queued MMA has its translations obtained again (R174). -/
def MOp.putAway (m : MOp) : MOp :=
  match m.kind with
  | .mma _ _ _ _ _ => { m with stage := .stale, pages := [], got := [] }
  | _ => m

/-- An access to a cluster that goes away waits in its core's outbound queue, and is sent again when the cluster is back
(R357). -/
def Access.follow (a : Access) (to_ : Nat) : Access :=
  if a.loc.onCluster to_ then
    if 256 ≤ to_ then (if a.phase == .sent then { a with phase := .away } else a)
    else if a.phase == .away then { a with phase := .sent } else a
  else a

/-- Groups, families, accesses and copies that name a cluster name another one from now on. -/
def State.moveCluster (s : State) (from_ to_ : Nat) : State :=
  let f := movePhys from_ to_
  { s with
    groups := s.groups.map fun (g : Group) => { g with phys := f g.phys }
    families := s.families.map fun (x : Family) => { x with phys := f x.phys, hostPhys := f x.hostPhys }
    accs := s.accs.map fun (a : Access) => if a.peer.isSome then a
      else ({ a with phys := f a.phys, loc := a.loc.move from_ to_ } : Access).follow to_
    copies := s.copies.map fun (c : Copy) =>
      { c with phys := f c.phys
               plan := c.plan.map fun u => (u.1.move from_ to_, u.2.map (Loc.move from_ to_))
               units := c.units.map fun u => (u.1.move from_ to_, u.2.map (Loc.move from_ to_)) } }

/-! ## PREEMPTION_SAVE (R356 steps 3 and 4) -/

/-- Bytes, FULL granules and poisoned words of a cluster's scratchpad and TCMs. -/
def clusterBytes (m : List Host.Cell) (phys : Nat) : List Host.Cell :=
  Mem.slice m (Loc.spad phys 0).key (2 ^ 21) ++ Mem.slice m (Loc.tcm phys 0 0).key (2 ^ 20)

def inCluster (phys w : Nat) : Bool :=
  (decide ((Loc.spad phys 0).key ≤ 8 * w) && decide (8 * w < (Loc.spad phys 0).key + 2 ^ 21))
    || (decide ((Loc.tcm phys 0 0).key ≤ 8 * w) && decide (8 * w < (Loc.tcm phys 0 0).key + 2 ^ 20)) || onGranules phys w

/-- Bytes of a save record (R356). -/
def recordSize : Nat := 0x364000

/-- A saved cluster's record holds a byte of HBM. -/
def SaveRec.holds (x : SaveRec) (pa : Nat) : Bool := decide (x.base ≤ pa) && decide (pa < x.base + recordSize)

/-- Physical address of the n-th record: they stand one after the other in the device regions, die 0's first (R325; DESIGN
CHOICE, log entry 108). -/
def State.recordAt (s : State) (n : Nat) : Nat :=
  let per := s.cfg.deviceRegion / recordSize
  if n < per then 0x6000000000 - s.cfg.deviceRegion + n * recordSize
  else 0xC000000000 - s.cfg.deviceRegion + (n - per) * recordSize

/-- The lowest place of a record that no saved cluster has. -/
def State.freeRecord (s : State) : Nat :=
  let free (n : Nat) : Bool := !(s.saves.any fun x => x.base == s.recordAt n)
  s.recordAt ((firstFrom free (s.saves.length + 1) 0).getD s.saves.length)

/-- The bytes of a tile from an offset of the record on; none where it is zero. -/
def tileCells (base at_ : Nat) (v : BitVec 16384) : List Host.Cell :=
  if v = 0 then [] else (List.range 2048).map fun i => (base + at_ + i, (v >>> (8 * i)).setWidth 8)

/-- One bit per granule, from an offset of the record on. -/
def granuleCells (base at_ phys : Nat) (full : List Nat) : List Host.Cell :=
  let mine := (full.filter fun g => g / 131072 == phys).map fun g => g % 131072
  ((mine.map fun g => g / 8).dedup).map fun b =>
    (base + at_ + b, BitVec.ofNat 8 ((mine.filter fun g => g / 8 == b).map fun g => 2 ^ (g % 8)).sum)

/-- Write what R356 and R44 lay out of a cluster's record: its slot frames, accumulators, granule states, TCMs and scratchpad.
The bytes of the areas whose inside no rule lays out stay as they are (log entry 108); all of the record is sound again (R363). -/
def State.writeRecord (s : State) (phys base : Nat) : State :=
  let area (m : List Host.Cell) (key size at_ : Nat) : List Host.Cell :=
    Mem.setCells (Mem.clear m (base + at_) size) ((Mem.slice m key size).map fun b => (b.1 - key + base + at_, b.2))
  let m := area s.mem (Loc.tcm phys 0 0).key 0x100000 0x64000
  let m := area m (Loc.spad phys 0).key 0x200000 0x164000
  let m := Mem.setCells (Mem.clear m (base + 0x51000) 0x8000) ((List.range 8).flatMap fun c =>
    let k := s.coreAt phys c
    tileCells base (0x51000 + 4096 * c) k.acc0 ++ tileCells base (0x51000 + 4096 * c + 2048) k.acc1)
  let m := Mem.setCells (Mem.clear m (base + 0x5A000) 0x4000) (granuleCells base 0x5A000 phys s.granules)
  let frames := (List.range 8).flatMap fun c => (List.range 64).filterMap fun n => (s.inSlot phys c n).map fun t =>
    (0x1000 + (64 * c + n) * 576, s.frameBytes t)
  { s with mem := frames.foldl (fun m x => Mem.setBytes m (base + x.1) x.2) m
           poison := s.poison.filter fun w => !(decide (base ≤ 8 * w) && decide (8 * w < base + recordSize)) }

/-- Write a cluster's save record, and clear what it leaves behind. A yield in progress is not saved (R280), nor is an
address phase that waited for room (R159, R237). -/
def State.saveCluster (s : State) (ctx phys lcl : Nat) : State :=
  let to_ := savedPhys ctx lcl
  let mine := s.threads.filter fun t => t.phys == phys
  let r : SaveRec :=
    { ctx := ctx, lcl := lcl, phys := phys
      threads := mine.map fun (t : Thread) => { t with phys := to_, yield := [], kept := none }
      cores := (s.cores.filter fun k => k.phys == phys).map fun (k : CoreSt) =>
        { k with phys := to_, streams := k.streams.map fun st => { st with since := none }, mq := k.mq.map fun m => { m.putAway with kind := m.kind.move phys to_ } }
      cells := clusterBytes s.mem phys
      full := s.granules.filter fun g => g / 131072 == phys
      poison := s.poison.filter (inCluster phys)
      base := s.freeRecord
      upset := false }
  let s := s.writeRecord phys r.base
  let s := { s with
    threads := s.threads.filter fun t => t.phys != phys
    saves := s.saves ++ [r]
    groups := s.groups.map fun (g : Group) => if g.phys == phys && g.st == GroupSt.running then { g with st := GroupSt.saved } else g }
  ((s.moveCluster phys to_).clearCluster phys).updCluster phys fun k =>
    { k with ctx := none, stopped := false, saving := false }

/-- The suspend request is answered when no cluster of the context is left (R360). -/
def State.suspendDone (s : State) (ctx : Nat) : State :=
  match s.ctx? ctx with
  | some c =>
    if s.clusters.any fun k => k.ctx == some ctx then s
    else c.suspendReq.foldl (fun s h => s.send (.reply h 0x1A 0 [])) (s.updCtx ctx fun c => { c with suspendReq := [] })
  | none => s

/-- A cluster that was stopped for it, and has drained, is saved and released; one on which nothing is left is released
only. A fault that freezes the context meanwhile does not end the save (R360). -/
def execPreemptionSave (phys : Nat) (s : State) : Host.Outcome State Fault Refusal :=
  let k := s.clusterAt phys
  .next (match k.ctx with
    | none => s
    | some c =>
      if !k.stopped || !k.saving || !s.clusterDrained phys || !s.settledGroups phys then s
      else
        match s.standingLcl phys with
        | none => (s.updCluster phys fun k => { k with ctx := none, stopped := false, saving := false }).suspendDone c
        | some l => (s.saveCluster c phys l).suspendDone c)

/-! ## RESTORE (R359, R292) -/

/-- Nothing stands on a cluster, and a context may take it. -/
def State.canRestoreOn (s : State) (ctx phys : Nat) : Bool :=
  let k := s.clusterAt phys
  !k.fenced && !k.fencing && !k.stopped && (k.ctx.isNone || k.ctx == some ctx)
    && !(s.groups.any fun g => g.phys == phys) && !(s.threads.any fun t => t.phys == phys)

/-- The physical cluster that a saved one is restored on: its own in the map, its host in stratus mode, or another of the
allotment where its own has been fenced. -/
def State.restorePlace (s : State) (c : Context) (x : SaveRec) : Option Nat :=
  let p := if s.savedStratus x.ctx x.lcl then
      (s.hostOf c x.lcl).filter fun p => s.hostNext c p == some x.lcl
    else (s.physOf x.lcl) <|> (s.hosts_ c).find? (s.canRestoreOn c.id)
  p.filter (s.canRestoreOn c.id)

/-- Keys of a cluster's bytes and words on another cluster. -/
def moveKey (from_ to_ key : Nat) : Nat :=
  if key < 2 ^ 42 then key - from_ * 2 ^ 21 + to_ * 2 ^ 21
  else if key < 2 ^ 43 then key - from_ * 2 ^ 20 + to_ * 2 ^ 20
  else key - granuleKey from_ 0 + granuleKey to_ 0

/-- The results and forwards that waited for a cluster's threads are delivered (R357, R359). -/
def State.deliverHeld (s : State) (phys : Nat) : State :=
  let on (uid : Nat) : Bool := ((s.thread? uid).map fun t => t.phys == phys).getD false
  let s := (s.arrivals.filter fun r => on r.uid).foldl
    (fun s r => ({ s with arrivals := s.arrivals.filter fun x => x.id != r.id }.acknowledged r.seq).land r) s
  (s.fwds.filter fun f => ((s.family? f.fam).map fun x => x.hostPhys == phys).getD false && !s.fwdHeld f).foldl
    (fun s f => { s with fwds := s.fwds.filter fun x => x.id != f.id }.arriveForward f) s

/-- The accesses through cluster space that waited for a cluster are performed, in the order of their issue (R357, R359). -/
def State.performHeld (s : State) (ids : List Nat) : State :=
  ids.foldl (fun s id => match s.accs.find? fun a => a.id == id with
    | some a => if s.performable a then s.perform a PeerAnswer.none else s
    | none => s) s

/-- The writes that copies have waited to make on a cluster, their values being there, are made (R357, R359). -/
def State.writeHeld (s : State) (phys : Nat) : State :=
  s.copies.foldl (fun s c =>
    let due := (c.units.zipIdx.filter fun u => c.has u.2 && u.1.2.any fun l => l.onCluster phys).map (·.2)
    if due.isEmpty then s else (due.foldl (fun s i => s.moveUnit c.id i 0 0) s).afterBurst c.id) s

/-- Apply the kills that were held for a cluster before any member issues (R278). -/
def State.applyKills (s : State) (phys : Nat) : State :=
  (s.kills.filter fun k => ((s.family? k.fam).map fun f => f.hostPhys == phys).getD false).foldl
    (fun s k => { s with kills := s.kills.filter fun x => x.id != k.id }.killFamily k.tree (s.families.length + 1) k.fam) s

/-- Write a save record back on a physical cluster (R359): its arbiters start again (R379), its quantum starts afresh, and in
the same step what waited for it is delivered, the accesses and writes that waited are made, the kills held for it are
applied, and a WAITK whose copies have completed meanwhile ends its wait (R318). An uncorrectable error of the record is met
now (R363). -/
def State.restoreOn (s : State) (c : Context) (x : SaveRec) (phys : Nat) : State :=
  let from_ := savedPhys x.ctx x.lcl
  let stratus := s.savedStratus x.ctx x.lcl
  let away := (s.accs.filter fun a => a.phase == .away && a.loc.onCluster from_).map (·.id)
  let s := { s with saves := s.saves.filter fun y => !(y.ctx == x.ctx && y.lcl == x.lcl) }
  let s := if x.upset then s.unitFault x.ctx none 0x48 moduleId else s
  let s := (s.takeCluster c.id phys (if stratus then some x.lcl else none)).clearCluster phys
  let s := s.updCluster phys fun k => { k with quantum := s.now, slice := s.now, array := none, mlast := 7, blast := Vector.replicate 64 8 }
  let s := s.moveCluster from_ phys
  let s := { s with
    mem := Mem.setCells s.mem (x.cells.map fun (b : Host.Cell) => (moveKey x.phys phys b.1, b.2))
    granules := x.full.foldl (fun gs g => insertSorted (g - x.phys * 131072 + phys * 131072) gs) s.granules
    poison := s.poison ++ (x.poison.map fun w => moveKey x.phys phys (8 * w) / 8)
    threads := s.threads ++ (x.threads.map fun (t : Thread) => { t with phys := phys })
    cores := (s.cores.filter fun (k : CoreSt) => k.phys != phys) ++ (x.cores.map fun (k : CoreSt) =>
      { k with phys := phys, last := 63, mq := k.mq.map fun (m : MOp) => { m with kind := m.kind.move from_ phys } })
    groups := s.groups.map fun (g : Group) =>
      if g.phys == phys && g.st == GroupSt.saved then { g with st := GroupSt.running } else g }
  let s := ((((s.deliverHeld phys).performHeld away).writeHeld phys).applyKills phys)
  x.threads.foldl (fun s t => s.endWaitk t.uid) s

/-- A saved cluster is restored. -/
def execRestore (ctx lcl : Nat) (s : State) : Host.Outcome State Fault Refusal :=
  .next (match s.ctx? ctx, s.saves.find? fun x => x.ctx == ctx && x.lcl == lcl with
    | some c, some x =>
      if !c.active then s
      else
        match s.restorePlace c x with
        | some p => s.restoreOn c x p
        | none => s
    | _, _ => s)

/-! ## QUANTUM_EXPIRY (R291) -/

/-- The state with a cluster's groups and threads removed. -/
def State.vacate (s : State) (phys : Nat) : State :=
  { s with groups := s.groups.filter fun g => g.phys != phys
           threads := s.threads.filter fun t => t.phys != phys }.updCluster phys fun k => { k with ctx := none }

/-- A ready group of a context that fits nowhere, and would fit on the cluster if it were vacated. A saved group that waits for
its restore counts as one: R292 sets it before any other ready group (DESIGN CHOICE, log entry 99). -/
def State.wantsCluster (s : State) (c : Context) (phys : Nat) : Bool :=
  let v := s.vacate phys
  c.active && ((s.saves.any fun x => x.ctx == c.id && (s.restorePlace c x).isNone && v.restorePlace c x == some phys)
    || s.replays.any fun r => r.ctx == c.id && (match s.graph? r.graph with
    | some g => (List.range g.kernels.length).any fun kern => (match g.kernels[kern]? with
      | some k => (firstFrom (fun lin => s.isReady r kern lin && (s.spotFor c r k kern lin).isNone
          && ((v.spotFor c r k kern lin).map (·.phys)) == some phys) k.grid 0).isSome
      | none => false)
    | none => false))

/-- A cluster's quantum ends: it is stopped, to be saved, where a group of another context at the same level or above
waits for it, and its timer starts again otherwise. -/
def execQuantumExpiry (phys : Nat) (s : State) : Host.Outcome State Fault Refusal :=
  let k := s.clusterAt phys
  .next (match k.ctx.bind s.ctx? with
    | none => s
    | some c =>
      if k.stopped || c.freeze.isSome || s.now < k.quantum + s.cfg.quantumUs * 1000 then s
      else if s.ctxs.any fun x => x.id != c.id && decide (c.prio ≤ x.prio) && s.wantsCluster x phys then
        s.updCluster phys fun k => { k with stopped := true, saving := true }
      else s.updCluster phys fun k => { k with quantum := s.now })

/-! ## HOSTING_SLICE_EXPIRY (R182) -/

/-- A hosting slice of 500 µs ends: the host is stopped, to be saved, where another of its logical clusters has work. -/
def execHostingSliceExpiry (phys : Nat) (s : State) : Host.Outcome State Fault Refusal :=
  let k := s.clusterAt phys
  .next (match k.ctx.bind s.ctx?, k.lcl with
    | some c, some l =>
      if k.stopped || c.freeze.isSome || s.now < k.slice + 500000 then s
      else if (s.hostWork c phys).any fun x => x != l then
        s.updCluster phys fun k => { k with stopped := true, saving := true }
      else s.updCluster phys fun k => { k with slice := s.now }
    | _, _ => s)

end Sys2Proof.Machine
end

