-- ==== Sys2Proof/Machine/Vector.lean ====
section
/-! DEFINITION. Wide instructions (R137 to R144): lane arithmetic, compares, selects, shuffles, reductions, scans,
conversions, and lane moves. -/

namespace Sys2Proof.Machine

/-! ## Shared forms -/

/-- A wide result from flagged lanes of a format: all lanes delivered together with the OR of their flags (R137). -/
def vecOp (i : Instr) (s : State) (d : WReg) (f : Fmt) (g : Thread → List Flagged) : Host.Outcome State Fault Refusal :=
  attempt i s fun s t p =>
    let r := collect (g t)
    .ok (s.result t p [(.wide d, ofLanes f.width r.1)] .alu (if f.isFloat then some r.2 else none))

/-- Lane by lane over two sources. -/
def lanes2 (f : Fmt) (op : Nat → Nat → Flagged) (x y : Wide) : List Flagged :=
  (lanesOf f.width x).zipWith op (lanesOf f.width y)

/-- Lane by lane over one source. -/
def lanes1 (f : Fmt) (op : Nat → Flagged) (x : Wide) : List Flagged := (lanesOf f.width x).map op

/-- Lanes without flags. -/
def quiet (vs : List Nat) : List Flagged := vs.map fun v => (v, 0)

/-- An integer function of two lanes, its low bits kept. -/
def intLanes (f : Fmt) (g : Int → Int → Int) (a b : Nat) : Flagged := (wrap f.width (g (intVal f a) (intVal f b)), 0)

/-! ## Lane operations (R137) -/

def laneAdd (f : Fmt) (v : FEnv) (a b : Nat) : Flagged := if f.isInt then intLanes f (· + ·) a b else fAdd f v a b
def laneSub (f : Fmt) (v : FEnv) (a b : Nat) : Flagged := if f.isInt then intLanes f (· - ·) a b else fSub f v a b
def laneMul (f : Fmt) (v : FEnv) (a b : Nat) : Flagged := if f.isInt then intLanes f (· * ·) a b else fMul f v a b

def laneFma (f : Fmt) (v : FEnv) (a b c : Nat) : Flagged :=
  if f.isInt then (wrap f.width (intVal f a * intVal f b + intVal f c), 0) else fFma f v a b c

def laneMin (f : Fmt) (v : FEnv) (a b : Nat) : Flagged :=
  if f.isInt then intLanes f min a b else (fMinMax f v false a b, 0)
def laneMax (f : Fmt) (v : FEnv) (a b : Nat) : Flagged :=
  if f.isInt then intLanes f max a b else (fMinMax f v true a b, 0)

def laneDiv (f : Fmt) (v : FEnv) (a b : Nat) : Flagged := if f.isInt then (divLane f a b, 0) else fDiv f v a b

def laneAbs (f : Fmt) (a : Nat) : Flagged :=
  if f.isInt then (wrap f.width (intVal f a).natAbs, 0) else (fAbs f a, 0)
def laneNeg (f : Fmt) (a : Nat) : Flagged := if f.isInt then (wrap f.width (-(intVal f a)), 0) else (fNeg f a, 0)

/-- Upper half of a double-width product (R137). -/
def laneMulh (f : Fmt) (a b : Nat) : Flagged := (wrap f.width (intVal f a * intVal f b / 2 ^ f.width), 0)

/-! ## Arithmetic group, major 0x60 (R137) -/

/-- VADD (R137). -/
def execVadd (d a b : WReg) (f : Fmt) (s : State) : Host.Outcome State Fault Refusal :=
  vecOp (.vadd d a b f) s d f fun t => lanes2 f (laneAdd f t.fenv) (t.wide a) (t.wide b)

/-- VSUB (R137). -/
def execVsub (d a b : WReg) (f : Fmt) (s : State) : Host.Outcome State Fault Refusal :=
  vecOp (.vsub d a b f) s d f fun t => lanes2 f (laneSub f t.fenv) (t.wide a) (t.wide b)

/-- VMUL (R137). -/
def execVmul (d a b : WReg) (f : Fmt) (s : State) : Host.Outcome State Fault Refusal :=
  vecOp (.vmul d a b f) s d f fun t => lanes2 f (laneMul f t.fenv) (t.wide a) (t.wide b)

/-- VMIN (R137). -/
def execVmin (d a b : WReg) (f : Fmt) (s : State) : Host.Outcome State Fault Refusal :=
  vecOp (.vmin d a b f) s d f fun t => lanes2 f (laneMin f t.fenv) (t.wide a) (t.wide b)

/-- VMAX (R137). -/
def execVmax (d a b : WReg) (f : Fmt) (s : State) : Host.Outcome State Fault Refusal :=
  vecOp (.vmax d a b f) s d f fun t => lanes2 f (laneMax f t.fenv) (t.wide a) (t.wide b)

/-- VDIV (R137). -/
def execVdiv (d a b : WReg) (f : Fmt) (s : State) : Host.Outcome State Fault Refusal :=
  vecOp (.vdiv d a b f) s d f fun t => lanes2 f (laneDiv f t.fenv) (t.wide a) (t.wide b)

/-- VFMA (R137): wa × wb + wd. -/
def execVfma (d a b : WReg) (f : Fmt) (s : State) : Host.Outcome State Fault Refusal :=
  vecOp (.vfma d a b f) s d f fun t =>
    ((lanesOf f.width (t.wide a)).zip (lanesOf f.width (t.wide b))).zipWith
      (fun ab c => laneFma f t.fenv ab.1 ab.2 c) (lanesOf f.width (t.wide d))

/-- VADDS (R137). -/
def execVadds (d a b : WReg) (f : Fmt) (s : State) : Host.Outcome State Fault Refusal :=
  vecOp (.vadds d a b f) s d f fun t => lanes2 f (fun x y => (wrap f.width (clampInt f (intVal f x + intVal f y)), 0)) (t.wide a) (t.wide b)

/-- VSUBS (R137). -/
def execVsubs (d a b : WReg) (f : Fmt) (s : State) : Host.Outcome State Fault Refusal :=
  vecOp (.vsubs d a b f) s d f fun t => lanes2 f (fun x y => (wrap f.width (clampInt f (intVal f x - intVal f y)), 0)) (t.wide a) (t.wide b)

/-- VAND (R137). -/
def execVand (d a b : WReg) (f : Fmt) (s : State) : Host.Outcome State Fault Refusal :=
  vecOp (.vand d a b f) s d f fun t => lanes2 f (fun x y => (x &&& y, 0)) (t.wide a) (t.wide b)

/-- VOR (R137). -/
def execVor (d a b : WReg) (f : Fmt) (s : State) : Host.Outcome State Fault Refusal :=
  vecOp (.vor d a b f) s d f fun t => lanes2 f (fun x y => (x ||| y, 0)) (t.wide a) (t.wide b)

/-- VXOR (R137). -/
def execVxor (d a b : WReg) (f : Fmt) (s : State) : Host.Outcome State Fault Refusal :=
  vecOp (.vxor d a b f) s d f fun t => lanes2 f (fun x y => (x ^^^ y, 0)) (t.wide a) (t.wide b)

/-- VSLL (R137). -/
def execVsll (d a b : WReg) (f : Fmt) (s : State) : Host.Outcome State Fault Refusal :=
  vecOp (.vsll d a b f) s d f fun t => lanes2 f (fun x y => (x * 2 ^ shiftCount f y, 0)) (t.wide a) (t.wide b)

/-- VSRL (R137). -/
def execVsrl (d a b : WReg) (f : Fmt) (s : State) : Host.Outcome State Fault Refusal :=
  vecOp (.vsrl d a b f) s d f fun t => lanes2 f (fun x y => (x / 2 ^ shiftCount f y, 0)) (t.wide a) (t.wide b)

/-- An arithmetic shift right of a lane, signed whatever the format's code (R110). -/
def laneSra (f : Fmt) (x y : Nat) : Flagged :=
  let v : Int := if 2 ^ (f.width - 1) ≤ x then (x : Int) - 2 ^ f.width else x
  (wrap f.width (v / 2 ^ shiftCount f y), 0)

/-- VSRA (R137). -/
def execVsra (d a b : WReg) (f : Fmt) (s : State) : Host.Outcome State Fault Refusal :=
  vecOp (.vsra d a b f) s d f fun t => lanes2 f (laneSra f) (t.wide a) (t.wide b)

/-- VMULH (R137). -/
def execVmulh (d a b : WReg) (f : Fmt) (s : State) : Host.Outcome State Fault Refusal :=
  vecOp (.vmulh d a b f) s d f fun t => lanes2 f (laneMulh f) (t.wide a) (t.wide b)

/-- VSQRT (R137). -/
def execVsqrt (d a : WReg) (f : Fmt) (s : State) : Host.Outcome State Fault Refusal :=
  vecOp (.vsqrt d a f) s d f fun t => lanes1 f (fSqrt f t.fenv) (t.wide a)

/-- VABS (R137). -/
def execVabs (d a : WReg) (f : Fmt) (s : State) : Host.Outcome State Fault Refusal :=
  vecOp (.vabs d a f) s d f fun t => lanes1 f (laneAbs f) (t.wide a)

/-- VNEG (R137). -/
def execVneg (d a : WReg) (f : Fmt) (s : State) : Host.Outcome State Fault Refusal :=
  vecOp (.vneg d a f) s d f fun t => lanes1 f (laneNeg f) (t.wide a)

/-! ## Compare and select, major 0x61 (R138) -/

/-- A lane of all ones where the condition holds, with the flag that R134 sets. -/
def laneCmp (f : Fmt) (v : FEnv) (c : FCond) (a b : Nat) : Flagged :=
  if f.isInt then
    let x := intVal f a
    let y := intVal f b
    let r := match c with
      | .eq => x == y
      | .ne => x != y
      | .lt => decide (x < y)
      | .le => decide (x ≤ y)
      | .gt => decide (y < x)
      | .ge => decide (y ≤ x)
      | .un => false
      | .ord => true
    (if r then 2 ^ f.width - 1 else 0, 0)
  else
    let r := fCmp f v c a b
    (if r.1 then 2 ^ f.width - 1 else 0, r.2)

/-- VCMP.eq (R138). -/
def execVcmpEq (d a b : WReg) (f : Fmt) (s : State) : Host.Outcome State Fault Refusal :=
  vecOp (.vcmpEq d a b f) s d f fun t => lanes2 f (laneCmp f t.fenv .eq) (t.wide a) (t.wide b)

/-- VCMP.ne (R138). -/
def execVcmpNe (d a b : WReg) (f : Fmt) (s : State) : Host.Outcome State Fault Refusal :=
  vecOp (.vcmpNe d a b f) s d f fun t => lanes2 f (laneCmp f t.fenv .ne) (t.wide a) (t.wide b)

/-- VCMP.lt (R138). -/
def execVcmpLt (d a b : WReg) (f : Fmt) (s : State) : Host.Outcome State Fault Refusal :=
  vecOp (.vcmpLt d a b f) s d f fun t => lanes2 f (laneCmp f t.fenv .lt) (t.wide a) (t.wide b)

/-- VCMP.le (R138). -/
def execVcmpLe (d a b : WReg) (f : Fmt) (s : State) : Host.Outcome State Fault Refusal :=
  vecOp (.vcmpLe d a b f) s d f fun t => lanes2 f (laneCmp f t.fenv .le) (t.wide a) (t.wide b)

/-- VCMP.un (R138). -/
def execVcmpUn (d a b : WReg) (f : Fmt) (s : State) : Host.Outcome State Fault Refusal :=
  vecOp (.vcmpUn d a b f) s d f fun t => lanes2 f (laneCmp f t.fenv .un) (t.wide a) (t.wide b)

/-- VSEL (R138): wa where the old wd is non-zero, else wb; it sets no flag. -/
def execVsel (d a b : WReg) (f : Fmt) (s : State) : Host.Outcome State Fault Refusal :=
  vecOp (.vsel d a b f) s d f fun t =>
    quiet (((lanesOf f.width (t.wide a)).zip (lanesOf f.width (t.wide b))).zipWith
      (fun ab m => if m ≠ 0 then ab.1 else ab.2) (lanesOf f.width (t.wide d)))

/-! ## Shuffles, major 0x62 (R139) -/

/-- Interleave two lists. -/
def interleave : List Nat → List Nat → List Nat
  | x :: xs, y :: ys => x :: y :: interleave xs ys
  | _, _ => []

/-- Every second element, from the first on. -/
def evens : List Nat → List Nat
  | x :: _ :: rest => x :: evens rest
  | l => l

/-- A shuffle copies lanes of a width. -/
def shuffleOp (i : Instr) (s : State) (d a b : WReg) (f : Fmt) (g : List Nat → List Nat → List Nat) :
    Host.Outcome State Fault Refusal :=
  vecOp i s d f fun t => quiet (g (lanesOf f.width (t.wide a)) (lanesOf f.width (t.wide b)))

/-- VPERM (R139). -/
def execVperm (d a b : WReg) (f : Fmt) (s : State) : Host.Outcome State Fault Refusal :=
  shuffleOp (.vperm d a b f) s d a b f (fun x y => y.map fun k => x.getD (k % f.lanes) 0)

/-- VZIPL (R139). -/
def execVzipl (d a b : WReg) (f : Fmt) (s : State) : Host.Outcome State Fault Refusal :=
  shuffleOp (.vzipl d a b f) s d a b f (fun x y => interleave (x.take (f.lanes / 2)) (y.take (f.lanes / 2)))

/-- VZIPH (R139). -/
def execVziph (d a b : WReg) (f : Fmt) (s : State) : Host.Outcome State Fault Refusal :=
  shuffleOp (.vziph d a b f) s d a b f (fun x y => interleave (x.drop (f.lanes / 2)) (y.drop (f.lanes / 2)))

/-- VUNZIPL (R139). -/
def execVunzipl (d a b : WReg) (f : Fmt) (s : State) : Host.Outcome State Fault Refusal :=
  shuffleOp (.vunzipl d a b f) s d a b f (fun x y => evens (x ++ y))

/-- VUNZIPH (R139). -/
def execVunziph (d a b : WReg) (f : Fmt) (s : State) : Host.Outcome State Fault Refusal :=
  shuffleOp (.vunziph d a b f) s d a b f (fun x y => evens ((x ++ y).drop 1))

/-! ## Reductions, major 0x63 (R140) -/

/-- Combine adjacent pairs. -/
def pairUp (op : Nat → Nat → Flagged) : List Nat → List Flagged
  | x :: y :: rest => op x y :: pairUp op rest
  | _ => []

/-- The tree of adjacent pairs, for at most 2^n lanes. -/
def reduceTree (op : Nat → Nat → Flagged) : Nat → List Nat → FFlags → Flagged
  | 0, xs, f => (xs.headD 0, f)
  | n + 1, xs, f =>
    if xs.length ≤ 1 then (xs.headD 0, f)
    else
      let r := collect (pairUp op xs)
      reduceTree op n r.1 (f ||| r.2)

/-- A reduction into lane 0; every other lane is zero. -/
def reduceOp (i : Instr) (s : State) (d a : WReg) (f : Fmt) (op : Thread → Nat → Nat → Flagged) :
    Host.Outcome State Fault Refusal :=
  vecOp i s d f fun t =>
    reduceTree (op t) 6 (lanesOf f.width (t.wide a)) 0 :: List.replicate (f.lanes - 1) (0, 0)

/-- VREDADD (R140). -/
def execVredadd (d a : WReg) (f : Fmt) (s : State) : Host.Outcome State Fault Refusal :=
  reduceOp (.vredadd d a f) s d a f (fun t => laneAdd f t.fenv)

/-- VREDMIN (R140). -/
def execVredmin (d a : WReg) (f : Fmt) (s : State) : Host.Outcome State Fault Refusal :=
  reduceOp (.vredmin d a f) s d a f (fun t => laneMin f t.fenv)

/-- VREDMAX (R140). -/
def execVredmax (d a : WReg) (f : Fmt) (s : State) : Host.Outcome State Fault Refusal :=
  reduceOp (.vredmax d a f) s d a f (fun t => laneMax f t.fenv)

/-- VREDAND (R140). -/
def execVredand (d a : WReg) (f : Fmt) (s : State) : Host.Outcome State Fault Refusal :=
  reduceOp (.vredand d a f) s d a f (fun _ x y => (x &&& y, 0))

/-- VREDOR (R140). -/
def execVredor (d a : WReg) (f : Fmt) (s : State) : Host.Outcome State Fault Refusal :=
  reduceOp (.vredor d a f) s d a f (fun _ x y => (x ||| y, 0))

/-- VREDXOR (R140). -/
def execVredxor (d a : WReg) (f : Fmt) (s : State) : Host.Outcome State Fault Refusal :=
  reduceOp (.vredxor d a f) s d a f (fun _ x y => (x ^^^ y, 0))

/-! ## Scans, major 0x64 (R141) -/

/-- The result of a head lane of an inclusive scan: its source as DAZ leaves it (R121), a NaN as the canonical one (R114), and
of an addition a subnormal as FTZ leaves it (R122, log entry 91). -/
def headLane (f : Fmt) (v : FEnv) (add : Bool) (x : Nat) : Flagged :=
  if f.isInt then (x, 0)
  else
    let y := daz f v x
    if isNaN f y then (canonNaN f, 0)
    else if add && v.ftz && isSubnormal f y then (withSign f (decide (signBit f ≤ y)) 0, fUnderflow ||| fInexact)
    else (y, 0)

/-- Inclusive: `prev` is the lane before, none at lane 0; `head` the result of a lane that begins a segment. -/
def scanInc (op : Nat → Nat → Flagged) (head : Nat → Flagged) : Option Nat → List (Nat × Nat) → List Flagged
  | _, [] => []
  | prev, (x, h) :: rest =>
    let r : Flagged := match prev with
      | some y => if h = 0 then op y x else head x
      | none => head x
    r :: scanInc op head (some r.1) rest

/-- Exclusive: `prev` is the result and the source of the lane before, none at lane 0. -/
def scanExc (op : Nat → Nat → Flagged) (unit_ : Nat) : Option (Nat × Nat) → List (Nat × Nat) → List Flagged
  | _, [] => []
  | prev, (x, h) :: rest =>
    let r : Flagged := match prev with
      | some (y, z) => if h = 0 then op y z else (unit_, 0)
      | none => (unit_, 0)
    r :: scanExc op unit_ (some (r.1, x)) rest

/-- Identity of min: the largest value, +∞ for floats. -/
def topOf (f : Fmt) : Nat := if f.isInt then wrap f.width (intMax f) else infBits f
/-- Identity of max: the smallest value, −∞ for floats. -/
def bottomOf (f : Fmt) : Nat := if f.isInt then wrap f.width (intMin f) else withSign f true (infBits f)

/-- A scan; `unit_` is none for the inclusive kind, `add` says that it adds. -/
def scanOp (i : Instr) (s : State) (d a b : WReg) (f : Fmt) (add : Bool) (unit_ : Option Nat) (op : Thread → Nat → Nat → Flagged) :
    Host.Outcome State Fault Refusal :=
  vecOp i s d f fun t =>
    let xs := (lanesOf f.width (t.wide a)).zip (lanesOf f.width (t.wide b))
    match unit_ with
    | none => scanInc (op t) (headLane f t.fenv add) none xs
    | some u => scanExc (op t) u none xs

/-- VSCAN.add.inc (R141). -/
def execVscanAddInc (d a b : WReg) (f : Fmt) (s : State) : Host.Outcome State Fault Refusal :=
  scanOp (.vscanAddInc d a b f) s d a b f true none fun t => laneAdd f t.fenv

/-- VSCAN.add.exc (R141). -/
def execVscanAddExc (d a b : WReg) (f : Fmt) (s : State) : Host.Outcome State Fault Refusal :=
  scanOp (.vscanAddExc d a b f) s d a b f true (some 0) fun t => laneAdd f t.fenv

/-- VSCAN.min.inc (R141). -/
def execVscanMinInc (d a b : WReg) (f : Fmt) (s : State) : Host.Outcome State Fault Refusal :=
  scanOp (.vscanMinInc d a b f) s d a b f false none fun t => laneMin f t.fenv

/-- VSCAN.min.exc (R141). -/
def execVscanMinExc (d a b : WReg) (f : Fmt) (s : State) : Host.Outcome State Fault Refusal :=
  scanOp (.vscanMinExc d a b f) s d a b f false (some (topOf f)) fun t => laneMin f t.fenv

/-- VSCAN.max.inc (R141). -/
def execVscanMaxInc (d a b : WReg) (f : Fmt) (s : State) : Host.Outcome State Fault Refusal :=
  scanOp (.vscanMaxInc d a b f) s d a b f false none fun t => laneMax f t.fenv

/-- VSCAN.max.exc (R141). -/
def execVscanMaxExc (d a b : WReg) (f : Fmt) (s : State) : Host.Outcome State Fault Refusal :=
  scanOp (.vscanMaxExc d a b f) s d a b f false (some (bottomOf f)) fun t => laneMax f t.fenv

/-! ## VCVT, major 0x65 (R142) -/

/-- Converted elements of a source, from lane `from_` on, with the draws that `.sr` takes in lane order. -/
def cvtLanes (t : Thread) (src dst : Fmt) (m : CvtMode) (x : Wide) (from_ n : Nat) : List Flagged :=
  (List.range n).map fun i => convert src dst m t.fenv (t.draw i) (lane src.width x (from_ + i))

/-- Elements that a VCVT writes. -/
def vcvtCount (src dst : Fmt) : Nat := min src.lanes dst.lanes

/-- The destination's lanes: every one of them when widening, one part of the old ones when narrowing. -/
def vcvtLanes (t : Thread) (d a : WReg) (q : Nat) (src dst : Fmt) (m : CvtMode) : List Flagged :=
  if dst.lanes ≤ src.lanes then cvtLanes t src dst m (t.wide a) (q * dst.lanes) dst.lanes
  else
    let old := quiet (lanesOf dst.width (t.wide d))
    old.take (q * src.lanes) ++ cvtLanes t src dst m (t.wide a) 0 src.lanes ++ old.drop ((q + 1) * src.lanes)

/-- VCVT (R142). -/
def execVcvt (d a : WReg) (q : Fin 8) (dst : Fmt) (m : CvtMode) (src : Fmt) (s : State) :
    Host.Outcome State Fault Refusal :=
  attempt (.vcvt d a q dst m src) s fun s t p =>
    let r := collect (vcvtLanes t d a q.val src dst m)
    let s := if m = .sr then s.takeDraws t.uid (vcvtCount src dst) else s
    .ok (s.result t p [(.wide d, ofLanes dst.width r.1)] .alu (some r.2))

/-! ## Lane moves, major 0x66 (R143) -/

/-- Bits of a lane. -/
def laneBits : LaneW → Nat
  | .b => 8
  | .h => 16
  | .w => 32
  | .d => 64

/-- The index register modulo the lane count. -/
def laneIndex (w : LaneW) (b : Word) : Nat := b.toNat % (256 / laneBits w)

/-- VGET (R143). -/
def execVget (d : IReg) (a : WReg) (b : IReg) (w : LaneW) (s : State) : Host.Outcome State Fault Refusal :=
  attempt (.vget d a b w) s fun s t p =>
    .ok (s.result t p [(.int d, BitVec.ofNat 256 (lane (laneBits w) (t.wide a) (laneIndex w (t.int b))))] .alu none)

/-- VPUT (R143). -/
def execVput (d : WReg) (a b : IReg) (w : LaneW) (s : State) : Host.Outcome State Fault Refusal :=
  attempt (.vput d a b w) s fun s t p =>
    let ls := (lanesOf (laneBits w) (t.wide d)).set (laneIndex w (t.int b)) (t.int a).toNat
    .ok (s.result t p [(.wide d, ofLanes (laneBits w) ls)] .alu none)

/-- VBCAST (R143). -/
def execVbcast (d : WReg) (a : IReg) (w : LaneW) (s : State) : Host.Outcome State Fault Refusal :=
  attempt (.vbcast d a w) s fun s t p =>
    let ls := List.replicate (256 / laneBits w) (t.int a).toNat
    .ok (s.result t p [(.wide d, ofLanes (laneBits w) ls)] .alu none)

end Sys2Proof.Machine
end

