-- ==== Sys2Proof/Machine/StreamUnits.lean ====
section
/-! DEFINITION. What the stream units and the vector sequencer do on their own: fetches ahead of the pops (R151, R152, R310)
and the issue of body instructions (R146 to R148). -/

namespace Sys2Proof.Machine

/-! ## STREAM_FETCH (R151, R152) -/

/-- A pop that finds its element not arrived is late; it is counted once (R310). -/
def State.markLate (s : State) (t : Thread) (o : Operand) : State :=
  match o with
  | .wide w =>
    (match s.binding t w with
    | .input u st =>
      if st.late then s else (s.updStream t u fun st => { st with late := true }).countStream t.ctx t.lcore u .late 1
    | _ => s)
  | _ => s

/-- The fetch of the next element of a unit: its configuration and element number, where the unit may fetch one. -/
def Stream.nextFetch (st : Stream) : Option ((Word × Word × Word × Word) × Nat) :=
  match st.cfg, st.bound with
  | some c, some _ =>
    let e := st.pos + st.fifo.length
    if !streamOut c && st.fault.isNone && decide (st.fifo.length < 16) && decide (e < streamTotal c) then some (c, e) else none
  | _, _ => none

/-- Engine id of a stream unit (R314). -/
def streamId (t : Thread) (u : Fin 4) : BitVec 32 := engineId 8 (4 * t.lcore + u.val)

/-- A fetched element arrives: a pop that has waited for it is over, with its record (R313). -/
def State.elementArrives (s : State) (t : Thread) (u : Fin 4) (v : Wide) : State :=
  let st := (s.coreAt t.phys t.core).streams[u.val]
  let late := st.late && st.fifo.isEmpty
  let s := s.updStream t u fun st => { st with fifo := st.fifo ++ [v], late := false }
  let s := s.countStream t.ctx t.lcore u .fetched 1
  if late then
    (s.endThreadWait t.uid (streamId t u) 13 st.stamp).updThread t.uid fun t =>
      { t with wait := if t.wait == st.bound.map fun w => .operand (.wide ⟨w.val, by omega⟩) then none else t.wait }
  else s

/-- A stream unit fetches its next element; a fault is recorded against the element (R152). `peer`: what a peer answers. -/
def execStreamFetch (phys c : Nat) (u : Fin 4) (peer : Wide) (s : State) : Host.Outcome State Fault Refusal :=
  .next (
    let k := s.coreAt phys c
    match k.streams[u.val].nextFetch, k.owner.bind s.thread? with
    | some (cfg, e), some t =>
      if (s.clusterAt phys).stopped then s
      else
        let st := k.streams[u.val]
        match s.resolve t.issuer .plain (streamAddr cfg e) 32 false false false with
        | (.error tr, s) => s.updStream t u fun st => { st with fault := some ⟨tr.code, tr.info, tr.data⟩ }
        | (.ok (.peer id off), s) => (s.send (.peerAccess t.ctx id off 32 (.load .zx (.int .zero)) (st.stamp.mark (streamId t u) t.lcore))).elementArrives t u peer
        | (.ok .nowhere, s) => s.unitFault t.ctx ((s.group? t.group).map (·.replay)) 0x43 (engineId 2 0)
        | (.ok l, s') =>
          if !l.present then s
          else if s.homeBusy l 32 (st.aged s.now, c, 0) then
            s.updStream t u fun st => { st with since := some ((st.since.map (·.1)).getD s.now, l) }
          else
            let r := ((s'.bankServed l 32 c).passAll l).homeRead l 32 t.ctx (some t.group) (some t)
            (r.2.updStream t u fun st => { st with since := none }).elementArrives t u (BitVec.ofNat 256 r.1)
    | _, _ => s)

/-! ## SEQUENCER_ISSUE (R146 to R148) -/

/-- The meaning of a body instruction, the issue port naming the run's owner; anything else is no body instruction. -/
def bodyMeaning (i : Instr) (s : State) : Host.Outcome State Fault Refusal :=
  match i with
  | .vadd a b c d => execVadd a b c d s
  | .vsub a b c d => execVsub a b c d s
  | .vmul a b c d => execVmul a b c d s
  | .vfma a b c d => execVfma a b c d s
  | .vmin a b c d => execVmin a b c d s
  | .vmax a b c d => execVmax a b c d s
  | .vadds a b c d => execVadds a b c d s
  | .vsubs a b c d => execVsubs a b c d s
  | .vand a b c d => execVand a b c d s
  | .vor a b c d => execVor a b c d s
  | .vxor a b c d => execVxor a b c d s
  | .vsll a b c d => execVsll a b c d s
  | .vsrl a b c d => execVsrl a b c d s
  | .vsra a b c d => execVsra a b c d s
  | .vdiv a b c d => execVdiv a b c d s
  | .vsqrt a b c => execVsqrt a b c s
  | .vabs a b c => execVabs a b c s
  | .vneg a b c => execVneg a b c s
  | .vmulh a b c d => execVmulh a b c d s
  | .vcmpEq a b c d => execVcmpEq a b c d s
  | .vcmpNe a b c d => execVcmpNe a b c d s
  | .vcmpLt a b c d => execVcmpLt a b c d s
  | .vcmpLe a b c d => execVcmpLe a b c d s
  | .vcmpUn a b c d => execVcmpUn a b c d s
  | .vsel a b c d => execVsel a b c d s
  | .vperm a b c d => execVperm a b c d s
  | .vzipl a b c d => execVzipl a b c d s
  | .vziph a b c d => execVziph a b c d s
  | .vunzipl a b c d => execVunzipl a b c d s
  | .vunziph a b c d => execVunziph a b c d s
  | .vredadd a b c => execVredadd a b c s
  | .vredmin a b c => execVredmin a b c s
  | .vredmax a b c => execVredmax a b c s
  | .vredand a b c => execVredand a b c s
  | .vredor a b c => execVredor a b c s
  | .vredxor a b c => execVredxor a b c s
  | .vscanAddInc a b c d => execVscanAddInc a b c d s
  | .vscanAddExc a b c d => execVscanAddExc a b c d s
  | .vscanMinInc a b c d => execVscanMinInc a b c d s
  | .vscanMinExc a b c d => execVscanMinExc a b c d s
  | .vscanMaxInc a b c d => execVscanMaxInc a b c d s
  | .vscanMaxExc a b c d => execVscanMaxExc a b c d s
  | .vcvt a b c d e f => execVcvt a b c d e f s
  | _ => match s.port, s.port.bind fun p => s.thread? p.uid with
    | some p, some t => .next (s.takeTrap t p .illegal)
    | _, _ => .next s

/-- The sequencer may issue for a run: it stands neither at a trap nor at its end, and the cluster runs. -/
def State.runReady (s : State) (k : CoreSt) (r : SeqRun) : Bool :=
  !r.stopped && !r.abandoned && r.left != 0 && !(s.clusterAt k.phys).stopped

/-- The sequencer has issued, and so taken the wide datapath for this cycle, unless it stands at a trap (R144, R147). -/
def State.takeWide (s : State) (phys c : Nat) (v : Verdict) : State :=
  if (v == .go || v == .skip) && !((s.coreAt phys c).seqr.any fun r => r.stopped) then
    s.updCore phys c fun k => { k with wideBusy := true }
  else s

/-- The sequencer attempts its next body instruction, one in a cycle (R147). A pop that must wait is marked late; the frame
of an owner whose slot runs an inline index shows what it now owes (R266). -/
def execSequencerIssue (phys c : Nat) (s : State) : Host.Outcome State Fault Refusal :=
  let k := s.coreAt phys c
  match k.seqr, k.seqr.bind fun r => s.thread? r.uid with
  | some r, some t =>
    if !s.runReady k r || k.wideBusy then .next s
    else
      let p : Port := ⟨t.uid, ⟨false, 0⟩, none, true⟩
      if s.codeBad t.phys r.addr.toNat 4 then .next (s.chargeCode t)
      else
      (match s.fetchWord t.graph r.addr with
      | .bad d => .next ({ s with port := some p }.takeTrap t p (.plain 0x01 d))
      | .illegal => .next ({ s with port := some p }.takeTrap t p .illegal)
      | .ok g i =>
        let p := { p with guard := g }
        let v := s.verdict t p i
        let s := match v with
          | .wait (.operand o) => s.markLate t o
          | _ => s
        match bodyMeaning i { s with port := some p } with
        | .next s => .next (((s.keepFrame t.uid).endRun phys c).takeWide phys c v)
        | x => x)
  | _, _ => .next s

end Sys2Proof.Machine
end

