-- ==== Sys2Proof/Machine/System.lean ====
section
/-! DEFINITION. The system registers (R343 to R350), shootdowns (R331), MARK, RDCYC
and ERET (R351, R354, R355). -/

namespace Sys2Proof.Machine

/-! ## The trap record (R343, R349) -/

/-- The trap that a thread serves. -/
def State.served (s : State) (t : Thread) : Option TrapRec :=
  match (s.coreAt t.phys t.core).serving with
  | some (r, svc) => if svc = t.uid then some r else none
  | none => none

/-- The thread that a trap service thread serves. -/
def State.victim (s : State) (t : Thread) : Option Thread := (s.served t).bind fun r => s.thread? r.uid

/-- SEQ_STATE, for trap service of a sequencer trap (R349). -/
def State.seqState (s : State) (t : Thread) : Word :=
  match s.served t, (s.coreAt t.phys t.core).seqr with
  | some r, some q =>
    if r.seqr then
      BitVec.ofNat 64 ((if q.stopped && !q.abandoned then 2 ^ 26 else 0) + q.pos % 16 * 2 ^ 22 + q.n.val * 2 ^ 18)
        + zext64 (bits q.vloop 0 18)
    else 0
  | _, _ => 0

/-! ## The census counters (R308 to R311) -/

/-- The counter that CENSUS_SEL names (R311). -/
def censusCounter (c : Census) (sel : Nat) : Word :=
  if h : sel < 6 then c.cls[sel]
  else if h : 8 ≤ sel ∧ sel < 15 then c.hist[sel - 8]
  else if h : 16 ≤ sel ∧ sel < 36 then c.streams[sel - 16]
  else 0

/-! ## SYSR and SYSW (R348 to R350) -/

/-- The value of a system register for a thread (R348). -/
def State.sysValue (s : State) (t : Thread) (n : SysReg) : Word :=
  let rec_ (f : TrapRec → Word) : Word := ((s.served t).map f).getD 0
  let ctx (f : Context → Word) : Word := ((s.ctx? t.ctx).map f).getD 0
  match n with
  | .trapCause => rec_ fun r => BitVec.ofNat 64 (r.code % 256 + (if r.seqr then 256 else 0)
      + if r.deferred.isSome then 512 else 0)
  | .trapAddr => rec_ (·.addr)
  | .trapWord => rec_ (·.word)
  | .trapData => rec_ (·.data)
  | .trapInfo => rec_ (·.info)
  | .trapHandle => ((s.victim t).map fun v => zext64 v.handle + BitVec.ofNat 64 (v.slot % 64 * 2 ^ 32)).getD 0
  | .trapVec => ctx (·.trapVec)
  | .seqState => s.seqState t
  | .seqCount => ((s.coreAt t.phys t.core).seqr.map (·.left)).getD 0
  | .fpCtl => ctx fun c => zext64 c.fpCtl
  | .jobSeed => ctx (·.jobSeed)
  | .stratusCtl => ctx (·.stratusCtl)
  | .sumStatus => ctx fun c => zext64 c.sumStatus
  | .contrailBase => ctx (·.contrailBase)
  | .contrailCtl => ctx (·.contrailCtl)
  | .tlbShoot => 0
  | .devTime => BitVec.ofNat 64 s.now
  | .ctxId => BitVec.ofNat 64 (t.ctx % 64)
  | .censusSel => ctx fun c => zext64 c.censusSel
  | .censusVal => censusCounter (s.censusOf t.ctx t.lcore) (ctx fun c => zext64 c.censusSel).toNat
  | .censusCtl => 0
  | .frame k => ((s.victim t).map fun v => s.frameWord v k.val).getD 0

/-- SYSR (R350). -/
def execSysr (d : IReg) (n : SysReg) (s : State) : Host.Outcome State Fault Refusal :=
  attempt (.sysr d n) s fun s t p => .ok (s.result t p (intResult d (s.sysValue t n)) .alu none)

/-- SYSW of a register without a behaviour of its own (R345, R348, R350): RO registers stay, reserved bits are
ignored. -/
def execSysw (a : IReg) (n : SysReg) (s : State) : Host.Outcome State Fault Refusal :=
  attempt (.sysw a n) s fun s t _ =>
    match n with
    | .trapVec => .ok (s.updCtx t.ctx fun c => { c with trapVec := zext64 (bits (t.int a) 0 34) })
    | .censusSel => .ok (s.updCtx t.ctx fun c => { c with censusSel := bits (t.int a) 0 8 })
    | _ => .ok s

/-- SYSW to CENSUS_CTL (R311): writing 1 clears every counter of the core for the context, the streams' included; the
count of RDCYC stays (R355). -/
def execSyswCensusCtl (a : IReg) (s : State) : Host.Outcome State Fault Refusal :=
  attempt (.syswCensusCtl a) s fun s t _ =>
    if (t.int a).getLsbD 0 then
      .ok (s.setCensus { Census.fresh t.ctx t.lcore with cycles := (s.censusOf t.ctx t.lcore).cycles })
    else .ok s

/-- SYSW to SEQ_STATE (R349): trap service of a sequencer trap abandons the run with a 0 in the run bit. -/
def execSyswSeqState (a : IReg) (s : State) : Host.Outcome State Fault Refusal :=
  attempt (.syswSeqState a) s fun s t _ =>
    if ((s.served t).map (·.seqr)).getD false && !(t.int a).getLsbD 26 then
      .ok (s.updCore t.phys t.core fun k => { k with seqr := k.seqr.map fun q => { q with abandoned := true } })
    else .ok s

/-- SYSW to SUM_STATUS (R231): write 1 to clear. -/
def execSyswSumStatus (a : IReg) (s : State) : Host.Outcome State Fault Refusal :=
  attempt (.syswSumStatus a) s fun s t _ =>
    .ok (s.updCtx t.ctx fun c => { c with sumStatus := c.sumStatus &&& ~~~(bits (t.int a) 0 2) })

/-- SYSW to the frame window (R346). The frame of a victim whose slot runs an inline index takes the write too (R266). -/
def execSyswFrameWindow (n : Fin 72) (a : IReg) (s : State) : Host.Outcome State Fault Refusal :=
  attempt (.syswFrameWindow n a) s fun s t _ =>
    match s.victim t with
    | some v => .ok ((s.updThread v.uid fun _ => s.pokeFrame v n.val (t.int a)).keepFrame v.uid)
    | none => .ok s

/-! ## Shootdowns (R331) -/

/-- Pages (VA, size) reach into the range. -/
def reaches (lo size : Nat) (whole : Bool) (ps : List (Nat × Nat)) : Bool :=
  ps.any fun p => whole || (decide (p.1 < lo + size) && decide (lo < p.1 + p.2))

/-- The range that a TLB_SHOOT value names: base, size, whole context. -/
def shootRange (v : Word) : Nat × Nat × Bool :=
  let size := match (bits v 0 2).toNat with
    | 0 => 2 ^ 16
    | 1 => 2 ^ 25
    | _ => 2 ^ 34
  ((bits v 16 36).toNat * 65536 / size * size, size, bits v 0 2 == 3)

/-- Start a shootdown. -/
def State.startShoot (s : State) (ctx : Nat) (v : Word) (f : SdFor) : State :=
  let (lo, size, whole) := shootRange v
  { s with shoots := s.shoots ++ [⟨s.fresh, ctx, lo, size, whole, f⟩], fresh := s.fresh + 1 }

/-- SYSW to TLB_SHOOT (R331): the thread is held until the shootdown completes. -/
def execSyswTlbShoot (a : IReg) (s : State) : Host.Outcome State Fault Refusal :=
  attempt (.syswTlbShoot a) s fun s t _ =>
    let id := s.fresh
    .ok ((s.startShoot t.ctx (t.int a) (.thread t.uid)).updThread t.uid fun t => { t with run := .shooting id })

/-! ## MARK, RDCYC, ERET (R351, R354, R355) -/

/-- MARK (R318, R354): a record of kind 15 with the step number as arriver, and the issuer's stamp starts again. -/
def execMark (a : IReg) (s : State) : Host.Outcome State Fault Refusal :=
  attempt (.mark a) s fun s t _ =>
    let s := s.endThreadWait t.uid (bits (t.int a) 0 32) 15 t.stamp
    .ok (s.updThread t.uid fun t => { t with stamp := { t.stamp with len := 0 } })

/-- RDCYC (R355). -/
def execRdcyc (d : IReg) (s : State) : Host.Outcome State Fault Refusal :=
  attempt (.rdcyc d) s fun s t p => .ok (s.result t p (intResult d (s.censusOf t.ctx t.lcore).cycles) .alu none)

/-- ERET (R351). -/
def execEret (s : State) : Host.Outcome State Fault Refusal :=
  attempt .eret s fun s t _ => .ok (s.returnTrap t.phys t.core)

end Sys2Proof.Machine
end

