-- ==== Sys2Proof/Machine/Freeze.lean ====
section
/-! DEFINITION. Frozen contexts: the end of the drain, the limit timer, the compact dump and the release (R367 to R371);
watchdogs (R362). -/

namespace Sys2Proof.Machine

/-- The clusters that a context holds, by physical number. -/
def State.heldClusters (s : State) (ctx : Nat) : List Nat := (s.clusters.filter fun k => k.ctx == some ctx).map (·.phys)

/-! ## The compact dump (R371) -/

/-- A fault record of 64 bytes. -/
def faultBytes (f : FaultRec) : List Byte :=
  leBytes 64 (Config.dumpFault [f.code, f.source.toNat, f.time, f.lcl, f.core, f.slot, f.handle.toNat, f.index.toNat,
    f.addr.toNat, f.data.toNat, f.info.toNat]).toNat

/-- The fields of a trap record: slot, code, address, word, data, info. -/
def State.trapFields (s : State) (r : TrapRec) : List Nat :=
  [((s.thread? r.uid).map (·.slot)).getD 0, r.code, r.addr.toNat, r.word.toNat, r.data.toNat, r.info.toNat]

/-- The part of a held cluster: header, frames of its occupied slots, trap queues of its cores. -/
def State.clusterDump (s : State) (phys lcl : Nat) : List Byte :=
  let slots := (List.range 8).flatMap fun c => (List.range 64).filterMap fun n => (s.inSlot phys c n).map fun t => (64 * c + n, t)
  let mask : BitVec 512 := slots.foldl (fun m x => setBit m x.1 true) 0
  let groups := (s.groups.filter fun g => g.phys == phys).length
  leBytes 64 (Config.dumpCluster lcl phys groups mask).toNat ++ (slots.flatMap fun x => s.frameBytes x.2)
    ++ (List.range 8).flatMap fun c => Config.dumpQueue ((s.coreAt phys c).trapQ.map s.trapFields)

/-- Everything of the dump but its header, up to the 63rd fault record and from offset 0x1000 on. -/
def State.dumpBody (s : State) (c : Context) (z : Freeze) : List Byte :=
  let recs := (z.faults.take 63).flatMap faultBytes
  let clusters := (List.range 256).flatMap fun l => (s.heldClusters c.id).filterMap fun p =>
    if ((s.standingLcl p).getD 256) == l then some (s.clusterDump p l) else none
  recs ++ List.replicate (4096 - 64 - recs.length) 0 ++ clusters.flatten

/-- The header of the dump. -/
def dumpHeader (ctx : Nat) (z : Freeze) (written : Nat) (cut : Bool) : List Byte :=
  leBytes 4 1 ++ leBytes 4 ((if cut then 1 else 0) + (if 63 < z.count then 2 else 0) + if z.debugged then 4 else 0)
    ++ leBytes 4 ctx ++ leBytes 4 z.count ++ leBytes 8 (z.complete.getD 0) ++ leBytes 8 written ++ leBytes 32 0

/-- Write bytes from a VA on, 64 at a time. -/
def State.writeOut (s : State) (ctx phys : Nat) : Nat → Nat → List Byte → State
  | 0, _, _ => s
  | fuel + 1, va, bs =>
    if bs.isEmpty then s
    else State.writeOut (s.writeVa ctx phys va (bs.take 64)) ctx phys fuel (va + 64) (bs.drop 64)

/-- The dump writer writes a context's dump (R371), its header last: the bytes written, and whether it was cut. A context
without a dump buffer has none. -/
def State.writeDump (s : State) (c : Context) (z : Freeze) : Nat × Bool × State :=
  if c.dumpSize = 0 then (0, false, s)
  else
    let body := s.dumpBody c z
    let all := 64 + body.length
    let n := min all c.dumpSize
    let cut := decide (c.dumpSize < all)
    let base := c.dumpBase.toNat % 2 ^ 52
    let part := body.take (n - 64)
    let s := s.writeOut c.id 600 (part.length / 64 + 1) (base + 64) part
    (n, cut, s.writeVa c.id 600 base (dumpHeader c.id z n cut))

/-! ## Release (R369) -/

/-- End a thread's traces: what it owes or waits for anywhere is gone. -/
def State.forgetThreads (s : State) (uids : List Nat) : State :=
  { s with
    threads := s.threads.filter fun t => !uids.contains t.uid
    accs := s.accs.filter fun a => !((a.uid.map uids.contains).getD false)
    arrivals := s.arrivals.filter fun a => !uids.contains a.uid
    pends := s.pends.filter fun p => !uids.contains p.uid
    fwds := s.fwds.filter fun f => !uids.contains f.from_ }

/-- Every running replay of a context ends with a status, with its threads, families, groups, tag entries and saved
clusters; the allotments that are still to be freed are cleared (R198), and the clusters that the context holds are cleared
and free. -/
def State.endContextWork (s : State) (ctx : Nat) (status : Replay → BitVec 32) : State :=
  let rs := s.replays.filter fun r => r.ctx == ctx
  let uids := (s.threads.filter fun t => t.ctx == ctx).map (·.uid)
    ++ (s.saves.filter fun x => x.ctx == ctx).flatMap fun x => x.threads.map (·.uid)
  let held := s.heldClusters ctx
  let s := s.forgetThreads uids
  let s := (s.groups.filter fun g => g.ctx == ctx && g.st == .freeing).foldl
    (fun s g => s.clearSpad g.phys g.spadBase g.spadSize) s
  let fams := (s.families.filter fun f => f.ctx == ctx).map (·.uid)
  let s := { s with
    families := s.families.filter fun f => f.ctx != ctx
    kills := s.kills.filter fun k => !fams.contains k.fam
    groups := s.groups.filter fun g => g.ctx != ctx
    saves := s.saves.filter fun x => x.ctx != ctx
    pubs := s.pubs.filter fun p => p.ctx != ctx
    tags := s.tags.filter fun e => !(e.ctx == ctx && rs.any fun r =>
      r.gen == e.gen && ((s.graph? r.graph).map fun g => g.names e.name).getD false)
    shoots := s.shoots.filter fun d => match d.for_ with
      | .thread uid => !uids.contains uid
      | _ => true }
  let s := held.foldl (fun s p => (s.clearCluster p).updCluster p fun k => { k with ctx := none, stopped := false, saving := false }) s
  rs.foldl (fun s r => s.endReplay r (status r)) s

/-- Release a frozen context; `dump`: the compact dump is written first (R369). -/
def State.release (s : State) (c : Context) (z : Freeze) (dump byDebugger : Bool) : State :=
  let w := if dump then s.writeDump c z else (0, false, s)
  let code := ((z.faults.head?).map (·.code)).getD 0
  let s := w.2.2.endContextWork c.id fun r => BitVec.ofNat 32 (r.fault.getD code)
  let s := s.updCtx c.id fun x => { x with freeze := none, dumpAt := if w.1 = 0 then x.dumpAt else some (c.dumpBase.toNat % 2 ^ 52, w.1) }
  let s := { s with freezeOrder := s.freezeOrder.filter (· != c.id) }
  let s := s.report moduleId 12 (BitVec.ofNat 16 c.id)
    (BitVec.ofNat 64 (w.1 % 2 ^ 32 + (if w.2.1 then 2 ^ 32 else 0) + if byDebugger then 2 ^ 33 else 0))
  s.suspendDone c.id

/-! ## FREEZE_COMPLETE (R368) -/

/-- The dump writer is to write the dump of a frozen context: its freeze is complete, and its limit has expired or a debugger
has asked for the dump. -/
def Context.due (c : Context) (now : Nat) : Bool :=
  match c.freeze with
  | some z => z.complete.isSome && ((z.expires.map fun e => decide (e ≤ now)).getD false || (c.releaseReq.map (·.2)).getD false)
  | none => false

/-- The dump writer has a freeze to serve that occurred before the context's (R369). -/
def State.writerBusy (s : State) (ctx : Nat) : Bool :=
  (s.freezeOrder.takeWhile (· != ctx)).any fun i => ((s.ctx? i).map fun x => x.due s.now).getD false

/-- Do the release that a debugger has asked for, once the freeze is complete and, for a dump, the writer's turn has come
(R369). -/
def State.tryRelease (s : State) (ctx : Nat) : State :=
  match s.ctx? ctx with
  | none => s
  | some c =>
    match c.freeze, c.releaseReq with
    | some z, some (h, dump) =>
      if z.complete.isNone || (dump && s.writerBusy ctx) then s
      else ((s.release c z dump true).updCtx ctx fun c => { c with releaseReq := none }).send (.reply h 0x29 0 [])
    | _, _ => s

/-- The last cluster of a frozen context has drained, and a save that was in progress has been completed (R360): the limit
timer starts, unless a debugger is attached (R369); a release that a debugger has asked for is done now. -/
def execFreezeComplete (ctx : Nat) (s : State) : Host.Outcome State Fault Refusal :=
  .next (match s.ctx? ctx with
    | none => s
    | some c =>
      match c.freeze with
      | some z =>
        if z.complete.isSome || !((s.heldClusters ctx).all fun p =>
            (s.clusterAt p).stopped && !(s.clusterAt p).saving && s.clusterDrained p) then s
        else
          let z := { z with complete := some s.now
                            expires := if c.attached then none else some (s.now + z.left)
                            debugged := z.debugged || c.attached }
          (s.updCtx ctx fun c => { c with freeze := some z }).tryRelease ctx
      | none => s)

/-- The limit expires: the dump writer, which serves freezes in the order in which they occurred, dumps and releases. It does
the same for a release whose dump a debugger has asked for, when that one's turn has come. -/
def execFreezeLimitExpiry (ctx : Nat) (s : State) : Host.Outcome State Fault Refusal :=
  .next (match s.ctx? ctx with
    | none => s
    | some c =>
      match c.freeze with
      | some z =>
        if !c.due s.now || s.writerBusy ctx then s
        else if c.releaseReq.isSome then s.tryRelease ctx
        else s.release c z true false
      | none => s)

/-! ## Watchdogs (R362) -/

/-- The device owes the end of an access: its home is neither a peer's nor away, and it is no AWAIT and no full/empty request
that may wait (R270, R362). -/
def Access.owed (a : Access) : Bool :=
  !a.mayStay && a.loc.present && (match a.loc with
    | .peer _ _ => false
    | _ => true)

/-- The next burst of a copy is its engine's, and no peer's or server's (R362). -/
def State.copyOwed (s : State) (c : Copy) : Bool :=
  s.movable c && c.units.all fun u => (u.1 :: u.2).all fun l => match l with
    | .peer _ _ => false
    | _ => true

/-- The thread for which a stream unit owes a fetch: its next element's home is neither a peer's nor away, and its cluster is
not stopped (R151, R362). -/
def State.fetchOwed (s : State) (phys c : Nat) (u : Fin 4) : Option Thread :=
  let k := s.coreAt phys c
  match k.streams[u.val].nextFetch, k.owner.bind s.thread? with
  | some (cfg, e), some t =>
    if (s.clusterAt phys).stopped then none
    else match (s.resolve t.issuer .plain (streamAddr cfg e) 32 false false false).1 with
      | .ok (.peer _ _) => none
      | .ok l => if l.present then some t else none
      | .error _ => some t
  | _, _ => none

/-- Contexts that have work in a unit, where the unit could go a step. A copy that waits for a peer or a server is no work of
its engine's (R362). -/
def State.workIn (s : State) (u : UnitId) : List Nat :=
  let at_ (on : Access → Bool) : List Nat := (s.accs.filter fun (a : Access) => s.performable a && on a).map fun (a : Access) => a.ctx
  (match u with
    | .core p c => (s.threads.filter fun (t : Thread) => t.phys == p && t.core == c && s.ready t).map fun (t : Thread) => t.ctx
    | .sequencer p c =>
      (match (s.coreAt p c).seqr with
      | some r => if s.runReady (s.coreAt p c) r then (s.thread? r.uid).toList.map fun (t : Thread) => t.ctx else []
      | none => [])
    | .copyEngine p => (s.copies.filter fun (c : Copy) => s.engineOf c == (1, p) && s.copyOwed c).map fun (c : Copy) => c.ctx
    | .portEngine n => (s.copies.filter fun (c : Copy) => s.engineOf c == (2, n) && s.copyOwed c).map fun (c : Copy) => c.ctx
    | .streamUnit p c u => (s.fetchOwed p c u).toList.map fun (t : Thread) => t.ctx
    | .matrix p =>
      (s.cores.filter fun (k : CoreSt) => k.phys == p).flatMap fun (k : CoreSt) =>
        k.mq.filterMap fun (m : MOp) => (s.thread? m.uid).map fun (t : Thread) => t.ctx
    | .bank p b => at_ fun a => ((a.loc.banks a.size).map fun (x : Nat × List Nat) => x.1 == p && x.2.contains b).getD false
    | .tcm p c => at_ fun a => (match a.loc with
        | .tcm q d _ => q == p && d == c
        | _ => false)
    | .channel n => at_ fun a => a.channel == some n
    | .canopyBank n => at_ fun a => (match a.loc with
        | .canopy off => off / 2 ^ 27 % 2 * 64 + off / 64 % 64 == n
        | _ => false)
    | .launch => (s.ctxs.filter fun (c : Context) => (s.nextGroup c).isSome).map fun (c : Context) => c.id
    | .walker d => (s.walksOn d).map fun (x : PageWalk) => x.ctx).dedup

/-- The cluster that a unit belongs to. -/
def UnitId.cluster : UnitId → Option Nat
  | .core p _ | .sequencer p _ | .copyEngine p | .matrix p | .streamUnit p _ _ | .bank p _ | .tcm p _ => some p
  | _ => none

/-- A unit's id (R314): its class, and its number by logical cluster. A unit that R314 gives no class has the id of what it
belongs to (R366). -/
def State.unitId (s : State) : UnitId → BitVec 32
  | .core p _ | .sequencer p _ | .tcm p _ => clusterId p
  | .copyEngine p => engineId 1 (s.lclOf p)
  | .portEngine n => engineId 2 n
  | .matrix p => engineId 7 (s.lclOf p)
  | .streamUnit p c u => engineId 8 (4 * (8 * s.lclOf p + c) + u.val)
  | .bank p b => engineId 4 (64 * s.lclOf p + b)
  | .channel n => engineId 3 n
  | .canopyBank n => engineId 5 n
  | .launch => engineId 6 0
  | .walker _ => moduleId

/-- The source of a fault's event: the physical cluster where it arose, else its unit (R363, R366). -/
def State.unitSource (s : State) (u : UnitId) : BitVec 32 := ((UnitId.cluster u).map clusterId).getD (s.unitId u)

/-- A unit that holds work has completed no step of it: every context with work in it takes the watchdog fault. A unit
without such work has no watchdog that could fire. -/
def execUnitWatchdog (u : UnitId) (s : State) : Host.Outcome State Fault Refusal :=
  .next (
    let cs := s.workIn u
    let src := s.unitSource u
    if cs.isEmpty then s
    else
      let s := s.report src 6 0xFFFF (zext64 (s.unitId u))
      let s := (match UnitId.cluster u with
        | some p => s.countFault p
        | none => s)
      cs.foldl (fun s c => s.unitFault c ((s.replays.find? fun r => r.ctx == c).map (·.uid)) 0x47 src) s)

/-- The register that an access fills. -/
def AccOp.fills (op : AccOp) (o : Operand) : Bool :=
  match op with
  | .load _ d => d == o
  | .rmw _ _ _ (some d) | .ldfe _ d | .sumOff d | .await _ _ d => Operand.int d == o
  | .sumOn p q => Operand.pred p == o || Operand.pred q == o
  | _ => false

/-- A pending result writes a register: a TAKE writes two (R307). -/
def Pend.fills (p : Pend) (o : Operand) : Bool :=
  Operand.int p.dst == o || (match p.op with
    | .take _ => Operand.int (takeNext p.dst) == o
    | _ => false)

/-- A wait of the second or third row of R269 that the device owes to a thread. -/
def State.owedWait (s : State) (t : Thread) : Bool :=
  let mine := s.ownAccs t.uid
  match s.waitOf t with
  | some .token => s.copies.any fun c => c.uid == t.uid && s.copyOwed c && (match s.nextOf t with
      | some (_, .waitk m) => m.getLsbD c.token.val
      | _ => false)
  | some .order => (mine.any Access.owed) || (s.arrivals.any fun a => a.uid == t.uid && a.red)
      || s.accs.any fun a => t.after.contains a.id && a.owed
  | some .engine => ((s.copiesFrom t.phys).any s.copyOwed) || !(s.coreAt t.phys t.core).mq.isEmpty
  | some (.operand o) => t.isPend o && ((s.arrivals.any fun a => a.uid == t.uid && a.writes.any fun w => w.1 == o)
      || (mine.any fun a => a.owed && a.op.fills o)
      || s.pends.any fun p => p.uid == t.uid && p.fills o && (match p.op with
        | .mwait _ | .take _ => true
        | _ => false))
    || (match o with
      | .wide w => (match s.binding t w with
        | .input u _ => (s.fetchOwed t.phys t.core u).isSome
        | _ => false)
      | _ => false)
  | none => false

/-- An island of a cluster is gated, and what runs on the cluster waits until it has woken: its core island, or the matrix
island for an operation that is queued (R20). -/
def State.waking (s : State) (phys : Nat) : Bool :=
  (s.clusterAt phys).corePt == .gated
    || ((s.clusterAt phys).matPt == .gated && s.cores.any fun k => k.phys == phys && !k.mq.isEmpty)

/-- A group's progress watchdog fires, unless it is paused: a thread of the group is trapped or held, or its cluster is
stopped, saved, frozen or waking from a gated island (R362). -/
def execProgressWatchdog (grp : Nat) (s : State) : Host.Outcome State Fault Refusal :=
  .next (match s.group? grp with
    | none => s
    | some g =>
      let ts := s.threads.filter fun t => t.group == grp
      let paused := (s.clusterAt g.phys).stopped || s.waking g.phys || g.st != .running
        || ts.any fun t => t.run.isTrapped || t.run == .held
      match if paused then none else ts.find? fun t => t.run == .running && s.owedWait t with
      | none => s
      | some t =>
        let s := (s.report (clusterId t.phys) 6 (BitVec.ofNat 16 t.ctx) (zext64 (clusterId t.phys))).countFault t.phys
        s.threadContextFault t 0x47 t.pc 0 0)

end Sys2Proof.Machine
end

