-- ==== Sys2Proof/Machine/Power.lean ====
section
/-! DEFINITION. Islands and their operating points (R18 to R20), detected errors and their counts (R361, R363 to R365), and
the fencing of a cluster (R364). -/

namespace Sys2Proof.Machine

/-! ## Replace-me status (R365) -/

/-- 24 hours, in nanoseconds. -/
def dayNs : Nat := 86400000000000

/-- Some two of the times lie within 24 hours of each other. -/
def pairInDay : List Nat → Bool
  | [] => false
  | t :: rest => (rest.any fun u => decide (t ≤ u + dayNs) && decide (u ≤ t + dayNs)) || pairInDay rest

/-- A stack has had two uncorrectable errors within 24 hours. -/
def State.stackBad (s : State) (stack : Nat) : Bool :=
  pairInDay ((s.stackErrs.filter fun e => e.1 == stack).map (·.2))

/-- The replace-me status: ports that are down, stacks, number of fenced clusters. -/
def State.replaceStatus (s : State) : Word :=
  let bad := ((List.range 8).map fun n => if s.stackBad n then 2 ^ n else 0).sum
  (zext64 (~~~s.ports) <<< 20) + BitVec.ofNat 64 (bad * 2 ^ 12 + (s.clusters.filter fun k => k.fenced).length)

/-- Set the status, and report a change (R366, kind 10). -/
def State.setReplaceMe (s : State) : State :=
  let v := s.replaceStatus
  if v = s.replaceMe then s else { s with replaceMe := v }.report moduleId 10 0xFFFF v

/-! ## PATROL_SCRUB (R361, R363, R365) -/

/-- The place of a key of the memory; none beyond the device's own cells. -/
def placeOfKey (key : Nat) : Option Loc :=
  if key < 2 ^ 40 then some (.hbm key)
  else if key < 2 ^ 41 then some (.canopy (key - 2 ^ 40))
  else if key < 2 ^ 42 then
    let p := (key - 2 ^ 41) / 2 ^ 21
    if p < 256 then some (.spad p (key % 2 ^ 21)) else none
  else if key < 2 ^ 43 then
    let p := (key - 2 ^ 42) / 2 ^ 20
    if p < 256 then some (.tcm p (key / 2 ^ 17 % 8) (key % 2 ^ 17)) else none
  else none

/-- The cluster whose storage holds a word. -/
def Stored.cluster : Stored → Option Nat
  | .mem key => (match placeOfKey key with
    | some (.spad p _) | some (.tcm p _ _) => some p
    | _ => none)
  | .code p _ | .frame p _ _ _ | .granules p _ => some p
  | .tlb u _ => if u < 256 then some u else none
  | .watches l _ => if 1024 ≤ l then some ((l - 1024) / 64) else none
  | .queue u _ => UnitId.cluster u
  | _ => none

/-- The word exists. -/
def Stored.exists_ : Stored → Bool
  | .mem key => (placeOfKey key).isSome
  | w => ((Stored.cluster w).map fun p => decide (p < 256)).getD true

/-- Source of an error's event: the cluster where it arose, else the unit (R363, R366). -/
def State.storedSource (s : State) (w : Stored) : BitVec 32 :=
  match Stored.cluster w with
  | some p => clusterId p
  | none =>
    match w with
    | .mem key => (placeOfKey key).elim moduleId s.homeId
    | .tags _ | .waves _ => engineId 6 0
    | .sums n _ | .watches n _ => engineId 3 n
    | .queue u _ => s.unitId u
    | _ => moduleId

/-- Detail of an error's event (R366): PA, or unit offset with bit 63 set. Within unit state the offset is the number of the
word or of its first entry (log entry 92). -/
def Stored.detail (w : Stored) : Word :=
  let off (n : Nat) : Word := BitVec.ofNat 64 (2 ^ 63 + n)
  match w with
  | .mem key => (match placeOfKey key with
    | some (.hbm pa) => BitVec.ofNat 64 pa
    | some (.canopy a) | some (.spad _ a) => off a
    | some (.tcm _ c a) => off (c * 2 ^ 17 + a)
    | _ => off 0)
  | .code _ a => off a
  | .frame _ c slot n => off ((64 * c + slot) * 576 + 8 * n)
  | .granules _ n | .save _ _ n => off (8 * n)
  | .tlb _ ns | .tags ns | .waves ns | .sums _ ns | .watches _ ns | .queue _ ns => off (ns.headD 0)

/-- The entries of a table that a word holds. -/
def pickAll {α : Type} (xs : List α) (ns : List Nat) : List α := ns.filterMap fun n => xs[n]?

/-- An address of HBM lies in the dump that stands in a context's buffer (R363). -/
def State.inDump (s : State) (c : Context) (pa : Nat) : Bool :=
  match c.dumpAt with
  | none => false
  | some (base, n) => (List.range (n / 65536 + 2)).any fun i =>
      let va := base / 65536 * 65536 + 65536 * i
      match s.walk c.id va with
      | .leaf p _ _ _ _ => p == pa / 65536 * 65536 && decide (base ≤ va + pa % 65536) && decide (va + pa % 65536 < base + n)
      | .fault _ _ => false

/-- Contexts of the entries in a word of unit state, and the owner of the save record or the dump that it belongs to. -/
def State.entryContexts (s : State) (w : Stored) : List Nat :=
  match w with
    | .mem key => (match placeOfKey key with
      | some (.hbm pa) => (s.ctxs.filter fun c => s.inDump c pa).map (fun (c : Context) => c.id)
          ++ (s.saves.filter fun x => x.holds pa).map fun (x : SaveRec) => x.ctx
      | _ => [])
    | .code _ _ => []
    | .frame p c slot _ => (s.inSlot p c slot).toList.map fun (t : Thread) => t.ctx
    | .granules p n => (s.groups.filter fun (g : Group) => g.phys == p && decide (g.spadBase < 1024 * n + 1024)
        && decide (1024 * n < g.spadBase + g.spadSize)).map fun (g : Group) => g.ctx
    | .tlb u ns => (pickAll (s.tlb.filter fun l => l.tlb == u) ns).map fun (l : TlbLeaf) => l.ctx
    | .tags ns => (pickAll s.tags ns).map fun (e : TagEntry) => e.ctx
    | .waves ns => pickAll (s.replays.flatMap fun (r : Replay) => r.kernels.flatMap fun (k : KRun) =>
        ((k.wave.map Wave.counts).getD []).map fun (_ : Nat × Nat) => r.ctx) ns
    | .sums n ns => (pickAll (s.sums.filter fun x => channelOf x.pa == n) ns).map fun (x : SumSlot) => x.ctx
    | .watches l ns => (pickAll (s.accs.filter fun a => a.phase == .waiting && a.waiter && a.listKey == l) ns).map
        fun (a : Access) => a.ctx
    | .queue (.copyEngine p) ns => (pickAll (s.copies.filter fun c => s.engineOf c == (1, p)) ns).map fun (c : Copy) => c.ctx
    | .queue (.portEngine n) ns => (pickAll (s.copies.filter fun c => s.engineOf c == (2, n)) ns).map fun (c : Copy) => c.ctx
    | .queue (.matrix p) ns => (pickAll (s.cores.flatMap fun k => if k.phys == p then k.mq else []) ns).flatMap
        fun _ => (s.clusterAt p).ctx.toList
    | .queue _ _ => []
    | .save _ _ _ => []

/-- Contexts that hold an entry in a word of unit state, or own the save record or the dump that it belongs to (R363). -/
def State.holders (s : State) (w : Stored) : List Nat := (s.entryContexts w).dedup

/-- The word itself: a byte's key or address stands for the 8-byte word that holds it, and a word of a save record for the word of
HBM where it stands (R325, R361, R364). -/
def State.wordOf (s : State) (w : Stored) : Stored :=
  match w with
  | .mem key => .mem (key / 8 * 8)
  | .code p a => .code p (a / 8 * 8)
  | .save c l n => (match s.saves.find? fun x => x.ctx == c && x.lcl == l with
    | some x => .mem (x.base + 8 * n)
    | none => w)
  | _ => w


/-- The word that a later read finds poisoned, by its number in `State.poison`: memory, code stores and granule bits. -/
def Stored.poison : Stored → Option Nat
  | .mem key => some (key / 8)
  | .code p a => some (codeKey p (a / 8 * 8) / 8)
  | .granules p n => some (granuleKey p n / 8)
  | _ => none

/-- Mark what a word holds, so that a later read of it finds the error (R363): a poisoned word, the leaves of a TLB, the sum
slots of a channel core, a save record. Of the other unit state every entry is some frozen context's by then, and no thread
reads it again (log entry 100). -/
def State.spoil (s : State) (w : Stored) : State :=
  match w with
  | .tlb u ns =>
    let bad := pickAll (s.tlb.filter fun l => l.tlb == u) ns
    { s with tlb := s.tlb.map fun (l : TlbLeaf) => if bad.contains l then { l with bad := true } else l }
  | .sums n ns =>
    let bad := pickAll (s.sums.filter fun x => channelOf x.pa == n) ns
    { s with sums := s.sums.map fun (x : SumSlot) => if bad.contains x then { x with bad := true } else x }
  | _ =>
    let s := match w with
      | .mem key => { s with saves := s.saves.map fun (x : SaveRec) => if x.holds key then { x with upset := true } else x }
      | _ => s
    match Stored.poison w with
    | some n => if s.poison.contains n then s else { s with poison := n :: s.poison }
    | none => s

/-- A stored word is found with an error: one bit is corrected and written back; more bits poison the word, and are
charged to whoever holds an entry in a word of unit state, or owns the record that it belongs to (R363). -/
def execPatrolScrub (word : Stored) (bits : Upset) (s : State) : Host.Outcome State Fault Refusal :=
  let word := s.wordOf word
  .next (
    let src := s.storedSource word
    if !Stored.exists_ word then s
    else
      match bits with
      | .single => { s with corrected := (word, s.now) :: s.corrected }.report src 1 0xFFFF (Stored.detail word)
      | .multi =>
        let s := s.report src 2 0xFFFF (Stored.detail word)
        let s := (match Stored.cluster word with
          | some p => s.countFault p
          | none => s)
        let s := ((s.holders word).foldl (fun s c => s.unitFault c none 0x48 src) s).spoil word
        match word with
        | .mem key => (match placeOfKey key with
          | some (.hbm pa) => { s with stackErrs := (channelOf pa / 32, s.now) :: s.stackErrs }.setReplaceMe
          | _ => s)
        | _ => s)

/-! ## LINK_RETRY (R361) -/

/-- A flit is retried. The link's 1,000th retry within a second is reported, and its count starts again. -/
def execLinkRetry (link : Nat) (s : State) : Host.Outcome State Fault Refusal :=
  .next (
    let rs := (link, s.now) :: s.linkRetries.filter fun r => decide (s.now < r.2 + 1000000000)
    if 1000 ≤ (rs.filter fun r => r.1 == link).length then
      { s with linkRetries := rs.filter fun r => r.1 != link }.report moduleId 3 0xFFFF (BitVec.ofNat 64 link)
    else { s with linkRetries := rs })

/-! ## PORT_STATE_CHANGE (R365, R366) -/

/-- A port goes down or comes up; the event's source is the port's engine. -/
def execPortStateChange (port : Fin 16) (up : Bool) (s : State) : Host.Outcome State Fault Refusal :=
  .next (
    if s.ports.getLsbD port.val = up then s
    else
      ({ s with ports := setBit s.ports port.val up }.report (engineId 10 port.val) 4 0xFFFF
        (BitVec.ofNat 64 (port.val + if up then 65536 else 0))).setReplaceMe)

/-! ## CLUSTER_FENCING (R364) -/

/-- Two faults, or three corrected errors at one word of its storage, are counted against a cluster within 24 hours. -/
def State.fenceDue (s : State) (phys : Nat) : Bool :=
  let recent (t : Nat) : Bool := decide (s.now ≤ t + dayNs)
  let words := s.corrected.filter fun e => Stored.cluster e.1 == some phys && recent e.2
  decide (2 ≤ ((s.clusterAt phys).faults.filter recent).length)
    || words.any fun e => decide (3 ≤ (words.filter fun x => x.1 == e.1).length)

/-- Remove an empty cluster from the logical map and fence it. Its logical number has no physical cluster from then on, even
where one is free, until an unfence gives it one (`giveBack`): R10 has firmware map at a fence and names no cluster (DESIGN CHOICE,
log entry 43). -/
def State.fence (s : State) (phys : Nat) : State :=
  let s := s.updCluster phys fun k => { k with fenced := true, fencing := false, stopped := false, saving := false, ctx := none }
  let s := { s with lmap := s.lmap.map fun p => if p = phys then 256 else p }
  (s.report (clusterId phys) 8 0xFFFF (BitVec.ofNat 64 phys)).setReplaceMe

/-- Nothing stands on a cluster, and no access or copy is on its way to it. -/
def State.vacant (s : State) (phys : Nat) : Bool :=
  !(s.groups.any fun g => g.phys == phys) && !(s.threads.any fun t => t.phys == phys)
    && !(s.copies.any fun c => c.touches phys)

/-- Firmware fences a cluster that is due, or that the host named: while a frozen context holds it, it waits; then it has
the cluster saved; then it takes the empty cluster out of the map. -/
def execClusterFencing (phys : Nat) (s : State) : Host.Outcome State Fault Refusal :=
  let k := s.clusterAt phys
  .next (
    if 256 ≤ phys || k.fenced || !(k.fencing || s.fenceDue phys) then s
    else
      match k.ctx with
      | some c =>
        if ((s.ctx? c).bind (·.freeze)).isSome then s.updCluster phys fun k => { k with fencing := true }
        else s.updCluster phys fun k => { k with fencing := true, stopped := true, saving := true }
      | none => if s.vacant phys then s.fence phys else s.updCluster phys fun k => { k with fencing := true })

/-! ## Islands (R18 to R20) -/

/-- Number of a point in its event (R366, kind 11). -/
def OpPoint.code : OpPoint → Nat
  | .full => 0
  | .high => 1
  | .mid => 2
  | .low => 3
  | .gated => 4

/-- Report an island's new point. -/
def State.reportPoint (s : State) (isl : Island) (pt : OpPoint) : State :=
  s.report (engineId 12 (2 * isl.phys + if isl.matrix then 1 else 0)) 11 0xFFFF (BitVec.ofNat 64 (OpPoint.code pt))

/-- The scratchpad and TCMs of a cluster lose their contents, and read as zero from here on (R20). -/
def State.losePower (s : State) (phys : Nat) : State :=
  { s with mem := Mem.clear (Mem.clear s.mem (Loc.spad phys 0).key (2 ^ 21)) (Loc.tcm phys 0 0).key (2 ^ 20)
           granules := s.granules.filter fun g => g / 131072 != phys
           poison := s.poison.filter fun w => !inCluster phys w }

/-- No operation is queued or running at a cluster's matrix unit. -/
def State.matrixIdle (s : State) (phys : Nat) : Bool :=
  (s.clusterAt phys).array.isNone && !(s.cores.any fun k => k.phys == phys && !k.mq.isEmpty)

/-- No group is resident, no scratchpad is retained, and nothing frozen stands on a cluster (R18). -/
def State.coreIdle (s : State) (phys : Nat) : Bool :=
  s.vacant phys && !(s.accs.any fun a => match a.loc with
    | .spad p _ | .tcm p _ _ => p == phys
    | _ => false) && (s.clusterAt phys).ctx.isNone

/-- A frozen context holds the cluster: neither of its islands is gated (R368). -/
def State.frozenOn (s : State) (phys : Nat) : Bool :=
  (((s.clusterAt phys).ctx.bind s.ctx?).bind (·.freeze)).isSome

/-- Power firmware sets an island's point. A gated island leaves its point only by waking (R20), and an island is gated only
where R18 lets it be. -/
def execOperatingPointChange (isl : Island) (pt : OpPoint) (s : State) : Host.Outcome State Fault Refusal :=
  let k := s.clusterAt isl.phys
  .next (
    if 256 ≤ isl.phys || (pt == .gated && s.frozenOn isl.phys) then s
    else if isl.matrix then
      if k.matPt == .gated || k.matPt == pt || (pt == .gated && !s.matrixIdle isl.phys) then s
      else (s.updCluster isl.phys fun k => { k with matPt := pt }).reportPoint isl pt
    else if k.corePt == .gated || k.corePt == pt || (pt == .gated && !s.coreIdle isl.phys) then s
    else
      let s := (s.updCluster isl.phys fun k => { k with corePt := pt }).reportPoint isl pt
      if pt == .gated then s.losePower isl.phys else s)

/-- A matrix island without work is gated; its accumulators and format contexts stay (R20). -/
def execMatrixIslandGate (phys : Nat) (s : State) : Host.Outcome State Fault Refusal :=
  .next (if 256 ≤ phys || (s.clusterAt phys).matPt == .gated || !s.matrixIdle phys || s.frozenOn phys then s
    else (s.updCluster phys fun k => { k with matPt := .gated }).reportPoint ⟨phys, true⟩ .gated)

/-- A gated core island wakes after a placement on its cluster. -/
def execCoreIslandWake (phys : Nat) (s : State) : Host.Outcome State Fault Refusal :=
  .next (if (s.clusterAt phys).corePt == .gated
      && ((s.groups.any fun g => g.phys == phys) || s.threads.any fun t => t.phys == phys) then
    (s.updCluster phys fun k => { k with corePt := .full }).reportPoint ⟨phys, false⟩ .full
  else s)

/-- A gated matrix island wakes for the operation that waits. -/
def execMatrixIslandWake (phys : Nat) (s : State) : Host.Outcome State Fault Refusal :=
  .next (if (s.clusterAt phys).matPt == .gated && s.cores.any (fun k => k.phys == phys && !k.mq.isEmpty) then
    (s.updCluster phys fun k => { k with matPt := .full }).reportPoint ⟨phys, true⟩ .full
  else s)

end Sys2Proof.Machine
end

