-- ==== Sys2Proof/Machine/Loader.lean ====
section
/-! DEFINITION. The graph loader: upload checks, placement, relocation and removal (R9, R88, R98, R100 to R105, R281 to
R283, R373). -/

namespace Sys2Proof.Machine

/-! ## The error record (R373, R282) -/

/-- A failed check. -/
structure LoadError where
  check : Nat
  obj : Nat
  section_ : String
  offset : Nat
  rel : Nat
  symbol : String

/-- The bytes of a name, padded with zeros or cut to `n` bytes. -/
def nameBytes (n : Nat) (name : String) : List Byte :=
  let bs := (name.toUTF8.toList.map fun b => BitVec.ofNat 8 b.toNat).take n
  bs ++ List.replicate (n - bs.length) 0

def LoadError.bytes (e : LoadError) : List Byte :=
  leBytes 4 e.check ++ leBytes 4 e.obj ++ nameBytes 16 e.section_ ++ leBytes 8 e.offset ++ leBytes 4 e.rel
    ++ nameBytes 64 e.symbol

/-- A failed check of an object's launch records. -/
def graphError (check obj : Nat) (symbol : String) : LoadError := ⟨check, obj, ".vgraph", 0, 0, symbol⟩

/-- Name of a section (R88). -/
def sectName : Sect → String
  | .text => ".text"
  | .rodata => ".rodata"
  | .data => ".data"
  | .bss => ".bss"
  | .canopy => ".canopy"
  | .spad => ".spad"
  | .tcm => ".tcm"

/-! ## Objects of an upload -/

/-- A list with the number of each entry. -/
def numbered {α : Type} (xs : List α) : List (Nat × α) := (List.range xs.length).zip xs

/-- The bytes that an object holds for a section; none for one that holds no bytes. -/
def objBytes (v : Vgo) : Sect → List Byte
  | .text => v.text
  | .rodata => v.rodata
  | .data => v.data
  | .canopy => v.canopy
  | _ => []

/-- Length of an object's `.text` in the code store, an even number (R22). -/
def textLen (v : Vgo) : Nat := (v.text.length + 1) / 2 * 2

/-- The kernels of an upload, each with its object. -/
def kernelsOf (objs : List Vgo) : List (Nat × KernelRec) := (numbered objs).flatMap fun (i, v) => v.kernels.map fun k => (i, k)

/-- The produced tensors of an upload: object and name. -/
def tensorsOf (objs : List Vgo) : List (Nat × String) :=
  (kernelsOf objs).flatMap fun (i, k) => k.outtags.dedup.map fun t => (i, t)

/-- Position of an entry in a list. -/
def posOf {α : Type} [BEq α] (xs : List α) (x : α) : Option Nat := xs.findIdx? fun y => y == x

/-! ## Placement (R88, R9, R281) -/

/-- Where an upload's objects stand: `.text` of each, and its other sections. -/
structure Layout where
  text : List Nat
  at_ : List Placement
  /-- tensor ids, in the order of `tensorsOf` (R283) -/
  ids : List Nat

/-- Code addresses of the objects' `.text` sections, one after the other. -/
def textBases (base : Nat) : List Vgo → List Nat
  | [] => []
  | v :: vs => base :: textBases (base + textLen v) vs

/-- Length of an upload's `.text`. -/
def textTotal (objs : List Vgo) : Nat := (objs.map textLen).sum

/-- The lowest code address at which a region of the code stores is free. -/
def State.codeFit (s : State) (size : Nat) : Option Nat :=
  let used := s.graphs.map fun g => (g.textBase, g.textSize)
  let fits (b : Nat) : Bool := decide (b + size ≤ 262144)
    && !(used.any fun r => decide (r.1 < b + size) && decide (b < r.1 + r.2))
  let bases := (0 :: used.map fun r => r.1 + r.2).filter fits
  bases.min?

/-- Tensors of a context's resident graphs, by id. -/
def State.tensorIds (s : State) (ctx : Nat) : List Nat :=
  (s.graphs.filter fun g => g.ctx == ctx).flatMap fun g => g.kernels.flatMap fun k => k.outtags

/-! ## Symbols and relocations (R86, R100 to R105) -/

/-- A symbol of tensor kind (R100). -/
def symTensor (y : Sym) : Bool := y.sect == some none && y.ty == .object && y.other == 0x80

/-- The fields of a relocation entry (R101). -/
def relOffset (r : Rel) : Nat := (bits r.entry 0 64).toNat

def relNumber (r : Rel) : Nat := (bits r.entry 64 32).toNat

def relSym (r : Rel) : Nat := (bits r.entry 96 32).toNat

def relAddend (r : Rel) : Int := (bits r.entry 128 64).toInt

/-- The relocation type of a number (R102). -/
def relTy? : Nat → Option RelTy
  | 1 => some .abs64
  | 2 => some .hi49
  | 3 => some .lo15
  | 4 => some .off20
  | 5 => some .off15
  | 6 => some .tag
  | _ => none

/-- Every exported definition of a name: object and symbol. -/
def exportsOf (objs : List Vgo) (name : String) : List (Nat × Sym) :=
  (numbered objs).flatMap fun (i, v) =>
    (v.syms.filter fun y => y.exported && y.sect.isSome && y.name == name).map fun y => (i, y)

/-- The definition that a symbol of an object stands for; none where the upload does not define it once. -/
def definitionOf (objs : List Vgo) (i : Nat) (y : Sym) : Option (Nat × Sym) :=
  let es := exportsOf objs y.name
  if y.sect.isSome then (if y.exported && 1 < es.length then none else some (i, y))
  else
    match es with
    | [e] => some e
    | _ => none

/-- Value of a symbol after placement (R86). -/
def Layout.value (l : Layout) (i : Nat) (y : Sym) : Word :=
  match y.sect.join with
  | none | some .spad | some .tcm => y.value
  | some .text => y.value + BitVec.ofNat 64 (l.text[i]?.getD 0)
  | some .rodata => y.value + ((l.at_[i]?).map (·.rodata)).getD 0
  | some .data => y.value + ((l.at_[i]?).map (·.data)).getD 0
  | some .bss => y.value + ((l.at_[i]?).map (·.bss)).getD 0
  | some .canopy => y.value + ((l.at_[i]?).map (·.canopy)).getD 0

/-- Put a field of bits [hi:lo] into the 32-bit word at an offset of a byte list. -/
def patchWord (bs : List Byte) (off lo width : Nat) (v : Nat) : List Byte :=
  let w : BitVec 32 := BitVec.ofNat 32 (leNat ((bs.drop off).take 4))
  let mask : BitVec 32 := (BitVec.ofNat 32 (2 ^ width - 1)) <<< lo
  let w := (w &&& ~~~mask) ||| ((BitVec.ofNat 32 v <<< lo) &&& mask)
  bs.take off ++ leBytes 4 w.toNat ++ bs.drop (off + 4)

/-- Apply one relocation to the bytes of its section; none where it does not fit (R102). `i`: the object, `d`: the
definition. The rules are silent on a number that is no type, on patched bytes outside the section, and on a type other than
GREL_TAG that names a tensor: none of them fits. A type that R102 gives for an instruction is applied outside `.text`, and to a
word that is another instruction, as it is to that instruction, with P the object's code address plus the offset (DESIGN CHOICE,
log entry 86). -/
def Layout.apply (l : Layout) (objs : List Vgo) (i : Nat) (r : Rel) (d : Nat × Sym) (bs : List Byte) : Option (List Byte) :=
  let off := relOffset r
  let x : BitVec 64 := l.value d.1 d.2 + BitVec.ofInt 64 (relAddend r)
  let p : BitVec 64 := BitVec.ofNat 64 (l.text[i]?.getD 0 + off)
  let v : Int := (x - p).toInt / 2
  let plain (n : Nat) : Bool := decide (off + n ≤ bs.length) && !symTensor d.2
  match relTy? (relNumber r) with
  | none => none
  | some .abs64 => if plain 8 then some (bs.take off ++ leBytes 8 x.toNat ++ bs.drop (off + 8)) else none
  | some .hi49 =>
    if plain 16 then
      let f (k lo w : Nat) (bs : List Byte) : List Byte := patchWord bs (off + 4 * k) 17 15 (x.toNat / 2 ^ lo % 2 ^ w)
      some (f 3 15 15 (f 2 30 15 (f 1 45 15 (f 0 60 4 bs))))
    else none
  | some .lo15 => if plain 4 then some (patchWord bs off 17 15 (x.toNat % 2 ^ 15)) else none
  | some .off20 =>
    if plain 4 && !x.getLsbD 0 && decide (2 ≤ v) && decide (v ≤ 1048575) then some (patchWord bs off 12 20 v.toNat)
    else none
  | some .off15 =>
    if plain 4 && !x.getLsbD 0 && decide (-16384 ≤ v) && decide (v ≤ 16383) then
      some (patchWord bs off 17 15 (v % 32768).toNat)
    else none
  | some .tag =>
    match posOf (tensorsOf objs) (d.1, d.2.name) with
    | some t =>
      if decide (off + 4 ≤ bs.length) && symTensor d.2 && decide (0 ≤ relAddend r) && decide (relAddend r < 16777216) then
        some (bs.take off ++ leBytes 4 (l.ids[t]?.getD 0 * 16777216 + (relAddend r).toNat) ++ bs.drop (off + 4))
      else none
    | none => none

/-- The bytes of a section of an object with its relocations applied, in the order of their entries. -/
def Layout.section_ (l : Layout) (objs : List Vgo) (i : Nat) (v : Vgo) (sec : Sect) : List Byte :=
  v.rels.foldl (fun bs r =>
    if r.sect = sec then
      (((v.syms[relSym r]?).bind (definitionOf objs i)).bind fun d => l.apply objs i r d bs).getD bs
    else bs) (objBytes v sec)

/-- The first relocation of an object that fails, or else its first symbol that fails. Entry 0 of an ELF symbol table,
nameless and undefined, stands in `syms` too, and fails only where a relocation names it (DESIGN CHOICE, log entry 58). The
rules give no section, offset and type for a symbol without a failing relocation, and the record holds none (check 3, DESIGN
CHOICE, log entry 87). -/
def Layout.badIn (l : Layout) (objs : List Vgo) (i : Nat) (v : Vgo) : Option LoadError :=
  (v.rels.findSome? fun r =>
    let ok := ((v.syms[relSym r]?).bind (definitionOf objs i)).bind fun d => l.apply objs i r d (objBytes v r.sect)
    if ok.isSome then none
    else some ⟨3, i, sectName r.sect, relOffset r, relNumber r, ((v.syms[relSym r]?).map (·.name)).getD ""⟩)
  <|> v.syms.findSome? fun y => if (y.name == "" && y.sect.isNone) || (definitionOf objs i y).isSome then none else some ⟨3, i, "", 0, 0, y.name⟩

/-- Check 3, object by object. -/
def Layout.badRel (l : Layout) (objs : List Vgo) : Option LoadError :=
  (numbered objs).findSome? fun (i, v) => l.badIn objs i v

/-! ## The other checks (R282) -/

/-- Check 1: the header (R100), and records that a format version lacks. -/
def headerBad (v : Vgo) : Bool :=
  let ver := (bits v.flags 0 8).toNat
  !v.elfClass64Lsb || v.etype != 1 || v.machine != 0xA960 || (ver != 1 && ver != 2) || bits v.flags 8 8 != 1
    || bits v.flags 16 16 != 0 || (ver == 1 && v.kernels.any fun k => !k.depvecs.isEmpty)

def inRange (lo hi x : Int) : Bool := decide (lo ≤ x) && decide (x ≤ hi)

/-- The entry body of a launch record: a `.body` label of the unit (R98, R100). -/
def bodySym (v : Vgo) (k : KernelRec) : Option Sym :=
  (v.syms[k.body]?).filter fun y => y.sect == some (some .text) && y.ty == .func

/-- Check 4: a launch record breaks a limit of R98. -/
def recordBad (v : Vgo) (k : KernelRec) : Bool :=
  let dim (n : Nat) : Bool := decide (1 ≤ n) && decide (n ≤ 2 ^ 20)
  let coef (x : Int) : Bool := inRange (-(2 ^ 23)) (2 ^ 23 - 1) x
  !((bodySym v k).isSome && windowOk k.window && dim k.gx && dim k.gy && dim k.gz
    && decide (1 ≤ k.slots) && decide (k.slots ≤ 504)
    && decide (k.spad % 16384 = 0) && decide (k.spad ≤ 2 ^ 21) && decide (v.spad ≤ k.spad)
    && decide (k.tcm % 4096 = 0) && decide (k.tcm ≤ 2 ^ 17) && decide (v.tcm ≤ k.tcm) && decide (k.wide ≤ 8)
    && decide (k.depvecs.length ≤ 4)
    && k.depvecs.all (fun (a, b, c) => inRange (-15) 15 a && inRange (-15) 15 b && inRange (-15) 15 c)
    && decide (k.intags.length ≤ 8) && k.intags.all (fun t => coef t.ci && coef t.cj && coef t.ck && coef t.c0)
    && decide (k.outtags.length ≤ 8))

/-- Parameter slots of an object are in range and declared once (R98). -/
def paramsBad (v : Vgo) : Bool :=
  let ps := v.params.map (·.1)
  ps.any (fun p => decide (65535 < p)) || decide (ps.dedup.length ≠ ps.length)

/-- Check 5, for the kernel of number `n` in an object: its edges. A kernel may declare one tensor twice. -/
def edgesBad (v : Vgo) (n : Nat) (k : KernelRec) : Bool :=
  let before := v.kernels.take n
  k.afters.any (fun a => !(before.any fun x => x.name == a))
    || k.intags.any (fun t => !(before.any fun x => x.outtags.contains t.tensor))
    || k.outtags.any (fun t => before.any fun x => x.outtags.contains t)

/-- Check 6: a dependence vector is zero or not lexicographically positive. -/
def depBad (d : Int × Int × Int) : Bool :=
  !(decide (0 < d.1) || (d.1 == 0 && (decide (0 < d.2.1) || (d.2.1 == 0 && decide (0 < d.2.2)))))

/-- Check 7: the map leaves 0 to 2^24 − 1 for some group of the grid; a linear form is least and greatest at corners. -/
def tileBad (k : KernelRec) (t : InTag) : Bool :=
  let lo (c : Int) (n : Nat) : Int := min 0 (c * ((n : Int) - 1))
  let hi (c : Int) (n : Nat) : Int := max 0 (c * ((n : Int) - 1))
  decide (t.c0 + lo t.ci k.gx + lo t.cj k.gy + lo t.ck k.gz < 0)
    || decide (2 ^ 24 ≤ t.c0 + hi t.ci k.gx + hi t.cj k.gy + hi t.ck k.gz)

/-- Tiles that the groups of the kernels name, once per group and tile (R296). -/
def namedTiles (ks : List Kernel) : List (BitVec 32) := ks.flatMap fun k => (List.range k.grid).flatMap k.inputTags

/-- Input tensors of some kernels, by their numbers there. -/
def inputTensors (ks : List Kernel) : List Nat := (ks.flatMap fun k => k.intags.map (·.1)).dedup

/-- The tiles of one tensor that the groups of the kernels name, once per group and tile. -/
def tilesOf (ks : List Kernel) (tensor : Nat) : List (BitVec 32) :=
  namedTiles (ks.map fun (k : Kernel) => { k with intags := (k.intags.filter fun t => t.1 == tensor).map fun t => (0, t.2) })

/-- Check 8 fails: the table's size, or a tile's count. The tiles of each tensor are counted apart, however many tensors there
are: what does not fit the 256 ids of a context is check 10's. -/
def consumersBad (ks : List Kernel) : Bool :=
  let per := (inputTensors ks).map (tilesOf ks)
  decide (2 ^ 21 < (per.map fun ts => ts.dedup.length).sum) || per.any fun ts => ts.dedup.any fun t => decide (65535 < ts.count t)

/-- TCM that the inline area leaves, a multiple of 4 KiB (R258). -/
def State.tcmRoom (s : State) : Nat := s.inlineBase / 4096 * 4096

/-! ## The graph (R283, R288) -/

/-- The kernels of the graph, in object order and record order (R281); `l`: the layout. -/
def Layout.kernels (l : Layout) (objs : List Vgo) : List Kernel :=
  let ks := kernelsOf objs
  let ts := tensorsOf objs
  let id (i : Nat) (t : String) : Nat := ((posOf ts (i, t)).bind fun n => l.ids[n]?).getD 0
  ks.map fun (i, k) =>
    { entry := (((objs[i]?).bind fun v => bodySym v k).map (l.value i)).getD 0, window := k.window,
      gx := k.gx, gy := k.gy, gz := k.gz, slots := k.slots, spad := k.spad, tcm := k.tcm, wide := k.wide,
      depvecs := k.depvecs, intags := k.intags.map fun t => (id i t.tensor, t.ci, t.cj, t.ck, t.c0),
      outtags := k.outtags.dedup.map (id i), afters := k.afters.filterMap fun a => ks.findIdx? fun x => x.1 == i && x.2.name == a }

/-- Check 4 in an object whose first kernel has number `base` in the graph: a launch record, the one that makes it more than
256 included, then the parameters. -/
def badRecord (base i : Nat) (v : Vgo) : Option LoadError :=
  ((numbered v.kernels).findSome? fun (n, k) =>
    if recordBad v k || decide (256 ≤ base + n) then some (graphError 4 i k.name) else none)
  <|> if paramsBad v then some (graphError 4 i "") else none

/-- Number of the first kernel of an object in the graph (R281). -/
def kernelBase (objs : List Vgo) (i : Nat) : Nat := ((objs.take i).map fun v => v.kernels.length).sum

/-- The first check of R282 that an upload breaks; within a check, the first item in upload order. -/
def State.loadError (s : State) (ctx : Nat) (objs : List Vgo) (l : Layout) : Option LoadError :=
  let os := numbered objs
  let resident := (s.graphs.map (·.textSize)).sum
  let each (check : Nat) (bad : Vgo → Nat → KernelRec → Bool) : Option LoadError :=
    os.findSome? fun (i, v) => (numbered v.kernels).findSome? fun (n, k) =>
      if bad v n k then some (graphError check i k.name) else none
  (os.findSome? fun (i, v) => if headerBad v then some ⟨1, i, "", 0, 0, ""⟩ else none)
  <|> (if 262144 < resident + textTotal objs then some ⟨2, 0, ".text", 0, 0, ""⟩ else none)
  <|> l.badRel objs
  <|> (os.findSome? fun (i, v) => badRecord (kernelBase objs i) i v)
  <|> each 5 (fun v n k => edgesBad v n k)
  <|> each 6 (fun _ _ k => k.depvecs.any depBad)
  <|> each 7 (fun _ _ k => k.intags.any (tileBad k))
  <|> (if consumersBad (({ l with ids := List.range (tensorsOf objs).length } : Layout).kernels objs) then some (graphError 8 0 "") else none)
  <|> each 9 (fun _ _ k => decide (s.tcmRoom < k.tcm) || decide (k.wide < winWide k.window))
  <|> (if 64 ≤ (s.graphs.filter fun g => g.ctx == ctx).length
        || 256 < (s.tensorIds ctx).length + (tensorsOf objs).length then some ⟨10, 0, "", 0, 0, ""⟩ else none)

/-- The layout of an upload: the code region from `base` on, the sections where the loader puts them, the lowest free tensor
ids. -/
def State.layout (s : State) (ctx : Nat) (objs : List Vgo) (at_ : List Placement) (base : Nat) : Layout :=
  let used := s.tensorIds ctx
  ⟨textBases base objs, at_, ((List.range 256).filter fun i => !used.contains i).take (tensorsOf objs).length⟩

/-! ## Writing an image -/

/-- Every byte of a range of virtual addresses is mapped, with that W bit; asked 64 KiB page by page. -/
def State.mappedRange (s : State) (ctx va n : Nat) (w : Bool) : Bool :=
  n == 0 || ((List.range ((va % 65536 + n + 65535) / 65536)).all fun i =>
    match s.walk ctx (va / 65536 * 65536 + i * 65536) with
    | .leaf _ _ x _ _ => x == w
    | .fault _ _ => false)

/-- The sections of an object can stand where the loader puts them: `.rodata` in read-only pages, `.data` and `.bss` in
writable ones, `.canopy` in granted canopy (R88). Every address has its section's aperture, that of an empty section too
(R86). -/
def State.placeable (s : State) (c : Context) (v : Vgo) (p : Placement) : Bool :=
  let global (a : Word) (n : Nat) (w : Bool) : Bool := bits a 52 12 == 0
    && (n == 0 || (decide (a.toNat + n ≤ 2 ^ 52) && s.mappedRange c.id a.toNat n w))
  global p.rodata v.rodata.length false && global p.data v.data.length true && global p.bss v.bss true
    && bits p.canopy 28 36 == 0xE00000000
    && (v.canopy.isEmpty || covered c.canopy (bits p.canopy 0 28).toNat v.canopy.length)

/-- The ranges of generic addresses that the sections of an object take: base and size. -/
def sectionClaims (v : Vgo) (p : Placement) : List (Nat × Nat) :=
  [(p.rodata.toNat, v.rodata.length), (p.data.toNat, v.data.length), (p.bss.toNat, v.bss), (p.canopy.toNat, v.canopy.length)].filter
    fun r => r.2 != 0

/-- No two ranges of a list overlap. -/
def disjointRanges (rs : List (Nat × Nat)) : Bool :=
  decide (rs.Pairwise fun a b => a.1 + a.2 ≤ b.1 ∨ b.1 + b.2 ≤ a.1)

/-- Ranges that sections of resident graphs take: the context's own, and canopy ranges of every context, which name one
memory (R192). -/
def State.residentClaims (s : State) (ctx : Nat) : List (Nat × Nat) :=
  s.graphs.flatMap fun g => g.claims.filter fun r => g.ctx == ctx || decide (0xE0 * 2 ^ 56 ≤ r.1)

/-- An upload's sections stand apart from each other and from those of resident graphs. -/
def State.apart (s : State) (ctx : Nat) (rs : List (Nat × Nat)) : Bool :=
  disjointRanges rs && rs.all fun a => (s.residentClaims ctx).all fun b => decide (a.1 + a.2 ≤ b.1) || decide (b.1 + b.2 ≤ a.1)

/-- Write the sections of an object. -/
def Layout.store (l : Layout) (objs : List Vgo) (c : Context) (s : State) (x : Nat × Vgo) : State :=
  match l.at_[x.1]? with
  | none => s
  | some p =>
    let v := x.2
    let get := l.section_ objs x.1 v
    let s := s.storeCode (l.text[x.1]?.getD 0) (get .text)
    let s := s.storeVa c.id p.rodata.toNat (get .rodata) launchId
    let s := s.storeVa c.id p.data.toNat (get .data) launchId
    let s := s.storeVa c.id p.bss.toNat (List.replicate v.bss 0) launchId
    s.storeAt (.canopy (bits p.canopy 0 28).toNat) (get .canopy) launchId

/-! ## UPLOAD_GRAPH, REMOVE_GRAPH, GRAPH_REMOVAL_COMPLETE (R281) -/

/-- Do an upload (R281): refused with the record of the first failing check, or loaded whole; none where its sections have no
place in HBM or canopy, or no code region is free yet that holds the `.text` (log entry 58). -/
def State.placeUpload (s : State) (c : Context) (u : Upload) : Option State :=
  let base := s.codeFit (textTotal u.objs)
  let l := s.layout c.id u.objs u.at_ (base.getD 0)
  match s.loadError c.id u.objs l with
  | some e => some (s.send (.reply u.hdr 0x10 2 e.bytes))
  | none =>
    let placed := u.objs.zip u.at_
    let claims := placed.flatMap fun x => sectionClaims x.1 x.2
    if base.isNone || !(placed.all fun x => s.placeable c x.1 x.2) || !s.apart c.id claims then none
    else
      let g : Graph :=
        { id := s.nextGraph, ctx := c.id, place := u.place, depth := u.depth,
          textBase := (l.text.head?).getD 0, textSize := textTotal u.objs, kernels := l.kernels u.objs,
          params := u.objs.flatMap (·.params), claims := claims, lastSeq := none,
          digests := u.objs.map fun v => sha384 v.file, removing := none }
      let s := (numbered u.objs).foldl (l.store u.objs c) s
      some ({ s with graphs := s.graphs ++ [g], nextGraph := s.nextGraph + 1 }.send (.reply u.hdr 0x10 0 (leBytes 4 g.id.toNat)))

/-- A graph is uploaded. `at_` is what the loader finds for its sections; an upload that has no place waits for one, and is
answered when it has been loaded or refused (R373, log entry 58). -/
def execUploadGraph (h : Hdr) (depth place : BitVec 8) (objs : List Vgo) (at_ : List Placement) (s : State) :
    Host.Outcome State Fault Refusal :=
  .next (s.onCommand h fun c =>
    if !h.wellFormed || depth = 0 || 4 < depth || objs.isEmpty || 16 < objs.length || at_.length != objs.length then
      s.send (.reply h 0x10 3 [])
    else
      let u : Upload := ⟨h, depth.toNat, place.toNat, objs, at_⟩
      (s.placeUpload c u).getD { s with uploads := s.uploads ++ [u] })

/-- The loader looks again for a place for an upload that waits, and finds `at_` (R281, R373). -/
def State.load (s : State) (h : Hdr) (at_ : List Placement) : State :=
  match s.uploads.find? fun u => u.hdr == h, s.ctx? h.ctx with
  | some u, some c =>
    if c.destroying.isSome || at_.length != u.objs.length then s
    else ((s.placeUpload c { u with at_ := at_ }).map fun s => { s with uploads := s.uploads.erase u }).getD s
  | _, _ => s

/-- No replay of a graph is queued or running. -/
def State.graphIdle (s : State) (g : Graph) : Bool :=
  s.running g.id == 0 && ((s.ctx? g.ctx).map fun c => !(c.kicks.any fun k => k.msg.graph == g.id)).getD true

/-- A graph's removal is asked for; it waits for its replays. -/
def execRemoveGraph (h : Hdr) (graph : BitVec 32) (s : State) : Host.Outcome State Fault Refusal :=
  .next (s.onCommand h fun c =>
    if !h.wellFormed then s.send (.reply h 0x11 3 [])
    else
      match s.graph? graph with
      | some g =>
        if g.ctx != c.id || g.removing.isSome then s.send (.reply h 0x11 2 [])
        else { s with graphs := s.graphs.map fun (x : Graph) => if x.id == graph then { x with removing := some h } else x }
      | none => s.send (.reply h 0x11 2 []))

/-- The graph is gone, and its id names nothing; so are the tag entries of its tensors. -/
def execGraphRemovalComplete (graph : BitVec 32) (s : State) : Host.Outcome State Fault Refusal :=
  .next (match s.graph? graph with
    | some g =>
      (match g.removing with
      | some h =>
        if !s.graphIdle g then s
        else
          let ts := g.kernels.flatMap fun k => k.outtags
          { s with graphs := s.graphs.filter fun x => x.id != graph
                   tags := s.tags.filter fun e => !(e.ctx == g.ctx && ts.contains (tagTensor e.name)) }.send (.reply h 0x11 0 [])
      | none => s)
    | none => s)

end Sys2Proof.Machine
end

