-- ==== Sys2Proof/Machine/Command.lean ====
section
/-! DEFINITION. The requests of a context's command endpoint (R373), the loader's apart, and quotes (R340). -/

namespace Sys2Proof.Machine

/-- A request of a command endpoint whose payload is well formed; any other is answered as malformed (R373). -/
def State.onRequest (s : State) (h : Hdr) (opcode : Nat) (ok : Bool) (f : Context → State) : State :=
  s.onCommand h fun c => if h.wellFormed && ok then f c else s.send (.reply h opcode 3 [])

/-- Answer a request of a command endpoint as done, or as refused. -/
def State.answer (s : State) (h : Hdr) (opcode : Nat) (done : Bool) : State :=
  s.send (.reply h opcode (if done then 0 else 2) [])

/-- Change the context and answer as done, where a rule does not refuse it. -/
def State.change (s : State) (h : Hdr) (opcode : Nat) (c : Context) (ok : Bool) (f : Context → Context) : State :=
  if ok then (s.updCtx c.id f).answer h opcode true else s.answer h opcode false

/-- Every leaf of a range of virtual addresses is valid and has the bits asked for; asked 64 KiB page by page (R316, R329,
R337). -/
def State.leavesOk (s : State) (ctx va n : Nat) (w : Bool) : Bool :=
  decide (va + n ≤ 2 ^ 52) && (List.range ((va % 65536 + n + 65535) / 65536)).all fun i =>
    match s.walk ctx (va / 65536 * 65536 + i * 65536) with
    | .leaf _ _ wr pinned _ => pinned && (wr || !w)
    | .fault _ _ => false

/-- A global address (R192). -/
def globalVa (a : Word) : Option Nat := if bits a 52 12 = 0 then some a.toNat else none

/-- SET_PT_ROOT (R324, R328): refused unless the table is aligned and lies in the grants. -/
def execSetPtRoot (h : Hdr) (pa : Word) (s : State) : Host.Outcome State Fault Refusal :=
  .next (s.onRequest h 0x13 true fun c =>
    s.change h 0x13 c (decide (pa.toNat % 4096 = 0) && covered c.grants pa.toNat 4096) fun c => { c with ptRoot := some pa.toNat })

/-- SET_PEER_TABLE_ENTRY (R337). -/
def execSetPeerTableEntry (h : Hdr) (peer dev : BitVec 16) (endpoint length : Word) (s : State) :
    Host.Outcome State Fault Refusal :=
  .next (s.onRequest h 0x14 (decide (peer.toNat < 512)) fun c =>
    s.change h 0x14 c true fun c =>
      { c with peers := (peer.toNat, ⟨dev.toNat, endpoint, length.toNat⟩) :: c.peers.filter fun p => p.1 != peer.toNat })

/-- SET_EXPORTED_WINDOW (R324, R337): length 0 stands for no window. -/
def execSetExportedWindow (h : Hdr) (base length : Word) (accept : List (BitVec 16 × BitVec 16)) (s : State) :
    Host.Outcome State Fault Refusal :=
  .next (s.onRequest h 0x15 true fun c =>
    if length = 0 then s.change h 0x15 c true fun c => { c with window := none }
    else
      let ok := decide (base.toNat % 65536 = 0) && decide (length.toNat % 65536 = 0)
        && s.leavesOk c.id base.toNat length.toNat false
      s.change h 0x15 c ok fun c =>
        { c with window := some ⟨base.toNat, length.toNat, accept.map fun a => (a.1.toNat, a.2.toNat)⟩ })

/-- SET_FAR_TABLE_ENTRY (R244): a timeout of 0 is the default, 1 ms. -/
def execSetFarTableEntry (h : Hdr) (entry : BitVec 8) (server : Word) (port : BitVec 8) (timeoutUs : BitVec 32)
    (s : State) : Host.Outcome State Fault Refusal :=
  .next (s.onRequest h 0x16 (decide (entry.toNat < 64) && decide (port.toNat < 16)) fun c =>
    let e : FarEntry := ⟨server, port.toNat, if timeoutUs = 0 then 1000 else timeoutUs.toNat⟩
    s.change h 0x16 c true fun c => { c with far := (entry.toNat, e) :: c.far.filter fun x => x.1 != entry.toNat })

/-- SET_COMMUNICATOR (R247): a timeout of 0 is the default, 50 µs. Collectives that are open keep their numbering. -/
def execSetCommunicator (h : Hdr) (comm p rank : BitVec 16) (prev next group : Word) (timeoutUs : BitVec 32)
    (s : State) : Host.Outcome State Fault Refusal :=
  .next (s.onRequest h 0x17 (decide (2 ≤ p.toNat) && decide (p.toNat ≤ 512) && decide (rank.toNat < p.toNat)) fun c =>
    let old := c.comms.find? fun x => x.num == comm.toNat
    let keep := (old.map fun x => !x.open_.isEmpty).getD false
    let m : Comm :=
      { num := comm.toNat, p := p.toNat, rank := rank.toNat, prev := prev, next := next, group := group,
        timeoutUs := if timeoutUs = 0 then 50 else timeoutUs.toNat,
        issued := if keep then (old.map (·.issued)).getD 0 else 0,
        open_ := (old.map (·.open_)).getD [],
        early := if keep then (old.map (·.early)).getD [] else [] }
    s.change h 0x17 c true fun c => { c with comms := m :: c.comms.filter fun x => x.num != comm.toNat })

/-- SET_FP_CTL (R348, R116): a mode value of 5 to 7 leaves the mode as it was. -/
def execSetFpCtl (h : Hdr) (v : Word) (s : State) : Host.Outcome State Fault Refusal :=
  .next (s.onRequest h 0x18 true fun c =>
    s.change h 0x18 c true fun c =>
      let rm : BitVec 10 := if 5 ≤ (bits v 0 3).toNat then c.fpCtl &&& 0x7 else bits v 0 10 &&& 0x7
      { c with fpCtl := (bits v 0 10 &&& 0x3F8) ||| rm })

/-- SET_JOB_SEED (R118). -/
def execSetJobSeed (h : Hdr) (v : Word) (s : State) : Host.Outcome State Fault Refusal :=
  .next (s.onRequest h 0x18 true fun c => s.change h 0x18 c true fun c => { c with jobSeed := v })

/-- SET_STRATUS_CTL (R181): a value above 256 leaves the register as it was. -/
def execSetStratusCtl (h : Hdr) (v : Word) (s : State) : Host.Outcome State Fault Refusal :=
  .next (s.onRequest h 0x18 true fun c =>
    s.change h 0x18 c true fun c =>
      { c with stratusCtl := if 256 < v.toNat then c.stratusCtl else zext64 (bits v 0 9) })

/-- The contrail buffer of a base and a control value is mapped and pinned (R316, R329). -/
def State.contrailOk (s : State) (ctx : Nat) (base ctl : Word) : Bool :=
  match globalVa base with
  | some va => s.leavesOk ctx va (273 * 2 ^ (bits ctl 0 5).toNat * 32) true
  | none => false

/-- SET_CONTRAIL_BASE (R316). -/
def execSetContrailBase (h : Hdr) (v : Word) (s : State) : Host.Outcome State Fault Refusal :=
  .next (s.onRequest h 0x18 true fun c =>
    s.change h 0x18 c (decide (v.toNat % 4096 = 0) && s.contrailOk c.id v c.contrailCtl) fun c => { c with contrailBase := v })

/-- SET_CONTRAIL_CTL (R316). -/
def execSetContrailCtl (h : Hdr) (v : Word) (s : State) : Host.Outcome State Fault Refusal :=
  .next (s.onRequest h 0x18 true fun c =>
    let z := (bits v 0 5).toNat
    s.change h 0x18 c (decide (8 ≤ z) && decide (z ≤ 22) && s.contrailOk c.id c.contrailBase v) fun c =>
      { c with contrailCtl := v &&& 0x11F })

/-- SET_FREEZE_AND_DUMP (R367): in force from the next kick taken on. -/
def execSetFreezeAndDump (h : Hdr) (limitMs : BitVec 32) (base : Word) (size : BitVec 32) (s : State) :
    Host.Outcome State Fault Refusal :=
  .next (s.onRequest h 0x19 true fun c =>
    let bytes := size.toNat * 65536
    let ok := decide (limitMs.toNat ≤ 3600000) && decide (base.toNat % 4096 = 0) && decide (65536 ≤ bytes)
      && decide (bytes ≤ 268435456) && ((globalVa base).map fun va => s.leavesOk c.id va bytes true).getD false
    s.change h 0x19 c ok fun c => { c with newFreeze := some (limitMs.toNat, base, bytes) })

/-- SUSPEND_CONTEXT (R360): the clusters stop, to be saved; the reply is sent when none is left. Those of a frozen context are
held until its release, and no save of them begins (R368). -/
def execSuspendContext (h : Hdr) (s : State) : Host.Outcome State Fault Refusal :=
  .next (s.onRequest h 0x1A true fun c =>
    let s := s.updCtx c.id fun c => { c with suspended := true, suspendReq := c.suspendReq ++ [h] }
    let s := { s with clusters := s.clusters.map fun (k : Cluster) =>
      if k.ctx == some c.id && c.freeze.isNone then { k with stopped := true, saving := true } else k }
    s.suspendDone c.id)

/-- RESUME_CONTEXT (R360): the saved clusters may be restored. -/
def execResumeContext (h : Hdr) (s : State) : Host.Outcome State Fault Refusal :=
  .next (s.onRequest h 0x1B true fun c => s.change h 0x1B c c.freeze.isNone fun c => { c with suspended := false })

/-! ## Quotes (R340) -/

/-- Digest over the objects of a context's graphs, in ascending graph id; 0 for a management request. -/
def State.contextDigest (s : State) (ctx : Option Nat) : BitVec 384 :=
  match ctx with
  | none => 0
  | some i =>
    let gs := (s.graphs.filter fun g => g.ctx == i).mergeSort fun a b => decide (a.id.toNat ≤ b.id.toNat)
    sha384 (gs.flatMap fun g => g.digests.flatMap fun d => leBytes 48 d.toNat)

/-- Bytes 0 to 511 of a quote. -/
def State.quoteBody (s : State) (ctx : Option Nat) (nonce : BitVec 384) : List Byte :=
  let attached := ((ctx.bind s.ctx?).map (·.attached)).getD false
  leBytes 4 1 ++ leBytes 4 ((if s.boot == .recovery then 1 else 0) + if attached then 2 else 0)
    ++ leBytes 48 nonce.toNat
    ++ ((List.finRange 8).flatMap fun i => leBytes 2 (if i.val < 6 then s.versions[i.val].toNat else 0))
    ++ ((List.finRange 8).flatMap fun i => leBytes 48 s.measure[i.val].toNat)
    ++ leBytes 4 (ctx.getD 0xFFFFFFFF) ++ leBytes 4 0 ++ leBytes 48 (s.contextDigest ctx).toNat

/-- A quote of 608 bytes. -/
def State.quote (s : State) (ctx : Option Nat) (nonce : BitVec 384) : List Byte :=
  let body := s.quoteBody ctx nonce
  body ++ leBytes 96 (Config.sign (sha384 body)).toNat

/-- CONTEXT_QUOTE (R340). -/
def execContextQuote (h : Hdr) (nonce : BitVec 384) (s : State) : Host.Outcome State Fault Refusal :=
  .next (s.onRequest h 0x1C true fun c => s.send (.reply h 0x1C 0 (s.quote (some c.id) nonce)))

/-- SHOOTDOWN_COMMAND (R331). -/
def execShootdownCommand (h : Hdr) (v : Word) (s : State) : Host.Outcome State Fault Refusal :=
  .next (s.onRequest h 0x1D true fun c => s.startShoot c.id v (.command h))

end Sys2Proof.Machine
end

