-- ==== Sys2Proof/Machine/Control.lean ====
section
/-! DEFINITION. Control transfer (R64 to R66), the instructions whose effect is a trap (R352, R353), and the traps that a
failed fetch or decode raises (R23, R51). -/

namespace Sys2Proof.Machine

/-- B (R64). -/
def execB (o : BitVec 20) (s : State) : Host.Outcome State Fault Refusal :=
  attempt (.b o) s fun s t _ => .ok (s.goto t.uid (t.pc + 2 * zext64 o))

/-- CALL (R66): the link, and a transfer in either direction. -/
def execCall (d : IReg) (i : BitVec 15) (s : State) : Host.Outcome State Fault Refusal :=
  attempt (.call d i) s fun s t p =>
    .ok ((s.result t p (intResult d (t.pc + 4)) .alu none).goto t.uid (t.pc + 2 * sext64 i))

/-- BRI (R65): a target that is not above the BRI itself is a backward-transfer trap. -/
def execBri (a : IReg) (i : BitVec 10) (s : State) : Host.Outcome State Fault Refusal :=
  attempt (.bri a i) s fun s t _ =>
    let target := t.int a + 2 * sext64 i
    if target ≤ t.pc then .error (.plain 0x07 target) else .ok (s.goto t.uid target)

/-- CALLR (R66). -/
def execCallr (d a : IReg) (i : BitVec 10) (s : State) : Host.Outcome State Fault Refusal :=
  attempt (.callr d a i) s fun s t p =>
    .ok ((s.result t p (intResult d (t.pc + 4)) .alu none).goto t.uid (t.int a + 2 * sext64 i))

/-- RET (R66). -/
def execRet (a : IReg) (s : State) : Host.Outcome State Fault Refusal :=
  attempt (.ret a) s fun s t _ => .ok (s.goto t.uid (t.int a))

/-- TRAP (R352): a software trap that resumes at the next halfword. -/
def execTrap (c : BitVec 10) (s : State) : Host.Outcome State Fault Refusal :=
  attempt (.trap c) s fun _ t _ => .error ⟨0x13, 0, zext64 c, some (t.pc + 2), none, none⟩

/-- BKPT (R353): a breakpoint trap that resumes after it. -/
def execBkpt (s : State) : Host.Outcome State Fault Refusal :=
  attempt .bkpt s fun _ t _ => .error ⟨0x12, 0, 8, some (t.pc + 4), none, none⟩

/-- HALT (R353): the fatal halt fault; in trap service, the served trap becomes fatal with its own code. The pc stays
at the HALT. -/
def execHalt (s : State) : Host.Outcome State Fault Refusal :=
  attempt .halt s fun s t _ =>
    let s := s.goto t.uid t.pc
    match (s.coreAt t.phys t.core).serving with
    | some (r, svc) =>
      if svc = t.uid then
        match s.thread? r.uid with
        | some v => .ok (s.threadContextFault v r.code r.addr r.data r.info)
        | none => .ok (s.threadContextFault t r.code r.addr r.data r.info)
      else .ok (s.threadContextFault t 0x44 t.pc 0 0)
    | none => .ok (s.threadContextFault t 0x44 t.pc 0 0)

/-- An illegal word raises the illegal-instruction trap whatever its guard (R51, R53). -/
def execIllegalInstruction (s : State) : Host.Outcome State Fault Refusal :=
  match s.port with
  | none => .fault .noIssuer
  | some p =>
    match s.thread? p.uid with
    | none => .fault .noIssuer
    | some t => .next (s.takeTrap t p .illegal)

/-- A fetch at an odd address, or outside the graph's `.text`, raises the instruction-address trap with the first
halfword that could not be fetched (R23, R31). -/
def execInstructionAddressTrap (s : State) : Host.Outcome State Fault Refusal :=
  match s.port with
  | none => .fault .noIssuer
  | some p =>
    match s.thread? p.uid with
    | none => .fault .noIssuer
    | some t =>
      let data := match s.fetch t.graph t.pc with
        | .bad d => d
        | _ => t.pc
      .next (s.takeTrap t p (.plain 0x01 data))

end Sys2Proof.Machine
end

