-- ==== Sys2Proof/Machine/Ecdsa.lean ====
section
/-! DEFINITION. Verification of an ECDSA P-384 signature, which R338 and R340 name and do not define: the curve and the
algorithm of FIPS 186 (log entry 11). Points are kept in Jacobian coordinates (X, Y, Z), Z = 0 being the point at infinity. -/

namespace Sys2Proof.Machine

/-- The prime of the field. -/
def p384P : Nat := 0xFFFFFFFFFFFFFFFFFFFFFFFFFFFFFFFFFFFFFFFFFFFFFFFFFFFFFFFFFFFFFFFEFFFFFFFF0000000000000000FFFFFFFF

/-- The order of the base point. -/
def p384N : Nat := 0xFFFFFFFFFFFFFFFFFFFFFFFFFFFFFFFFFFFFFFFFFFFFFFFFC7634D81F4372DDF581A0DB248B0A77AECEC196ACCC52973

/-- The coefficient b of y² = x³ − 3x + b. -/
def p384B : Nat := 0xB3312FA7E23EE7E4988E056BE3F82D19181D9C6EFE8141120314088F5013875AC656398D8A2ED19D2A85C8EDD3EC2AEF

/-- The base point. -/
def p384G : Nat × Nat × Nat :=
  (0xAA87CA22BE8B05378EB1C71EF320AD746E1D3B628BA79B9859F741E082542A385502F25DBF55296C3A545E3872760AB7,
   0x3617DE4A96262C6F5D9E98BF9292DC29F8F41DBD289A147CE9DA3113B5F0B8C00A60B1CE1D7E819D7A431D7C90EA0E5F, 1)

/-- Twice a point. -/
def p384Double (a : Nat × Nat × Nat) : Nat × Nat × Nat :=
  let p := p384P
  let yy := a.2.1 * a.2.1 % p
  let zz := a.2.2 * a.2.2 % p
  let s := 4 * a.1 * yy % p
  let m := 3 * (a.1 + zz) * (a.1 + p - zz) % p
  let x := (m * m + 2 * p - 2 * s) % p
  (x, (m * (s + p - x) + 8 * (p - yy) * yy) % p, 2 * a.2.1 * a.2.2 % p)

/-- The sum of two points. -/
def p384Add (a b : Nat × Nat × Nat) : Nat × Nat × Nat :=
  let p := p384P
  if a.2.2 = 0 then b
  else if b.2.2 = 0 then a
  else
    let za := a.2.2 * a.2.2 % p
    let zb := b.2.2 * b.2.2 % p
    let u := a.1 * zb % p
    let h := (b.1 * za + p - u) % p
    let s := a.2.1 * zb * b.2.2 % p
    let r := (b.2.1 * za * a.2.2 + p - s) % p
    if h = 0 then (if r = 0 then p384Double a else (1, 1, 0))
    else
      let hh := h * h % p
      let hhh := h * hh % p
      let v := u * hh % p
      let x := (r * r + 3 * p - hhh - 2 * v) % p
      (x, (r * (v + p - x) + (p - s) * hhh) % p, h * a.2.2 * b.2.2 % p)

/-- u · G + v · Q, by the `n` low bits of u and v, the highest first; `gq`: G + Q. -/
def p384Sum (q gq : Nat × Nat × Nat) (u v : Nat) : Nat → Nat × Nat × Nat → Nat × Nat × Nat
  | 0, acc => acc
  | n + 1, acc =>
    let d := p384Double acc
    p384Sum q gq u v n (match u.testBit n, v.testBit n with
      | false, false => d
      | true, false => p384Add d p384G
      | false, true => p384Add d q
      | true, true => p384Add d gq)

/-- x to the power e modulo the order, by the `n` low bits of e, the highest first. -/
def p384Pow (x e : Nat) : Nat → Nat → Nat
  | 0, acc => acc
  | n + 1, acc =>
    let d := acc * acc % p384N
    p384Pow x e n (if e.testBit n then d * x % p384N else d)

/-- A point of the curve. -/
def p384On (x y : Nat) : Bool :=
  decide (x < p384P) && decide (y < p384P) && (y * y + 3 * x) % p384P == (x * x * x + p384B) % p384P

/-- The signature `sig`, r then s, over the digest verifies against the public key, x then y. -/
def ecdsaOk (key : P384Pair) (digest : BitVec 384) (sig : P384Pair) : Bool :=
  let x := key.toNat / 2 ^ 384
  let y := key.toNat % 2 ^ 384
  let r := sig.toNat / 2 ^ 384
  let s := sig.toNat % 2 ^ 384
  p384On x y && decide (0 < r) && decide (r < p384N) && decide (0 < s) && decide (s < p384N) &&
    (let w := p384Pow s (p384N - 2) 384 1
     let q := (x, y, 1)
     let a := p384Sum q (p384Add p384G q) (digest.toNat * w % p384N) (r * w % p384N) 384 (1, 1, 0)
     let zz := a.2.2 * a.2.2 % p384P
     a.2.2 != 0 && (r * zz % p384P == a.1 || (decide (r + p384N < p384P) && (r + p384N) * zz % p384P == a.1)))

end Sys2Proof.Machine
end

