-- ==== Sys2Proof/Machine/Manage.lean ====
section
/-! DEFINITION. The management endpoint (R372): contexts (R324 to R326), scrubs, quotes and the identity certificate (R339,
R340), fencing by the host (R364), events (R366), power, ranges (R306), boot (R21, R338) and PTP (R318). -/

namespace Sys2Proof.Machine

/-- A request that the management endpoint accepts, once the module has booted (R335). -/
def State.onManage (s : State) (h : Hdr) (opcode : Nat) (ok : Bool) (f : State) : State :=
  if s.boot == .off then s
  else if !accepts s.cfg.mgmtSrcs s.cfg.mgmtPolicy h.env then s.drop
  else if h.wellFormed && ok then f
  else s.send (.reply h opcode 3 [])

/-! ## BOOT (R21, R338, R10) and PTP_SYNC (R318) -/

/-- The 96 bytes of a public key, each coordinate's most significant byte first (PRESUMED, log entry 11). -/
def keyBytes (k : P384Pair) : List Byte := (leBytes 96 k.toNat).reverse

/-- ECDSA P-384 over SHA-384 (R338): the signature over some bytes verifies against a key. -/
def signedBy (key : P384Pair) (bytes : List Byte) (sig : P384Pair) : Bool :=
  ecdsaOk key (BitVec.ofNat 384 (leNat (leBytes 48 (sha384 bytes).toNat).reverse)) sig

/-- What the root key signs of a certificate: the key that it names, then the device's identity key where it names one
(PRESUMED, log entry 11). -/
def Cert.bytes (c : Cert) : List Byte := keyBytes c.key ++ (c.device.map keyBytes).getD []

/-- An image verifies against the root key of a digest (R338): signed by the root key, or by a key that a certificate of the
root key names; an owner's certificate, which names this device's identity key too, serves for register 5's, the configuration
blob's, alone. -/
def imageOk (rootDigest : BitVec 384) (n : Nat) (i : Image) : Bool :=
  sha384 (keyBytes i.root) == rootDigest && (match i.signer with
    | .root => signedBy i.root i.bytes i.sig
    | .certified c => (c.device.all fun d => n == 5 && d == Config.identityKey)
        && signedBy i.root (Cert.bytes c) c.sig && signedBy c.key i.bytes i.sig)

/-- Verify images in the order of the registers; each that verifies extends its register with the digest of its bytes, and the
first that does not ends the attempt. -/
def State.loadImages (s : State) : Nat → List Image → Bool × State
  | _, [] => (true, s)
  | n, i :: rest =>
    if !imageOk Config.rootKeyDigest n i then (false, s)
    else
      let m : BitVec 384 := s.measure[n]?.getD 0
      let d := sha384 (leBytes 48 m.toNat ++ leBytes 48 (sha384 i.bytes).toNat)
      State.loadImages { s with measure := s.measure.set! n d, versions := s.versions.set! n i.version } (n + 1) rest

/-- The logical map of a blob: 256 entries, each a physical cluster or none. -/
def bootMap (m : List Nat) : List Nat := (List.range 256).map fun n => if m[n]?.getD 256 < 256 then m[n]?.getD 256 else 256

/-- Values of a blob that its fields may hold (R258, R291). -/
def blobOk (c : BlobCfg) : Bool :=
  (c.frames == 8 || c.frames == 16 || c.frames == 32) && decide (100 ≤ c.quantumUs) && decide (c.quantumUs ≤ 100000)

/-- Put a verified blob in force. -/
def State.applyBlob (s : State) (b : Boot) (c : BlobCfg) : State :=
  { s with boot := b
           cfg := if blobOk c then c
             else { BlobCfg.default with mgmtSrcs := c.mgmtSrcs, mgmtPolicy := c.mgmtPolicy, lmap := c.lmap,
                                         deviceRegion := c.deviceRegion }
           lmap := bootMap c.lmap }

/-- A boot in which no image set has verified (R21): no context is ever started, and the management endpoint answers the
sources that the implementation gives it. Nothing comes from a blob that has not verified (log entry 55). -/
def State.failBoot (s : State) : State :=
  { s with boot := .failed
           cfg := { s.cfg with mgmtSrcs := Config.failedSrcs
                               mgmtPolicy := if Config.failedPolicy = 0 then .required
                                 else if Config.failedPolicy = 1 then .preferred else .none } }

/-- Power-on: the primary images, or else the recovery images, or else no context is ever started. What is put in force is what
the blob of the set that verified holds (R338). -/
def execBoot (primary recovery : List Image) (cfg : Blobs) (s : State) : Host.Outcome State Fault Refusal :=
  .next (
    if s.boot != .off then s
    else
      let full (is : List Image) : Bool := is.length == 6
      match s.loadImages 0 (primary.take 6) with
      | (ok, s) =>
        if ok && full primary then s.applyBlob .primary cfg.primary
        else
          match s.loadImages 0 (recovery.take 6) with
          | (ok, s) => if ok && full recovery then s.applyBlob .recovery cfg.recovery else s.failBoot)

/-- A PTP message sets the device time. -/
def execPtpSync (t : Nat) (s : State) : Host.Outcome State Fault Refusal :=
  .next (if s.boot == .off then s else { s with now := t })

/-! ## CREATE_CONTEXT (R324) -/

/-- A context just created: no grant, no cluster, every register at its reset value (R348). -/
def Context.fresh (id : Nat) (credential : BitVec 256) : Context :=
  { id := id, grants := [], canopy := [], ptRoot := none, allot := [], prio := 0, cmdSrcs := [], cmdPolicy := .required,
    dbgSrcs := [], dbgPolicy := .required, winSrcs := [], winPolicy := .required, winEndpoint := 0,
    farAccept := [], commAccept := [], credential := credential, peers := [],
    window := none, far := [], comms := [], jobSeed := 0, fpCtl := 0, stratusCtl := 0, contrailBase := 0, contrailCtl := 0,
    trapVec := 0, sumStatus := 0, censusSel := 0, freezeLimit := 10000, dumpBase := 0, dumpSize := 0, dumpAt := none, newFreeze := none,
    bkpts := Vector.replicate 8 ⟨0, 0, 0, false⟩, debugger := none, kicks := [], freeze := none, suspended := false,
    suspendReq := [], destroying := none, releaseReq := none, recSeq := [] }

/-- CREATE_CONTEXT, with the context's debug credential: the lowest free id, which the reply carries. -/
def execCreateContext (m : CreateMsg) (s : State) : Host.Outcome State Fault Refusal :=
  .next (s.onManage m.hdr 0x01 true
    (match if s.boot == .failed then none else (List.range 64).find? fun i => (s.ctx? i).isNone with
    | some i => { s with ctxs := s.ctxs ++ [Context.fresh i m.credential] }.send (.reply m.hdr 0x01 0 (leBytes 4 i))
    | none => s.send (.reply m.hdr 0x01 2 [])))

/-! ## DESTROY_CONTEXT, CONTEXT_DESTROY_DRAINED (R326) -/

/-- Stop every thread of a context wherever it stands, as FKILL stops a member, with its families, which start no more
members; one of a saved cluster is stopped there. -/
def State.stopThreads (s : State) (ctx : Nat) : State :=
  let uids := (s.threads.filter fun t => t.ctx == ctx).map (·.uid)
  let s := { s with families := s.families.map fun (f : Family) => if f.ctx == ctx then { f with killed := true } else f }
  let s := uids.foldl (fun s u => s.endMember u) s
  { s with saves := s.saves.map fun (x : SaveRec) =>
      if x.ctx == ctx then { x with threads := x.threads.map fun (t : Thread) => { t with run := .ended } } else x }

/-- DESTROY_CONTEXT, steps 1 and 2: the queued kicks are discarded and every thread stops; the units go on. -/
def execDestroyContext (h : Hdr) (ctx : Nat) (s : State) : Host.Outcome State Fault Refusal :=
  .next (s.onManage h 0x02 true
    (match s.ctx? ctx with
    | none => s.send (.reply h 0x02 2 [])
    | some c =>
      if c.destroying.isSome then s.send (.reply h 0x02 2 [])
      else
        let s := c.kicks.foldl (fun s k => s.complete ctx k.req k.msg.graph k.msg.seq 0x80000002) s
        let s := (match c.releaseReq with
          | some (r, _) => s.send (.reply r 0x29 2 [])
          | none => s)
        let s := s.updCtx ctx fun c => { c with kicks := [], destroying := some h, freeze := none, releaseReq := none }
        let s := { s with
          freezeOrder := s.freezeOrder.filter (· != ctx)
          clusters := s.clusters.map fun (k : Cluster) => if k.ctx == some ctx then { k with stopped := false, saving := false } else k }
        s.stopThreads ctx))

/-- A copy waits for a cluster that is saved, and has nothing left that could move: it cannot complete any more. -/
def State.stranded (s : State) (c : Copy) : Bool :=
  !s.movable c && c.units.any fun u => !u.1.present || u.2.any fun l => !l.present

/-- Every access, reduction, publication and copy that the context issued has been performed or has completed. -/
def State.destroyDrained (s : State) (ctx : Nat) : Bool :=
  (s.accs.all fun a => a.ctx != ctx || !a.loc.present || a.mayStay)
    && (s.copies.all fun c => c.ctx != ctx || s.stranded c) && (s.pubs.all fun p => p.ctx != ctx || p.stale)
    && ((s.heldClusters ctx).all fun p => (s.clusterAt p).array.isNone && s.cores.all fun k => k.phys != p || k.mq.isEmpty)
    && (s.shoots.all fun d => d.ctx != ctx || (match d.for_ with
      | .thread _ => true
      | _ => false))

/-- Step 4: every cluster that the context was the last to hold is cleared, so that a new context with its id finds nothing
there (R323, R333). -/
def State.clearHeld (s : State) (ctx : Nat) : State :=
  (s.clusters.filter fun k => k.lastCtx == some ctx).foldl
    (fun s k => (s.clearCluster k.phys).updCluster k.phys fun k => { k with lastCtx := none }) s

/-- Steps 3 to 5: what is keyed by the context anywhere is gone, and its id is free. -/
def State.dropContext (s : State) (ctx : Nat) : State :=
  let s := s.clearHeld ctx
  let s := (s.accs.filter fun a => a.ctx == ctx).foldl (fun s a => match a.peer with
    | some (d, p) => s.send (.peerReply d p false 0 PeerAnswer.none.mark)
    | none => s) s
  { s with
    accs := s.accs.filter fun a => a.ctx != ctx
    copies := s.copies.filter fun c => c.ctx != ctx
    pubs := s.pubs.filter fun p => p.ctx != ctx
    uploads := s.uploads.filter fun u => u.hdr.ctx != ctx
    tags := s.tags.filter fun e => e.ctx != ctx
    sums := s.sums.filter fun x => x.ctx != ctx
    census := s.census.filter fun c => c.ctx != ctx
    tlb := s.tlb.filter fun l => l.ctx != ctx
    walks := s.walks.filter fun x => x.ctx != ctx
    shoots := s.shoots.filter fun d => d.ctx != ctx
    graphs := s.graphs.filter fun g => g.ctx != ctx
    ranges := s.ranges.map fun r => if r.owner == some ctx then ⟨none, false, 0, 0, 0, 0, none⟩ else r
    ctxs := s.ctxs.filter fun c => c.id != ctx }

/-- Requests of the context that are still to be answered: suspensions, uploads that wait for room, which are refused, removals
of graphs. -/
def State.answerRest (s : State) (c : Context) : State :=
  let s := c.suspendReq.foldl (fun s h => s.send (.reply h 0x1A 0 [])) s
  let s := (s.uploads.filter fun u => u.hdr.ctx == c.id).foldl (fun s u => s.send (.reply u.hdr 0x10 2 [])) s
  (s.graphs.filter fun g => g.ctx == c.id).foldl (fun s g => match g.removing with
    | some h => s.send (.reply h 0x11 0 [])
    | none => s) s

/-- CONTEXT_DESTROY_DRAINED: its running replays end with 0x80000006, its clusters are cleared, and nothing of it is left. -/
def execContextDestroyDrained (ctx : Nat) (s : State) : Host.Outcome State Fault Refusal :=
  .next (match s.ctx? ctx with
    | none => s
    | some c =>
      match c.destroying with
      | none => s
      | some h =>
        if !s.destroyDrained ctx then s
        else (((s.endContextWork ctx fun _ => 0x80000006).answerRest c).dropContext ctx).send (.reply h 0x02 0 []))

/-! ## SET_GRANTS (R325, R289, R335, R336) -/

/-- A range of HBM that may be granted or scrubbed: below 768 GiB and outside the device regions, on one die. -/
def State.hbmOk (s : State) (base len : Nat) : Bool :=
  let die := base / 0x6000000000
  decide (die < 2) && decide (base + len ≤ (die + 1) * 0x6000000000 - s.cfg.deviceRegion)

/-- A grant (R325); one that spans the dies holds a byte of die 0's device region. -/
def State.grantOk (s : State) (g : Nat × Nat) : Bool :=
  decide (g.1 % 65536 = 0) && decide (g.2 % 65536 = 0) && s.hbmOk g.1 g.2

/-- A canopy grant (R325). -/
def canopyOk (g : Nat × Nat) : Bool :=
  decide (g.1 % 65536 = 0) && decide (g.2 % 65536 = 0) && decide (g.1 + g.2 ≤ 0x10000000)

/-- No rule refuses what the command sets. -/
def State.grantsOk (s : State) (g : GrantSet) : Bool :=
  decide (g.grants.length ≤ 16) && g.grants.all s.grantOk && decide (g.canopy.length ≤ 8) && g.canopy.all canopyOk
    && g.allot.all (fun l => decide (l < 256)) && decide (g.prio ≤ 3)

/-- Every byte of some ranges lies in others. -/
def rangesWithin (old new : List (Nat × Nat)) : Bool := old.all fun r => covered new r.1 r.2

/-- A change of a context's grants is on its way. -/
def State.grantsPending (s : State) (ctx : Nat) : Bool :=
  s.shoots.any fun d => d.ctx == ctx && (match d.for_ with
    | .grants _ _ _ => true
    | _ => false)

/-- SET_GRANTS: a command that shrinks or removes a grant runs a shootdown of the whole context first. -/
def execSetGrants (h : Hdr) (ctx : Nat) (gs : GrantSet) (s : State) : Host.Outcome State Fault Refusal :=
  .next (s.onManage h 0x03 true
    (match s.ctx? ctx with
    | none => s.send (.reply h 0x03 2 [])
    | some c =>
      if !s.grantsOk gs || c.destroying.isSome then s.send (.reply h 0x03 2 [])
      else
        let s := s.updCtx ctx fun c =>
          { c with allot := gs.allot, prio := gs.prio, cmdSrcs := gs.cmdSrcs, cmdPolicy := gs.cmdPolicy,
                   dbgSrcs := gs.dbgSrcs, dbgPolicy := gs.dbgPolicy, winSrcs := gs.winSrcs, winPolicy := gs.winPolicy,
                   winEndpoint := gs.winEndpoint, farAccept := gs.farAccept, commAccept := gs.commAccept }
        if rangesWithin c.grants gs.grants && rangesWithin c.canopy gs.canopy && !s.grantsPending ctx then
          (s.updCtx ctx fun c => { c with grants := gs.grants, canopy := gs.canopy }).send (.reply h 0x03 0 [])
        else s.startShoot ctx 3 (.grants h gs.grants gs.canopy)))

/-! ## SCRUB_RANGE, SCRUB_COMPLETE (R325) -/

def rangesMeet (base len : Nat) (rs : List (Nat × Nat)) : Bool :=
  rs.any fun r => decide (r.1 < base + len) && decide (base < r.1 + r.2)

/-- SCRUB_RANGE: refused where a context holds a byte of the range. -/
def execScrubRange (h : Hdr) (base len : Nat) (s : State) : Host.Outcome State Fault Refusal :=
  .next (s.onManage h 0x04 true
    (if s.hbmOk base len && !(s.ctxs.any fun c => rangesMeet base len c.grants) then
      { s with scrubs := s.scrubs ++ [(base, len, h)] }
    else s.send (.reply h 0x04 2 [])))

/-- SCRUB_COMPLETE: the oldest scrub's writes have all been performed. -/
def execScrubComplete (s : State) : Host.Outcome State Fault Refusal :=
  .next (match s.scrubs with
    | [] => s
    | (base, len, h) :: rest =>
      { s with
        scrubs := rest
        mem := Mem.clear s.mem base len
        poison := s.poison.filter fun w => !(decide (base ≤ 8 * w) && decide (8 * w + 8 ≤ base + len)) }.send
          (.reply h 0x04 0 []))

/-! ## QUOTE, IDENTITY_CERTIFICATE (R339, R340) -/

/-- QUOTE. -/
def execQuote (h : Hdr) (nonce : BitVec 384) (s : State) : Host.Outcome State Fault Refusal :=
  .next (s.onManage h 0x05 true (s.send (.reply h 0x05 0 (s.quote none nonce))))

/-- IDENTITY_CERTIFICATE. -/
def execIdentityCertificate (h : Hdr) (s : State) : Host.Outcome State Fault Refusal :=
  .next (s.onManage h 0x06 true (s.send (.reply h 0x06 0 Config.certificate)))

/-! ## Fencing by the host, replace-me status (R364, R365) -/

/-- FENCE_CLUSTER: fencing starts, as R364 orders it. -/
def execFenceCluster (h : Hdr) (phys : Nat) (s : State) : Host.Outcome State Fault Refusal :=
  .next (s.onManage h 0x07 (decide (phys < 256))
    ((if (s.clusterAt phys).fenced then s else s.updCluster phys fun k => { k with fencing := true }).send
      (.reply h 0x07 0 [])))

/-- Give a physical cluster to the lowest logical one that has none. -/
def giveBack (phys : Nat) : List Nat → List Nat
  | [] => []
  | p :: rest => if p = 256 then phys :: rest else p :: giveBack phys rest

/-- UNFENCE_CLUSTER: accepted for a fenced cluster whose self-test passes; its counts start again. -/
def execUnfenceCluster (h : Hdr) (phys : Nat) (selfTest : Bool) (s : State) : Host.Outcome State Fault Refusal :=
  .next (s.onManage h 0x08 (decide (phys < 256))
    (if (s.clusterAt phys).fenced && selfTest then
      let s := s.updCluster phys fun k => { k with fenced := false, faults := [] }
      let s := { s with lmap := giveBack phys s.lmap, corrected := s.corrected.filter fun e => Stored.cluster e.1 != some phys }
      ((s.report (clusterId phys) 9 0xFFFF (BitVec.ofNat 64 phys)).setReplaceMe).send (.reply h 0x08 0 [])
    else s.send (.reply h 0x08 2 [])))

/-- READ_REPLACE_ME_STATUS. -/
def execReadReplaceMeStatus (h : Hdr) (s : State) : Host.Outcome State Fault Refusal :=
  .next (s.onManage h 0x09 true (s.send (.reply h 0x09 0 (leBytes 8 s.replaceMe.toNat))))

/-! ## Events (R366), power, ranges (R306) -/

/-- The first event of each source that has one waiting. -/
def State.eventHeads (s : State) : List Event :=
  s.events.foldl (fun hs e => if hs.any fun h => h.source == e.source then hs else hs ++ [e]) []

/-- The events that go now and those that stay: an event goes where it is late, or where a later one of its source goes (R366). -/
def splitEvents (late : Event → Bool) : List Event → List Event × List Event
  | [] => ([], [])
  | e :: es =>
    let r := splitEvents late es
    if late e || r.1.any fun x => x.source == e.source then (e :: r.1, r.2) else (r.1, e :: r.2)

/-- Deliver events to the registered endpoint: those detected 100 µs ago (R361), and one more or none, of any source (R366,
log entry 88). Each source's go in order. -/
def State.deliverEvents (s : State) : State :=
  match s.eventEp with
  | none => s
  | some ep =>
    let late (e : Event) : Bool := decide (e.time + 100000 ≤ s.now)
    let es := splitEvents late s.events
    let s := { s with out := s.out ++ es.1.map (Out.event ep), events := es.2 }
    if s.events.isEmpty then s
    else
      let r := s.newFree
      match (none :: s.eventHeads.map some)[Config.eventPick r.1]? with
      | some (some e) => { r.2 with out := r.2.out ++ [Out.event ep e], events := r.2.events.erase e }
      | _ => r.2

/-- REGISTER_EVENT_ENDPOINT. -/
def execRegisterEventEndpoint (h : Hdr) (endpoint : Nat) (s : State) : Host.Outcome State Fault Refusal :=
  .next (s.onManage h 0x0A true ({ s with eventEp := some endpoint }.send (.reply h 0x0A 0 [])))

/-- SET_POWER_LIMIT: 1,200 to 2,400 W. -/
def execSetPowerLimit (h : Hdr) (watts : Nat) (s : State) : Host.Outcome State Fault Refusal :=
  .next (s.onManage h 0x0B true
    (if 1200 ≤ watts && watts ≤ 2400 then { s with powerLimit := watts }.send (.reply h 0x0B 0 [])
    else s.send (.reply h 0x0B 2 [])))

/-- GRANT_RANGE: refused where another context holds the range. -/
def execGrantRange (h : Hdr) (ctx : Nat) (range : BitVec 8) (s : State) : Host.Outcome State Fault Refusal :=
  .next (s.onManage h 0x0C (decide (range.toNat < 64))
    (if hr : range.toNat < 64 then
      let r := s.ranges[range.toNat]
      if (s.ctx? ctx).isNone || r.revoking.isSome || (r.owner.isSome && r.owner != some ctx) then
        s.send (.reply h 0x0C 2 [])
      else if r.owner == some ctx then s.send (.reply h 0x0C 0 [])
      else { s with ranges := s.ranges.set range.toNat ⟨some ctx, false, 0, 0, 0, 0, none⟩ }.send (.reply h 0x0C 0 [])
    else s))

/-- REVOKE_RANGE: refused where the context does not hold the range; the grant ends now, and the reply follows the TAKEs
and arms that were issued before. -/
def execRevokeRange (h : Hdr) (ctx : Nat) (range : BitVec 8) (s : State) : Host.Outcome State Fault Refusal :=
  .next (s.onManage h 0x0C (decide (range.toNat < 64))
    (if hr : range.toNat < 64 then
      let r := s.ranges[range.toNat]
      if r.owner != some ctx then s.send (.reply h 0x0C 2 [])
      else
        let ids := (s.pends.filter fun p => p.op.rangeNo == some range.toNat).map (·.id)
          ++ (s.arrivals.filter fun a => a.prod == .take).map (·.seq)
        { s with ranges := s.ranges.set range.toNat { r with owner := none, revoking := some (h, ids) } }
    else s))

end Sys2Proof.Machine
end

