-- ==== Sys2Proof/Machine/Debug.lean ====
section
/-! DEFINITION. The debug endpoint (R336, R353, R369, R374), and requests with an opcode that no endpoint lists (R372). -/

namespace Sys2Proof.Machine

/-! ## Who may ask (R335, R336, R374) -/

/-- A message accepted at a context's debug endpoint. -/
def State.onDebug (s : State) (h : Hdr) (f : Context → State) : State :=
  match s.ctx? h.ctx with
  | some c => if accepts c.dbgSrcs c.dbgPolicy h.env then f c else s.drop
  | none => s.drop

/-- A request of the debugger that has attached; any other is refused (R336). -/
def State.onDebugger (s : State) (h : Hdr) (opcode : Nat) (ok : Bool) (f : Context → State) : State :=
  s.onDebug h fun c =>
    if c.debugger != some h.env.src then s.send (.reply h opcode 2 [])
    else if h.wellFormed && ok then f c
    else s.send (.reply h opcode 3 [])

/-! ## ATTACH, DEBUG_DETACH (R336, R369) -/

/-- A freeze's timer stops while a debugger is attached. -/
def Freeze.pause (z : Freeze) (now : Nat) : Freeze :=
  { z with debugged := true
           left := match z.expires with
             | some e => e - now
             | none => z.left
           expires := none }

/-- ATTACH: with the context's credential, while no debugger is attached; the attach extends measurement register 6. -/
def execAttach (h : Hdr) (credential : BitVec 256) (s : State) : Host.Outcome State Fault Refusal :=
  .next (s.onDebug h fun c =>
    if !h.wellFormed then s.send (.reply h 0x20 3 [])
    else if c.attached || credential != c.credential then s.send (.reply h 0x20 2 [])
    else
      let d := sha384 (leBytes 4 c.id ++ leBytes 8 s.now)
      let m := sha384 (leBytes 48 s.measure[6].toNat ++ leBytes 48 d.toNat)
      let s := { s with measure := s.measure.set 6 m }
      let s := s.updCtx c.id fun c => { c with debugger := some h.env.src, freeze := c.freeze.map fun z => z.pause s.now }
      (s.report moduleId 13 (BitVec.ofNat 16 c.id) 1).send (.reply h 0x20 0 []))

/-- DEBUG_DETACH: a complete freeze's timer goes on with the time that was left. -/
def execDebugDetach (h : Hdr) (s : State) : Host.Outcome State Fault Refusal :=
  .next (s.onDebugger h 0x21 true fun c =>
    let s := s.updCtx c.id fun c =>
      { c with debugger := none
               freeze := c.freeze.map fun z => if z.complete.isSome then { z with expires := some (s.now + z.left) } else z }
    (s.report moduleId 13 (BitVec.ofNat 16 c.id) 0).send (.reply h 0x21 0 []))

/-! ## Frames and cluster state (R374) -/

/-- The frozen physical cluster that stands for a logical one of the context. -/
def State.frozenPhys (s : State) (c : Context) (lcl : Nat) : Option Nat :=
  if c.freeze.isNone then none
  else (s.heldClusters c.id).find? fun p => (s.standingLcl p).getD 256 == lcl || (s.standingLcl p == none && s.physOf lcl == some p)

/-- The save record that holds a logical cluster of a frozen context. -/
def State.frozenSave (s : State) (c : Context) (lcl : Nat) : Option SaveRec :=
  if c.freeze.isNone then none else s.saves.find? fun x => x.ctx == c.id && x.lcl == lcl

/-- The thread whose frame a request names: in a slot of a frozen cluster, in its save record, or held by a breakpoint. -/
def State.framed (s : State) (c : Context) (lcl core slot : Nat) : Option Thread :=
  ((s.frozenPhys c lcl).bind fun p => s.inSlot p core slot)
    <|> ((s.frozenSave c lcl).bind fun x => x.threads.find? fun t => t.core == core && t.slot == slot && t.live)
    <|> s.threads.find? fun t => t.ctx == c.id && t.lcl == lcl && t.core == core && t.slot == slot && t.run == .held

/-- READ_FRAME. -/
def execReadFrame (h : Hdr) (lcl c slot : BitVec 8) (s : State) : Host.Outcome State Fault Refusal :=
  .next (s.onDebugger h 0x22 true fun x =>
    match s.framed x lcl.toNat c.toNat slot.toNat with
    | some t => s.send (.reply h 0x22 0 (s.frameBytes t))
    | none => s.send (.reply h 0x22 2 []))

/-- Replace a thread, in its slot or in a save record. -/
def State.putThread (s : State) (t : Thread) : State :=
  let f (x : Thread) : Thread := if x.uid == t.uid then t else x
  { s with threads := s.threads.map f
           saves := s.saves.map fun (x : SaveRec) => { x with threads := x.threads.map f } }

/-- WRITE_FRAME_WORD: takes effect as a SYSW of R346; a number outside the frame window is malformed. -/
def execWriteFrameWord (h : Hdr) (lcl c slot : BitVec 8) (num : BitVec 32) (v : Word) (s : State) :
    Host.Outcome State Fault Refusal :=
  .next (s.onDebugger h 0x23 (decide (0x100 ≤ num.toNat) && decide (num.toNat ≤ 0x147)) fun x =>
    match s.framed x lcl.toNat c.toNat slot.toNat with
    | some t => ((s.putThread (s.pokeFrame t (num.toNat - 0x100) v)).keepFrame t.uid).send (.reply h 0x23 0 [])
    | none => s.send (.reply h 0x23 2 []))

/-- Some bytes of an area of a cluster's state (R374): those of the memory from a key on, each word of which may be
poisoned, or bytes that no error reaches. -/
inductive Area where
  | stored (size key : Nat) (get : Nat → Byte)
  | plain (size : Nat) (get : Nat → Byte)

/-- The area of a cluster, whose bytes are `mem` and whose FULL granules are `full`; `phys`: the cluster that they are
numbered for. Accumulator bytes are tile 0, then tile 1; granule states are one bit each. -/
def areaOf (mem : Nat → Byte) (full : List Nat) (phys : Nat) (k : CoreSt) (area : Nat) : Option Area :=
  match area with
  | 0 => some (.stored (2 ^ 21) (Loc.spad phys 0).key fun o => mem ((Loc.spad phys o).key))
  | 1 => some (.stored (2 ^ 17) (Loc.tcm phys k.core 0).key fun o => mem ((Loc.tcm phys k.core o).key))
  | 2 => some (.plain 4096 fun o => if o < 2048 then (k.acc0 >>> (8 * o)).setWidth 8 else (k.acc1 >>> (8 * (o - 2048))).setWidth 8)
  | 3 => some (.stored 16384 (granuleKey phys 0) fun o => BitVec.ofNat 8 (((List.range 8).map fun i =>
      if full.contains (phys * 131072 + 8 * o + i) then 2 ^ i else 0).sum))
  | _ => none

def Area.size : Area → Nat
  | .stored n _ _ | .plain n _ => n

/-- Poisoned words that hold some of `n` bytes of an area from an offset on. -/
def Area.badWords (a : Area) (poison : List Nat) (o n : Nat) : List Nat :=
  match a with
  | .stored _ key _ => poison.filter fun w => decide (8 * w < key + o + n) && decide (key + o < 8 * w + 8)
  | .plain _ _ => []

/-- A byte of an area: that of a poisoned word is a free value, from the `free`-th on (log entry 6). -/
def Area.byte (a : Area) (poison : List Nat) (free o : Nat) : Byte :=
  match a with
  | .stored _ key get => if poison.contains ((key + o) / 8) then (Config.upsetValue (free + o)).setWidth 8 else get o
  | .plain _ get => get o

/-- READ_CLUSTER_STATE: of a frozen cluster only. A poisoned word in the range is charged to the context (R363). -/
def execReadClusterState (h : Hdr) (lcl area c : BitVec 8) (offset len : BitVec 32) (s : State) :
    Host.Outcome State Fault Refusal :=
  .next (s.onDebugger h 0x26
    (decide (area.toNat ≤ 3) && (area == 0 || area == 3 || decide (c.toNat < 8)) && decide (1 ≤ len.toNat) && decide (len.toNat ≤ 65536)) fun x =>
    let a := match s.frozenPhys x lcl.toNat with
      | some p => (areaOf (Mem.get s.mem) s.granules p (s.coreAt p c.toNat) area.toNat).map fun a => (a, s.poison, p)
      | none => (s.frozenSave x lcl.toNat).bind fun r =>
        let k := (r.cores.find? fun (k : CoreSt) => k.core == c.toNat).getD (CoreSt.fresh r.phys c.toNat)
        (areaOf (Mem.get r.cells) r.full r.phys k area.toNat).map fun a => (a, r.poison, r.phys)
    match a with
    | some (a, poison, p) =>
      let o := offset.toNat
      if o + len.toNat ≤ a.size then
        let bad := a.badWords poison o len.toNat
        let bs := (List.range len.toNat).map fun i => a.byte poison s.free (o + i)
        let s := bad.foldl (fun (s : State) _ => s.unitFault x.id none 0x48 (clusterId p)) s
        (if bad.isEmpty then s else { s with free := s.free + 2 ^ 21 }).send (.reply h 0x26 0 bs)
      else s.send (.reply h 0x26 2 [])
    | none => s.send (.reply h 0x26 2 []))

/-! ## READ_MEMORY, WRITE_MEMORY (R374) -/

/-- The places of `n` bytes from an address on, or the trap of the first that has none, and the state after the translations:
a poisoned entry that a walk has read is charged whether or not it ends in a trap (R363). -/
def State.debugPlaces (s : State) (c : Context) (addr : Word) (write : Bool) : Nat → Except Trap (List Loc) × State
  | 0 => (.ok [], s)
  | n + 1 =>
    match s.debugPlaces c addr write n with
    | (.error t, s) => (.error t, s)
    | (.ok ls, s) =>
      let a := addr + BitVec.ofNat 64 n
      let i : Issuer := ⟨c.id, 0, 600, 0, true⟩
      let ok := match aperture a with
        | some .global | some .system | some .canopy => true
        | _ => false
      if !ok then (.error (.address a), s)
      else
        match s.resolve i .plain a 1 write false false with
        | (.ok .nowhere, s) => (.error (.plain 0x43 a), s)
        | (.ok l, s) => (.ok (ls ++ [l]), s)
        | (.error t, s) => (.error t, s)

/-- The payload of a refused access: code, kind and level, address. -/
def trapPayload (t : Trap) : List Byte :=
  leBytes 1 t.code ++ leBytes 1 0 ++ leBytes 2 (t.info.toNat % 4096) ++ leBytes 4 0 ++ leBytes 8 t.data.toNat

/-- The bytes at some places: those of a peer as the peer answers. -/
def State.readPlaces (s : State) (peer : List Byte) (ls : List Loc) : List Byte :=
  ls.zipIdx.map fun x => match x.1 with
    | .peer _ _ => peer[x.2]?.getD 0
    | l => BitVec.ofNat 8 (s.read l 1)

/-- READ_MEMORY: through the context's translation and permissions; a fault refuses the request, and so does the first
poisoned word that it meets, which is charged to the context (R363). -/
def execReadMemory (h : Hdr) (addr : Word) (len : BitVec 32) (peer : List Byte) (s : State) : Host.Outcome State Fault Refusal :=
  .next (s.onDebugger h 0x24 (decide (1 ≤ len.toNat) && decide (len.toNat ≤ 65536)) fun c =>
    match s.debugPlaces c addr false len.toNat with
    | (.error t, s) => s.send (.reply h 0x24 2 (trapPayload t))
    | (.ok ls, s) =>
      match ls.zipIdx.find? fun x => s.poisoned x.1 1 with
      | some (l, i) =>
        (s.chargeRead (s.errorId l) c.id none none).send (.reply h 0x24 2 (trapPayload (.plain 0x48 (addr + BitVec.ofNat 64 i))))
      | none => s.send (.reply h 0x24 0 (s.readPlaces peer ls)))

/-- Write bytes at the places of consecutive addresses from `addr` on, each aligned piece at once; a peer's are sent to it. The
writer is the module, with a stamp of its own (DESIGN CHOICE, log entry 105). -/
def State.writePlaces (s : State) (c : Context) (addr : Nat) (ls : List Loc) (data : List Byte) : State :=
  (cut8 data.length addr data).foldl (fun s p => match ls[p.1 - addr]? with
    | none => s
    | some (.peer id off) =>
      p.2.zipIdx.foldl (fun s b => s.send (.peerAccess c.id id (off + b.2) 1 (.store (b.1.setWidth 256))
        ((⟨0, 0, s.now, none⟩ : Stamp).mark moduleId 0))) s
    | some l => s.homeWrite l p.2.length (leNat p.2) moduleId ⟨0, 0, s.now, none⟩) s

/-- WRITE_MEMORY: a fault refuses the request and changes nothing. -/
def execWriteMemory (h : Hdr) (addr : Word) (data : List Byte) (s : State) : Host.Outcome State Fault Refusal :=
  .next (s.onDebugger h 0x25 (decide (1 ≤ data.length) && decide (data.length ≤ 65536)) fun c =>
    match s.debugPlaces c addr true data.length with
    | (.error t, s) => s.send (.reply h 0x25 2 (trapPayload t))
    | (.ok ls, s) => (s.writePlaces c addr.toNat ls data).send (.reply h 0x25 0 []))

/-! ## Breakpoints, held threads, release (R319, R353, R369) -/

/-- SET_BREAKPOINT_ENTRY. -/
def execSetBreakpointEntry (h : Hdr) (entry enable : BitVec 8) (handle mask : BitVec 32) (addr : Word) (s : State) :
    Host.Outcome State Fault Refusal :=
  .next (s.onDebugger h 0x27 (decide (entry.toNat < 8)) fun c =>
    (s.updCtx c.id fun c => { c with bkpts := c.bkpts.set! entry.toNat ⟨handle, mask, addr, enable != 0⟩ }).send
      (.reply h 0x27 0 []))

/-- RESUME_HELD_THREAD: the thread goes on as after an ERET, without a record of kind 12 (DESIGN CHOICE, log entry 106). -/
def execResumeHeldThread (h : Hdr) (lcl c slot : BitVec 8) (s : State) : Host.Outcome State Fault Refusal :=
  .next (s.onDebugger h 0x28 true fun x =>
    match s.threads.find? fun t => t.ctx == x.id && t.lcl == lcl.toNat && t.core == c.toNat && t.slot == slot.toNat
        && t.run == .held with
    | some t => (s.updThread t.uid fun t => { t with run := .running }).send (.reply h 0x28 0 [])
    | none => s.send (.reply h 0x28 2 []))

/-- RELEASE_FREEZE: at once where the freeze is complete, else when it is. -/
def execReleaseFreeze (h : Hdr) (dump : Bool) (s : State) : Host.Outcome State Fault Refusal :=
  .next (s.onDebugger h 0x29 true fun c =>
    match c.freeze with
    | none => s.send (.reply h 0x29 2 [])
    | some _ =>
      if c.releaseReq.isSome then s.send (.reply h 0x29 2 [])
      else (s.updCtx c.id fun c => { c with releaseReq := some (h, dump) }).tryRelease c.id)

/-! ## The census (R311) -/

/-- The host reads a counter of a core over the debug endpoint (R311). R374 lists no request for it, and the model takes it as a
turn of its own: only the debugger that has attached is answered with the counter (DESIGN CHOICE, log entry 101). -/
def State.hostCensus (s : State) (h : Hdr) (lcore : Nat) (sel : BitVec 8) : State :=
  s.onDebug h fun c =>
    if c.debugger != some h.env.src then s.send (.census h none)
    else s.send (.census h (some (censusCounter (s.censusOf c.id lcore) sel.toNat)))

/-! ## UNKNOWN_OPCODE_REQUEST (R372 to R374) -/

/-- Opcodes that an endpoint lists. -/
def listed (ep : Endp) (opcode : Nat) : Bool :=
  match ep with
  | .management => decide (1 ≤ opcode) && decide (opcode ≤ 0x0C)
  | .command _ => decide (0x10 ≤ opcode) && decide (opcode ≤ 0x1D)
  | .debug _ => decide (0x20 ≤ opcode) && decide (opcode ≤ 0x29)

/-- A request with an opcode that its endpoint does not list is answered with status 1. With opcode 0x18 on a command endpoint
it is the write of a host-set register that R373 does not list, and is refused; the five listed ones have rows of their own
(log entry 68). -/
def execUnknownOpcodeRequest (h : Hdr) (ep : Endp) (opcode : BitVec 16) (s : State) : Host.Outcome State Fault Refusal :=
  .next (
    let reply : State := s.send (.reply h opcode.toNat 1 [])
    match ep, opcode.toNat with
    | .command i, 0x18 => s.onRequest { h with ctx := i } 0x18 true fun _ => s.answer h 0x18 false
    | _, _ =>
      if listed ep opcode.toNat then s
      else match ep with
      | .management =>
        if s.boot == .off then s else if accepts s.cfg.mgmtSrcs s.cfg.mgmtPolicy h.env then reply else s.drop
      | .command i => (match s.ctx? i with
        | some c => if accepts c.cmdSrcs c.cmdPolicy h.env then reply else s.drop
        | none => s.drop)
      | .debug i => (match s.ctx? i with
        | some c => if accepts c.dbgSrcs c.dbgPolicy h.env then reply else s.drop
        | none => s.drop))

end Sys2Proof.Machine
end

