-- ==== Sys2Proof/Machine/IntAlu.lean ====
section
/-! DEFINITION. Integer arithmetic, shifts, bit fields, moves, compares and predicate logic (R55 to R63). Each reads
its operands at issue and delivers one result, or two predicates together. -/

namespace Sys2Proof.Machine

/-! ## Shared arithmetic -/

/-- One integer result. -/
def intOp (i : Instr) (s : State) (d : IReg) (f : Thread → Word) : Host.Outcome State Fault Refusal :=
  compute i s fun t => intResult d (f t)

/-- A condition into one predicate and its negation into another (R62). -/
def predOp (i : Instr) (s : State) (p q : PReg) (f : Thread → Bool) : Host.Outcome State Fault Refusal :=
  compute i s fun t => predResult p q (f t)

/-- Shift amount of the register forms (R55). -/
def amount (b : Word) : Nat := (bits b 0 6).toNat

def satSigned (x : Int) : Word := BitVec.ofInt 64 (max (-(2 ^ 63)) (min (2 ^ 63 - 1) x))
def satUnsigned (x : Int) : Word := BitVec.ofInt 64 (max 0 (min (2 ^ 64 - 1) x))

def minSigned (a b : Word) : Word := if a.slt b then a else b
def maxSigned (a b : Word) : Word := if a.slt b then b else a
def minUnsigned (a b : Word) : Word := if a.ult b then a else b
def maxUnsigned (a b : Word) : Word := if a.ult b then b else a

/-- Signed quotient of R58. -/
def divSigned (a b : Word) : Word :=
  if b = 0 then BitVec.allOnes 64 else BitVec.ofInt 64 (Int.tdiv a.toInt b.toInt)

/-- Signed remainder of R58, of the sign of the dividend. -/
def remSigned (a b : Word) : Word := if b = 0 then a else BitVec.ofInt 64 (Int.tmod a.toInt b.toInt)

/-- Unsigned quotient and remainder of R58. -/
def divUnsigned (a b : Word) : Word := if b = 0 then BitVec.allOnes 64 else a / b
def remUnsigned (a b : Word) : Word := if b = 0 then a else a % b

/-- Leading zeros, counting from bit n - 1 down (R59). -/
def leadingZeros (a : Word) : Nat → Nat
  | 0 => 0
  | n + 1 => if a.getLsbD n then 0 else 1 + leadingZeros a n

/-- Trailing zeros among the n bits from bit 64 - n on (R59). -/
def trailingZeros (a : Word) : Nat → Nat
  | 0 => 0
  | n + 1 => if a.getLsbD (63 - n) then 0 else 1 + trailingZeros a n

/-- One bits below bit n (R59). -/
def oneBits (a : Word) : Nat → Nat
  | 0 => 0
  | n + 1 => (if a.getLsbD n then 1 else 0) + oneBits a n

/-- Bytes in reverse order (R59). -/
def byteSwap (a : Word) : Word :=
  bits a 0 8 ++ bits a 8 8 ++ bits a 16 8 ++ bits a 24 8 ++ bits a 32 8 ++ bits a 40 8 ++ bits a 48 8 ++ bits a 56 8

/-- Position and clipped width of a field descriptor (R59). -/
def fieldPos (b : Word) : Nat := (bits b 0 6).toNat
def fieldWidth (b : Word) : Nat := min (bits b 8 7).toNat (64 - fieldPos b)

/-- The low w bits set. -/
def lowMask (w : Nat) : Word := BitVec.ofNat 64 (2 ^ w - 1)

/-- BFXU, BFX and BFI (R59). -/
def extractField (a b : Word) : Word := (a >>> fieldPos b) &&& lowMask (fieldWidth b)
def extractFieldSigned (a b : Word) : Word :=
  if fieldWidth b = 0 then 0 else (a <<< (64 - fieldPos b - fieldWidth b)).sshiftRight (64 - fieldWidth b)
def insertField (old a b : Word) : Word :=
  let m := lowMask (fieldWidth b) <<< fieldPos b
  (old &&& ~~~m) ||| ((a <<< fieldPos b) &&& m)

/-- The predicate word (R60). -/
def predWord (t : Thread) : Word := BitVec.ofNat 64 (1 + 2 * t.preds.toNat)

/-- Compare conditions (R62). -/
def condHolds (c : Cond) (a b : Word) : Bool :=
  match c with
  | .eq => a == b
  | .ne => a != b
  | .lt => a.slt b
  | .ge => !a.slt b
  | .le => !b.slt a
  | .gt => b.slt a
  | .ltu => a.ult b
  | .geu => !a.ult b
  | .leu => !b.ult a
  | .gtu => b.ult a
  | .tst => a &&& b != 0
  | .tstz => a &&& b == 0

/-- Entry 2 · pa + pb of a truth table (R63). -/
def truthTable (f : BitVec 4) (a b : Bool) : Bool := f.getLsbD ((if a then 2 else 0) + if b then 1 else 0)

/-! ## The meanings -/

/-- ADD (R55). -/
def execAdd (d a b : IReg) (s : State) : Host.Outcome State Fault Refusal :=
  intOp (.add d a b) s d fun t => (t.int a) + (t.int b)

/-- SUB (R55). -/
def execSub (d a b : IReg) (s : State) : Host.Outcome State Fault Refusal :=
  intOp (.sub d a b) s d fun t => (t.int a) - (t.int b)

/-- AND (R55). -/
def execAnd (d a b : IReg) (s : State) : Host.Outcome State Fault Refusal :=
  intOp (.and d a b) s d fun t => (t.int a) &&& (t.int b)

/-- OR (R55). -/
def execOr (d a b : IReg) (s : State) : Host.Outcome State Fault Refusal :=
  intOp (.or d a b) s d fun t => (t.int a) ||| (t.int b)

/-- XOR (R55). -/
def execXor (d a b : IReg) (s : State) : Host.Outcome State Fault Refusal :=
  intOp (.xor d a b) s d fun t => (t.int a) ^^^ (t.int b)

/-- ANDN (R55). -/
def execAndn (d a b : IReg) (s : State) : Host.Outcome State Fault Refusal :=
  intOp (.andn d a b) s d fun t => (t.int a) &&& ~~~(t.int b)

/-- ORN (R55). -/
def execOrn (d a b : IReg) (s : State) : Host.Outcome State Fault Refusal :=
  intOp (.orn d a b) s d fun t => (t.int a) ||| ~~~(t.int b)

/-- XNOR (R55). -/
def execXnor (d a b : IReg) (s : State) : Host.Outcome State Fault Refusal :=
  intOp (.xnor d a b) s d fun t => ~~~((t.int a) ^^^ (t.int b))

/-- SLL (R55). -/
def execSll (d a b : IReg) (s : State) : Host.Outcome State Fault Refusal :=
  intOp (.sll d a b) s d fun t => (t.int a) <<< amount (t.int b)

/-- SRL (R55). -/
def execSrl (d a b : IReg) (s : State) : Host.Outcome State Fault Refusal :=
  intOp (.srl d a b) s d fun t => (t.int a) >>> amount (t.int b)

/-- SRA (R55). -/
def execSra (d a b : IReg) (s : State) : Host.Outcome State Fault Refusal :=
  intOp (.sra d a b) s d fun t => (t.int a).sshiftRight (amount (t.int b))

/-- ROR (R55). -/
def execRor (d a b : IReg) (s : State) : Host.Outcome State Fault Refusal :=
  intOp (.ror d a b) s d fun t => (t.int a).rotateRight (amount (t.int b))

/-- MIN (R55). -/
def execMin (d a b : IReg) (s : State) : Host.Outcome State Fault Refusal :=
  intOp (.min d a b) s d fun t => minSigned (t.int a) (t.int b)

/-- MAX (R55). -/
def execMax (d a b : IReg) (s : State) : Host.Outcome State Fault Refusal :=
  intOp (.max d a b) s d fun t => maxSigned (t.int a) (t.int b)

/-- MINU (R55). -/
def execMinu (d a b : IReg) (s : State) : Host.Outcome State Fault Refusal :=
  intOp (.minu d a b) s d fun t => minUnsigned (t.int a) (t.int b)

/-- MAXU (R55). -/
def execMaxu (d a b : IReg) (s : State) : Host.Outcome State Fault Refusal :=
  intOp (.maxu d a b) s d fun t => maxUnsigned (t.int a) (t.int b)

/-- ADDS (R55). -/
def execAdds (d a b : IReg) (s : State) : Host.Outcome State Fault Refusal :=
  intOp (.adds d a b) s d fun t => satSigned ((t.int a).toInt + (t.int b).toInt)

/-- SUBS (R55). -/
def execSubs (d a b : IReg) (s : State) : Host.Outcome State Fault Refusal :=
  intOp (.subs d a b) s d fun t => satSigned ((t.int a).toInt - (t.int b).toInt)

/-- ADDSU (R55). -/
def execAddsu (d a b : IReg) (s : State) : Host.Outcome State Fault Refusal :=
  intOp (.addsu d a b) s d fun t => satUnsigned ((t.int a).toNat + (t.int b).toNat)

/-- SUBSU (R55). -/
def execSubsu (d a b : IReg) (s : State) : Host.Outcome State Fault Refusal :=
  intOp (.subsu d a b) s d fun t => satUnsigned ((t.int a).toNat - (t.int b).toNat)

/-- ADD with an immediate (R56). -/
def execAddImm (d a : IReg) (i : BitVec 10) (s : State) : Host.Outcome State Fault Refusal :=
  intOp (.addImm d a i) s d fun t => (t.int a) + sext64 i

/-- AND with an immediate (R56). -/
def execAndImm (d a : IReg) (i : BitVec 10) (s : State) : Host.Outcome State Fault Refusal :=
  intOp (.andImm d a i) s d fun t => (t.int a) &&& sext64 i

/-- OR with an immediate (R56). -/
def execOrImm (d a : IReg) (i : BitVec 10) (s : State) : Host.Outcome State Fault Refusal :=
  intOp (.orImm d a i) s d fun t => (t.int a) ||| sext64 i

/-- XOR with an immediate (R56). -/
def execXorImm (d a : IReg) (i : BitVec 10) (s : State) : Host.Outcome State Fault Refusal :=
  intOp (.xorImm d a i) s d fun t => (t.int a) ^^^ sext64 i

/-- SLL with an immediate (R56). -/
def execSllImm (d a : IReg) (i : BitVec 6) (s : State) : Host.Outcome State Fault Refusal :=
  intOp (.sllImm d a i) s d fun t => (t.int a) <<< i.toNat

/-- SRL with an immediate (R56). -/
def execSrlImm (d a : IReg) (i : BitVec 6) (s : State) : Host.Outcome State Fault Refusal :=
  intOp (.srlImm d a i) s d fun t => (t.int a) >>> i.toNat

/-- SRA with an immediate (R56). -/
def execSraImm (d a : IReg) (i : BitVec 6) (s : State) : Host.Outcome State Fault Refusal :=
  intOp (.sraImm d a i) s d fun t => (t.int a).sshiftRight i.toNat

/-- ROR with an immediate (R56). -/
def execRorImm (d a : IReg) (i : BitVec 6) (s : State) : Host.Outcome State Fault Refusal :=
  intOp (.rorImm d a i) s d fun t => (t.int a).rotateRight i.toNat

/-- MUL with an immediate (R56). -/
def execMulImm (d a : IReg) (i : BitVec 10) (s : State) : Host.Outcome State Fault Refusal :=
  intOp (.mulImm d a i) s d fun t => (t.int a) * sext64 i

/-- MIN with an immediate (R56). -/
def execMinImm (d a : IReg) (i : BitVec 10) (s : State) : Host.Outcome State Fault Refusal :=
  intOp (.minImm d a i) s d fun t => minSigned (t.int a) (sext64 i)

/-- MAX with an immediate (R56). -/
def execMaxImm (d a : IReg) (i : BitVec 10) (s : State) : Host.Outcome State Fault Refusal :=
  intOp (.maxImm d a i) s d fun t => maxSigned (t.int a) (sext64 i)

/-- LI (R57). -/
def execLi (d : IReg) (i : BitVec 15) (s : State) : Host.Outcome State Fault Refusal :=
  intOp (.li d i) s d fun _ => sext64 i

/-- LIS reads its destination (R57). -/
def execLis (d : IReg) (i : BitVec 15) (s : State) : Host.Outcome State Fault Refusal :=
  intOp (.lis d i) s d fun t => (t.int d <<< 15) ||| zext64 i

/-- MUL (R58). -/
def execMul (d a b : IReg) (s : State) : Host.Outcome State Fault Refusal :=
  intOp (.mul d a b) s d fun t => (t.int a) * (t.int b)

/-- MULH (R58). -/
def execMulh (d a b : IReg) (s : State) : Host.Outcome State Fault Refusal :=
  intOp (.mulh d a b) s d fun t => BitVec.ofInt 64 ((t.int a).toInt * (t.int b).toInt / 2 ^ 64)

/-- MULHU (R58). -/
def execMulhu (d a b : IReg) (s : State) : Host.Outcome State Fault Refusal :=
  intOp (.mulhu d a b) s d fun t => BitVec.ofNat 64 ((t.int a).toNat * (t.int b).toNat / 2 ^ 64)

/-- MULHSU (R58). -/
def execMulhsu (d a b : IReg) (s : State) : Host.Outcome State Fault Refusal :=
  intOp (.mulhsu d a b) s d fun t => BitVec.ofInt 64 ((t.int a).toInt * (t.int b).toNat / 2 ^ 64)

/-- DIV (R58). -/
def execDiv (d a b : IReg) (s : State) : Host.Outcome State Fault Refusal :=
  intOp (.div d a b) s d fun t => divSigned (t.int a) (t.int b)

/-- DIVU (R58). -/
def execDivu (d a b : IReg) (s : State) : Host.Outcome State Fault Refusal :=
  intOp (.divu d a b) s d fun t => divUnsigned (t.int a) (t.int b)

/-- REM (R58). -/
def execRem (d a b : IReg) (s : State) : Host.Outcome State Fault Refusal :=
  intOp (.rem d a b) s d fun t => remSigned (t.int a) (t.int b)

/-- REMU (R58). -/
def execRemu (d a b : IReg) (s : State) : Host.Outcome State Fault Refusal :=
  intOp (.remu d a b) s d fun t => remUnsigned (t.int a) (t.int b)

/-- CLZ (R59). -/
def execClz (d a : IReg) (s : State) : Host.Outcome State Fault Refusal :=
  intOp (.clz d a) s d fun t => BitVec.ofNat 64 (leadingZeros (t.int a) 64)

/-- CTZ (R59). -/
def execCtz (d a : IReg) (s : State) : Host.Outcome State Fault Refusal :=
  intOp (.ctz d a) s d fun t => BitVec.ofNat 64 (trailingZeros (t.int a) 64)

/-- POPC (R59). -/
def execPopc (d a : IReg) (s : State) : Host.Outcome State Fault Refusal :=
  intOp (.popc d a) s d fun t => BitVec.ofNat 64 (oneBits (t.int a) 64)

/-- BREV (R59). -/
def execBrev (d a : IReg) (s : State) : Host.Outcome State Fault Refusal :=
  intOp (.brev d a) s d fun t => (t.int a).reverse

/-- BSWAP (R59). -/
def execBswap (d a : IReg) (s : State) : Host.Outcome State Fault Refusal :=
  intOp (.bswap d a) s d fun t => byteSwap (t.int a)

/-- SXB (R59). -/
def execSxb (d a : IReg) (s : State) : Host.Outcome State Fault Refusal :=
  intOp (.sxb d a) s d fun t => sext64 (bits (t.int a) 0 8)

/-- SXH (R59). -/
def execSxh (d a : IReg) (s : State) : Host.Outcome State Fault Refusal :=
  intOp (.sxh d a) s d fun t => sext64 (bits (t.int a) 0 16)

/-- SXW (R59). -/
def execSxw (d a : IReg) (s : State) : Host.Outcome State Fault Refusal :=
  intOp (.sxw d a) s d fun t => sext64 (bits (t.int a) 0 32)

/-- BFX (R59). -/
def execBfx (d a b : IReg) (s : State) : Host.Outcome State Fault Refusal :=
  intOp (.bfx d a b) s d fun t => extractFieldSigned (t.int a) (t.int b)

/-- BFXU (R59). -/
def execBfxu (d a b : IReg) (s : State) : Host.Outcome State Fault Refusal :=
  intOp (.bfxu d a b) s d fun t => extractField (t.int a) (t.int b)

/-- BFI reads its destination (R59). -/
def execBfi (d a b : IReg) (s : State) : Host.Outcome State Fault Refusal :=
  intOp (.bfi d a b) s d fun t => insertField (t.int d) (t.int a) (t.int b)

/-- MOVK (R60). -/
def execMovk (k : KReg) (a : IReg) (s : State) : Host.Outcome State Fault Refusal :=
  compute (.movk k a) s fun t => [(.ext k, (t.int a).setWidth 256)]

/-- RDK (R60). -/
def execRdk (d : IReg) (k : KReg) (s : State) : Host.Outcome State Fault Refusal :=
  intOp (.rdk d k) s d fun t => t.ext k

/-- RDPW (R60). -/
def execRdpw (d : IReg) (s : State) : Host.Outcome State Fault Refusal :=
  intOp (.rdpw d) s d predWord

/-- WRPW: p1 to p7 become FULL together (R60). -/
def execWrpw (a : IReg) (s : State) : Host.Outcome State Fault Refusal :=
  compute (.wrpw a) s fun t =>
    (List.finRange 8).tail.map fun p => (.pred p, (boolWord ((t.int a).getLsbD p.val)).setWidth 256)

/-- MOV (R61). -/
def execMov (a d : IReg) (s : State) : Host.Outcome State Fault Refusal :=
  intOp (.mov a d) s d fun t => t.int a

/-- MOVI (R61). -/
def execMovi (i : BitVec 5) (d : IReg) (s : State) : Host.Outcome State Fault Refusal :=
  intOp (.movi i d) s d fun _ => sext64 i

/-- NOP (R61). -/
def execNop  (s : State) : Host.Outcome State Fault Refusal :=
  attempt .nop s fun s _ _ => .ok s

/-- CMP (R62). -/
def execCmp (p q : PReg) (a b : IReg) (c : Cond) (s : State) : Host.Outcome State Fault Refusal :=
  predOp (.cmp p q a b c) s p q fun t => condHolds c (t.int a) (t.int b)

/-- CMPI (R62). -/
def execCmpi (p q : PReg) (a : IReg) (i : BitVec 5) (c : Cond) (s : State) : Host.Outcome State Fault Refusal :=
  predOp (.cmpi p q a i c) s p q fun t => condHolds c (t.int a) (sext64 i)

/-- PLOG (R63). -/
def execPlog (p q a b : PReg) (f : BitVec 4) (s : State) : Host.Outcome State Fault Refusal :=
  predOp (.plog p q a b f) s p q fun t => truthTable f (t.pred a) (t.pred b)

end Sys2Proof.Machine
end

