-- ==== Sys2Proof/Machine/Translation.lean ====
section
/-! DEFINITION. Page walks and shootdowns (R328 to R332), and the accesses of peers (R194, R337). -/

namespace Sys2Proof.Machine

/-! ## PAGE_WALK (R328, R330) -/

/-- A walk starts on a die, where there is room and none is in flight for the page; a context without a PT_ROOT that its
grants cover has none to make. -/
def State.startWalk (s : State) (die ctx va : Nat) : State :=
  match (s.ctx? ctx).bind fun c => c.ptRoot.filter fun t => covered c.grants t 4096 with
  | some t =>
    if (s.walksOn die).length < 256 then { s with walks := s.walks ++ [⟨die, ctx, va / 65536 * 65536, 0, t⟩] } else s
  | none => s

/-- A walk in flight reads its next entry at its home (R328): a leaf goes to the die's TLB, a fault or a poisoned entry ends
the walk, and the poisoned entry is charged to the context (R363). -/
def State.stepWalk (s : State) (x : PageWalk) : State :=
  let pa := x.table + 8 * walkIndex x.page x.level
  if s.homeBusy (.hbm pa) 8 (none, 10, 0) then s
  else
    let s := s.passAll (.hbm pa)
    let gone := { s with walks := s.walks.erase x }
    if s.poisoned (.hbm pa) 8 then gone.chargeWalk x.ctx [pa]
    else
      match walkStep ((s.ctx? x.ctx).map (·.grants) |>.getD []) x.page x.level (s.entryAt pa) with
      | .inr a => { s with walks := s.walks.map fun (y : PageWalk) => if y = x then { y with level := y.level + 1, table := a } else y }
      | .inl (.leaf p size w pin _) => gone.tlbFill (dieLeaf x.die x.ctx x.page p size w pin)
      | .inl (.fault _ _) => gone

/-- The walkers of a cluster's die work on the miss of a page that neither TLB holds: the walk starts, or reads its next
entry. -/
def execPageWalk (phys ctx : Nat) (va : BitVec 52) (s : State) : Host.Outcome State Fault Refusal :=
  .next (
    let die := phys / 128
    if 256 ≤ phys || (s.tlbHit phys ctx va.toNat).isSome || (s.tlbHit (256 + die) ctx va.toNat).isSome then s
    else
      match s.walkFor die ctx va.toNat with
      | some x => s.stepWalk x
      | none => s.startWalk die ctx va.toNat)

/-! ## SHOOTDOWN_COMPLETE (R331) -/

/-- A copy or a matrix operation of the context holds a translation of the range: one that is in flight or queued, or whose
thread is held for room past its address phase (R159, R165, R235, R237). -/
def State.rangeInUse (s : State) (d : Shootdown) : Bool :=
  (s.threads.any fun t => t.ctx == d.ctx && (t.kept.map fun k => reaches d.lo d.size d.whole k.pages).getD false)
    || (s.copies.any fun c => c.ctx == d.ctx && reaches d.lo d.size d.whole c.pages)
    || s.cores.any fun k => k.mq.any fun m =>
      ((s.thread? m.uid).map (·.ctx)) == some d.ctx && m.stage == .ready && reaches d.lo d.size d.whole m.pages

/-- An earlier shootdown of the context still waits to change its grants. -/
def State.grantsBefore (s : State) (d : Shootdown) : Bool :=
  (s.shoots.takeWhile fun x => x.id != d.id).any fun x => x.ctx == d.ctx && (match x.for_ with
    | .grants _ _ _ => true
    | _ => false)

/-- A shootdown completes: the cached translations of the range are gone, and whoever started it goes on. -/
def execShootdownComplete (sd : Nat) (s : State) : Host.Outcome State Fault Refusal :=
  .next (match s.shoots.find? fun d => d.id == sd with
    | none => s
    | some d =>
      if s.rangeInUse d || s.grantsBefore d then s
      else
        let s := { s with
          shoots := s.shoots.filter fun x => x.id != sd
          tlb := s.tlb.filter fun l => !(l.ctx == d.ctx && reaches d.lo d.size d.whole [(l.page, l.size)])
          walks := s.walks.filter fun x => !(x.ctx == d.ctx && reaches d.lo d.size d.whole [(x.page, 65536)]) }
        match d.for_ with
        | .thread uid =>
          let go (t : Thread) : Thread := if t.uid == uid then { t with run := t.run.behind fun r => if r == .shooting sd then .running else r } else t
          { s with threads := s.threads.map go
                   saves := s.saves.map fun (x : SaveRec) => { x with threads := x.threads.map go } }
        | .command h => s.send (.reply h 0x1D 0 [])
        | .grants h g k => (s.updCtx d.ctx fun c => { c with grants := g, canopy := k }).send (.reply h 0x03 0 []))

/-! ## PEER_ACCESS_ARRIVAL (R337) -/

/-- What a peer's access does at its home. -/
def PeerOp.op : PeerOp → AccOp
  | .load => .load .zx (.int .zero)
  | .store v => .store v
  | .rmw o ret v e => .rmw o v e (if ret then some .zero else none)
  | .await c v | .cancel c v => .await c v .zero

/-- It needs W (R329). -/
def PeerOp.writes : PeerOp → Bool
  | .store _ | .rmw _ _ _ _ => true
  | _ => false

/-- A peer's AWAIT that waits here, or in its core's queue, is cancelled (R227): the first one like it of the thread's handle
and core. One that is still travelling is settled on arrival. -/
def State.cancelPeer (s : State) (a : Access) : State :=
  match s.accs.find? fun x => x.peer == a.peer && x.handle == a.handle && x.requester == a.requester && x.loc == a.loc
      && x.size == a.size && x.op == a.op && !x.cancelled with
  | none => s
  | some x =>
    if x.phase == .waiting || x.held then s.settle x.id
    else { s with accs := s.accs.map fun (y : Access) => if y.id == x.id then { y with cancelled := true } else y }

/-- A peer's access arrives at the window endpoint: it is checked, translated, and sent to its channel core; one that fails
a check is answered as refused, and performed nowhere. `mark` names the peer's thread, its core, and its stamp. -/
def execPeerAccessArrival (h : Hdr) (mark : PeerMark) (peerCtx : Nat) (offset : Nat) (size : Nat) (op : PeerOp) (s : State) :
    Host.Outcome State Fault Refusal :=
  let dev := mark.dev.toNat
  .next (match s.ctx? h.ctx with
    | none => s.drop.send (.peerReply dev peerCtx false 0 PeerAnswer.none.mark)
    | some c =>
      if !accepts c.winSrcs c.winPolicy h.env then s.drop
      else
        match s.windowAccess c dev peerCtx offset size (PeerOp.writes op) with
        | (none, s) => s.send (.peerReply dev peerCtx false 0 PeerAnswer.none.mark)
        | (some pa, s) =>
          let a : Access :=
            { id := s.fresh, uid := none, fam := none, group := 0, ctx := c.id, phys := 0, lcl := mark.lcore / 8,
              core := mark.lcore % 8, order := none, scope := .sys, blocking := false, red := false, loc := .hbm pa,
              size := size, op := PeerOp.op op, phase := .sent, agedAt := none, passedBy := 0, resent := false,
              granted := false, queue := 0, cancelled := false, push := none, peer := some (dev, peerCtx), handle := mark.who,
              stamp := markStamp mark }
          match op with
          | .cancel _ _ => s.cancelPeer a
          | _ =>
            let a := if s.behindHeld a then { a with phase := .outbound } else a
            { s with accs := s.accs ++ [a], fresh := s.fresh + 1 })

/-! ## PEER_LOSS (R194) -/

/-- A place at a peer of that number. -/
def Loc.atPeer (l : Loc) (id : Nat) : Bool :=
  match l with
  | .peer p _ => p == id
  | _ => false

/-- The transport abandons a peer: what was on its way there is not performed, and the context takes the fatal fault. -/
def execPeerLoss (ctx : Nat) (peer : Nat) (s : State) : Host.Outcome State Fault Refusal :=
  .next (
    let peer := ((s.ctx? ctx).map fun c => c.peerId peer).getD peer
    let lost := s.accs.filter fun a => a.ctx == ctx && a.loc.atPeer peer
    let hit := s.copies.filter fun c => c.ctx == ctx && c.units.any fun u => u.1.atPeer peer || u.2.any fun l => l.atPeer peer
    let grp := (lost.head?.map (·.group)) <|> (hit.head?.map (·.group))
    match grp with
    | none => s
    | some g =>
      let rep := (s.group? g).map (·.replay)
      let s := lost.foldl (fun s a => s.settle a.id) s
      let s := hit.foldl (fun s c => (s.loseUnits c.id fun l => l.atPeer peer).afterBurst c.id) s
      s.unitFault ctx rep 0x43 (engineId 2 0))

end Sys2Proof.Machine
end

