-- ==== Sys2Proof/Machine/Dispatch.lean ====
section
/-! DEFINITION. The meaning of every instruction and event: one arm per constructor, one direct call each. -/

namespace Sys2Proof.Machine

def exec (i : Instr) (s : State) : Host.Outcome State Fault Refusal :=
  match i with
  | .add d a b => Sys2Proof.Machine.execAdd d a b s
  | .sub d a b => Sys2Proof.Machine.execSub d a b s
  | .and d a b => Sys2Proof.Machine.execAnd d a b s
  | .or d a b => Sys2Proof.Machine.execOr d a b s
  | .xor d a b => Sys2Proof.Machine.execXor d a b s
  | .andn d a b => Sys2Proof.Machine.execAndn d a b s
  | .orn d a b => Sys2Proof.Machine.execOrn d a b s
  | .xnor d a b => Sys2Proof.Machine.execXnor d a b s
  | .sll d a b => Sys2Proof.Machine.execSll d a b s
  | .srl d a b => Sys2Proof.Machine.execSrl d a b s
  | .sra d a b => Sys2Proof.Machine.execSra d a b s
  | .ror d a b => Sys2Proof.Machine.execRor d a b s
  | .min d a b => Sys2Proof.Machine.execMin d a b s
  | .max d a b => Sys2Proof.Machine.execMax d a b s
  | .minu d a b => Sys2Proof.Machine.execMinu d a b s
  | .maxu d a b => Sys2Proof.Machine.execMaxu d a b s
  | .adds d a b => Sys2Proof.Machine.execAdds d a b s
  | .subs d a b => Sys2Proof.Machine.execSubs d a b s
  | .addsu d a b => Sys2Proof.Machine.execAddsu d a b s
  | .subsu d a b => Sys2Proof.Machine.execSubsu d a b s
  | .addImm d a imm => Sys2Proof.Machine.execAddImm d a imm s
  | .andImm d a imm => Sys2Proof.Machine.execAndImm d a imm s
  | .orImm d a imm => Sys2Proof.Machine.execOrImm d a imm s
  | .xorImm d a imm => Sys2Proof.Machine.execXorImm d a imm s
  | .sllImm d a imm => Sys2Proof.Machine.execSllImm d a imm s
  | .srlImm d a imm => Sys2Proof.Machine.execSrlImm d a imm s
  | .sraImm d a imm => Sys2Proof.Machine.execSraImm d a imm s
  | .rorImm d a imm => Sys2Proof.Machine.execRorImm d a imm s
  | .mulImm d a imm => Sys2Proof.Machine.execMulImm d a imm s
  | .minImm d a imm => Sys2Proof.Machine.execMinImm d a imm s
  | .maxImm d a imm => Sys2Proof.Machine.execMaxImm d a imm s
  | .li d imm => Sys2Proof.Machine.execLi d imm s
  | .lis d imm => Sys2Proof.Machine.execLis d imm s
  | .mul d a b => Sys2Proof.Machine.execMul d a b s
  | .mulh d a b => Sys2Proof.Machine.execMulh d a b s
  | .mulhu d a b => Sys2Proof.Machine.execMulhu d a b s
  | .mulhsu d a b => Sys2Proof.Machine.execMulhsu d a b s
  | .div d a b => Sys2Proof.Machine.execDiv d a b s
  | .divu d a b => Sys2Proof.Machine.execDivu d a b s
  | .rem d a b => Sys2Proof.Machine.execRem d a b s
  | .remu d a b => Sys2Proof.Machine.execRemu d a b s
  | .clz d a => Sys2Proof.Machine.execClz d a s
  | .ctz d a => Sys2Proof.Machine.execCtz d a s
  | .popc d a => Sys2Proof.Machine.execPopc d a s
  | .brev d a => Sys2Proof.Machine.execBrev d a s
  | .bswap d a => Sys2Proof.Machine.execBswap d a s
  | .sxb d a => Sys2Proof.Machine.execSxb d a s
  | .sxh d a => Sys2Proof.Machine.execSxh d a s
  | .sxw d a => Sys2Proof.Machine.execSxw d a s
  | .bfx d a b => Sys2Proof.Machine.execBfx d a b s
  | .bfxu d a b => Sys2Proof.Machine.execBfxu d a b s
  | .bfi d a b => Sys2Proof.Machine.execBfi d a b s
  | .movk k a => Sys2Proof.Machine.execMovk k a s
  | .rdk d k => Sys2Proof.Machine.execRdk d k s
  | .rdpw d => Sys2Proof.Machine.execRdpw d s
  | .wrpw a => Sys2Proof.Machine.execWrpw a s
  | .ord o st => Sys2Proof.Machine.execOrd o st s
  | .nop => Sys2Proof.Machine.execNop s
  | .mov a d => Sys2Proof.Machine.execMov a d s
  | .movi imm d => Sys2Proof.Machine.execMovi imm d s
  | .cmp p q a b c => Sys2Proof.Machine.execCmp p q a b c s
  | .cmpi p q a imm c => Sys2Proof.Machine.execCmpi p q a imm c s
  | .fcmpD p q a b c => Sys2Proof.Machine.execFcmpD p q a b c s
  | .fcmpS p q a b c => Sys2Proof.Machine.execFcmpS p q a b c s
  | .fcmpH p q a b c => Sys2Proof.Machine.execFcmpH p q a b c s
  | .fcmpBf p q a b c => Sys2Proof.Machine.execFcmpBf p q a b c s
  | .isap p q a c => Sys2Proof.Machine.execIsap p q a c s
  | .plog p q a b f => Sys2Proof.Machine.execPlog p q a b f s
  | .b o => Sys2Proof.Machine.execB o s
  | .call d imm => Sys2Proof.Machine.execCall d imm s
  | .bri a imm => Sys2Proof.Machine.execBri a imm s
  | .callr d a imm => Sys2Proof.Machine.execCallr d a imm s
  | .ret a => Sys2Proof.Machine.execRet a s
  | .create d imm => Sys2Proof.Machine.execCreate d imm s
  | .fgo a imm => Sys2Proof.Machine.execFgo a imm s
  | .falloc d => Sys2Proof.Machine.execFalloc d s
  | .fsync d a => Sys2Proof.Machine.execFsync d a s
  | .frel a => Sys2Proof.Machine.execFrel a s
  | .tix d => Sys2Proof.Machine.execTix d s
  | .fputD a b imm => Sys2Proof.Machine.execFputD a b imm s
  | .fputG a b imm => Sys2Proof.Machine.execFputG a b imm s
  | .fget d a imm => Sys2Proof.Machine.execFget d a imm s
  | .fkill a => Sys2Proof.Machine.execFkill a s
  | .fkillTree a => Sys2Proof.Machine.execFkillTree a s
  | .fstat d a => Sys2Proof.Machine.execFstat d a s
  | .detach a => Sys2Proof.Machine.execDetach a s
  | .fplace a b => Sys2Proof.Machine.execFplace a b s
  | .exit => Sys2Proof.Machine.execExit s
  | .brk => Sys2Proof.Machine.execBrk s
  | .yield => Sys2Proof.Machine.execYield s
  | .ldBs d b o => Sys2Proof.Machine.execLdBs d b o s
  | .ldBz d b o => Sys2Proof.Machine.execLdBz d b o s
  | .ldHs d b o => Sys2Proof.Machine.execLdHs d b o s
  | .ldHz d b o => Sys2Proof.Machine.execLdHz d b o s
  | .ldWs d b o => Sys2Proof.Machine.execLdWs d b o s
  | .ldWz d b o => Sys2Proof.Machine.execLdWz d b o s
  | .ldD d b o => Sys2Proof.Machine.execLdD d b o s
  | .ldw d b o => Sys2Proof.Machine.execLdw d b o s
  | .stB d b o => Sys2Proof.Machine.execStB d b o s
  | .stH d b o => Sys2Proof.Machine.execStH d b o s
  | .stW d b o => Sys2Proof.Machine.execStW d b o s
  | .stD d b o => Sys2Proof.Machine.execStD d b o s
  | .stw d b o => Sys2Proof.Machine.execStw d b o s
  | .ldk k b o => Sys2Proof.Machine.execLdk k b o s
  | .ldfe d a b => Sys2Proof.Machine.execLdfe d a b s
  | .ldff d a b => Sys2Proof.Machine.execLdff d a b s
  | .stfe d a b => Sys2Proof.Machine.execStfe d a b s
  | .feinitE a b => Sys2Proof.Machine.execFeinitE a b s
  | .feinitF a b => Sys2Proof.Machine.execFeinitF a b s
  | .fenceCore => Sys2Proof.Machine.execFenceCore s
  | .fenceCl => Sys2Proof.Machine.execFenceCl s
  | .fenceDev => Sys2Proof.Machine.execFenceDev s
  | .fenceSys => Sys2Proof.Machine.execFenceSys s
  | .aadd d a b w => Sys2Proof.Machine.execAadd d a b w s
  | .aand d a b w => Sys2Proof.Machine.execAand d a b w s
  | .aor d a b w => Sys2Proof.Machine.execAor d a b w s
  | .axor d a b w => Sys2Proof.Machine.execAxor d a b w s
  | .amin d a b w => Sys2Proof.Machine.execAmin d a b w s
  | .amax d a b w => Sys2Proof.Machine.execAmax d a b w s
  | .aminu d a b w => Sys2Proof.Machine.execAminu d a b w s
  | .amaxu d a b w => Sys2Proof.Machine.execAmaxu d a b w s
  | .axchg d a b w => Sys2Proof.Machine.execAxchg d a b w s
  | .acas d a b w => Sys2Proof.Machine.execAcas d a b w s
  | .afadd d a b w => Sys2Proof.Machine.execAfadd d a b w s
  | .redAdd a b w => Sys2Proof.Machine.execRedAdd a b w s
  | .redAnd a b w => Sys2Proof.Machine.execRedAnd a b w s
  | .redOr a b w => Sys2Proof.Machine.execRedOr a b w s
  | .redXor a b w => Sys2Proof.Machine.execRedXor a b w s
  | .redMin a b w => Sys2Proof.Machine.execRedMin a b w s
  | .redMax a b w => Sys2Proof.Machine.execRedMax a b w s
  | .redMinu a b w => Sys2Proof.Machine.execRedMinu a b w s
  | .redMaxu a b w => Sys2Proof.Machine.execRedMaxu a b w s
  | .redfadd a b w => Sys2Proof.Machine.execRedfadd a b w s
  | .await d a b c w => Sys2Proof.Machine.execAwait d a b c w s
  | .sumon p q a => Sys2Proof.Machine.execSumon p q a s
  | .sumaddS a b => Sys2Proof.Machine.execSumaddS a b s
  | .sumaddBf a b => Sys2Proof.Machine.execSumaddBf a b s
  | .sumaddH a b => Sys2Proof.Machine.execSumaddH a b s
  | .sumoff d a => Sys2Proof.Machine.execSumoff d a s
  | .cvtaCl d a => Sys2Proof.Machine.execCvtaCl d a s
  | .cvtaSp d a => Sys2Proof.Machine.execCvtaSp d a s
  | .fadd f d a b => Sys2Proof.Machine.execFadd f d a b s
  | .fsub f d a b => Sys2Proof.Machine.execFsub f d a b s
  | .fmul f d a b => Sys2Proof.Machine.execFmul f d a b s
  | .fdiv f d a b => Sys2Proof.Machine.execFdiv f d a b s
  | .fmin f d a b => Sys2Proof.Machine.execFmin f d a b s
  | .fmax f d a b => Sys2Proof.Machine.execFmax f d a b s
  | .fsqrt f d a => Sys2Proof.Machine.execFsqrt f d a s
  | .fabs f d a => Sys2Proof.Machine.execFabs f d a s
  | .fneg f d a => Sys2Proof.Machine.execFneg f d a s
  | .fma f d a b => Sys2Proof.Machine.execFma f d a b s
  | .fclass f d a => Sys2Proof.Machine.execFclass f d a s
  | .frcp f d a => Sys2Proof.Machine.execFrcp f d a s
  | .frsq f d a => Sys2Proof.Machine.execFrsq f d a s
  | .fexp2 f d a => Sys2Proof.Machine.execFexp2 f d a s
  | .flog2 f d a => Sys2Proof.Machine.execFlog2 f d a s
  | .fsin f d a => Sys2Proof.Machine.execFsin f d a s
  | .fcos f d a => Sys2Proof.Machine.execFcos f d a s
  | .ftanh f d a => Sys2Proof.Machine.execFtanh f d a s
  | .cvt d a m st t => Sys2Proof.Machine.execCvt d a m st t s
  | .rdfp d => Sys2Proof.Machine.execRdfp d s
  | .wrfp a => Sys2Proof.Machine.execWrfp a s
  | .clrflg => Sys2Proof.Machine.execClrflg s
  | .vadd d a b t => Sys2Proof.Machine.execVadd d a b t s
  | .vsub d a b t => Sys2Proof.Machine.execVsub d a b t s
  | .vmul d a b t => Sys2Proof.Machine.execVmul d a b t s
  | .vfma d a b t => Sys2Proof.Machine.execVfma d a b t s
  | .vmin d a b t => Sys2Proof.Machine.execVmin d a b t s
  | .vmax d a b t => Sys2Proof.Machine.execVmax d a b t s
  | .vadds d a b t => Sys2Proof.Machine.execVadds d a b t s
  | .vsubs d a b t => Sys2Proof.Machine.execVsubs d a b t s
  | .vand d a b t => Sys2Proof.Machine.execVand d a b t s
  | .vor d a b t => Sys2Proof.Machine.execVor d a b t s
  | .vxor d a b t => Sys2Proof.Machine.execVxor d a b t s
  | .vsll d a b t => Sys2Proof.Machine.execVsll d a b t s
  | .vsrl d a b t => Sys2Proof.Machine.execVsrl d a b t s
  | .vsra d a b t => Sys2Proof.Machine.execVsra d a b t s
  | .vdiv d a b t => Sys2Proof.Machine.execVdiv d a b t s
  | .vsqrt d a t => Sys2Proof.Machine.execVsqrt d a t s
  | .vabs d a t => Sys2Proof.Machine.execVabs d a t s
  | .vneg d a t => Sys2Proof.Machine.execVneg d a t s
  | .vmulh d a b t => Sys2Proof.Machine.execVmulh d a b t s
  | .vcmpEq d a b t => Sys2Proof.Machine.execVcmpEq d a b t s
  | .vcmpNe d a b t => Sys2Proof.Machine.execVcmpNe d a b t s
  | .vcmpLt d a b t => Sys2Proof.Machine.execVcmpLt d a b t s
  | .vcmpLe d a b t => Sys2Proof.Machine.execVcmpLe d a b t s
  | .vcmpUn d a b t => Sys2Proof.Machine.execVcmpUn d a b t s
  | .vsel d a b t => Sys2Proof.Machine.execVsel d a b t s
  | .vperm d a b t => Sys2Proof.Machine.execVperm d a b t s
  | .vzipl d a b t => Sys2Proof.Machine.execVzipl d a b t s
  | .vziph d a b t => Sys2Proof.Machine.execVziph d a b t s
  | .vunzipl d a b t => Sys2Proof.Machine.execVunzipl d a b t s
  | .vunziph d a b t => Sys2Proof.Machine.execVunziph d a b t s
  | .vredadd d a t => Sys2Proof.Machine.execVredadd d a t s
  | .vredmin d a t => Sys2Proof.Machine.execVredmin d a t s
  | .vredmax d a t => Sys2Proof.Machine.execVredmax d a t s
  | .vredand d a t => Sys2Proof.Machine.execVredand d a t s
  | .vredor d a t => Sys2Proof.Machine.execVredor d a t s
  | .vredxor d a t => Sys2Proof.Machine.execVredxor d a t s
  | .vscanAddInc d a b t => Sys2Proof.Machine.execVscanAddInc d a b t s
  | .vscanAddExc d a b t => Sys2Proof.Machine.execVscanAddExc d a b t s
  | .vscanMinInc d a b t => Sys2Proof.Machine.execVscanMinInc d a b t s
  | .vscanMinExc d a b t => Sys2Proof.Machine.execVscanMinExc d a b t s
  | .vscanMaxInc d a b t => Sys2Proof.Machine.execVscanMaxInc d a b t s
  | .vscanMaxExc d a b t => Sys2Proof.Machine.execVscanMaxExc d a b t s
  | .vcvt d a q t m st => Sys2Proof.Machine.execVcvt d a q t m st s
  | .vget d a b st => Sys2Proof.Machine.execVget d a b st s
  | .vput d a b st => Sys2Proof.Machine.execVput d a b st s
  | .vbcast d a st => Sys2Proof.Machine.execVbcast d a st s
  | .scfg n => Sys2Proof.Machine.execScfg n s
  | .sbind m n => Sys2Proof.Machine.execSbind m n s
  | .sunbind n => Sys2Proof.Machine.execSunbind n s
  | .ssync n => Sys2Proof.Machine.execSsync n s
  | .vown d => Sys2Proof.Machine.execVown d s
  | .vdisown => Sys2Proof.Machine.execVdisown s
  | .vloop a n => Sys2Proof.Machine.execVloop a n s
  | .mfmt a => Sys2Proof.Machine.execMfmt a s
  | .munf => Sys2Proof.Machine.execMunf s
  | .mma n a b => Sys2Proof.Machine.execMma n a b s
  | .mz n => Sys2Proof.Machine.execMz n s
  | .mst n a b => Sys2Proof.Machine.execMst n a b s
  | .mwait d => Sys2Proof.Machine.execMwait d s
  | .cpgIn n a b => Sys2Proof.Machine.execCpgIn n a b s
  | .cpgOut n a b => Sys2Proof.Machine.execCpgOut n a b s
  | .send n a b => Sys2Proof.Machine.execSend n a b s
  | .cpfarIn n a b => Sys2Proof.Machine.execCpfarIn n a b s
  | .cpfarOut n a b => Sys2Proof.Machine.execCpfarOut n a b s
  | .coll n a b => Sys2Proof.Machine.execColl n a b s
  | .waitk m => Sys2Proof.Machine.execWaitk m s
  | .tagpub a => Sys2Proof.Machine.execTagpub a s
  | .tagwait d a => Sys2Proof.Machine.execTagwait d a s
  | .tagq d a => Sys2Proof.Machine.execTagq d a s
  | .retain a b => Sys2Proof.Machine.execRetain a b s
  | .take d a => Sys2Proof.Machine.execTake d a s
  | .takeArm a => Sys2Proof.Machine.execTakeArm a s
  | .grid d st => Sys2Proof.Machine.execGrid d st s
  | .gridParam d a => Sys2Proof.Machine.execGridParam d a s
  | .sysr d n => Sys2Proof.Machine.execSysr d n s
  | .sysw a n => Sys2Proof.Machine.execSysw a n s
  | .syswTlbShoot a => Sys2Proof.Machine.execSyswTlbShoot a s
  | .syswCensusCtl a => Sys2Proof.Machine.execSyswCensusCtl a s
  | .syswSeqState a => Sys2Proof.Machine.execSyswSeqState a s
  | .syswSumStatus a => Sys2Proof.Machine.execSyswSumStatus a s
  | .syswFrameWindow n a => Sys2Proof.Machine.execSyswFrameWindow n a s
  | .eret => Sys2Proof.Machine.execEret s
  | .halt => Sys2Proof.Machine.execHalt s
  | .bkpt => Sys2Proof.Machine.execBkpt s
  | .mark a => Sys2Proof.Machine.execMark a s
  | .rdcyc d => Sys2Proof.Machine.execRdcyc d s
  | .trap c => Sys2Proof.Machine.execTrap c s
  | .boot primary recovery cfg => Sys2Proof.Machine.execBoot primary recovery cfg s
  | .ptpSync t => Sys2Proof.Machine.execPtpSync t s
  | .kick h port msg => Sys2Proof.Machine.execKick h port msg s
  | .kickTake ctx => Sys2Proof.Machine.execKickTake ctx s
  | .groupPlacement => Sys2Proof.Machine.execGroupPlacement s
  | .groupDispatch grp => Sys2Proof.Machine.execGroupDispatch grp s
  | .groupRetirement grp => Sys2Proof.Machine.execGroupRetirement grp s
  | .waveCounterAllocation replay kern => Sys2Proof.Machine.execWaveCounterAllocation replay kern s
  | .allotmentFreeing grp => Sys2Proof.Machine.execAllotmentFreeing grp s
  | .tagPublication pub => Sys2Proof.Machine.execTagPublication pub s
  | .tagLookup look => Sys2Proof.Machine.execTagLookup look s
  | .retainRecord grp => Sys2Proof.Machine.execRetainRecord grp s
  | .takeService pend => Sys2Proof.Machine.execTakeService pend s
  | .delegationCandidates fam take => Sys2Proof.Machine.execDelegationCandidates fam take s
  | .delegationProbe fam => Sys2Proof.Machine.execDelegationProbe fam s
  | .probeReply fam => Sys2Proof.Machine.execProbeReply fam s
  | .forwardArrival fwd => Sys2Proof.Machine.execForwardArrival fwd s
  | .threadTermination uid => Sys2Proof.Machine.execThreadTermination uid s
  | .fkillArrival kill => Sys2Proof.Machine.execFkillArrival kill s
  | .accessPerform acc peer => Sys2Proof.Machine.execAccessPerform acc peer s
  | .resultArrival arr => Sys2Proof.Machine.execResultArrival arr s
  | .outboundResend u => Sys2Proof.Machine.execOutboundResend u s
  | .requestAged acc => Sys2Proof.Machine.execRequestAged acc s
  | .requestPassLimit acc => Sys2Proof.Machine.execRequestPassLimit acc s
  | .pageWalk phys ctx va => Sys2Proof.Machine.execPageWalk phys ctx va s
  | .streamFetch phys c u peer => Sys2Proof.Machine.execStreamFetch phys c u peer s
  | .sequencerIssue phys c => Sys2Proof.Machine.execSequencerIssue phys c s
  | .matrixOpStart phys c reads => Sys2Proof.Machine.execMatrixOpStart phys c reads s
  | .matrixOpComplete phys upset => Sys2Proof.Machine.execMatrixOpComplete phys upset s
  | .copyBurst copy units part peer => Sys2Proof.Machine.execCopyBurst copy units part peer s
  | .farTierAck h => Sys2Proof.Machine.execFarTierAck h s
  | .farPageArrival h page => Sys2Proof.Machine.execFarPageArrival h page s
  | .farTierTimeout copy => Sys2Proof.Machine.execFarTierTimeout copy s
  | .collectiveMessage h comm msg => Sys2Proof.Machine.execCollectiveMessage h comm msg s
  | .collectiveTimeout ctx comm k missing lost => Sys2Proof.Machine.execCollectiveTimeout ctx comm k missing lost s
  | .peerAccessArrival h mark peerCtx offset size op => Sys2Proof.Machine.execPeerAccessArrival h mark peerCtx offset size op s
  | .peerLoss ctx peer => Sys2Proof.Machine.execPeerLoss ctx peer s
  | .trapServiceStart phys c => Sys2Proof.Machine.execTrapServiceStart phys c s
  | .freezeComplete ctx => Sys2Proof.Machine.execFreezeComplete ctx s
  | .freezeLimitExpiry ctx => Sys2Proof.Machine.execFreezeLimitExpiry ctx s
  | .quantumExpiry phys => Sys2Proof.Machine.execQuantumExpiry phys s
  | .hostingSliceExpiry phys => Sys2Proof.Machine.execHostingSliceExpiry phys s
  | .preemptionSave phys => Sys2Proof.Machine.execPreemptionSave phys s
  | .restore ctx lcl => Sys2Proof.Machine.execRestore ctx lcl s
  | .unitWatchdog u => Sys2Proof.Machine.execUnitWatchdog u s
  | .progressWatchdog grp => Sys2Proof.Machine.execProgressWatchdog grp s
  | .patrolScrub word bits => Sys2Proof.Machine.execPatrolScrub word bits s
  | .linkRetry link => Sys2Proof.Machine.execLinkRetry link s
  | .portStateChange port up => Sys2Proof.Machine.execPortStateChange port up s
  | .clusterFencing phys => Sys2Proof.Machine.execClusterFencing phys s
  | .operatingPointChange isl pt => Sys2Proof.Machine.execOperatingPointChange isl pt s
  | .matrixIslandGate phys => Sys2Proof.Machine.execMatrixIslandGate phys s
  | .coreIslandWake phys => Sys2Proof.Machine.execCoreIslandWake phys s
  | .matrixIslandWake phys => Sys2Proof.Machine.execMatrixIslandWake phys s
  | .shootdownComplete sd => Sys2Proof.Machine.execShootdownComplete sd s
  | .uploadGraph h depth place objs at_ => Sys2Proof.Machine.execUploadGraph h depth place objs at_ s
  | .removeGraph h graph => Sys2Proof.Machine.execRemoveGraph h graph s
  | .graphRemovalComplete graph => Sys2Proof.Machine.execGraphRemovalComplete graph s
  | .setPtRoot h pa => Sys2Proof.Machine.execSetPtRoot h pa s
  | .setPeerTableEntry h peer dev endpoint length => Sys2Proof.Machine.execSetPeerTableEntry h peer dev endpoint length s
  | .setExportedWindow h base length accept => Sys2Proof.Machine.execSetExportedWindow h base length accept s
  | .setFarTableEntry h entry server port timeoutUs => Sys2Proof.Machine.execSetFarTableEntry h entry server port timeoutUs s
  | .setCommunicator h comm p rank prev next group timeoutUs => Sys2Proof.Machine.execSetCommunicator h comm p rank prev next group timeoutUs s
  | .setFpCtl h v => Sys2Proof.Machine.execSetFpCtl h v s
  | .setJobSeed h v => Sys2Proof.Machine.execSetJobSeed h v s
  | .setStratusCtl h v => Sys2Proof.Machine.execSetStratusCtl h v s
  | .setContrailBase h v => Sys2Proof.Machine.execSetContrailBase h v s
  | .setContrailCtl h v => Sys2Proof.Machine.execSetContrailCtl h v s
  | .setFreezeAndDump h limitMs base size => Sys2Proof.Machine.execSetFreezeAndDump h limitMs base size s
  | .suspendContext h => Sys2Proof.Machine.execSuspendContext h s
  | .resumeContext h => Sys2Proof.Machine.execResumeContext h s
  | .contextQuote h nonce => Sys2Proof.Machine.execContextQuote h nonce s
  | .shootdownCommand h v => Sys2Proof.Machine.execShootdownCommand h v s
  | .createContext m => Sys2Proof.Machine.execCreateContext m s
  | .destroyContext h ctx => Sys2Proof.Machine.execDestroyContext h ctx s
  | .contextDestroyDrained ctx => Sys2Proof.Machine.execContextDestroyDrained ctx s
  | .setGrants h ctx gs => Sys2Proof.Machine.execSetGrants h ctx gs s
  | .scrubRange h base len => Sys2Proof.Machine.execScrubRange h base len s
  | .scrubComplete => Sys2Proof.Machine.execScrubComplete s
  | .quote h nonce => Sys2Proof.Machine.execQuote h nonce s
  | .identityCertificate h => Sys2Proof.Machine.execIdentityCertificate h s
  | .fenceCluster h phys => Sys2Proof.Machine.execFenceCluster h phys s
  | .unfenceCluster h phys selfTest => Sys2Proof.Machine.execUnfenceCluster h phys selfTest s
  | .readReplaceMeStatus h => Sys2Proof.Machine.execReadReplaceMeStatus h s
  | .registerEventEndpoint h endpoint => Sys2Proof.Machine.execRegisterEventEndpoint h endpoint s
  | .setPowerLimit h watts => Sys2Proof.Machine.execSetPowerLimit h watts s
  | .grantRange h ctx range => Sys2Proof.Machine.execGrantRange h ctx range s
  | .revokeRange h ctx range => Sys2Proof.Machine.execRevokeRange h ctx range s
  | .rangeRevokeComplete range => Sys2Proof.Machine.execRangeRevokeComplete range s
  | .attach h credential => Sys2Proof.Machine.execAttach h credential s
  | .debugDetach h => Sys2Proof.Machine.execDebugDetach h s
  | .readFrame h lcl c slot => Sys2Proof.Machine.execReadFrame h lcl c slot s
  | .writeFrameWord h lcl c slot num v => Sys2Proof.Machine.execWriteFrameWord h lcl c slot num v s
  | .readMemory h addr len peer => Sys2Proof.Machine.execReadMemory h addr len peer s
  | .writeMemory h addr data => Sys2Proof.Machine.execWriteMemory h addr data s
  | .readClusterState h lcl area c offset len => Sys2Proof.Machine.execReadClusterState h lcl area c offset len s
  | .setBreakpointEntry h entry enable handle mask addr => Sys2Proof.Machine.execSetBreakpointEntry h entry enable handle mask addr s
  | .resumeHeldThread h lcl c slot => Sys2Proof.Machine.execResumeHeldThread h lcl c slot s
  | .releaseFreeze h dump => Sys2Proof.Machine.execReleaseFreeze h dump s
  | .illegalInstruction => Sys2Proof.Machine.execIllegalInstruction s
  | .instructionAddressTrap => Sys2Proof.Machine.execInstructionAddressTrap s
  | .farServerRefusal h => Sys2Proof.Machine.execFarServerRefusal h s
  | .unknownOpcodeRequest h ep opcode => Sys2Proof.Machine.execUnknownOpcodeRequest h ep opcode s

end Sys2Proof.Machine
end

