-- ==== Sys2Proof/Machine/Schedule.lean ====
section
/-! DEFINITION. One issue cycle of a core (R42, R255, R280) with the census of its slots (R308, R309), and the turn that
the device takes when the list of turns is empty (log entry 1). -/

namespace Sys2Proof.Machine

/-! ## The slots of a core -/

/-- The threads that stand in the slots of a core: a creator whose slot runs an inline index stands behind that index. -/
def State.seated (s : State) (phys core : Nat) : List Thread :=
  (s.onCore phys core).filter fun t => t.live && !t.run.isHosting

/-- A copy or an MMA that waits for room keeps the translations of its address phase (R159, R237). -/
def State.keepPlan (s : State) (t : Thread) : State :=
  match s.nextOf t with
  | some (p, i) =>
    if (s.names t i).any (s.isHeld t) || s.isHeld t (.pred p.guard.p) then s
    else
      (match s.keptPlan t i with
      | (.ok k, s) => s.updThread t.uid fun t => { t with kept := some k }
      | (.error _, _) => s)
  | none => s

/-- The waits of a core's threads as this cycle finds them; a pop that begins to wait is late (R310, R313). -/
def State.noteWaits (s : State) (ts : List Thread) : State :=
  ts.foldl (fun s t =>
    if s.eligible t then
      match s.waitOf t with
      | some w =>
        let s := if w = .engine && t.kept.isNone then s.keepPlan t else s
        let s := s.updThread t.uid fun t => { t with wait := some w }
        (match w with
        | .operand o => s.markLate t o
        | _ => s)
      | none => s.updThread t.uid fun t => { t with wait := none }
    else s) s

/-- A yield that this cycle leaves in progress: of the slots that were ready at the YIELD, those of `left`, which are ready
and do not issue now; where no other slot is ready, none (R280). -/
def keepYields (phys core : Nat) (left ready : List Nat) (t : Thread) : Thread :=
  if t.phys == phys && t.core == core then
    { t with yield := if ready.any fun u => u != t.uid then t.yield.filter left.contains else [] }
  else t

/-- The first of some threads after the slot that issued last, wrapping from 63 to 0 (R255). -/
def pickAfter (last : Nat) (ts : List Thread) : Option Thread :=
  let least (best : Option Thread) (t : Thread) : Option Thread := match best with
    | none => some t
    | some b => if t.slot < b.slot then some t else some b
  let above := ts.filter fun t => decide (last < t.slot)
  (if above.isEmpty then ts else above).foldl least none

/-! ## The census (R308, R309) -/

/-- Class of a wait for a register, by what will write it. -/
def State.operandClass (s : State) (t : Thread) (o : Operand) : Nat :=
  let prodClass (p : Prod) : Nat := match p with
    | .mem | .atomic | .fe => 3
    | .fsync | .fget | .tagwait | .await_ | .vown | .mwait | .take => 5
    | _ => 4
  let writes (d : Operand) : Bool := d == o
  if (match o with
    | .wide w => (match s.binding t w with
      | .input _ _ => true
      | _ => false)
    | _ => false) then 3
  else
    match s.arrivals.find? fun a => a.uid == t.uid && a.writes.any fun w => writes w.1 with
    | some a => prodClass a.prod
    | none =>
      if s.pends.any fun p => p.uid == t.uid && p.fills o then 5
      else
        match (s.ownAccs t.uid).find? fun a => match a.op with
          | .load _ d => writes d
          | .rmw _ _ _ (some d) | .ldfe _ d | .sumOff d => writes (.int d)
          | .await _ _ d => writes (.int d)
          | .sumOn p q => writes (.pred p) || writes (.pred q)
          | _ => false with
        | some a => (match a.op with
          | .await _ _ _ => 5
          | .sumOn _ _ | .sumOff _ => 4
          | _ => 3)
        | none => 4

/-- The class of a slot's thread in a cycle. Of slots that R308's table does not name: one that waits in EXIT or BREAK counts as
waiting on memory until what it issued is drained (3), then on a register (4); one held by a debugger, by a TLB_SHOOT or for
room among 16 pushes counts as waiting on an engine (5); one that is ready on a stopped cluster is ready (2); and an attempt that
traps has issued (1) (DESIGN CHOICE, log entry 102). -/
def State.slotClass (s : State) (issued : Option Nat) (t : Thread) : Nat :=
  if issued = some t.uid then 1
  else
    let outbound := (s.ownAccs t.uid).any Access.held
    match t.run, s.waitOf t with
    | .running, none => 2
    | .running, some w =>
      if outbound then 3
      else
        (match w with
        | .order => 3
        | .operand o => s.operandClass t o
        | _ => 5)
    | .exiting, _ | .breaking, _ | .ended, _ => if s.drained t then 4 else 3
    | .passing, _ => 4
    | _, _ => if outbound then 3 else 5

/-- The histogram bucket of a number of slots. -/
def bucket (r : Nat) : Nat :=
  if r = 0 then 0 else if r = 1 then 1 else if r < 4 then 2 else if r < 8 then 3 else if r < 16 then 4
  else if r < 32 then 5 else 6

/-- The logical core that a physical one stands for. -/
def State.lcoreOf (s : State) (phys core : Nat) : Nat :=
  8 * ((s.standingLcl phys).getD (s.lmap.findIdx fun p => p == phys)) + core

/-- Count one cycle of a core (R308, R309, R355), with the classes of its seated threads: while a context holds the
cluster, the island is not gated, and the cluster is not frozen. -/
def State.count (s : State) (phys core : Nat) (classes : List Nat) : State :=
  let k := s.clusterAt phys
  match k.ctx with
  | none => s
  | some c =>
    if k.corePt == .gated || ((s.ctx? c).bind (·.freeze)).isSome || !s.holds c phys then s
    else
      let n := s.censusOf c (s.lcoreOf phys core)
      let cls := (bump n.cls 0 (64 - classes.length))
      let cls := classes.foldl (fun v i => bump v i 1) cls
      let r := (classes.filter fun i => i == 1 || i == 2).length
      s.setCensus { n with cls := cls, hist := bump n.hist (bucket r) 1, cycles := n.cycles + 1 }

/-! ## One cycle -/

/-- The thread's next instruction takes the core's wide datapath: majors 0x60 to 0x66. -/
def State.wideNext (s : State) (t : Thread) : Bool :=
  match s.nextOf t with
  | some (_, i) => isBody i || (match i with
    | .vget _ _ _ _ | .vput _ _ _ _ | .vbcast _ _ _ => true
    | _ => false)
  | none => false

/-- The thread that issues in a cycle of a core. In a cycle in which the sequencer has issued, a thread whose next
instruction is a wide one is passed over (R144). -/
def State.issuer (s : State) (phys core : Nat) : Option Thread :=
  let k := s.coreAt phys core
  let ready := (s.seated phys core).filter s.ready
  let free := ready.filter fun t => (t.yield.filter fun u => ready.any fun x => x.uid == u).isEmpty
  pickAfter k.last ((if free.isEmpty then ready else free).filter fun t => !(k.wideBusy && s.wideNext t))

/-- A thread issues: what its fetch finds is executed, or trapped (R42 steps 1 and 2); a poisoned word of its cluster's code
store is charged to its context, and nothing issues (R363). -/
def State.issue (s : State) (t : Thread) : Host.Outcome State Fault Refusal :=
  let p : Port := ⟨t.uid, Guard.always, none, false⟩
  let bad := s.codeBad t.phys t.pc.toNat (s.fetchLength t.pc)
  match s.fetch t.graph t.pc with
  | .bad _ => execInstructionAddressTrap { s with port := some p }
  | .illegal => if bad then .next (s.chargeCode t) else execIllegalInstruction { s with port := some p }
  | .ok g i => if bad then .next (s.chargeCode t) else exec i { s with port := some { p with guard := g } }

/-- What a cycle of a core does before anything issues: waits are noted and slots counted, yields are kept, the slot that
issues becomes the last one, and the wide datapath is free for the next cycle; with the thread that issues, if any. -/
def State.prepared (s : State) (phys core : Nat) : State × Option Thread :=
  let seats := s.seated phys core
  let s := s.noteWaits seats
  let ready := (seats.filter s.ready).map (·.uid)
  let pick := s.issuer phys core
  let s := s.count phys core (seats.map (s.slotClass (pick.map (·.uid))))
  let left := ready.filter fun u => pick.map (·.uid) != some u
  let s := { s with threads := s.threads.map (keepYields phys core left ready) }
  let s := if (s.coreAt phys core).wideBusy then s.updCore phys core fun k => { k with wideBusy := false } else s
  match pick with
  | none => (s, none)
  | some t => (s.updCore phys core fun k => { k with last := t.slot }, some t)

/-- One issue cycle of a core: one thread issues, if one is ready (R255). -/
def State.cycle (s : State) (phys core : Nat) : Host.Outcome State Fault Refusal :=
  let r := s.prepared phys core
  match r.2 with
  | none => .next r.1
  | some t => r.1.issue t

/-! ## The default turn (log entry 1) -/

/-- A place on another device: only the outside world answers for it. -/
def Loc.isPeer : Loc → Bool
  | .peer _ _ => true
  | _ => false

/-- The reads that the operation at the head of a matrix queue still waits for, as MATRIX_OP_START names them. -/
def CoreSt.headReads (k : CoreSt) : List Nat :=
  match k.mq with
  | [] => []
  | m :: _ => m.operands.zipIdx.filterMap fun x => match x.1.1 with
    | some (.hbm _) => if (m.got.lookup x.2).isNone then some x.2 else none
    | _ => none

/-- Every event of the device itself that may be due, none of the outside world's. -/
def State.dueEvents (s : State) : List (State → Host.Outcome State Fault Refusal) :=
  (s.arrivals.map fun (a : Arrival) => execResultArrival a.id)
    ++ ((s.accs.filter fun (a : Access) => !a.loc.isPeer).map fun (a : Access) => execAccessPerform a.id PeerAnswer.none)
    ++ (s.fwds.map fun (f : Fwd) => execForwardArrival f.id)
    ++ (s.kills.map fun (k : Kill) => execFkillArrival k.id)
    ++ (s.threads.map fun (t : Thread) => execThreadTermination t.uid)
    ++ (s.pends.flatMap fun (p : Pend) => [execTakeService p.id, execTagLookup (.thread p.id)])
    ++ (s.pubs.map fun (p : Pub) => execTagPublication p.id)
    ++ (s.copies.map fun (c : Copy) =>
      execCopyBurst c.id ⟨(c.units.zipIdx.findIdx? fun u => s.canMove c u.2 u.1 && !u.1.1.isPeer).getD c.units.length, 16⟩ 0 [])
    ++ (s.cores.flatMap fun (k : CoreSt) =>
      [execSequencerIssue k.phys k.core, execMatrixOpStart k.phys k.core k.headReads, execTrapServiceStart k.phys k.core])
    ++ (s.clusters.map fun (k : Cluster) => execMatrixOpComplete k.phys false)
    ++ (s.families.flatMap fun (f : Family) =>
      [execDelegationProbe f.uid, execProbeReply f.uid,
       execDelegationCandidates f.uid (f.probe.any fun p => !p.answered), execDelegationCandidates f.uid false])
    ++ (s.groups.flatMap fun (g : Group) =>
      [execGroupDispatch g.uid, execRetainRecord g.uid, execGroupRetirement g.uid, execAllotmentFreeing g.uid])
    ++ (s.replays.flatMap fun (r : Replay) => (List.range r.kernels.length).map fun i => execWaveCounterAllocation r.uid i)
    ++ [execGroupPlacement]
    ++ (s.ctxs.flatMap fun (c : Context) =>
      [execKickTake c.id, execFreezeComplete c.id, execFreezeLimitExpiry c.id, execContextDestroyDrained c.id])
    ++ (s.shoots.map fun (d : Shootdown) => execShootdownComplete d.id)
    ++ (s.walks.map fun (x : PageWalk) s => .next (s.stepWalk x))
    ++ (s.clusters.flatMap fun (k : Cluster) =>
      [execPreemptionSave k.phys, execClusterFencing k.phys, execCoreIslandWake k.phys, execMatrixIslandWake k.phys,
       execQuantumExpiry k.phys, execHostingSliceExpiry k.phys])
    ++ (s.saves.map fun (x : SaveRec) => execRestore x.ctx x.lcl)
    ++ (s.graphs.map fun (g : Graph) => execGraphRemovalComplete g.id)
    ++ ((List.range 64).map fun n => execRangeRevokeComplete n)
    ++ [execScrubComplete]
    ++ (s.uploads.map fun (u : Upload) s => .next (s.load u.hdr u.at_))
    ++ (s.cores.flatMap fun (k : CoreSt) => (List.finRange 4).map fun u => execStreamFetch k.phys k.core u 0)
    ++ ((s.accs.filter fun (a : Access) => a.phase == .outbound).flatMap fun (a : Access) =>
      ((a.loc.banks a.size).toList.flatMap fun b => b.2.map fun n => execOutboundResend (.bank b.1 n))
        ++ a.channel.toList.map fun n => execOutboundResend (.channel n))
    ++ (s.replays.flatMap fun (r : Replay) => (numbered (((s.graph? r.graph).map (·.kernels)).getD [])).flatMap fun x =>
      let lin := (firstFrom (fun n => !((r.kernels[x.1]?).map fun k => k.started.contains n).getD true) x.2.grid 0).getD 0
      (x.2.inputTags lin).map fun n => execTagLookup (.group r.uid x.1 lin n))

/-- The state after the first event that changes it. -/
def State.firstDue (s : State) : List (State → Host.Outcome State Fault Refusal) → Option State
  | [] => none
  | e :: es =>
    match e s with
    | .next s' => if s' = s then State.firstDue s es else some s'
    | _ => State.firstDue s es

/-- With no turn listed, an event that is due happens, or else a core that has a ready thread issues, or else time
passes. -/
def State.defaultTurn (s : State) : Host.Outcome State Fault Refusal :=
  match s.firstDue s.dueEvents with
  | some s' => .next s'
  | none =>
    let cores := (((s.threads.filter s.ready).map fun (t : Thread) => (t.phys, t.core))
      ++ (s.cores.filter fun (k : CoreSt) => k.wideBusy).map fun (k : CoreSt) => (k.phys, k.core)).dedup
    let s := { s with now := s.now + 1 }.deliverEvents
    match cores[s.now % cores.length]? with
    | some c => s.cycle c.1 c.2
    | none => .next s

/-! ## Turns -/

/-- One turn. -/
def State.take (s : State) : Turn → Host.Outcome State Fault Refusal
  | .cycle phys core => s.cycle phys core
  | .event i => exec i { s with port := none }
  | .advance ns => .next { s with now := s.now + ns }.deliverEvents
  | .load h at_ => .next (s.load h at_)
  | .census h lcore sel => .next (s.hostCensus h lcore sel)

end Sys2Proof.Machine
end

