-- ==== Sys2Proof/Machine/Step.lean ====
section
/-! DEFINITION. One step of the device, and the placing of an instruction where the next step fetches. -/

namespace Sys2Proof.Machine

/-- One step: the next turn of the list (log entry 1), or the default turn where the list is empty. -/
def step (s : State) : Host.Outcome State Fault Refusal :=
  match s.turns with
  | [] => s.defaultTurn
  | t :: rest => { s with turns := rest }.take t

/-! ## withFetchWord (log entry 9) -/

/-- The machine with one root thread on core 0 of cluster 0, every register FULL and zero, where a program has been loaded
and its group started: context 0, a graph whose `.text` fills the code stores, and a replay of it. -/
def State.seated1 (s : State) : State :=
  let k : Kernel := ⟨0, 0x444F, 1, 1, 1, 504, 0, 0, 8, [], [], [], []⟩
  let g : Graph := ⟨s.nextGraph, 0, 0, 1, 0, 262144, [k], [], [], some 0, [], none⟩
  let r : Replay := ⟨s.fresh, 0, g.id, 0, 0, 0, [], [⟨[0], [], none, [], [], none, []⟩], none, 0, 0, 0, 0, [], Stamp.zero⟩
  let grp : Group :=
    ⟨s.fresh + 1, 0, r.uid, 0, 0, 0, 0, 0, 0, Vector.replicate 8 0, 0, 504, .running, false, none, [], 0, 16, 0, Stamp.zero⟩
  let t0 := Thread.blank (s.fresh + 2) .root 0 grp.uid g.id 0 0 0 0
  let t : Thread := { t0 with window := 0x444F, full := BitVec.allOnes 50 }
  { s with ctxs := Context.fresh 0 0 :: s.ctxs, graphs := g :: s.graphs, nextGraph := s.nextGraph + 1,
           replays := r :: s.replays, groups := grp :: s.groups, threads := t :: s.threads, fresh := s.fresh + 3,
           clusters := { Cluster.fresh 0 with ctx := some 0, lastCtx := some 0 } :: s.clusters }

/-- The thread that the placed instruction is for: the first one that runs. -/
def State.fetcher (s : State) : Option Thread := s.threads.find? fun t => t.run == .running

/-- The state with an instruction placed where its next step fetches: at the program counter of a running thread, in a
turn of its core. -/
def State.withFetchWord (s : State) (nbits w : Nat) : State :=
  let s := if s.fetcher.isSome then s else s.seated1
  match s.fetcher with
  | none => s
  | some t =>
    { s with mem := Mem.setLE s.mem (Loc.code t.pc.toNat).key 6 (w % 2 ^ nbits)
             cores := s.cores.map fun (k : CoreSt) =>
               if k.phys == t.phys && k.core == t.core then { k with last := (t.slot + 63) % 64 } else k
             turns := .cycle t.phys t.core :: s.turns }

end Sys2Proof.Machine
end

