-- ==== Sys2Proof/Safety.lean ====
section
/-! DEFINITION. What the statements speak of: when an instruction issues and what issuing leaves, what counts as a safe
state, and the tables of results that the spec prints, written from the spec beside the meanings. -/

namespace Sys2Proof.Machine

/-! ## Issue (R42) -/

/-- Thread `t`'s instruction `i` passes checks 2 to 7 of R42 at issue port `p`: it is legal there (2), names registers of
its window alone (3), hits no breakpoint (R319) and no register that the thread's sequencer run holds (R147), its guard
is FULL and holds (4), no destination is pending (5), no source is EMPTY (6), and nothing that its entry or step 7 names
makes it wait. -/
abbrev Issues (s : State) (t : Thread) (p : Port) (i : Instr) : Prop :=
  s.port = some p ∧ s.thread? p.uid = some t ∧ illegalAt t p i = false
    ∧ (∀ o ∈ s.names t i, inWindow t.window o = true)
    ∧ (p.seqr = true ∨ t.bpSkip = some t.pc ∨ s.breakpoint t = none)
    ∧ (p.seqr = true ∨ ∀ o ∈ .pred p.guard.p :: s.names t i, s.isHeld t o = false)
    ∧ t.isFull (.pred p.guard.p) = true ∧ t.pred p.guard.p ≠ p.guard.neg
    ∧ (∀ o ∈ (regsOf i).dsts, s.pending t o = false ∧ s.pushFull t o = false)
    ∧ (∀ o ∈ s.srcsOf t i, s.empty t o = false)
    ∧ s.holdOf t p i = none

/-- No wide register that the instruction reads or writes is bound to a stream (R150). -/
abbrev NoStream (s : State) (t : Thread) (i : Instr) : Prop :=
  (∀ w ∈ widesOf (s.srcsOf t i), s.binding t w = .plain) ∧ ∀ w ∈ widesOf (regsOf i).dsts, s.binding t w = .plain

/-- The state once an instruction without a stream has issued, its own effect apart: its destinations are EMPTY and pending
(R37), and the thread, or its sequencer run, stands behind it. -/
def State.issued (s : State) (t : Thread) (p : Port) (i : Instr) : State :=
  (s.updThread t.uid fun x => x.oweAll (regsOf i).dsts).advance t p i

/-- Two threads hold the same values in every register (R33), whatever their full and pending bits. -/
def Thread.sameValues (a b : Thread) : Prop :=
  a.ints = b.ints ∧ a.wides = b.wides ∧ a.exts = b.exts ∧ a.preds = b.preds

/-- An instruction that a thread issues: it has an encoding. -/
abbrev ThreadInstr (i : Instr) : Prop := encode Guard.always i ≠ []

/-- The checks of R42 before the guard is read: the instruction is legal, names registers of its window, hits no breakpoint
(R319), and no register of its is held by the thread's sequencer run (R147). -/
abbrev ReachesGuard (s : State) (t : Thread) (p : Port) (i : Instr) : Prop :=
  illegalAt t p i = false ∧ (∀ o ∈ s.names t i, inWindow t.window o = true)
    ∧ (p.seqr = true ∨ t.bpSkip = some t.pc ∨ s.breakpoint t = none)
    ∧ (p.seqr = true ∨ ∀ o ∈ .pred p.guard.p :: s.names t i, s.isHeld t o = false)

/-- The instructions that change nothing but the requests, results and positions that they leave, and a family's or a unit's
state: they neither start, end nor hand over a thread or the matrix state, nor write a register at their issue. ORD issues the
instruction after it. -/
def plainIssue : Instr → Bool
  | .create _ _ | .fgo _ _ | .exit | .brk | .sunbind _ | .vdisown | .vown _ | .syswFrameWindow _ _ | .eret | .mark _ | .ord _ _ => false
  | _ => true

/-- Two contexts hold the same values in the registers of R348. -/
abbrev Context.sameRegs (a b : Context) : Prop :=
  a.trapVec = b.trapVec ∧ a.sumStatus = b.sumStatus ∧ a.censusSel = b.censusSel ∧ a.fpCtl = b.fpCtl ∧ a.jobSeed = b.jobSeed ∧
    a.stratusCtl = b.stratusCtl ∧ a.contrailBase = b.contrailBase ∧ a.contrailCtl = b.contrailCtl

/-! ## Integer tables (R55 to R63) -/

/-- The larger and smaller of two signed or unsigned values. -/
def pick (c : Bool) (a b : Word) : Word := if c then a else b

/-- Functions of major 0x00 (R55): destination, sources, and the result of a and b. -/
def table55 : Instr → Option (IReg × IReg × IReg × (Word → Word → Word))
  | .add d a b => some (d, a, b, fun a b => a + b)
  | .sub d a b => some (d, a, b, fun a b => a - b)
  | .and d a b => some (d, a, b, fun a b => a &&& b)
  | .or d a b => some (d, a, b, fun a b => a ||| b)
  | .xor d a b => some (d, a, b, fun a b => a ^^^ b)
  | .andn d a b => some (d, a, b, fun a b => a &&& ~~~b)
  | .orn d a b => some (d, a, b, fun a b => a ||| ~~~b)
  | .xnor d a b => some (d, a, b, fun a b => ~~~(a ^^^ b))
  | .sll d a b => some (d, a, b, fun a b => a <<< (b.toNat % 64))
  | .srl d a b => some (d, a, b, fun a b => a >>> (b.toNat % 64))
  | .sra d a b => some (d, a, b, fun a b => a.sshiftRight (b.toNat % 64))
  | .ror d a b => some (d, a, b, fun a b => a.rotateRight (b.toNat % 64))
  | .min d a b => some (d, a, b, fun a b => pick (decide (a.toInt ≤ b.toInt)) a b)
  | .max d a b => some (d, a, b, fun a b => pick (decide (a.toInt ≤ b.toInt)) b a)
  | .minu d a b => some (d, a, b, fun a b => pick (decide (a.toNat ≤ b.toNat)) a b)
  | .maxu d a b => some (d, a, b, fun a b => pick (decide (a.toNat ≤ b.toNat)) b a)
  | .adds d a b => some (d, a, b, fun a b =>
      if a.toInt + b.toInt < -2 ^ 63 then BitVec.ofInt 64 (-2 ^ 63)
      else if 2 ^ 63 - 1 < a.toInt + b.toInt then BitVec.ofInt 64 (2 ^ 63 - 1) else a + b)
  | .subs d a b => some (d, a, b, fun a b =>
      if a.toInt - b.toInt < -2 ^ 63 then BitVec.ofInt 64 (-2 ^ 63)
      else if 2 ^ 63 - 1 < a.toInt - b.toInt then BitVec.ofInt 64 (2 ^ 63 - 1) else a - b)
  | .addsu d a b => some (d, a, b, fun a b => if 2 ^ 64 ≤ a.toNat + b.toNat then BitVec.allOnes 64 else a + b)
  | .subsu d a b => some (d, a, b, fun a b => if a.toNat < b.toNat then 0 else a - b)
  | _ => none

/-- The immediate forms (R56): destination, source and the result of it. -/
def table56 : Instr → Option (IReg × IReg × (Word → Word))
  | .addImm d a i => some (d, a, fun a => a + i.signExtend 64)
  | .andImm d a i => some (d, a, fun a => a &&& i.signExtend 64)
  | .orImm d a i => some (d, a, fun a => a ||| i.signExtend 64)
  | .xorImm d a i => some (d, a, fun a => a ^^^ i.signExtend 64)
  | .sllImm d a i => some (d, a, fun a => a <<< i.toNat)
  | .srlImm d a i => some (d, a, fun a => a >>> i.toNat)
  | .sraImm d a i => some (d, a, fun a => a.sshiftRight i.toNat)
  | .rorImm d a i => some (d, a, fun a => a.rotateRight i.toNat)
  | .mulImm d a i => some (d, a, fun a => a * i.signExtend 64)
  | .minImm d a i => some (d, a, fun a => pick (decide (a.toInt ≤ i.toInt)) a (i.signExtend 64))
  | .maxImm d a i => some (d, a, fun a => pick (decide (a.toInt ≤ i.toInt)) (i.signExtend 64) a)
  | _ => none

/-- The multiply and divide group (R58): the result v of a and b, as the pseudocode has it. -/
def says58 : Instr → Option (IReg × IReg × IReg × (Word → Word → Word → Prop))
  | .mul d a b => some (d, a, b, fun a b v => v.toNat = a.toNat * b.toNat % 2 ^ 64)
  | .mulh d a b => some (d, a, b, fun a b v => ∃ lo : Nat, lo < 2 ^ 64 ∧ a.toInt * b.toInt = v.toInt * 2 ^ 64 + lo)
  | .mulhu d a b => some (d, a, b, fun a b v => ∃ lo : Nat, lo < 2 ^ 64 ∧ a.toNat * b.toNat = v.toNat * 2 ^ 64 + lo)
  | .mulhsu d a b => some (d, a, b, fun a b v =>
      ∃ lo : Nat, lo < 2 ^ 64 ∧ a.toInt * (b.toNat : Int) = v.toInt * 2 ^ 64 + lo)
  | .div d a b => some (d, a, b, fun a b v =>
      if b = 0 then v = 0xFFFFFFFFFFFFFFFF
      else if a = 0x8000000000000000 ∧ b = 0xFFFFFFFFFFFFFFFF then v = a else v.toInt = Int.tdiv a.toInt b.toInt)
  | .rem d a b => some (d, a, b, fun a b v =>
      if b = 0 then v = a
      else if a = 0x8000000000000000 ∧ b = 0xFFFFFFFFFFFFFFFF then v = 0
      else v.toInt = a.toInt - Int.tdiv a.toInt b.toInt * b.toInt)
  | .divu d a b => some (d, a, b, fun a b v => if b = 0 then v = 0xFFFFFFFFFFFFFFFF else v.toNat = a.toNat / b.toNat)
  | .remu d a b => some (d, a, b, fun a b v => if b = 0 then v = a else v.toNat = a.toNat - a.toNat / b.toNat * b.toNat)
  | _ => none

/-- Position and clipped width of a field descriptor (R59). -/
def fieldOf (b : Word) : Nat × Nat :=
  let pos := b.toNat % 64
  (pos, min (b.toNat / 256 % 128) (64 - pos))

/-- The bit and bit-field group (R59): the result v of the old rd, a and b. -/
def says59 : Instr → Option (IReg × IReg × IReg × (Word → Word → Word → Word → Prop))
  | .clz d a => some (d, a, .zero, fun _ a _ v => v.toNat ≤ 64 ∧ (∀ i < v.toNat, a.getLsbD (63 - i) = false)
      ∧ (v.toNat < 64 → a.getLsbD (63 - v.toNat) = true))
  | .ctz d a => some (d, a, .zero, fun _ a _ v => v.toNat ≤ 64 ∧ (∀ i < v.toNat, a.getLsbD i = false)
      ∧ (v.toNat < 64 → a.getLsbD v.toNat = true))
  | .popc d a => some (d, a, .zero, fun _ a _ v => v.toNat = ((List.range 64).filter fun i => a.getLsbD i).length)
  | .brev d a => some (d, a, .zero, fun _ a _ v => ∀ i < 64, v.getLsbD (63 - i) = a.getLsbD i)
  | .bswap d a => some (d, a, .zero, fun _ a _ v =>
      ∀ i < 8, ∀ j < 8, v.getLsbD (8 * (7 - i) + j) = a.getLsbD (8 * i + j))
  | .sxb d a => some (d, a, .zero, fun _ a _ v => v = (a.setWidth 8).signExtend 64)
  | .sxh d a => some (d, a, .zero, fun _ a _ v => v = (a.setWidth 16).signExtend 64)
  | .sxw d a => some (d, a, .zero, fun _ a _ v => v = (a.setWidth 32).signExtend 64)
  | .bfx d a b => some (d, a, b, fun _ a b v => ∀ i < 64, v.getLsbD i =
      if (fieldOf b).2 = 0 then false
      else if i < (fieldOf b).2 then a.getLsbD ((fieldOf b).1 + i)
      else a.getLsbD ((fieldOf b).1 + (fieldOf b).2 - 1))
  | .bfxu d a b => some (d, a, b, fun _ a b v => ∀ i < 64, v.getLsbD i =
      if i < (fieldOf b).2 then a.getLsbD ((fieldOf b).1 + i) else false)
  | .bfi d a b => some (d, a, b, fun old a b v => ∀ i < 64, v.getLsbD i =
      if (fieldOf b).1 ≤ i ∧ i < (fieldOf b).1 + (fieldOf b).2 then a.getLsbD (i - (fieldOf b).1) else old.getLsbD i)
  | _ => none

/-- A compare condition (R62) of a and b. -/
def cond62 (c : Cond) (a b : Word) : Prop :=
  match c with
  | .eq => a = b
  | .ne => a ≠ b
  | .lt => a.toInt < b.toInt
  | .ge => b.toInt ≤ a.toInt
  | .le => a.toInt ≤ b.toInt
  | .gt => b.toInt < a.toInt
  | .ltu => a.toNat < b.toNat
  | .geu => b.toNat ≤ a.toNat
  | .leu => a.toNat ≤ b.toNat
  | .gtu => b.toNat < a.toNat
  | .tst => a &&& b ≠ 0
  | .tstz => a &&& b = 0

/-! ## Floating point (R129 to R134) -/

/-- The scalar operations of majors 0x50 to 0x53: destination, and the result with its flags on the sources as R129 reads
them. -/
def table130 (t : Thread) : Instr → Option (IReg × Flagged)
  | .fadd f d a b => some (d, fAdd (scalarFmt f) t.fenv (fpSrc (scalarFmt f) t a) (fpSrc (scalarFmt f) t b))
  | .fsub f d a b => some (d, fSub (scalarFmt f) t.fenv (fpSrc (scalarFmt f) t a) (fpSrc (scalarFmt f) t b))
  | .fmul f d a b => some (d, fMul (scalarFmt f) t.fenv (fpSrc (scalarFmt f) t a) (fpSrc (scalarFmt f) t b))
  | .fdiv f d a b => some (d, fDiv (scalarFmt f) t.fenv (fpSrc (scalarFmt f) t a) (fpSrc (scalarFmt f) t b))
  | .fmin f d a b => some (d, fMinMax (scalarFmt f) t.fenv false (fpSrc (scalarFmt f) t a) (fpSrc (scalarFmt f) t b), 0)
  | .fmax f d a b => some (d, fMinMax (scalarFmt f) t.fenv true (fpSrc (scalarFmt f) t a) (fpSrc (scalarFmt f) t b), 0)
  | .fsqrt f d a => some (d, fSqrt (scalarFmt f) t.fenv (fpSrc (scalarFmt f) t a))
  | .fabs f d a => some (d, fpSrc (scalarFmt f) t a % 2 ^ ((scalarFmt f).width - 1), 0)
  | .fneg f d a => some (d, fpSrc (scalarFmt f) t a ^^^ 2 ^ ((scalarFmt f).width - 1), 0)
  | .fma f d a b => some (d, fFma (scalarFmt f) t.fenv (fpSrc (scalarFmt f) t a) (fpSrc (scalarFmt f) t b)
      (fpSrc (scalarFmt f) t d))
  | .frcp f d a => some (d, fSpecial (scalarFmt f) t.fenv .rcp (fpSrc (scalarFmt f) t a))
  | .frsq f d a => some (d, fSpecial (scalarFmt f) t.fenv .rsq (fpSrc (scalarFmt f) t a))
  | .fexp2 f d a => some (d, fSpecial (scalarFmt f) t.fenv .exp2 (fpSrc (scalarFmt f) t a))
  | .flog2 f d a => some (d, fSpecial (scalarFmt f) t.fenv .log2 (fpSrc (scalarFmt f) t a))
  | .fsin f d a => some (d, fSpecial (scalarFmt f) t.fenv .sin (fpSrc (scalarFmt f) t a))
  | .fcos f d a => some (d, fSpecial (scalarFmt f) t.fenv .cos (fpSrc (scalarFmt f) t a))
  | .ftanh f d a => some (d, fSpecial (scalarFmt f) t.fenv .tanh (fpSrc (scalarFmt f) t a))
  | _ => none

/-- Fraction and exponent bits of the four scalar formats (R111). -/
def fields111 : FFmt → Nat × Nat
  | .d => (52, 11)
  | .s => (23, 8)
  | .h => (10, 5)
  | .bf => (7, 8)

/-- Bit `k` of FCLASS's mask for an encoding (R132). -/
def classBit (f : FFmt) (b k : Nat) : Prop :=
  let m := b % 2 ^ (fields111 f).1
  let e := b / 2 ^ (fields111 f).1 % 2 ^ (fields111 f).2
  let neg := b / 2 ^ ((fields111 f).1 + (fields111 f).2) % 2 = 1
  let top := 2 ^ (fields111 f).2 - 1
  match k with
  | 0 => neg ∧ e = top ∧ m = 0
  | 1 => neg ∧ e ≠ 0 ∧ e ≠ top
  | 2 => neg ∧ e = 0 ∧ m ≠ 0
  | 3 => neg ∧ e = 0 ∧ m = 0
  | 4 => ¬neg ∧ e = 0 ∧ m = 0
  | 5 => ¬neg ∧ e = 0 ∧ m ≠ 0
  | 6 => ¬neg ∧ e ≠ 0 ∧ e ≠ top
  | 7 => ¬neg ∧ e = top ∧ m = 0
  | 8 => e = top ∧ m ≠ 0
  | _ => False

/-- The scalar compares: format, predicates, sources and condition (R134). -/
def table134 : Instr → Option (Fmt × PReg × PReg × IReg × IReg × FCond)
  | .fcmpD p q a b c => some (.d, p, q, a, b, c)
  | .fcmpS p q a b c => some (.s, p, q, a, b, c)
  | .fcmpH p q a b c => some (.h, p, q, a, b, c)
  | .fcmpBf p q a b c => some (.bf, p, q, a, b, c)
  | _ => none

/-! ## Wide instructions (R137 to R141) -/

/-- The lane-by-lane instructions of majors 0x60 and 0x61: destination, sources, format, and the result of one lane with
its flags, on the lanes of wa, wb and the old wd. -/
def table137 (v : FEnv) : Instr → Option (WReg × WReg × WReg × Fmt × (Nat → Nat → Nat → Flagged))
  | .vadd d a b f => some (d, a, b, f, fun x y _ =>
      if f.isInt then (wrap f.width (intVal f x + intVal f y), 0) else fAdd f v x y)
  | .vsub d a b f => some (d, a, b, f, fun x y _ =>
      if f.isInt then (wrap f.width (intVal f x - intVal f y), 0) else fSub f v x y)
  | .vmul d a b f => some (d, a, b, f, fun x y _ =>
      if f.isInt then (wrap f.width (intVal f x * intVal f y), 0) else fMul f v x y)
  | .vfma d a b f => some (d, a, b, f, fun x y z =>
      if f.isInt then (wrap f.width (intVal f x * intVal f y + intVal f z), 0) else fFma f v x y z)
  | .vmin d a b f => some (d, a, b, f, fun x y _ =>
      if f.isInt then (if intVal f x ≤ intVal f y then x else y, 0) else (fMinMax f v false x y, 0))
  | .vmax d a b f => some (d, a, b, f, fun x y _ =>
      if f.isInt then (if intVal f x ≤ intVal f y then y else x, 0) else (fMinMax f v true x y, 0))
  | .vadds d a b f => some (d, a, b, f, fun x y _ => (wrap f.width (clampInt f (intVal f x + intVal f y)), 0))
  | .vsubs d a b f => some (d, a, b, f, fun x y _ => (wrap f.width (clampInt f (intVal f x - intVal f y)), 0))
  | .vand d a b f => some (d, a, b, f, fun x y _ => (x &&& y, 0))
  | .vor d a b f => some (d, a, b, f, fun x y _ => (x ||| y, 0))
  | .vxor d a b f => some (d, a, b, f, fun x y _ => (x ^^^ y, 0))
  | .vsll d a b f => some (d, a, b, f, fun x y _ => (x <<< (y % f.width), 0))
  | .vsrl d a b f => some (d, a, b, f, fun x y _ => (x >>> (y % f.width), 0))
  | .vsra d a b f => some (d, a, b, f, fun x y _ => (((BitVec.ofNat f.width x).sshiftRight (y % f.width)).toNat, 0))
  | .vdiv d a b f => some (d, a, b, f, fun x y _ =>
      if f.isInt then
        (if intVal f y = 0 then 2 ^ f.width - 1 else wrap f.width (Int.tdiv (intVal f x) (intVal f y)), 0)
      else fDiv f v x y)
  | .vsqrt d a f => some (d, a, a, f, fun x _ _ => fSqrt f v x)
  | .vabs d a f => some (d, a, a, f, fun x _ _ =>
      if f.isInt then (if intVal f x < 0 then wrap f.width (-intVal f x) else x, 0) else (x % 2 ^ (f.width - 1), 0))
  | .vneg d a f => some (d, a, a, f, fun x _ _ =>
      if f.isInt then (wrap f.width (-intVal f x), 0) else (x ^^^ 2 ^ (f.width - 1), 0))
  | .vmulh d a b f => some (d, a, b, f, fun x y _ => (wrap f.width (intVal f x * intVal f y / 2 ^ f.width), 0))
  | .vcmpEq d a b f => some (d, a, b, f, fun x y _ => laneCmp f v .eq x y)
  | .vcmpNe d a b f => some (d, a, b, f, fun x y _ => laneCmp f v .ne x y)
  | .vcmpLt d a b f => some (d, a, b, f, fun x y _ => laneCmp f v .lt x y)
  | .vcmpLe d a b f => some (d, a, b, f, fun x y _ => laneCmp f v .le x y)
  | .vcmpUn d a b f => some (d, a, b, f, fun x y _ => laneCmp f v .un x y)
  | .vsel d a b f => some (d, a, b, f, fun x y z => (if z ≠ 0 then x else y, 0))
  | _ => none

/-- The shuffles (R139): destination, sources, format, and lane i of the result from the lanes of wa and wb. -/
def table139 : Instr → Option (WReg × WReg × WReg × Fmt × ((Nat → Nat) → (Nat → Nat) → Nat → Nat))
  | .vperm d a b f => some (d, a, b, f, fun x y i => x (y i % f.lanes))
  | .vzipl d a b f => some (d, a, b, f, fun x y i => if i % 2 = 0 then x (i / 2) else y (i / 2))
  | .vziph d a b f => some (d, a, b, f, fun x y i =>
      if i % 2 = 0 then x (f.lanes / 2 + i / 2) else y (f.lanes / 2 + i / 2))
  | .vunzipl d a b f => some (d, a, b, f, fun x y i => if 2 * i < f.lanes then x (2 * i) else y (2 * i - f.lanes))
  | .vunziph d a b f => some (d, a, b, f, fun x y i =>
      if 2 * i + 1 < f.lanes then x (2 * i + 1) else y (2 * i + 1 - f.lanes))
  | _ => none

/-- The horizontal reductions (R140): destination, source, format and the operation on two lanes. -/
def table140 (v : FEnv) : Instr → Option (WReg × WReg × Fmt × (Nat → Nat → Flagged))
  | .vredadd d a f => some (d, a, f, laneAdd f v)
  | .vredmin d a f => some (d, a, f, laneMin f v)
  | .vredmax d a f => some (d, a, f, laneMax f v)
  | .vredand d a f => some (d, a, f, fun x y => (x &&& y, 0))
  | .vredor d a f => some (d, a, f, fun x y => (x ||| y, 0))
  | .vredxor d a f => some (d, a, f, fun x y => (x ^^^ y, 0))
  | _ => none

/-- What an inclusive scan leaves in a lane that begins a segment, with its flags: the source, a NaN as the canonical one
(R114), a subnormal float as DAZ (R121) and, where the scan adds, FTZ (R122) leave it. -/
def headOf (f : Fmt) (v : FEnv) (add : Bool) (x : Nat) : Flagged :=
  if f.isInt then (x, 0)
  else if isNaN f x then (canonNaN f, 0)
  else if isSubnormal f x = false then (x, 0)
  else if v.daz then (if signBit f ≤ x then signBit f else 0, 0)
  else if add ∧ v.ftz then (if signBit f ≤ x then signBit f else 0, fUnderflow ||| fInexact)
  else (x, 0)

/-- The scans (R141): destination, source, heads, format, operation, what a lane that begins a segment leaves, and whether the
scan is inclusive. -/
def table141 (v : FEnv) : Instr → Option (WReg × WReg × WReg × Fmt × (Nat → Nat → Flagged) × (Nat → Flagged) × Bool)
  | .vscanAddInc d a b f => some (d, a, b, f, laneAdd f v, headOf f v true, true)
  | .vscanMinInc d a b f => some (d, a, b, f, laneMin f v, headOf f v false, true)
  | .vscanMaxInc d a b f => some (d, a, b, f, laneMax f v, headOf f v false, true)
  | .vscanAddExc d a b f => some (d, a, b, f, laneAdd f v, fun _ => (0, 0), false)
  | .vscanMinExc d a b f => some (d, a, b, f, laneMin f v, fun _ => (topOf f, 0), false)
  | .vscanMaxExc d a b f => some (d, a, b, f, laneMax f v, fun _ => (bottomOf f, 0), false)
  | _ => none

/-- The level of R140's tree above `n` pairs: x[i] = op(x[2i], x[2i+1]), with the flags of the level joined to `acc`. -/
def reduceLevel (op : Nat → Nat → Flagged) (x : Nat → Nat) (n : Nat) (acc : FFlags) : (Nat → Nat) × FFlags :=
  (fun i => (op (x (2 * i)) (x (2 * i + 1))).1,
   (List.range n).foldl (fun a i => a ||| (op (x (2 * i)) (x (2 * i + 1))).2) acc)

/-- R140's loop, `k` halvings from 2^k lanes on: the lane that is left, and the flags. -/
def reduced (op : Nat → Nat → Flagged) : Nat → (Nat → Nat) → FFlags → Nat × FFlags
  | 0, x, acc => (x 0, acc)
  | k + 1, x, acc =>
    let r := reduceLevel op x (2 ^ k) acc
    reduced op k r.1 r.2

/-- Lane j of a scan with its flags (R141): `x` the lanes of wa, `h` those of wb, `hd` what a lane that begins a segment
leaves, `inc` that the scan is inclusive. -/
def scanned (op : Nat → Nat → Flagged) (hd : Nat → Flagged) (inc : Bool) (x h : Nat → Nat) : Nat → Flagged
  | 0 => hd (x 0)
  | j + 1 => if h (j + 1) ≠ 0 then hd (x (j + 1)) else op (scanned op hd inc x h j).1 (if inc then x (j + 1) else x j)

/-! ## Matrix elements (R168 to R171) -/

/-- A finite product as an integer multiple of 2^-300, below every weight that a product of two elements has. -/
def product168 : FVal × FVal → Int
  | (.fin a m e, .fin b n g) => (if a = b then 1 else -1) * (m * n * 2 ^ (e + g + 300).toNat : Nat)
  | _ => 0

/-- The product is infinite, of that sign; one of 0 and infinity is no infinity. -/
def infinite168 (neg : Bool) : FVal × FVal → Bool
  | (.inf a, .inf b) => (a != b) == neg
  | (.inf a, .fin b m _) | (.fin b m _, .inf a) => m != 0 && (a != b) == neg
  | _ => false

/-- An element is a NaN, or the product is one of 0 and infinity. -/
def nan168 : FVal × FVal → Bool
  | (.nan, _) | (_, .nan) => true
  | (.inf _, .fin _ m _) | (.fin _ m _, .inf _) => m == 0
  | _ => false

/-- The product is a zero with the sign. -/
def negZero168 : FVal × FVal → Bool
  | (.fin a m _, .fin b n _) => m * n == 0 && a != b
  | _ => false

/-- GroupSum of the products of a set of pairs, rounded to FP32 (R168, R169); with `window`, each product is cut toward zero at
2^-47 of the largest power of two that no product exceeds (R170). -/
def groupSum168 (window : Bool) (ps : List (FVal × FVal)) : Nat :=
  let top := (ps.map fun p => Nat.log2 (product168 p).natAbs).foldl max 0
  let cut (x : Int) : Int := if window then x.sign * (x.natAbs / 2 ^ (top - 47) * 2 ^ (top - 47) : Nat) else x
  if ps.any nan168 || (ps.any (infinite168 false) && ps.any (infinite168 true)) then 0x7FC00000
  else if ps.any (infinite168 false) then 0x7F800000
  else if ps.any (infinite168 true) then 0xFF800000
  else if ps.all fun p => product168 p == 0 then (if ps.all negZero168 then 0x80000000 else 0)
  else (roundInt .s FEnv.plain (ps.map fun p => cut (product168 p)).sum (-300) false).1

/-- Element (i, j) of an MMA of a float class from its old bits `c` (R169 to R171): `val` gives the elements of A, B and the
scales by their position in A, B, the A scales and the B scales. -/
def mmaFloat (d : Word) (val : Nat → Nat) (i j c : Nat) : Nat :=
  let k := mdepth d
  let pair (t : Nat) : FVal × FVal := (unpack (mfa d) (val (i * k + t)), unpack (mfb d) (val (16 * k + t * 32 + j)))
  if mscaled d then
    (List.range (k / 128)).foldl (fun c q =>
      let p := groupSum168 false ((List.range 128).map fun t => pair (128 * q + t))
      let f := (fMul .s FEnv.plain (val (48 * k + i * (k / 128) + q)) (val (48 * k + 16 * (k / 128) + q))).1
      (fAdd .s FEnv.plain c (fMul .s FEnv.plain p f).1).1) c
  else
    (List.range (k / 16)).foldl (fun c g =>
      (fAdd .s FEnv.plain c (groupSum168 (mclass (mfa d) (mfb d) == some .float16)
        ((List.range 16).map fun t => pair (16 * g + t)))).1) c

/-! ## Accesses (R67, R204, R214 to R230) -/

/-- What an instruction that takes an ORD prefix asks of a home: kind, generic address, bytes, whether it needs write
permission, whether its entry checks its aperture before its alignment, whether it is a reduction, and the operation. -/
structure Request where
  kind : AKind
  addr : Word
  size : Nat
  write : Bool
  aperFirst : Bool
  red : Bool
  op : AccOp
  deriving DecidableEq, Repr

/-- Address of a plain access: base and an offset that is scaled by the size (R67). -/
def addr67 (t : Thread) (b : IReg) (o : BitVec 10) (size : Nat) : Word :=
  BitVec.ofInt 64 ((t.int b).toInt + o.toInt * size)

/-- A plain load or store (R67). -/
def plainRequest (t : Thread) (b : IReg) (o : BitVec 10) (size : Nat) (write : Bool) (op : AccOp) : Request :=
  ⟨.plain, addr67 t b o size, size, write, false, false, op⟩

/-- An atomic or a reduction, of 8 or 4 bytes at Reg[ra] (R221, R224). -/
def atomicRequest (t : Thread) (a b d : IReg) (w : AWidth) (op : BitVec 4) (dst : Option IReg) : Request :=
  ⟨.atomic, t.int a, if w = .w then 4 else 8, true, false, dst.isNone, .rmw op (t.int b) (if dst.isSome then t.int d else 0) dst⟩

/-- A full/empty request at Reg[ra] + Reg[rb] (R216). -/
def granuleRequest (t : Thread) (a b : IReg) (write : Bool) (op : AccOp) : Request :=
  ⟨.granule, t.int a + t.int b, 8, write, true, false, op⟩

/-- A sum-slot request at Reg[ra] (R228 to R230). -/
def sumRequest (t : Thread) (a : IReg) (red : Bool) (op : AccOp) : Request := ⟨.sum, t.int a, 8, true, true, red, op⟩

/-- The request of each instruction of majors 0x38 to 0x4F but the fences. -/
def request (t : Thread) : Instr → Option Request
  | .ldBs d b o => some (plainRequest t b o 1 false (.load .sx (.int d)))
  | .ldBz d b o => some (plainRequest t b o 1 false (.load .zx (.int d)))
  | .ldHs d b o => some (plainRequest t b o 2 false (.load .sx (.int d)))
  | .ldHz d b o => some (plainRequest t b o 2 false (.load .zx (.int d)))
  | .ldWs d b o => some (plainRequest t b o 4 false (.load .sx (.int d)))
  | .ldWz d b o => some (plainRequest t b o 4 false (.load .zx (.int d)))
  | .ldD d b o => some (plainRequest t b o 8 false (.load .zx (.int d)))
  | .ldw d b o => some (plainRequest t b o 32 false (.load .zx (.wide d)))
  | .ldk k b o => some (plainRequest t b o 8 false (.load .zx (.ext k)))
  | .stB d b o => some (plainRequest t b o 1 true (.store ((t.int d).setWidth 256)))
  | .stH d b o => some (plainRequest t b o 2 true (.store ((t.int d).setWidth 256)))
  | .stW d b o => some (plainRequest t b o 4 true (.store ((t.int d).setWidth 256)))
  | .stD d b o => some (plainRequest t b o 8 true (.store ((t.int d).setWidth 256)))
  | .stw d b o => some (plainRequest t b o 32 true (.store (t.wide d)))
  | .ldfe d a b => some (granuleRequest t a b false (.ldfe true d))
  | .ldff d a b => some (granuleRequest t a b false (.ldfe false d))
  | .stfe d a b => some (granuleRequest t a b true (.stfe (t.int d)))
  | .feinitE a b => some (granuleRequest t a b true (.feinit false))
  | .feinitF a b => some (granuleRequest t a b true (.feinit true))
  | .aadd d a b w => some (atomicRequest t a b d w 0 (some d))
  | .aand d a b w => some (atomicRequest t a b d w 1 (some d))
  | .aor d a b w => some (atomicRequest t a b d w 2 (some d))
  | .axor d a b w => some (atomicRequest t a b d w 3 (some d))
  | .amin d a b w => some (atomicRequest t a b d w 4 (some d))
  | .amax d a b w => some (atomicRequest t a b d w 5 (some d))
  | .aminu d a b w => some (atomicRequest t a b d w 6 (some d))
  | .amaxu d a b w => some (atomicRequest t a b d w 7 (some d))
  | .axchg d a b w => some (atomicRequest t a b d w 8 (some d))
  | .acas d a b w => some (atomicRequest t a b d w 9 (some d))
  | .afadd d a b w => some (atomicRequest t a b d w 10 (some d))
  | .redAdd a b w => some (atomicRequest t a b .zero w 0 none)
  | .redAnd a b w => some (atomicRequest t a b .zero w 1 none)
  | .redOr a b w => some (atomicRequest t a b .zero w 2 none)
  | .redXor a b w => some (atomicRequest t a b .zero w 3 none)
  | .redMin a b w => some (atomicRequest t a b .zero w 4 none)
  | .redMax a b w => some (atomicRequest t a b .zero w 5 none)
  | .redMinu a b w => some (atomicRequest t a b .zero w 6 none)
  | .redMaxu a b w => some (atomicRequest t a b .zero w 7 none)
  | .redfadd a b w => some (atomicRequest t a b .zero w 10 none)
  | .await d a b c w => some ⟨.await_, t.int a, if w = .w then 4 else 8, false, false, false, .await c (t.int b) d⟩
  | .sumon p q a => some (sumRequest t a false (.sumOn p q))
  | .sumaddS a b => some (sumRequest t a true (.sumAdd .s (t.int b)))
  | .sumaddBf a b => some (sumRequest t a true (.sumAdd .bf (t.int b)))
  | .sumaddH a b => some (sumRequest t a true (.sumAdd .h (t.int b)))
  | .sumoff d a => some (sumRequest t a false (.sumOff d))
  | _ => none

/-- The access holds every later access of its thread (R204, R214). -/
def holdsLater (red : Bool) (pfx : Option (Order × Scope)) : Bool :=
  match red, pfx with
  | true, _ => false
  | false, none => true
  | false, some (.acq, _) | false, some (.sc, _) => true
  | false, _ => false

/-- Op(old, v, e) of R221 on a word of `w` bits, none where nothing is written. -/
def op221 (op : Nat) (w : Nat) (old v e : BitVec w) : Option (BitVec w) :=
  match op with
  | 0 => some (old + v)
  | 1 => some (old &&& v)
  | 2 => some (old ||| v)
  | 3 => some (old ^^^ v)
  | 4 => some (if old.toInt ≤ v.toInt then old else v)
  | 5 => some (if old.toInt ≤ v.toInt then v else old)
  | 6 => some (if old.toNat ≤ v.toNat then old else v)
  | 7 => some (if old.toNat ≤ v.toNat then v else old)
  | 8 => some v
  | 9 => if old = e then some v else none
  | _ => some (BitVec.ofNat w (fAdd (if w = 32 then .s else .d) FEnv.plain old.toNat v.toNat).1)

/-- The access is on its way and nothing that R197, R200 or R202 names goes before it at its home. -/
abbrev PerformsNow (s : State) (a : Access) : Prop :=
  s.accs.find? (fun x => x.id == a.id) = some a ∧ s.performable a = true ∧ s.yields a = false

/-- The place is on this device: neither at a peer nor one that an exporter refused. -/
abbrev OnDevice (l : Loc) : Prop := l ≠ .nowhere ∧ ∀ d o, l ≠ .peer d o

/-- Memory `m'` is memory `m` with the low `n` bytes of `v` from key `k` on, and every other byte as it was (R2). -/
def StoredInto (m m' : List Host.Cell) (k n v : Nat) : Prop :=
  ∀ x : Nat, Mem.get m' x = if k ≤ x ∧ x < k + n then BitVec.ofNat 8 (v / 256 ^ (x - k)) else Mem.get m x

/-- Once access `a` has been performed, everything but memory, poison, accesses, results, waits and messages to peers is as
it was, identifiers apart: of a cluster, its banks' arbiters alone move on (R197). -/
def SameButMemory (s : State) (a : Access) (s' : State) : Prop :=
  s' = { s.servedFor a with mem := s'.mem, poison := s'.poison, accs := s'.accs, arrivals := s'.arrivals, pends := s'.pends,
                            granules := s'.granules, out := s'.out, fresh := s'.fresh }

/-- No request waits at the granule that holds a place. -/
abbrev NoWaiter (s : State) (l : Loc) : Prop :=
  ∀ a ∈ s.accs, a.phase = .waiting → a.op.granuleOp = true → a.loc.sameGranule l = false

/-- No AWAIT waits on a byte of the place. -/
abbrev NoWatch (s : State) (l : Loc) (n : Nat) : Prop :=
  ∀ a ∈ s.accs, a.phase = .waiting → a.loc.overlaps a.size l n = false

/-- An AWAIT's condition holds of a word of `n` bytes (R226). -/
def awSays (c : AwCond) (n word v : Nat) : Bool :=
  let x := BitVec.ofNat (8 * n) word
  let y := BitVec.ofNat (8 * n) v
  match c with
  | .eq => x == y
  | .ne => x != y
  | .ge => y.sle x
  | .geu => y.ule x

/-- Access `w` waits at its home on a byte of the place of access `a`. -/
abbrev Watching (s : State) (a w : Access) : Prop :=
  w ∈ s.accs ∧ (∀ y ∈ s.accs, y.id = w.id → y = w) ∧ w.phase = .waiting ∧ w.loc.overlaps w.size a.loc a.size = true

/-- No word that an AWAIT watches and access `a` may write is poisoned. -/
abbrev SoundWatches (s : State) (a : Access) : Prop :=
  ∀ w ∈ s.accs, w.phase = .waiting → w.loc.overlaps w.size a.loc a.size = true → s.poisoned w.loc w.size = false

/-- What a write by access `a` does to an AWAIT `w` that waits on a byte of it (R211, R226, R314): where the word satisfies the
condition now, the AWAIT waits no more and owes its register the word, as a wait that the writer has ended; where not, it
waits on. -/
def PlacedBy (s' : State) (a w : Access) : Prop :=
  ∀ (pa u : Nat) (c : AwCond) (v : Word) (d : IReg), w.loc = .hbm pa → w.op = .await c v d → w.uid = some u →
    w.cancelled = false → w.red = false →
    if awSays c w.size (Mem.getLE s'.mem pa w.size) v.toNat then
      (∀ y ∈ s'.accs, y.id ≠ w.id) ∧ ∃ r ∈ s'.arrivals, r.uid = u ∧ r.kind = 11 ∧ r.arriver = a.handle ∧ r.stamp = a.stamp ∧
        r.writes = [(.int d, BitVec.ofNat 256 (Mem.getLE s'.mem pa w.size))]
    else w ∈ s'.accs

/-- The oldest request that waits at a granule and that its state admits (R217). -/
abbrev OldestAdmitted (s : State) (l : Loc) (full : Bool) (w : Access) : Prop :=
  s.accs.find? (fun x => x.phase == .waiting && x.op.granuleOp && x.loc.sameGranule l && x.op.admitted full) = some w

/-- No request that waits at a granule is admitted by its state (R217). -/
abbrev NoneAdmitted (s : State) (l : Loc) : Prop :=
  ∀ x ∈ s.accs, x.phase = .waiting → x.op.granuleOp = true → x.loc.sameGranule l = true →
    x.op.admitted (s.granuleFull l) = false

/-! ## Families (R69 to R82, R273 to R279) -/

/-- The handle names the family for the thread: its creator, and it has neither been detached nor been created with rd `zero`
(R82, R253, R273). -/
abbrev Names (s : State) (t : Thread) (h : Word) (f : Family) : Prop :=
  s.families.find? (fun f => zext64 f.handle == h && f.creator == t.uid && !f.detached && !f.nameless) = some f

/-- The handle names no family for the thread. -/
abbrev NamesNone (s : State) (t : Thread) (h : Word) : Prop :=
  ∀ f ∈ s.families, f.creator = t.uid → f.detached = false → f.nameless = false → zext64 f.handle ≠ h

/-- The instructions that name a family, with the register that holds its handle. -/
def handleReg : Instr → Option IReg
  | .fgo a _ | .fsync _ a | .frel a | .fputD a _ _ | .fputG a _ _ | .fget _ a _ | .fkill a | .fkillTree a => some a
  | .fstat _ a | .detach a | .fplace a _ => some a
  | _ => none

/-- The handle of a family that the thread creates, as a number (R257): context, logical cluster, core, entry or frame number,
and sequence value. -/
def handle257 (t : Thread) (num seq : Nat) : Nat :=
  t.ctx % 64 * 2 ^ 26 + t.lcl % 256 * 2 ^ 18 + t.core % 8 * 2 ^ 15 + num % 16 * 2 ^ 11 + seq % 2048

/-- A creation count whose sequence value a new family does not take: one of value 0, or one that would reproduce the handle
of a family that the thread's core holds (R72, R257). -/
def Skipped (s : State) (t : Thread) (num c : Nat) : Prop :=
  c % 2048 = 0 ∨ ∃ g ∈ s.heldBy t, g.handle.toNat = handle257 t num c

/-- A family that has been put into its final form for a start: started with this body, under the creator's control word and
stamp (R74, R312). -/
abbrev StartedAt (f : Family) (t : Thread) (body : Word) : Prop :=
  f.started = true ∧ f.body = body ∧ f.ftz = t.ftz ∧ f.daz = t.daz ∧ f.rm = t.rm

/-- The first member of a family, or index of an inline run, as R39 and R74 start it. -/
abbrev FirstMember (x : Thread) (f : Family) (body : Word) : Prop :=
  x.fam? = some f.uid ∧ x.run = .running ∧ x.pc = body ∧ x.index = f.k0 ∧ x.handle = f.handle ∧ x.window = bits f.k2 48 16

/-! ## Messages (R335) -/

/-- An endpoint with these sources and this policy accepts a message (R335). -/
abbrev Allowed (srcs : List Nat) (p : Policy) (e : Envelope) : Prop :=
  e.src ∈ srcs ∧ (p = .required → e.secured = true ∧ e.roce = false)

/-- The message is accepted at the command endpoint of the context. -/
abbrev ForContext (s : State) (h : Hdr) (c : Context) : Prop := s.ctx? h.ctx = some c ∧ Allowed c.cmdSrcs c.cmdPolicy h.env

/-- The message is accepted at the debug endpoint of the context. -/
abbrev ForDebugger (s : State) (h : Hdr) (c : Context) : Prop := s.ctx? h.ctx = some c ∧ Allowed c.dbgSrcs c.dbgPolicy h.env

/-- The message is accepted at the management endpoint of a module that has booted. -/
abbrev ForManagement (s : State) (h : Hdr) : Prop := s.boot ≠ .off ∧ Allowed s.cfg.mgmtSrcs s.cfg.mgmtPolicy h.env

/-- The requests of a command endpoint, kicks apart: their header and opcode (R373). -/
def commandOp : Instr → Option (Hdr × Nat)
  | .uploadGraph h _ _ _ _ => some (h, 0x10)
  | .removeGraph h _ => some (h, 0x11)
  | .setPtRoot h _ => some (h, 0x13)
  | .setPeerTableEntry h _ _ _ _ => some (h, 0x14)
  | .setExportedWindow h _ _ _ => some (h, 0x15)
  | .setFarTableEntry h _ _ _ _ => some (h, 0x16)
  | .setCommunicator h _ _ _ _ _ _ _ => some (h, 0x17)
  | .setFpCtl h _ | .setJobSeed h _ | .setStratusCtl h _ | .setContrailBase h _ | .setContrailCtl h _ => some (h, 0x18)
  | .setFreezeAndDump h _ _ _ => some (h, 0x19)
  | .suspendContext h => some (h, 0x1A)
  | .resumeContext h => some (h, 0x1B)
  | .contextQuote h _ => some (h, 0x1C)
  | .shootdownCommand h _ => some (h, 0x1D)
  | _ => none

/-- The requests of the management endpoint (R372). -/
def manageOp : Instr → Option (Hdr × Nat)
  | .createContext m => some (m.hdr, 0x01)
  | .destroyContext h _ => some (h, 0x02)
  | .setGrants h _ _ => some (h, 0x03)
  | .scrubRange h _ _ => some (h, 0x04)
  | .quote h _ => some (h, 0x05)
  | .identityCertificate h => some (h, 0x06)
  | .fenceCluster h _ => some (h, 0x07)
  | .unfenceCluster h _ _ => some (h, 0x08)
  | .readReplaceMeStatus h => some (h, 0x09)
  | .registerEventEndpoint h _ => some (h, 0x0A)
  | .setPowerLimit h _ => some (h, 0x0B)
  | .grantRange h _ _ | .revokeRange h _ _ => some (h, 0x0C)
  | _ => none

/-- The requests of an attached debugger (R374). -/
def debugOp : Instr → Option (Hdr × Nat)
  | .debugDetach h => some (h, 0x21)
  | .readFrame h _ _ _ => some (h, 0x22)
  | .writeFrameWord h _ _ _ _ _ => some (h, 0x23)
  | .readMemory h _ _ _ => some (h, 0x24)
  | .writeMemory h _ _ => some (h, 0x25)
  | .readClusterState h _ _ _ _ _ => some (h, 0x26)
  | .setBreakpointEntry h _ _ _ _ _ => some (h, 0x27)
  | .resumeHeldThread h _ _ _ => some (h, 0x28)
  | .releaseFreeze h _ => some (h, 0x29)
  | _ => none

/-- A well-formed request of a context's command endpoint. -/
abbrev Asks (s : State) (h : Hdr) (c : Context) : Prop := ForContext s h c ∧ h.wellFormed = true

/-- A well-formed request of the management endpoint of a module that has booted. -/
abbrev Manages (s : State) (h : Hdr) : Prop := ForManagement s h ∧ h.wellFormed = true

/-- A well-formed request of the debugger that is attached to the context (R336). -/
abbrev Debugs (s : State) (h : Hdr) (c : Context) : Prop :=
  ForDebugger s h c ∧ c.debugger = some h.env.src ∧ h.wellFormed = true

/-- A reply of a request, the one message sent. -/
def State.replied (s : State) (h : Hdr) (opcode status : Nat) (payload : List Byte) : State :=
  { s with out := s.out ++ [.reply h opcode status payload] }

/-- Every byte of a range of virtual addresses lies in a leaf that is valid and pinned, and writable where asked (R316, R329,
R337). -/
def PinnedRange (s : State) (ctx va n : Nat) (w : Bool) : Prop :=
  va + n ≤ 2 ^ 52 ∧ ∀ a, va ≤ a → a < va + n →
    ∃ pa size wr level, s.walk ctx a = .leaf pa size wr true level ∧ (w = true → wr = true)

/-- The buffer of CONTRAIL_BASE and CONTRAIL_CTL may be set (R316). -/
def ContrailBuffer (s : State) (ctx : Nat) (base ctl : Word) : Prop :=
  base.toNat < 2 ^ 52 ∧ PinnedRange s ctx base.toNat (273 * 2 ^ (ctl.toNat % 32) * 32) true

/-- A grant that R325 refuses: not in multiples of 64 KiB, beyond 768 GiB, or with a byte of a die's device region. -/
def BadGrant (s : State) (g : Nat × Nat) : Prop :=
  g.1 % 65536 ≠ 0 ∨ g.2 % 65536 ≠ 0 ∨ 0xC000000000 < g.1 + g.2 ∨
    ∃ p die, g.1 ≤ p ∧ p < g.1 + g.2 ∧ die < 2 ∧ (die + 1) * 0x6000000000 ≤ p + s.cfg.deviceRegion ∧
      p < (die + 1) * 0x6000000000

/-! ## Kicks (R285) -/

/-- The graph that a kick of the context names. -/
abbrev NamedGraph (s : State) (c : Context) (m : KickMsg) (g : Graph) : Prop :=
  s.graphs.find? (fun x => x.id == m.graph && x.ctx == c.id) = some g

/-- Causes 2 to 5 of R285, by the last digit of their status; the first kick after an upload must carry 0. -/
def KickCause (s : State) (c : Context) (m : KickMsg) (n : Nat) : Prop :=
  match n with
  | 2 => c.ptRoot = none ∨ ∀ g ∈ s.graphs, g.id = m.graph → g.ctx ≠ c.id
  | 3 => ∃ g, NamedGraph s c m g ∧ m.seq ≠ (match g.lastSeq with
      | some q => q + 1
      | none => 0)
  | 4 => ∃ g, NamedGraph s c m g ∧ ∃ e ∈ m.entries.take m.count.toNat, ∀ d ∈ g.params, d.1 ≠ e.slot.toNat
  | 5 => 4096 < m.count.toNat ∨ m.entries.length < m.count.toNat ∨ m.rsv ≠ 0 ∨ ∃ e ∈ m.entries.take m.count.toNat, e.rsv ≠ 0
  | _ => False

/-- The launch unit may take the context's kicks: it is neither suspended, frozen nor being destroyed, none of its clusters
is saved, and one of its clusters is not fenced (R15, R360, R364, R368). -/
abbrev TakesKicks (s : State) (c : Context) : Prop :=
  s.ctx? c.id = some c ∧ c.suspended = false ∧ c.freeze = none ∧ c.destroying = none ∧ s.isOut c.id = false ∧ s.hosts_ c ≠ []

/-! ## Boot (R338) -/

/-- The images of registers 0 to 5 are there, and every one of them verifies against the burnt-in digest of the root key. -/
def ImagesVerify (is : List Image) : Bool := is.length == 6 && is.zipIdx.all fun x => imageOk Config.rootKeyDigest x.2 x.1

/-! ## Context faults (R342, R368) -/

/-- The context is frozen by one fault of a code, and every cluster that it holds has stopped. -/
abbrev FrozenBy (s : State) (ctx code : Nat) : Prop :=
  (∃ c z f, s.ctx? ctx = some c ∧ c.freeze = some z ∧ z.faults = [f] ∧ f.code = code)
    ∧ ∀ k ∈ s.clusters, k.ctx = some ctx → k.stopped = true

/-! ## Copies (R236, R243, R249) -/

/-- A copy has ended: it is in no engine, its token's count has fallen by one, and the token holds the error it ended with,
or what it held. -/
def CopyEnded (s s' : State) (c : Copy) (err : Option CopyErr) : Prop :=
  s'.copies = s.copies.filter (fun x => x.id != c.id) ∧ ∀ t, s.thread? c.uid = some t → ∃ t', s'.thread? c.uid = some t' ∧
    t'.tokens[c.token.val] = t.tokens[c.token.val] - 1 ∧
    t'.tokErr[c.token.val] = (match err with
      | some e => some e
      | none => t.tokErr[c.token.val])

end Sys2Proof.Machine
end

