-- ==== Sys2Proof/Certificates/Slice0/Obligations.lean ====
section
/-! DEFINITION. The statements for the provers. Each says which rules of spec/ it rests on; what rests on a choice of the
model names its log entry. -/

open Sys2Proof Sys2Proof.Machine

/-- An integer ALU instruction, of registers or with an immediate, issues and owes rd the table's result (R55, R56, R37,
R42, R34). -/
def Obligations.IntegerAluResult : Prop :=
  (∀ (s : State) (t : Thread) (p : Port) (i : Instr) (d a b : IReg) (f : Word → Word → Word),
     Issues s t p i → table55 i = some (d, a, b, f) →
     exec i s = .next ((s.issued t p i).result t p [(.int d, (f (t.int a) (t.int b)).setWidth 256)] .alu none)) ∧
  (∀ (s : State) (t : Thread) (p : Port) (i : Instr) (d a : IReg) (f : Word → Word),
     Issues s t p i → table56 i = some (d, a, f) →
     exec i s = .next ((s.issued t p i).result t p [(.int d, (f (t.int a)).setWidth 256)] .alu none))

/-- LI, LIS, MOV, MOVI, RDK, RDPW, MOVK, WRPW, TIX and NOP issue with the values their entries give (R57, R60, R61, R81,
R37). Wherever R42 lets it issue, LI owes rd sext(imm15); LIS owes rd (Reg[rd] shifted left by 15) OR zext(imm15);
MOV and MOVI owe rd Reg[ra] and sext(imm5); RDK owes rd kn and MOVK owes kn Reg[ra]; RDPW owes rd the predicate
word, bit 0 one and bit i p_i; WRPW owes p1 to p7, together, bits 1 to 7 of Reg[ra]; TIX owes rd the member index;
NOP changes only the thread's position. -/
def Obligations.ConstantsAndMoves : Prop :=
  ∀ (s : State) (t : Thread) (p : Port),
    (∀ d n, Issues s t p (.li d n) → exec (.li d n) s =
      .next ((s.issued t p (.li d n)).result t p [(.int d, (n.signExtend 64).setWidth 256)] .alu none)) ∧
    (∀ d n, Issues s t p (.lis d n) → exec (.lis d n) s =
      .next ((s.issued t p (.lis d n)).result t p [(.int d, (t.int d <<< 15 ||| n.setWidth 64).setWidth 256)] .alu none)) ∧
    (∀ a d, Issues s t p (.mov a d) → exec (.mov a d) s =
      .next ((s.issued t p (.mov a d)).result t p [(.int d, (t.int a).setWidth 256)] .alu none)) ∧
    (∀ n d, Issues s t p (.movi n d) → exec (.movi n d) s =
      .next ((s.issued t p (.movi n d)).result t p [(.int d, (n.signExtend 64).setWidth 256)] .alu none)) ∧
    (∀ d k, Issues s t p (.rdk d k) → exec (.rdk d k) s =
      .next ((s.issued t p (.rdk d k)).result t p [(.int d, (t.ext k).setWidth 256)] .alu none)) ∧
    (∀ k a, Issues s t p (.movk k a) → exec (.movk k a) s =
      .next ((s.issued t p (.movk k a)).result t p [(.ext k, (t.int a).setWidth 256)] .alu none)) ∧
    (∀ d, Issues s t p (.tix d) → exec (.tix d) s =
      .next ((s.issued t p (.tix d)).result t p [(.int d, t.index.setWidth 256)] .alu none)) ∧
    (∀ d, Issues s t p (.rdpw d) → ∃ v : Word, (∀ n < 64, v.getLsbD n = if h : n < 8 then t.pred ⟨n, h⟩ else false) ∧
      exec (.rdpw d) s = .next ((s.issued t p (.rdpw d)).result t p [(.int d, v.setWidth 256)] .alu none)) ∧
    (∀ a, Issues s t p (.wrpw a) → ∃ ws : List (Operand × Wide),
      ws.map (·.1) = [.pred 1, .pred 2, .pred 3, .pred 4, .pred 5, .pred 6, .pred 7] ∧
      (∀ n : PReg, ∀ v, (Operand.pred n, v) ∈ ws → v.getLsbD 0 = (t.int a).getLsbD n.val) ∧
      exec (.wrpw a) s = .next ((s.issued t p (.wrpw a)).result t p ws .alu none)) ∧
    (Issues s t p .nop → exec .nop s = .next (s.issued t p .nop))

/-- A multiply, divide, bit or bit-field instruction issues and owes rd the value its entry describes (R58, R59, R37,
R42). -/
def Obligations.MultiplyDivideAndBitFieldResult : Prop :=
  (∀ (s : State) (t : Thread) (p : Port) (i : Instr) (d a b : IReg) (R : Word → Word → Word → Prop),
     Issues s t p i → says58 i = some (d, a, b, R) →
     ∃ v : Word, R (t.int a) (t.int b) v ∧
       exec i s = .next ((s.issued t p i).result t p [(.int d, v.setWidth 256)] .alu none)) ∧
  (∀ (s : State) (t : Thread) (p : Port) (i : Instr) (d a b : IReg) (R : Word → Word → Word → Word → Prop),
     Issues s t p i → says59 i = some (d, a, b, R) →
     ∃ v : Word, R (t.int d) (t.int a) (t.int b) v ∧
       exec i s = .next ((s.issued t p i).result t p [(.int d, v.setWidth 256)] .alu none))

/-- CMP, CMPI and PLOG owe their two predicates the condition and its negation together (R62, R63, R33, R37). Wherever
R42 lets it issue, CMP owes pd the condition of R62 on Reg[ra] and Reg[rb] and owes pq its negation in the same
result; CMPI does so with the sign-extended imm5; PLOG owes pd bit 2·pa + pb of its cond field and pq the negation.
Nothing else changes but the predicates' states and the thread's position. -/
def Obligations.ComparesAndPredicates : Prop :=
  ∀ (s : State) (t : Thread) (pt : Port) (p q : PReg) (c : Bool),
    (∀ a b k, Issues s t pt (.cmp p q a b k) → (c = true ↔ cond62 k (t.int a) (t.int b)) →
      exec (.cmp p q a b k) s = .next ((s.issued t pt (.cmp p q a b k)).result t pt
        [(.pred p, if c then 1 else 0), (.pred q, if c then 0 else 1)] .alu none)) ∧
    (∀ a n k, Issues s t pt (.cmpi p q a n k) → (c = true ↔ cond62 k (t.int a) (n.signExtend 64)) →
      exec (.cmpi p q a n k) s = .next ((s.issued t pt (.cmpi p q a n k)).result t pt
        [(.pred p, if c then 1 else 0), (.pred q, if c then 0 else 1)] .alu none)) ∧
    (∀ a b f, Issues s t pt (.plog p q a b f) → c = f.getLsbD (2 * (t.pred a).toNat + (t.pred b).toNat) →
      exec (.plog p q a b f) s = .next ((s.issued t pt (.plog p q a b f)).result t pt
        [(.pred p, if c then 1 else 0), (.pred q, if c then 0 else 1)] .alu none))

/-- B, BRI, CALL, CALLR and RET go where their entries say, and a link is owed (R64, R65, R66, R37). Wherever R42 lets
it issue, B goes to PC + 2·off20; BRI goes to Reg[ra] + 2·sext(imm10) when that is above the BRI's own address and
otherwise takes the backward-transfer trap (0x07) with the thread's state as it was; CALL and CALLR owe rd PC + 4
and go to PC + 2·sext(imm15) and Reg[ra] + 2·sext(imm10); RET goes to Reg[ra]. Nothing else changes. -/
def Obligations.ControlTransfer : Prop :=
  ∀ (s : State) (t : Thread) (p : Port),
    (∀ o, Issues s t p (.b o) → exec (.b o) s =
      .next ((s.issued t p (.b o)).goto t.uid (t.pc + 2 * o.setWidth 64))) ∧
    (∀ a n, Issues s t p (.bri a n) → t.pc < t.int a + 2 * n.signExtend 64 → exec (.bri a n) s =
      .next ((s.issued t p (.bri a n)).goto t.uid (t.int a + 2 * n.signExtend 64))) ∧
    (∀ a n, Issues s t p (.bri a n) → ¬ t.pc < t.int a + 2 * n.signExtend 64 → ∃ tr : Trap, tr.code = 0x07 ∧
      exec (.bri a n) s = .next (s.takeTrap t p tr)) ∧
    (∀ d n, Issues s t p (.call d n) → exec (.call d n) s =
      .next (((s.issued t p (.call d n)).result t p [(.int d, (t.pc + 4).setWidth 256)] .alu none).goto t.uid
        (t.pc + 2 * n.signExtend 64))) ∧
    (∀ d a n, Issues s t p (.callr d a n) → exec (.callr d a n) s =
      .next (((s.issued t p (.callr d a n)).result t p [(.int d, (t.pc + 4).setWidth 256)] .alu none).goto t.uid
        (t.int a + 2 * n.signExtend 64))) ∧
    (∀ a, Issues s t p (.ret a) → exec (.ret a) s = .next ((s.issued t p (.ret a)).goto t.uid (t.int a)))

/-- A scalar floating-point operation issues and owes rd its rounded result with the flags it sets (R129, R130, R131,
R133, R37, R123, R125). For each of the 17 arithmetic and special functions of majors 0x50 to 0x53 (FCLASS has its
own statement), in each of the four formats, wherever the checks of R42 let it issue, exec answers a next state in
which rd is owed, zero-extended, the operation's result on the low bits of its sources under the thread's control
word, and the flags it sets come with that result. FABS and FNEG change the sign bit alone. The values that R133
bounds without giving them are free within those bounds (log entry 4). -/
def Obligations.ScalarFloatResult : Prop :=
  ∀ (s : State) (t : Thread) (p : Port) (i : Instr) (d : IReg) (r : Flagged),
    Issues s t p i → table130 t i = some (d, r) →
    exec i s = .next ((s.issued t p i).result t p [(.int d, BitVec.ofNat 256 r.1)] .alu (some r.2))

/-- FCLASS owes rd a mask with exactly the bit of its operand's class set (R132). Wherever R42 lets FCLASS issue,
whatever the control word (DAZ included), the result on its way to rd is a 64-bit mask m such that bit k of m is set
exactly when the operand's encoding is of class k of R132, for every k, so that bits 63 to 9 are 0; exactly one of
bits 8 to 0 is set; and no flag is set. -/
def Obligations.FclassMask : Prop :=
  ∀ (s : State) (t : Thread) (p : Port) (f : FFmt) (d a : IReg), Issues s t p (.fclass f d a) →
    ∃ m : Word, (∀ k < 64, m.getLsbD k = true ↔ classBit f (fpSrc (scalarFmt f) t a) k) ∧
      (∃ k < 9, m = 1#64 <<< k) ∧
      exec (.fclass f d a) s =
        .next ((s.issued t p (.fclass f d a)).result t p [(.int d, m.setWidth 256)] .alu (some 0))

/-- FCMP owes its predicates the condition of R134 and sets invalid exactly where the table says (R134, R121, R37). For
the four FCMP majors and the eight conditions, wherever R42 lets it issue, pd is owed c and pq its negation in one
result, where c is false for eq, lt, le, gt, ge and ord, and true for ne and un, when an operand is a NaN; the flags
are invalid exactly for lt, le, gt and ge with a NaN; and with no NaN, c is the order of the two values with -0
equal to +0, DAZ applied first. -/
def Obligations.FloatCompare : Prop :=
  ∀ (s : State) (t : Thread) (pt : Port) (i : Instr) (f : Fmt) (p q : PReg) (a b : IReg) (k : FCond),
    Issues s t pt i → table134 i = some (f, p, q, a, b, k) →
    ∃ (c : Bool) (fl : FFlags),
      exec i s = .next ((s.issued t pt i).result t pt [(.pred p, if c then 1 else 0), (.pred q, if c then 0 else 1)]
        .alu (some fl)) ∧
      (let x := daz f t.fenv (t.int a).toNat
       let y := daz f t.fenv (t.int b).toNat
       if isNaN f x = true ∨ isNaN f y = true then
         c = (k == .ne || k == .un) ∧ fl = (if k = .lt ∨ k = .le ∨ k = .gt ∨ k = .ge then fInvalid else 0)
       else fl = 0 ∧ (c = true ↔ match k with
         | .eq => valueKey f x = valueKey f y
         | .ne => valueKey f x ≠ valueKey f y
         | .lt => valueKey f x < valueKey f y
         | .le => valueKey f x ≤ valueKey f y
         | .gt => valueKey f y < valueKey f x
         | .ge => valueKey f y ≤ valueKey f x
         | .un => False
         | .ord => True))

/-- CVT owes rd the converted element, and RDFP, WRFP and CLRFLG read and write the control word (R126, R129, R135,
R136, R116, R119, R123, R125, R37). Wherever R42 lets it issue, CVT owes rd the conversion of the low bits of
Reg[ra] under its mode, zero-extended when the destination is a float and extended by its code when it is an
integer, together with the flags; under .sr the thread's draw counter rises by one, and under no other mode does it
change. Wherever R42 lets it issue (R125's wait included), RDFP owes rd the ten bits: invalid, divide-by-zero,
overflow, underflow and inexact in bits 9 to 5, FTZ in 4, DAZ in 3 and the mode in 2 to 0; WRFP gives the thread
those bits of Reg[ra], the mode only where it is 0 to 4; CLRFLG clears the five flags and nothing else. -/
def Obligations.ConversionAndFloatControl : Prop :=
  (∀ (s : State) (t : Thread) (p : Port) (d a : IReg) (m : CvtMode) (src dst : Fmt), Issues s t p (.cvt d a m src dst) →
     let r := convert src dst m t.fenv (t.draw 0) (t.int a).toNat
     let s1 := s.issued t p (.cvt d a m src dst)
     exec (.cvt d a m src dst) s = .next
       ((if m = .sr then s1.updThread t.uid fun x => { x with draws := x.draws + 1 } else s1).result t p
         [(.int d, BitVec.ofNat 256 (if dst.isInt = true ∧ dst.isSigned = true then
           (BitVec.ofInt 64 (intVal dst r.1)).toNat else r.1))] .alu (some r.2))) ∧
  (∀ (s : State) (t : Thread) (p : Port),
     (∀ d, Issues s t p (.rdfp d) → exec (.rdfp d) s = .next ((s.issued t p (.rdfp d)).result t p
       [(.int d, BitVec.ofNat 256 (t.flags.toNat * 32 + t.ftz.toNat * 16 + t.daz.toNat * 8 + t.rm.toNat))] .alu none)) ∧
     (∀ a, Issues s t p (.wrfp a) → exec (.wrfp a) s = .next ((s.issued t p (.wrfp a)).updThread t.uid fun x =>
       { x with flags := BitVec.ofNat 5 ((t.int a).toNat / 32), ftz := (t.int a).getLsbD 4, daz := (t.int a).getLsbD 3,
                rm := if (t.int a).toNat % 8 ≤ 4 then BitVec.ofNat 3 (t.int a).toNat else x.rm })) ∧
     (Issues s t p .clrflg → exec .clrflg s = .next ((s.issued t p .clrflg).updThread t.uid fun x => { x with flags := 0 })))

/-- A representable value rounds to its own encoding, and a NaN operand gives the canonical NaN (R111, R114, R117, R120,
R122, R123, R130). For each floating-point format with a sign (FP64, FP32, FP16, BF16, E5M2, E4M3, E2M1), each
encoding b of a finite value, and each rounding mode with FTZ off, rounding the value of b to the format gives b and
sets no flag. For every floating-point format, FADD, FSUB, FMUL and FDIV with a NaN on either side and FSQRT of a
NaN give the format's canonical NaN and no flag; FMA with a NaN gives the canonical NaN, with invalid exactly when
its factors are a zero and an infinity. -/
def Obligations.RoundingAndNanResults : Prop :=
  (∀ (f : Fmt) (v : FEnv) (b : Nat) (neg : Bool) (m : Nat) (e : Int),
     f ∈ [Fmt.d, .s, .h, .bf, .e5, .e4, .e2] → v.ftz = false → b < 2 ^ f.width → unpack f b = .fin neg m e →
     roundTo f v neg m e = (b, 0)) ∧
  (∀ (f : Fmt) (v : FEnv) (a b c : Nat),
     (isNaN f (daz f v a) = true ∨ isNaN f (daz f v b) = true →
       fAdd f v a b = (canonNaN f, 0) ∧ fSub f v a b = (canonNaN f, 0) ∧ fMul f v a b = (canonNaN f, 0) ∧
       fDiv f v a b = (canonNaN f, 0)) ∧
     (isNaN f (daz f v a) = true → fSqrt f v a = (canonNaN f, 0)) ∧
     (isNaN f (daz f v a) = true ∨ isNaN f (daz f v b) = true ∨ isNaN f (daz f v c) = true →
       fFma f v a b c = (canonNaN f,
         if mulExact (unpack f (daz f v a)) (unpack f (daz f v b)) = none then fInvalid else 0)))

/-- A lane-by-lane wide instruction computes each lane from the same lanes alone and joins their flags (R137, R138,
R109, R110, R123, R37). For each function of majors 0x60 and 0x61, wherever the checks of R42 let it issue and it
starts with operand registers as thread t1 holds them (t1 is t but for stream elements popped), exec answers a next
state in which wd is owed one value whose lane i is the table's function of lane i of wa, wb and the old wd, for
every lane, and the flags of a float format are the OR over the lanes; an integer format sets none. -/
def Obligations.WideLaneResult : Prop :=
  ∀ (s s1 : State) (t t1 : Thread) (p : Port) (i : Instr) (d a b : WReg) (f : Fmt) (g : Nat → Nat → Nat → Flagged),
    Issues s t p i → s.begin t p i = .ok (s1, t1) → table137 t1.fenv i = some (d, a, b, f, g) →
    ∃ (w : Wide) (fl : Option FFlags),
      exec i s = .next (s1.result t1 p [(.wide d, w)] .alu fl) ∧
      (∀ n < f.lanes, lane f.width w n =
        (g (lane f.width (t1.wide a) n) (lane f.width (t1.wide b) n) (lane f.width (t1.wide d) n)).1 % 2 ^ f.width) ∧
      fl = if f.isFloat then some ((List.range f.lanes).foldl (fun x n => x |||
        (g (lane f.width (t1.wide a) n) (lane f.width (t1.wide b) n) (lane f.width (t1.wide d) n)).2) 0) else none

/-- The shuffles accept integer lane widths and copy lanes as R139's pseudocode says (R139). VPERM, VZIPL, VZIPH,
VUNZIPL and VUNZIPH are legal exactly with formats 0x0 to 0x7, and wherever such a word issues and starts with
operands as thread t1 holds them, wd is owed the value whose lane i is the lane of wa or wb that R139's pseudocode
names, for every lane i; no flag is set. -/
def Obligations.ShuffleLanes : Prop :=
  ∀ (i : Instr) (d a b : WReg) (f : Fmt) (g : (Nat → Nat) → (Nat → Nat) → Nat → Nat),
    table139 i = some (d, a, b, f, g) →
    (i.wf = true ↔ f.code.toNat ≤ 7) ∧
    ∀ (s s1 : State) (t t1 : Thread) (p : Port), Issues s t p i → s.begin t p i = .ok (s1, t1) →
      ∃ w : Wide, exec i s = .next (s1.result t1 p [(.wide d, w)] .alu none) ∧
        ∀ n < f.lanes, lane f.width w n = g (lane f.width (t1.wide a)) (lane f.width (t1.wide b)) n

/-- Horizontal reductions follow the tree of adjacent pairs, and scans the recurrence in lane order (R140, R141, R123,
R37). Wherever it issues and starts with operands as thread t1 holds them, a reduction owes wd the lane that R140's
loop leaves, in lane 0, and zero in every other lane; a scan owes wd in lane j the value of R141's recurrence at j,
heads and identity included, a float head of an inclusive scan being a NaN as the canonical one and a subnormal as DAZ and,
where the scan adds, FTZ leave it (log entry 91); the flags of a float format are the OR over every operation performed. -/
def Obligations.ReductionAndScanLanes : Prop :=
  ∀ (s s1 : State) (t t1 : Thread) (p : Port) (i : Instr) (d a b : WReg) (f : Fmt) (op : Nat → Nat → Flagged)
    (hd : Nat → Flagged) (inc : Bool), Issues s t p i → s.begin t p i = .ok (s1, t1) →
    (table140 t1.fenv i = some (d, a, f, op) →
      ∃ w : Wide, lane f.width w 0 = (reduced op (Nat.log2 f.lanes) (lane f.width (t1.wide a)) 0).1 % 2 ^ f.width ∧
        (∀ n, 0 < n → n < f.lanes → lane f.width w n = 0) ∧
        exec i s = .next (s1.result t1 p [(.wide d, w)] .alu
          (if f.isFloat then some (reduced op (Nat.log2 f.lanes) (lane f.width (t1.wide a)) 0).2 else none))) ∧
    (table141 t1.fenv i = some (d, a, b, f, op, hd, inc) →
      ∃ w : Wide, (∀ n < f.lanes, lane f.width w n =
          (scanned op hd inc (lane f.width (t1.wide a)) (lane f.width (t1.wide b)) n).1 % 2 ^ f.width) ∧
        exec i s = .next (s1.result t1 p [(.wide d, w)] .alu (if f.isFloat then
          some ((List.range f.lanes).foldl (fun x n => x |||
            (scanned op hd inc (lane f.width (t1.wide a)) (lane f.width (t1.wide b)) n).2) 0) else none)))

/-- VGET, VPUT, VBCAST and VCVT move and convert the lanes their entries name and keep the others (R142, R143, R119,
R37). Wherever it issues and starts with operands as thread t1 holds them, VGET owes rd lane Reg[rb] mod L of wa,
zero-extended; VPUT owes wd the old wd with that lane replaced by the low bits of Reg[ra]; VBCAST owes wd the low
bits of Reg[ra] in every lane; VCVT owes wd the converted elements of part q of wa where it widens, and where it
narrows the converted elements in part q of wd with every other lane as it was; a .sr VCVT takes one draw for each
lane it writes. -/
def Obligations.LaneMovesAndWideConversion : Prop :=
  ∀ (s s1 : State) (t t1 : Thread) (p : Port),
    (∀ d a b w, Issues s t p (.vget d a b w) → s.begin t p (.vget d a b w) = .ok (s1, t1) →
      exec (.vget d a b w) s = .next (s1.result t1 p
        [(.int d, BitVec.ofNat 256 (lane (laneBits w) (t1.wide a) ((t1.int b).toNat % (256 / laneBits w))))] .alu none)) ∧
    (∀ d a b w, Issues s t p (.vput d a b w) → s.begin t p (.vput d a b w) = .ok (s1, t1) → ∃ v : Wide,
      (∀ n < 256 / laneBits w, lane (laneBits w) v n = if n = (t1.int b).toNat % (256 / laneBits w)
        then (t1.int a).toNat % 2 ^ laneBits w else lane (laneBits w) (t1.wide d) n) ∧
      exec (.vput d a b w) s = .next (s1.result t1 p [(.wide d, v)] .alu none)) ∧
    (∀ d a w, Issues s t p (.vbcast d a w) → s.begin t p (.vbcast d a w) = .ok (s1, t1) → ∃ v : Wide,
      (∀ n < 256 / laneBits w, lane (laneBits w) v n = (t1.int a).toNat % 2 ^ laneBits w) ∧
      exec (.vbcast d a w) s = .next (s1.result t1 p [(.wide d, v)] .alu none)) ∧
    (∀ d a q dst m src, Issues s t p (.vcvt d a q dst m src) → s.begin t p (.vcvt d a q dst m src) = .ok (s1, t1) →
      let el (n : Nat) : Flagged := convert src dst m t1.fenv (t1.draw (if dst.lanes ≤ src.lanes then n
        else n - q.val * src.lanes)) (lane src.width (t1.wide a)
          (if dst.lanes ≤ src.lanes then q.val * dst.lanes + n else n - q.val * src.lanes))
      let written (n : Nat) : Prop := dst.lanes ≤ src.lanes ∨ q.val * src.lanes ≤ n ∧ n < (q.val + 1) * src.lanes
      ∃ (v : Wide) (fl : FFlags),
        (∀ n < dst.lanes, (written n → lane dst.width v n = (el n).1 % 2 ^ dst.width) ∧
          (¬ written n → lane dst.width v n = lane dst.width (t1.wide d) n)) ∧
        exec (.vcvt d a q dst m src) s = .next ((if m = .sr then s1.updThread t1.uid fun x =>
          { x with draws := x.draws + BitVec.ofNat 32 (min src.lanes dst.lanes) } else s1).result t1 p
            [(.wide d, v)] .alu (some fl)))

/-- An instruction without a stream starts as it stands, and one that reads an input stream pops its next element (R37,
R150, R151, R153, R310). Any instruction none of whose wide registers is bound starts with its operands as they
stand, owing its destinations and standing behind it. One whose only bound register is an input-bound source with a
fetched element starts with that register holding the element, which leaves the unit: its count of used elements and
its position rise by one, and nothing else of the thread's operands differs. One whose only bound register is an
output-bound destination opens one push: its address is that of the next element, checked and translated now, the
unit's position and its count of pushed elements rise by one, and the push waits for its value as a relaxed write; a
write past the last element raises the stream-state trap, and an address that fails its check takes that check's trap. -/
def Obligations.StreamOperandsAtIssue : Prop :=
  ∀ (s : State) (t : Thread) (p : Port) (i : Instr),
    (NoStream s t i → s.begin t p i = .ok (s.issued t p i, t)) ∧
    (∀ (w : WReg) (u : Fin 4) (st : Stream) (e : Wide) (rest : List Wide),
      widesOf (s.srcsOf t i) = [w] → s.binding t w = .input u st → st.fifo = e :: rest →
      (∀ x ∈ widesOf (regsOf i).dsts, s.binding t x = .plain ∧ x ≠ w) →
      let st' : Stream := { st with fifo := rest, pos := st.pos + 1, last := e, late := false }
      s.begin t p i = .ok (((s.updCore t.phys t.core fun k => { k with streams := k.streams.set u.val st' }).countStream
        t.ctx t.lcore u .used 1).issued t p i, t.setVal (.wide w) e)) ∧
    (∀ (w : WReg) (u : Fin 4) (st : Stream) (c : Word × Word × Word × Word),
      (∀ x ∈ widesOf (s.srcsOf t i), s.binding t x = .plain) → widesOf (regsOf i).dsts = [w] →
      s.binding t w = .output u st → st.cfg = some c →
      (streamTotal c ≤ st.pos → s.begin t p i = .error ⟨0x0D, 0, 0, none, none, none⟩) ∧
      (∀ tr s2, st.pos < streamTotal c → s.resolve t.issuer .plain (streamAddr c st.pos) 32 true false false = (.error tr, s2) →
        s.begin t p i = .error tr) ∧
      (∀ l s2, st.pos < streamTotal c → s.resolve t.issuer .plain (streamAddr c st.pos) 32 true false false = (.ok l, s2) →
        ∃ s' x, s.begin t p i = .ok (s', t) ∧ s'.accs = s2.accs ++ [x] ∧ x.uid = some t.uid ∧ x.loc = l ∧ x.size = 32 ∧
          x.op = .push u 0 ∧ x.phase = .unvalued ∧ x.blocking = false ∧ x.order = some .rlx ∧
          (s'.coreAt t.phys t.core).streams = ((s2.coreAt t.phys t.core).streams.set u.val { st with pos := st.pos + 1 }) ∧
          s'.mem = s.mem))

/-- Each memory instruction computes its address and, checked and translated, sends one access with its class (R67,
R201, R204, R214, R216, R221, R224, R225, R226, R228, R229, R230). For each of the 45 instructions of majors 0x38 to
0x4F other than the fences, wherever R42 lets it issue and it starts with operands as thread t1 holds them: if its
address passes the checks of R192, R195 and R328 and leads to a place, exec answers a next state in which one access
is on its way to that place, with the instruction's size and operation, the class and scope of its prefix, and
holding later accesses exactly where R204 and R214 say; a reduction raises the thread's count by one. A place on a
cluster that is saved keeps the access on its way to the cluster (R357), and one that the core holds requests for keeps it
behind them (R220). If a check fails, the thread takes that check's trap; a poisoned entry that its walk met is charged to
the thread's context (R363). -/
def Obligations.AccessIssues : Prop :=
  ∀ (s s1 s2 : State) (t t1 : Thread) (p : Port) (i : Instr) (r : Request) (res : Except Trap Loc),
    Issues s t p i → s.begin t p i = .ok (s1, t1) → request t1 i = some r →
    s1.resolve t1.issuer r.kind r.addr r.size r.write r.aperFirst false = (res, s2) →
    match res with
    | .error tr => exec i s = .next ((s.chargeTrap t.ctx t.phys tr).takeTrap t p tr)
    | .ok l => ∃ a : Access,
        a.uid = some t1.uid ∧ a.ctx = t1.ctx ∧ a.group = t1.group ∧ a.loc = l ∧ a.size = r.size ∧ a.op = r.op ∧
        a.red = r.red ∧ a.phase = (if s2.behindHeld a = true then .outbound else if l.present = true then .sent else .away) ∧
        a.cancelled = false ∧ a.blocking = holdsLater r.red p.pfx ∧
        a.scope = (p.pfx.map (·.2)).getD .dev ∧
        a.order = p.pfx.map (fun x => if r.red = true ∧ x.1 = .acq then .rlx else if r.red = true ∧
          x.1 = .sc then .rel else x.1) ∧
        exec i s = .next (
          let s3 := { s2 with accs := s2.accs ++ [a], fresh := s2.fresh + 1 }
          if r.red then s3.updThread t1.uid fun x => { x with reds := x.reds + 1 } else s3)

/-- What is refused before anything leaves, and what 0xE2 and 0xE3 addresses reach (R67, R192, R193, R195, R216, R228, R342).
Where the operation checks its alignment first, a misaligned address raises the misalignment trap, and an aligned one of no
aperture or of one that does not perform the operation the aperture trap. A full/empty request checks its aperture, 0xE1 or
0xE2, before its alignment, and a sum-slot request its own, 0x00, before its: the order is log entry 76's, from
R342 and R216. -/
def Obligations.AddressChecksAndAllotments : Prop :=
  (∀ (s : State) (i : Issuer) (k : AKind) (a : Word) (n : Nat) (w : Bool),
     (a.toNat % n ≠ 0 → s.resolve i k a n w false false = (.error ⟨0x04, a, 0, none, none, none⟩, s)) ∧
     (a.toNat % n = 0 → aperture a = none → s.resolve i k a n w false false = (.error ⟨0x05, a, 0, none, none, none⟩, s)) ∧
     (a.toNat % n = 0 → (∃ ap, aperture a = some ap ∧ performs ap k = false) →
       s.resolve i k a n w false false = (.error ⟨0x05, a, 0, none, none, none⟩, s)) ∧
     (k = .granule → bits a 56 8 ≠ 0xE2 → bits a 56 8 ≠ 0xE1 →
       s.resolve i k a n w true false = (.error ⟨0x05, a, 0, none, none, none⟩, s)) ∧
     (k = .granule → bits a 56 8 = 0xE2 → a.toNat % n ≠ 0 →
       s.resolve i k a n w true false = (.error ⟨0x04, a, 0, none, none, none⟩, s)) ∧
     (k = .sum → bits a 56 8 ≠ 0x00 → s.resolve i k a n w true false = (.error ⟨0x05, a, 0, none, none, none⟩, s)) ∧
     (k = .sum → bits a 56 8 = 0x00 → a.toNat % n ≠ 0 →
       s.resolve i k a n w true false = (.error ⟨0x04, a, 0, none, none, none⟩, s))) ∧
  (∀ (s : State) (i : Issuer) (g : Group) (o n : Nat) (w : Bool),
     s.group? i.group = some g → i.delegated = false → 0 < n → o % n = 0 → n ∣ 0xE200000000000000 →
     n ∣ 0xE300000000000000 →
     (o < 2 ^ 21 → s.resolve i .plain (BitVec.ofNat 64 (0xE200000000000000 + o)) n w false false =
       (if o + n ≤ g.spadSize then .ok (.spad g.phys (g.spadBase + o))
        else .error ⟨0x05, BitVec.ofNat 64 (0xE200000000000000 + o), 0, none, none, none⟩, s)) ∧
     (∀ h : i.core < 8, o < 2 ^ 17 → s.resolve i .plain (BitVec.ofNat 64 (0xE300000000000000 + o)) n w false false =
       (if o + n ≤ g.tcmSize then .ok (.tcm g.phys i.core (g.tcmBase[i.core] + o))
        else .error ⟨0x05, BitVec.ofNat 64 (0xE300000000000000 + o), 0, none, none, none⟩, s)))

/-- A fence holds later accesses until its scope is performed, and ORD issues the access after it under its class and
scope (R30, R31, R50, R51, R204, R215). -/
def Obligations.FencesAndPrefixedAccess : Prop :=
  (∀ (s : State) (t : Thread) (p : Port) (i : Instr) (sc : Scope),
     (i = .fenceCore ∧ sc = .core ∨ i = .fenceCl ∧ sc = .cl ∨ i = .fenceDev ∧ sc = .dev ∨ i = .fenceSys ∧ sc = .sys) →
     Issues s t p i →
     let s1 := s.issued t p i
     let as := (s1.accs.filter fun a => a.uid == some t.uid && a.loc.inScope t.phys sc).map (·.id)
     let ms := if sc = .core then [] else ((s1.mopsOf t).filter fun m => match m.kind with
       | .mst _ _ _ _ => true
       | _ => false).map (·.id)
     (as = [] ∧ ms = [] → exec i s = .next s1) ∧
     (¬ (as = [] ∧ ms = []) → ∃ s2, exec i s = .next s2 ∧
       s2 = { s1 with pends := s1.pends ++ [⟨s1.fresh, t.uid, .zero, .fence as ms⟩], fresh := s1.fresh + 1 } ∧
       ∀ (u : Thread) (x : Option (Order × Scope)), u.uid = t.uid → s2.mayIssue u x = false)) ∧
  (∀ (s : State) (t : Thread) (p : Port) (o : Order) (c : Scope), s.port = some p → s.thread? p.uid = some t →
     (∀ d, s.fetchWord t.graph (t.pc + 2) = .bad d →
       exec (.ord o c) s = .next (s.takeTrap t p ⟨0x01, d, 0, none, none, none⟩)) ∧
     (s.fetchWord t.graph (t.pc + 2) = .illegal → exec (.ord o c) s = .next (s.takeTrap t p ⟨0x02, 0, 0, none, none, none⟩)) ∧
     (∀ g i, s.fetchWord t.graph (t.pc + 2) = .ok g i →
       (request t i ≠ none → ∃ s', exec (.ord o c) s = .next s' ∧
         exec i { s with port := some { p with guard := g, pfx := some (o, c) } } = .next s') ∧
       (request t i = none → ∃ (s' : State) (p' : Port), exec (.ord o c) s = .next (s'.takeTrap t p' ⟨0x02, 0, 0, none, none, none⟩) ∧
         s' = { s with port := some p' } ∧ p'.uid = p.uid)))

/-- Which homes lie within each scope (R203). For an access issued on cluster c: within core lie exactly the TCM places;
within cl the TCM places and every scratchpad place of cluster c; within dev every place of the device, that is
every place but a peer's; within sys every place. -/
def Obligations.HomeScopes : Prop :=
  ∀ (l : Loc) (c : Nat),
    (l.inScope c .core = true ↔ ∃ p k o, l = .tcm p k o) ∧
    (l.inScope c .cl = true ↔ (∃ p k o, l = .tcm p k o) ∨ ∃ o, l = .spad c o) ∧
    (l.inScope c .dev = true ↔ ∀ d o, l ≠ .peer d o) ∧
    l.inScope c .sys = true

/-- A load performed at its home replies the bytes it finds there, extended, and changes no memory (R67, R201, R2, R37).
Where a thread's load is next at its home on the device and no byte of it lies in a poisoned word, ACCESS_PERFORM
answers a next state: the access is outstanding no more, one result is on its way to its destination with the
little-endian value of the bytes at its place, sign-extended to 64 bits for an integer register under sx and
zero-extended otherwise, and memory, granule states and every register are as they were. Of the requests that have
not been performed none changes but for the home's count of what passed it, and of the clusters none but for its
banks' arbiters. -/
def Obligations.LoadIsPerformed : Prop :=
  ∀ (s : State) (a : Access) (ans : PeerAnswer) (u : Nat) (e : Ext) (d : Operand),
    PerformsNow s a → OnDevice a.loc → s.poisoned a.loc a.size = false → a.op = .load e d → a.uid = some u →
    a.cancelled = false → a.red = false →
    ∃ (s' : State) (r : Arrival), exec (.accessPerform a.id ans) s = .next s' ∧
      s'.arrivals = s.arrivals ++ [r] ∧ r.uid = u ∧ r.push = a.push ∧ r.seq = a.id ∧ r.fp = false ∧ r.flags = 0 ∧
      r.writes = [(d, match d, e with
        | .int _, .sx => ((BitVec.ofNat (8 * a.size) (Mem.getLE s.mem a.loc.key a.size)).signExtend 64).setWidth 256
        | _, _ => BitVec.ofNat 256 (Mem.getLE s.mem a.loc.key a.size))] ∧
      s'.accs = (s.servedFor a).accs.filter (fun x => x.id != a.id) ∧ SameButMemory s a s' ∧ s'.mem = s.mem ∧
      s'.granules = s.granules

/-- A store performed at its home writes exactly its bytes, little-endian, and nothing else in memory (R67, R68, R153,
R201, R202, R2, R211, R226, R314, R363). Where a store or a stream push of a thread is next at its home on the device,
ACCESS_PERFORM
answers a next state in which the bytes from the access's place on hold the low bytes of its value, lowest first,
every other byte of memory is as it was, and granule states, threads, families, cores and contexts are as they were.
A push is then outstanding no more; a store is performed for its thread once its acknowledgement, which leaves now,
has reached the core. An AWAIT that waits on a byte of the place is placed where the word satisfies it now, with the writer
as the agent that ended its wait, and waits on where not (R211, R226, R314). No word that such an AWAIT watches is
poisoned, which would be charged to its context. -/
def Obligations.StoreIsPerformed : Prop :=
  ∀ (s : State) (a : Access) (ans : PeerAnswer) (v : Wide) (u : Nat), Mem.wf s.mem = true →
    PerformsNow s a → OnDevice a.loc → a.uid = some u → a.peer = none → SoundWatches s a →
    (a.op = .store v → ∃ (s' : State) (r : Arrival), exec (.accessPerform a.id ans) s = .next s' ∧
      StoredInto s.mem s'.mem a.loc.key a.size v.toNat ∧ (∀ x ∈ s'.accs, x.id = a.id → x.phase = .done) ∧
      r ∈ s'.arrivals ∧ r.uid = u ∧ r.seq = a.id ∧ r.writes = [] ∧ SameButMemory s a s' ∧ s'.granules = s.granules ∧
      ∀ w, Watching s a w → PlacedBy s' a w) ∧
    ((∃ k, a.op = .push k v) → ∃ s' : State, exec (.accessPerform a.id ans) s = .next s' ∧
      StoredInto s.mem s'.mem a.loc.key a.size v.toNat ∧ (∀ x ∈ s'.accs, x.id ≠ a.id) ∧ SameButMemory s a s' ∧
      s'.granules = s.granules ∧ ∀ w, Watching s a w → PlacedBy s' a w)

/-- A returning atomic reads the old word and writes Op(old, v, e) at one instant, and a reduction writes the same
(R221, R223, R224, R225, R201, R211, R226). Where an atomic of 4 or 8 bytes is next at its home on the device, no byte of it
lies in a poisoned word and neither does a word that an AWAIT watches there, ACCESS_PERFORM answers a next state in which
the word holds Op(old, v, e) of R221 on its width, or is as it was where ACAS finds another value; every other byte of
memory is as it was; and the returning form's destination is owed the old word, zero-extended, the reduction's thread an
acknowledgement. An AWAIT that waits on a byte of the word is placed by the write where the word satisfies it now (R211,
R226). -/
def Obligations.AtomicIsPerformed : Prop :=
  ∀ (s : State) (a : Access) (ans : PeerAnswer) (u n : Nat) (op : BitVec 4) (v e : Word)
    (dst : Option IReg), Mem.wf s.mem = true →
    PerformsNow s a → OnDevice a.loc → s.poisoned a.loc a.size = false → SoundWatches s a →
    a.op = .rmw op v e dst → (a.size = 4 ∨ a.size = 8) → n = 8 * a.size → a.uid = some u → a.cancelled = false →
    a.red = dst.isNone → op.toNat ≤ 10 →
    let old := Mem.getLE s.mem a.loc.key a.size
    let new := op221 op.toNat n (BitVec.ofNat n old) (BitVec.ofNat n v.toNat) (BitVec.ofNat n e.toNat)
    ∃ (s' : State) (r : Arrival), exec (.accessPerform a.id ans) s = .next s' ∧
      (match new with
        | some x => StoredInto s.mem s'.mem a.loc.key a.size x.toNat
        | none => s'.mem = s.mem) ∧
      r ∈ s'.arrivals ∧ r.uid = u ∧ r.red = dst.isNone ∧
      r.writes = (match dst with
        | some d => [(.int d, BitVec.ofNat 256 old)]
        | none => []) ∧
      (∀ x ∈ s'.accs, x.id ≠ a.id) ∧ s'.granules = s.granules ∧ s'.threads = s.threads ∧
      (new = none ∨ NoWatch s a.loc a.size → s'.arrivals = s.arrivals ++ [r] ∧
        s'.accs = (s.servedFor a).accs.filter (fun x => x.id != a.id)) ∧
      (new ≠ none → ∀ w, Watching s a w → PlacedBy s' a w)

/-- A full/empty request is performed where the granule admits it and waits otherwise (R217, R218, R219, R220, R197,
R201). Where a full/empty request is next at its bank, nothing waits for its granule and it finds room on its bank's
list, or has been granted an entry there: LDFE and LDFF on a FULL granule owe their destination the 8 bytes, LDFE
leaving it EMPTY and LDFF FULL, and on
an EMPTY one wait and perform nothing; STFE on an EMPTY granule writes its 8 bytes and leaves it FULL, and on a FULL
one waits; FEINIT sets the state and changes no byte. STFE and FEINIT are performed for their thread when the
acknowledgement that leaves now has reached the core. Whatever waits there, once a request has been performed none that the
granule's state admits waits on; the oldest that a request admits is served with it: the LDFE or LDFF that an STFE admits
owes its register the bytes at its place after the STFE, which ended its wait, and the STFE that an LDFE admits is
acknowledged. -/
def Obligations.FullEmptyRequests : Prop :=
  ∀ (s : State) (a : Access) (ans : PeerAnswer) (u ph off : Nat), Mem.wf s.mem = true →
    PerformsNow s a → a.loc = .spad ph off → s.poisoned a.loc 8 = false → s.granuleBad a.loc = false →
    a.uid = some u → a.cancelled = false → a.red = false → a.size = 8 →
    let waits : State := { s.servedFor a with
      accs := (s.servedFor a).accs.filter (fun x => x.id != a.id) ++ [{ a with phase := .waiting, granted := false }] }
    let performed (s' : State) : Prop := (∀ x ∈ s'.accs, x.id = a.id → x.phase = .done) ∧
      ∃ r : Arrival, s'.arrivals = s.arrivals ++ [r] ∧ r.uid = u ∧ r.seq = a.id ∧ r.writes = []
    ∃ s' : State, exec (.accessPerform a.id ans) s = .next s' ∧
      (a.op.granuleOp = true → a.op.admitted (s.granuleFull a.loc) = true → NoneAdmitted s' a.loc) ∧
      (∀ v w uw consume d, a.op = .stfe v → s.granuleFull a.loc = false → OldestAdmitted s a.loc true w →
        w.op = .ldfe consume d → w.id ≠ a.id → w.uid = some uw → w.cancelled = false → w.red = false →
          s.poisoned w.loc 8 = false →
        ∃ (m : List Host.Cell) (r1 r2 : Arrival) (rest : List Arrival), StoredInto s.mem m a.loc.key 8 v.toNat ∧
          s'.arrivals = s.arrivals ++ r1 :: r2 :: rest ∧ r1.uid = u ∧ r1.seq = a.id ∧ r1.writes = [] ∧ r2.uid = uw ∧
          r2.writes = [(.int d, BitVec.ofNat 256 (Mem.getLE m w.loc.key 8))] ∧ r2.kind = 3 ∧ r2.arriver = a.handle ∧
          r2.stamp = a.stamp ∧ ∀ x ∈ s'.accs, x.id ≠ w.id) ∧
      (∀ d w uw v, a.op = .ldfe true d → s.granuleFull a.loc = true → OldestAdmitted s a.loc false w → w.op = .stfe v →
        w.uid = some uw → w.id ≠ a.id →
        ∃ (r1 r2 : Arrival) (rest : List Arrival), s'.arrivals = s.arrivals ++ r1 :: r2 :: rest ∧ r1.uid = u ∧
          r1.writes = [(.int d, BitVec.ofNat 256 (Mem.getLE s.mem a.loc.key 8))] ∧ r2.uid = uw ∧ r2.seq = w.id ∧
          r2.writes = [] ∧ ∀ x ∈ s'.accs, x.id = w.id → x.phase = .done) ∧
      (NoWaiter s a.loc → a.granted = true ∨ s.waitingAt a.listKey < listRoom a.listKey → match a.op with
      | .ldfe consume d =>
        if s.granuleFull a.loc = true then
          s'.mem = s.mem ∧ s'.granuleFull a.loc = !consume ∧ (∃ r : Arrival, s'.arrivals = s.arrivals ++ [r] ∧ r.uid = u ∧
            r.writes = [(.int d, BitVec.ofNat 256 (Mem.getLE s.mem a.loc.key 8))]) ∧ ∀ x ∈ s'.accs, x.id ≠ a.id
        else s' = waits
      | .stfe v =>
        if s.granuleFull a.loc = false then
          StoredInto s.mem s'.mem a.loc.key 8 v.toNat ∧ s'.granuleFull a.loc = true ∧ performed s'
        else s' = waits
      | .feinit fill => s'.mem = s.mem ∧ s'.granuleFull a.loc = fill ∧ performed s'
      | _ => True)

/-- An AWAIT is placed where its word satisfies it and waits otherwise, and waiting requests age, pass and are sent
again (R226, R227, R220, R197, R200). Where an AWAIT is next at its channel core and its list has room for it: if
the word satisfies the condition its destination is owed the word, zero-extended, else it waits there. A scratchpad request
of a core on its way becomes aged at REQUEST_AGED. A channel-core request that 64 later ones have passed is performed
by REQUEST_PASS_LIMIT as ACCESS_PERFORM performs it, and is on its way no more. When a list has a free entry (at a peer,
whenever the request finds one) OUTBOUND_RESEND grants it to the next requester in round-robin order of those that hold
requests for it: the oldest that this one holds takes the entry, and it and the later ones are sent again. -/
def Obligations.WatchesAndResends : Prop :=
  ∀ (s : State) (a : Access),
    (∀ (ans : PeerAnswer) (u pa : Nat) (c : AwCond) (v : Word) (d : IReg),
      PerformsNow s a → a.loc = .hbm pa → s.poisoned a.loc a.size = false → a.uid = some u → a.cancelled = false →
      a.red = false → a.op = .await c v d → a.granted = true ∨ s.waitingAt a.listKey < listRoom a.listKey →
      let x := Mem.getLE s.mem pa a.size
      ∃ s' : State, exec (.accessPerform a.id ans) s = .next s' ∧ s'.mem = s.mem ∧
        if awSays c a.size x v.toNat then ∃ r : Arrival, s'.arrivals = s.arrivals ++ [r] ∧ r.uid = u ∧
          r.writes = [(.int d, BitVec.ofNat 256 x)]
        else s' = { s.servedFor a with
          accs := (s.servedFor a).accs.filter (fun y => y.id != a.id) ++ [{ a with phase := .waiting, granted := false }] }) ∧
    (s.accs.find? (fun x => x.id == a.id) = some a → a.phase = .sent → (∃ ph off, a.loc = .spad ph off) →
      a.agedAt = none → (∀ v, a.op ≠ .mst v) → ∃ s' : State, exec (.requestAged a.id) s = .next s' ∧
      s'.accs.find? (fun x => x.id == a.id) = some { a with agedAt := some s.now } ∧
      ∀ x ∈ s.accs, x.id ≠ a.id → x ∈ s'.accs) ∧
    (PerformsNow s a → (∃ pa, a.loc = .hbm pa) → 64 ≤ a.passedBy →
      ∃ s', exec (.requestPassLimit a.id) s = .next s' ∧ exec (.accessPerform a.id PeerAnswer.none) s = .next s' ∧
        ∀ x ∈ s'.accs, x.id = a.id → x.phase ≠ .sent) ∧
    (∀ (u : UnitId) (key : Nat), UnitId.list u = some key → peerList key = true ∨ s.waitingAt key < listRoom key →
      let held := s.accs.filter fun x => x.phase == .outbound && x.waiter && x.listKey == key && x.loc.present
      held.find? (fun x => x.requester == a.requester) = some a →
      roundRobin (s.watchLast.lookup key) (held.map Access.requester) = some a.requester →
      ∃ s' : State, exec (.outboundResend u) s = .next s' ∧ s'.watchLast.lookup key = some a.requester ∧
        s'.accs = s.accs.map fun (x : Access) => if x.phase = .outbound ∧ x.sameQueue a = true
          then { x with phase := .sent, resent := true, granted := x.id == a.id } else x)

/-- SUMON binds a slot while its channel core has one, SUMADD adds to it exactly, and SUMOFF writes its FP32 total and
frees it (R228, R229, R230, R231, R225). Where a sum access of a thread is next at its HBM word: SUMON answers true
in pd and false in pq and leaves a slot bound where the word has one or its channel core has fewer than 64, and
false and true otherwise; SUMADD changes the word's slot by its addend and acknowledges a reduction; SUMOFF of a
bound word owes rd the total rounded once to FP32, writes it to the 8 bytes and frees the slot, and of an unbound
one owes rd all ones. A SUMADD without a slot sets bit 0 of its context's SUM_STATUS, a SUMOFF without one bit 1, and
nothing else changes it. Neither the slot nor a word that an AWAIT watches there is in a poisoned word. -/
def Obligations.SumSlotAccesses : Prop :=
  ∀ (s : State) (a : Access) (ans : PeerAnswer) (u pa : Nat), Mem.wf s.mem = true →
    PerformsNow s a → a.loc = .hbm pa → a.size = 8 → a.uid = some u → a.cancelled = false → SoundWatches s a →
    (∀ x, s.sumSlot? a.ctx pa = some x → x.bad = false) →
    let status (s : State) : Option (BitVec 2) := (s.ctx? a.ctx).map (·.sumStatus)
    ∃ s' : State, exec (.accessPerform a.id ans) s = .next s' ∧
      status s' = (status s).map (fun b => b ||| (match a.op with
        | .sumAdd _ _ => if s.sumSlot? a.ctx pa = none then 1 else 0
        | .sumOff _ => if s.sumSlot? a.ctx pa = none then 2 else 0
        | _ => 0)) ∧
      (match a.op with
      | .sumOn pd pq =>
        let ok : Bool := (s.sumSlot? a.ctx pa).isSome ||
          decide ((s.sums.filter fun x => channelOf x.pa == channelOf pa).length < 64)
        (s'.sumSlot? a.ctx pa).isSome = ok ∧ s'.mem = s.mem ∧
          ∃ r : Arrival, s'.arrivals = s.arrivals ++ [r] ∧ r.uid = u ∧
            r.writes = [(.pred pd, if ok then 1 else 0), (.pred pq, if ok then 0 else 1)]
      | .sumAdd f v =>
        s'.mem = s.mem ∧ (∀ x, s.sumSlot? a.ctx pa = some x → s'.sumSlot? a.ctx pa = some (x.take f v)) ∧
          ∃ r : Arrival, s'.arrivals = s.arrivals ++ [r] ∧ r.uid = u ∧ r.red = a.red ∧ r.writes = []
      | .sumOff d =>
        (match s.sumSlot? a.ctx pa with
        | some x => StoredInto s.mem s'.mem pa 8 x.value ∧ s'.sumSlot? a.ctx pa = none ∧
            (∃ r ∈ s'.arrivals, r.uid = u ∧ r.writes = [(.int d, BitVec.ofNat 256 x.value)]) ∧
            ∀ w, Watching s a w → PlacedBy s' a w
        | none => s'.mem = s.mem ∧
            ∃ r : Arrival, s'.arrivals = s.arrivals ++ [r] ∧ r.uid = u ∧ r.writes = [(.int d, BitVec.ofNat 256 (2 ^ 64 - 1))])
      | _ => True)

/-- A result that arrives makes its register FULL with its value and joins its flags, and no other register changes; an
acknowledged store is outstanding no more (R34, R37, R38, R40, R76, R123, R201, R225). Where one result for a thread
that is not saved and whose slot runs no inline index arrives, for one register that is pending, is no shared register
and is bound to no push: RESULT_ARRIVAL answers a next state in which that register is FULL, not pending and holds the
value's low bits, every other register of the thread has its value and states as they were, the thread's sticky flags
are joined by the result's and its count of reductions falls by one for an acknowledgement; and a result for a register
that is not pending, as zero and p0 never are, changes no register. Memory is as it was. (Where the thread waited for
the register and its replay's contrail is enabled a record is written, and where its slot runs an inline index its frame
shows the register too; those cases are left out by the premises.) The acknowledgement of a store that has been
performed, and that its thread still counts, takes that access, and no other, out of those outstanding. A load's or an
atomic's result that reaches a thread that has issued EXIT or BREAK changes no register (log entry 24). -/
def Obligations.ResultReachesItsRegister : Prop :=
  (∀ (s : State) (r : Arrival), s.arrivals.find? (fun x => x.id == r.id) = some r → s.isSaved r.uid = false →
    r.writes = [] → (∃ a ∈ s.accs, a.id = r.seq ∧ a.phase = .done) → ∃ s' : State, exec (.resultArrival r.id) s = .next s' ∧
      s'.accs = s.accs.filter (fun x => x.id != r.seq)) ∧
  ∀ (s : State) (r : Arrival) (t : Thread) (o : Operand) (v : Wide),
    s.arrivals.find? (fun x => x.id == r.id) = some r → s.isSaved r.uid = false → s.thread? r.uid = some t →
    (∀ x ∈ s.threads, x.uid = t.uid → x = t) → s.hosted? r.uid = none →
    r.writes = [(o, v)] → r.push = none → (∀ i, o ≠ .int (.s i)) → t.wait = none →
    ∃ (s' : State) (t' : Thread), exec (.resultArrival r.id) s = .next s' ∧ s'.thread? r.uid = some t' ∧
      s'.mem = s.mem ∧ s'.arrivals = s.arrivals.filter (fun x => x.id != r.id) ∧
      (∀ x, x.uid ≠ r.uid → (x ∈ s'.threads ↔ x ∈ s.threads)) ∧
      t'.flags = t.flags ||| r.flags ∧ t'.reds = (if r.red then t.reds - 1 else t.reds) ∧ t'.pc = t.pc ∧ t'.run = t.run ∧
      (∀ x : Operand, x ≠ o → t'.isFull x = t.isFull x ∧ t'.isPend x = t.isPend x) ∧
      (∀ x : IReg, .int x ≠ o → t'.int x = t.int x) ∧ (∀ x : WReg, .wide x ≠ o → t'.wide x = t.wide x) ∧
      (∀ x : KReg, .ext x ≠ o → t'.ext x = t.ext x) ∧ (∀ x : PReg, .pred x ≠ o → t'.pred x = t.pred x) ∧
      (t.isPend o = false ∨ t.onItsWay = true ∧ r.prod.memory = true → t'.sameValues t ∧ t'.isFull o = t.isFull o) ∧
      (t.isPend o = true → (t.onItsWay && r.prod.memory) = false → t'.isFull o = true ∧ t'.isPend o = false ∧
        (match o with
        | .int x => t'.int x = v.setWidth 64
        | .wide x => t'.wide x = v
        | .ext x => t'.ext x = v.setWidth 64
        | .pred x => t'.pred x = v.getLsbD 0))

/-- FALLOC reserves the lowest free entry, or an inline frame, and owes rd a handle with the layout of R257 (R69, R70,
R72, R257, R258, R37). Wherever R42 lets FALLOC issue: parameters that R70 refuses raise the family-parameter trap;
with neither a free entry nor a free inline frame it raises the inline-depth trap; otherwise exec answers a next
state in which one family more is listed, not started, created by the thread, with k0 to k3 as its parameters and
the lowest-numbered free entry (or, with none free, the lowest free frame), and rd is owed its handle: context,
logical cluster, core, entry and sequence value. The sequence value is the core's creation count mod 2^11, which advances by
one and past every value that is 0 or would reproduce a handle that the core holds. Nothing else of the families
changes, and no byte of memory but,
with no entry free, the 192 of the frame's record. -/
def Obligations.FamilyReservation : Prop :=
  ∀ (s : State) (t : Thread) (p : Port) (d : IReg), Issues s t p (.falloc d) →
    (familyOk (t.ext 2) (t.ext 3) = false → exec (.falloc d) s = .next (s.takeTrap t p ⟨0x08, 0, 0, none, none, none⟩)) ∧
    (familyOk (t.ext 2) (t.ext 3) = true → s.freeEntry t = none → s.freeFrame t = none →
      exec (.falloc d) s = .next (s.takeTrap t p ⟨0x0A, 0, 0, none, none, none⟩)) ∧
    (familyOk (t.ext 2) (t.ext 3) = true → s.freeEntry t ≠ none ∨ s.freeFrame t ≠ none →
      ∃ (s2 : State) (f : Family) (num c : Nat),
        exec (.falloc d) s = .next (s2.result t p [(.int d, (zext64 f.handle).setWidth 256)] .alu none) ∧
        s2.families = s.families ++ [f] ∧ f.creator = t.uid ∧ f.group = t.group ∧ f.started = false ∧ f.detached = false ∧
        f.k0 = t.ext 0 ∧ f.k1 = t.ext 1 ∧ f.k2 = t.ext 2 ∧ f.k3 = t.ext 3 ∧
        f.handle.toNat = handle257 t num c ∧ (s.coreAt t.phys t.core).count < c ∧
        ((s.heldBy t).length ≤ 62 → ¬ Skipped s t num c ∧
          ∀ x, (s.coreAt t.phys t.core).count < x → x < c → Skipped s t num x) ∧
        ((∃ k ∈ s.cores, k.phys = t.phys ∧ k.core = t.core) → (s2.coreAt t.phys t.core).count = c) ∧
        (match s.freeEntry t with
          | some e => f.entry = some e ∧ f.frame = none ∧ num = e ∧ s2.mem = s.mem
          | none => f.entry = none ∧ f.frame = s.freeFrame t ∧ (Mem.wf s.mem = true → ∀ fr, s.freeFrame t = some fr →
              let lo := (s.framePlace t.phys t.core fr 0x240).key
              ∀ x, x < lo ∨ lo + 192 ≤ x → Mem.get s2.mem x = Mem.get s.mem x)))

/-- FGO and CREATE start a family: an empty one terminates at once, a local one with room starts its first member, and an
inline one its first index in the creator's slot (R69, R71, R74, R78, R259, R260, R266). Wherever R42 lets FGO issue
on a family reserved by the thread: with no member it is terminated with status 0; placed at the default place (kind
0) or on the cluster (kind 1) through a family-table entry, with room on a core of the host set, its first member
runs at PC + 2·sext(imm15) with index k0 and the family's handle and window; inline (kind 4), with a frame, its first
index does so in the creator's slot, which the creator stands behind. CREATE does the same for the family it
reserves, and owes rd its handle. -/
def Obligations.FamilyStart : Prop :=
  ∀ (s : State) (t : Thread) (p : Port) (a d : IReg) (n : BitVec 15),
    let body := t.pc + 2 * n.signExtend 64
    (∀ f, Issues s t p (.fgo a n) → Names s t (t.int a) f → f.started = false → s.family? f.uid = some f →
      (f.has 0 = false → ∃ s', exec (.fgo a n) s = .next s' ∧
        ∀ g ∈ s'.families, g.uid = f.uid → StartedAt g t body ∧ g.status = some 0) ∧
      (f.has 0 = true → f.status = none → f.killed = false → f.decided = none → f.next = 0 → f.frame = none →
        f.placeKind < 2 → (∃ c ∈ (if f.placeKind = 0 then [f.core] else List.range 8), 0 < s.room f c) →
        ∃ s', exec (.fgo a n) s = .next s' ∧ (∀ g ∈ s'.families, g.uid = f.uid → StartedAt g t body) ∧
          ∃ x ∈ s'.threads, FirstMember x f body) ∧
      (f.has 0 = true → f.status = none → f.killed = false → f.decided = none → f.next = 0 → f.placeKind = 4 →
        t.run = .running → f.frame ≠ none ∨ s.freeFrame t ≠ none → t.uid < s.fresh →
        ∃ s', exec (.fgo a n) s = .next s' ∧ (∀ x ∈ s'.threads, x.uid = t.uid → x.run = .hosting f.uid) ∧
          ∃ x ∈ s'.threads, FirstMember x f body ∧ x.slot = t.slot)) ∧
    (∀ f s2, Issues s t p (.create d n) → familyOk (t.ext 2) (t.ext 3) = true →
      (s.issued t p (.create d n)).reserve t = some (f, s2) → (∀ g ∈ s.families, g.uid < s.fresh) →
      (f.has 0 = false → ∃ s' : State, ∃ r ∈ s'.arrivals, exec (.create d n) s = .next s' ∧ r.uid = t.uid ∧
        r.writes = [(.int d, (zext64 f.handle).setWidth 256)] ∧
        ∀ g ∈ s'.families, g.uid = f.uid → StartedAt g t body ∧ g.status = some 0) ∧
      (f.has 0 = true → f.frame = none → f.placeKind < 2 →
        (∃ c ∈ (if f.placeKind = 0 then [f.core] else List.range 8), 0 < s2.room f c) →
        ∃ s' : State, ∃ r ∈ s'.arrivals, exec (.create d n) s = .next s' ∧ r.uid = t.uid ∧
          r.writes = [(.int d, (zext64 f.handle).setWidth 256)] ∧ ∃ x ∈ s'.threads, FirstMember x f body))

/-- The instructions that name a family act on it, or raise the family-handle trap (R73, R78, R79, R80, R82, R273, R274,
R275, R276, R277, R279). A handle register that names no family of the thread, as one with a bit of [63:32] set does by log
entry 79, raises the family-handle trap with TRAP_DATA the register, for every instruction that names one; so does a
started family for those that take a reserved
one. On a named family: FPUT.d and FPUT.g put Reg[rb] where the window has the register and the family has not
started; FPLACE sets k3 where R70 accepts it; FSYNC and FGET owe rd the status or output of a terminated family and
otherwise wait for it, and FGET of a register outside the window raises the family-parameter trap; FREL frees a
terminated or reserved one and traps on a running one; FKILL and FKILL.tree send a kill; FSTAT owes rd R275's word;
DETACH lets a running one go, frees a terminated one and traps on a reserved one. A family that lives in an inline
frame shows each put in its record (R258). -/
def Obligations.FamilyHandles : Prop :=
  ∀ (s : State) (t : Thread) (p : Port) (f : Family) (d a b : IReg),
    (∀ i, handleReg i = some a → Issues s t p i → NamesNone s t (t.int a) →
      exec i s = .next (s.takeTrap t p ⟨0x09, t.int a, 0, none, none, none⟩)) ∧
    (Names s t (t.int a) f →
      (∀ i, i = .fplace a b ∨ (∃ n, i = .fputD a b n) ∨ (∃ n, i = .fputG a b n) ∨ (∃ n, i = .fgo a n) → Issues s t p i →
        f.started = true → exec i s = .next (s.takeTrap t p ⟨0x09, t.int a, 0, none, none, none⟩)) ∧
      (∀ n, Issues s t p (.fputD a b n) → f.started = false → exec (.fputD a b n) s = .next (
        if winShared f.window ≤ n.val then s.takeTrap t p ⟨0x08, 0, 0, none, none, none⟩
        else ((s.issued t p (.fputD a b n)).updFamily f.uid fun x =>
          { x with dputs := x.dputs.set n.val (t.int b) }).keepRecord f.uid)) ∧
      (∀ n, Issues s t p (.fputG a b n) → f.started = false → exec (.fputG a b n) s = .next (
        if winGlobals f.window ≤ n.val then s.takeTrap t p ⟨0x08, 0, 0, none, none, none⟩
        else ((s.issued t p (.fputG a b n)).updFamily f.uid fun x =>
          { x with gputs := x.gputs.set n.val (t.int b) }).keepRecord f.uid)) ∧
      (Issues s t p (.fplace a b) → f.started = false → exec (.fplace a b) s = .next (
        if placeOk (t.int b) then ((s.issued t p (.fplace a b)).updFamily f.uid fun x =>
          { x with k3 := t.int b }).keepRecord f.uid
        else s.takeTrap t p ⟨0x08, 0, 0, none, none, none⟩)) ∧
      (Issues s t p (.fsync d a) → exec (.fsync d a) s = .next (match f.status with
        | some v => ((s.issued t p (.fsync d a)).result t p [(.int d, (BitVec.ofNat 64 v).setWidth 256)] .fsync none).carrying
            f.carry
        | none => (s.issued t p (.fsync d a)).pend t d (.fsync f.uid))) ∧
      (∀ n, Issues s t p (.fget d a n) → exec (.fget d a n) s = .next (
        if winShared f.window ≤ n.val then s.takeTrap t p ⟨0x08, 0, 0, none, none, none⟩
        else match f.status with
          | some _ => ((s.issued t p (.fget d a n)).result t p [(.int d, f.out[n.val].setWidth 256)] .fget none).carrying
              f.carry
          | none => (s.issued t p (.fget d a n)).pend t d (.fget f.uid n))) ∧
      (Issues s t p (.frel a) → exec (.frel a) s = .next (
        if f.started = true ∧ f.status = none then s.takeTrap t p ⟨0x09, t.int a, 0, none, none, none⟩
        else { s.issued t p (.frel a) with families := s.families.filter fun x => x.uid != f.uid })) ∧
      (Issues s t p (.fkill a) → exec (.fkill a) s = .next (let s1 := s.issued t p (.fkill a)
        { s1 with kills := s1.kills ++ [⟨s1.fresh, f.uid, false⟩], fresh := s1.fresh + 1 })) ∧
      (Issues s t p (.fkillTree a) → exec (.fkillTree a) s = .next (let s1 := s.issued t p (.fkillTree a)
        { s1 with kills := s1.kills ++ [⟨s1.fresh, f.uid, true⟩], fresh := s1.fresh + 1 })) ∧
      (Issues s t p (.fstat d a) → ∃ w : Word, exec (.fstat d a) s =
          .next ((s.issued t p (.fstat d a)).result t p [(.int d, w.setWidth 256)] .alu none) ∧
        (w.toNat % 4 = f.where_ % 4) ∧
        (let below := ∃ (k m : Nat) (x : Thread), f.decided = some k ∧ (x ∈ s.threads ∨ ∃ r ∈ s.saves, x ∈ r.threads) ∧
           x.member? = some (f.uid, m) ∧ m < k
         (f.started = false → w.toNat / 4 % 4 = 0) ∧ (f.started = true → f.status ≠ none → w.toNat / 4 % 4 = 2) ∧
         (f.started = true → f.status = none → (below → w.toNat / 4 % 4 = 3) ∧ (¬ below → w.toNat / 4 % 4 = 1))) ∧
        (w.toNat / 16 % 4 = f.status.getD 0 % 4) ∧
        (w.toNat / 256 % 2 ^ 24 = min f.next (2 ^ 24 - 1)) ∧ (w.toNat / 2 ^ 32 = if f.where_ = 3 then 0 else f.hostLcl % 256)) ∧
      (Issues s t p (.detach a) → exec (.detach a) s = .next (
        if f.started = false then s.takeTrap t p ⟨0x09, t.int a, 0, none, none, none⟩
        else if f.status.isSome then { s.issued t p (.detach a) with families := s.families.filter fun x => x.uid != f.uid }
        else (s.issued t p (.detach a)).updFamily f.uid fun x => { x with detached := true })))

/-- EXIT and BREAK begin a thread's end, in trap service the served thread's, and YIELD stands behind the ready slots
(R76, R77, R147, R267, R280, R351). Wherever R42 lets a running thread issue it: EXIT of a thread outside trap service
leaves it exiting; BREAK of one that belongs to no family leaves it breaking. BREAK of member m of a family leaves it
breaking and, where a member not above m has decided the family already, does nothing more; where none has, or one above m
has, the family is decided by m, every live member above m has ended, nothing else of the threads changes, and the slots of
the ended ones are given out in ascending core and slot order. EXIT of a trap service thread ends the service, with the
core's trap slot free, and leaves the thread it serves exiting, or, while that one's sequencer run or an inline index in its
slot goes on, standing to issue its EXIT once it has ended (R147, R266; log entry 97). YIELD records the other slots of the
core that are ready, no yield of their own being in progress. -/
def Obligations.EndingAndYielding : Prop :=
  ∀ (s : State) (t : Thread) (p : Port), (∀ x ∈ s.threads, x.uid = t.uid → x = t) → t.run = .running →
    (Issues s t p .exit → t.isService = false → ∃ s' t', exec .exit s = .next s' ∧ s'.thread? t.uid = some t' ∧
      t'.run = .exiting ∧ s'.mem = s.mem ∧ s'.accs = s.accs) ∧
    (Issues s t p .brk → t.isService = false → t.member? = none → ∃ s' t', exec .brk s = .next s' ∧
      s'.thread? t.uid = some t' ∧ t'.run = .breaking ∧ s'.mem = s.mem ∧ s'.families = s.families) ∧
    (∀ fam m f, Issues s t p .brk → t.member? = some (fam, m) → s.family? fam = some f → f.decided = none →
      (∀ x ∈ s.threads, x.fam? = some fam → x.uid = t.uid) →
      ∃ s' f', exec .brk s = .next s' ∧ s'.family? fam = some f' ∧ f'.decided = some m ∧
        ∀ x ∈ s'.threads, x.uid = t.uid → x.run = .breaking) ∧
    (∀ fam m f, Issues s t p .brk → t.isService = false → t.member? = some (fam, m) → s.family? fam = some f →
      (s.threads.map (·.uid)).Nodup →
      let s0 := (s.issued t p .brk).updThread t.uid fun x => { x with run := .breaking, wait := none }
      let isAbove (x : Thread) : Bool := (x.member?.map fun y => y.1 == fam && decide (m < y.2)).getD false
      let above := s.threads.filter fun x => isAbove x && x.live
      (∀ d, f.decided = some d → d ≤ m → exec .brk s = .next s0) ∧
      ((∀ d, f.decided = some d → m < d) → ∃ s1 f',
        exec .brk s = .next ((above.mergeSort slotOrder).foldl (fun s x => s.offerSlot x.phys x.core x.slot none) s1) ∧
        s1.family? fam = some f' ∧ f'.decided = some m ∧ (∀ x ∈ above, ∀ y ∈ s1.threads, y.uid = x.uid → y.run = .ended) ∧
        ((∀ x ∈ above, (∀ w ∈ s.fwds, w.from_ ≠ x.uid)) → ∀ x ∈ s0.threads, isAbove x = false →
          (∀ phys core r v, (s.coreAt phys core).serving = some (r, v) → v ≠ x.uid) → x ∈ s1.threads))) ∧
    (∀ v r svc tv r0, Issues s t p .exit → t.kind = .service v → v ≠ t.uid →
      (s.coreAt t.phys t.core).serving = some (r, svc) → (∀ x ∈ s.threads, x.uid = v → x = tv) → s.thread? v = some tv →
      tv.run = .trapped r0 → r0.isTrapped = false → tv.phys = t.phys → tv.core = t.core →
      let goesOn := (r.seqr = false ∧ ∃ q, (s.coreAt t.phys t.core).seqr = some q ∧ q.uid = v) ∨ s.hosts v = true
      ∃ s', exec .exit s = .next s' ∧ (s'.coreAt t.phys t.core).serving = none ∧
        (∀ x ∈ s'.threads, x.uid = t.uid → x.run = .ended) ∧
        (goesOn → ∀ x ∈ s'.threads, x.uid = v → x.run = .leaving false) ∧
        (¬ goesOn → ∀ x ∈ s'.threads, x.uid = v → x.run = .exiting)) ∧
    (Issues s t p .yield → exec .yield s = .next (let s1 := s.issued t p .yield
      let waits (y : Thread) : Bool := y.yield.any fun u => ((s1.thread? u).map s1.ready).getD false
      let others := ((s1.onCore t.phys t.core).filter fun y => y.uid != t.uid && (s1.ready y && !waits y)).map (·.uid)
      s1.updThread t.uid fun x => { x with yield := others }))

/-- Vector ownership, the stream instructions and VLOOP act for the owner and trap for anyone else (R145, R146, R147,
R149, R150, R154, R310, R37). Of a core with VOWNs waiting, VDISOWN makes the thread of the first one the owner, and every
VOWN of that thread that waits is answered with 1. -/
def Obligations.OwnershipAndStreams : Prop :=
  ∀ (s : State) (t : Thread) (p : Port),
    (∀ i, i ∈ [.scfg 0, .scfg 1, .scfg 2, .scfg 3, .sunbind 0, .sunbind 1, .sunbind 2, .sunbind 3, .ssync 0, .ssync 1,
        .ssync 2, .ssync 3] ∨ (∃ w u, i = .sbind w u) ∨ (∃ a n, i = .vloop a n) →
      Issues s t p i → s.owns t = false → exec i s = .next (s.takeTrap t p ⟨0x0B, 0, 0, none, none, none⟩)) ∧
    (∀ d, Issues s t p (.vown d) → let s1 := s.issued t p (.vown d); let k := s1.coreAt t.phys t.core
      (s.owns t = true → exec (.vown d) s = .next (s1.result t p [(.int d, 1)] .alu none)) ∧
      (k.owner = none → k.vownQ = [] → s1.thread? t.uid ≠ none → (∀ q ∈ s.pends, q.id ≠ s.fresh) →
        ∃ s' r, exec (.vown d) s = .next s' ∧ (s'.coreAt t.phys t.core).owner = some t.uid ∧
          s'.arrivals = s.arrivals ++ [r] ∧ r.uid = t.uid ∧ r.writes = [(.int d, 1)]) ∧
      (k.owner ≠ none → s.owns t = false → k.vownQ = [] → (∀ q ∈ s.pends, q.id ≠ s.fresh) → s1.thread? t.uid ≠ none →
        ∃ s', exec (.vown d) s = .next s' ∧ (s'.coreAt t.phys t.core).owner = k.owner ∧
          (s'.coreAt t.phys t.core).vownQ = [s.fresh] ∧ s'.pends = s.pends ++ [⟨s.fresh, t.uid, d, .vown⟩])) ∧
    (Issues s t p .vdisown → s.owns t = false → exec .vdisown s = .next (s.issued t p .vdisown)) ∧
    (Issues s t p .vdisown → s.owns t = true → ((s.coreAt t.phys t.core).vownQ = []) →
      (∀ u : Fin 4, (s.coreAt t.phys t.core).streams[u.val].bound = none) →
      exec .vdisown s = .next ((s.issued t p .vdisown).updCore t.phys t.core fun k => { k with owner := none })) ∧
    (∀ n rest q x, Issues s t p .vdisown → s.owns t = true → (s.coreAt t.phys t.core).vownQ = n :: rest →
      (∀ u : Fin 4, (s.coreAt t.phys t.core).streams[u.val].bound = none) → s.pends.find? (fun y => y.id == n) = some q →
      s.thread? q.uid = some x → ∃ s', exec .vdisown s = .next s' ∧ (s'.coreAt t.phys t.core).owner = some x.uid ∧
        ∀ y ∈ s.pends, y.uid = x.uid → y.id ∈ n :: rest → (∀ z ∈ s'.pends, z.id ≠ y.id) ∧
          ∃ r ∈ s'.arrivals, r.uid = x.uid ∧ r.writes = [(.int y.dst, 1)]) ∧
    (s.owns t = true →
      (∀ n, Issues s t p (.scfg n) → exec (.scfg n) s = .next (
        if (s.coreAt t.phys t.core).streams[n.val].bound ≠ none then s.takeTrap t p ⟨0x0D, 0, 0, none, none, none⟩
        else if streamCfgOk (t.ext 0, t.ext 1, t.ext 2, t.ext 3) = false then s.takeTrap t p ⟨0x0C, 0, 0, none, none, none⟩
        else (s.issued t p (.scfg n)).updStream t n fun st => { st with cfg := some (t.ext 0, t.ext 1, t.ext 2, t.ext 3) })) ∧
      (∀ (w : WReg) (u : Fin 4) (h : w.val < 4) c, Issues s t p (.sbind w u) →
        (s.coreAt t.phys t.core).streams[u.val].cfg = some c → (s.coreAt t.phys t.core).streams[u.val].bound = none →
        (∀ x ∈ (s.coreAt t.phys t.core).streams.toList, x.bound ≠ some ⟨w.val, h⟩) →
        ∃ s', exec (.sbind w u) s = .next s' ∧ (s'.coreAt t.phys t.core).streams[u.val] =
          { Stream.fresh with cfg := some c, bound := some ⟨w.val, h⟩, stamp := t.stamp }) ∧
      (∀ u, Issues s t p (.sunbind u) → (s.coreAt t.phys t.core).streams[u.val].bound = none →
        exec (.sunbind u) s = .next (s.issued t p (.sunbind u))) ∧
      (∀ (u w : Fin 4), Issues s t p (.sunbind u) → (s.coreAt t.phys t.core).streams[u.val].bound = some w →
        ∃ s', exec (.sunbind u) s = .next s' ∧ (s'.coreAt t.phys t.core).streams[u.val].bound = none ∧
          (s'.coreAt t.phys t.core).streams[u.val].fifo = [] ∧
          ∀ x ∈ s'.threads, x.uid = t.uid → x.isFull (.wide ⟨w.val, by omega⟩) = true ∧
            x.wide ⟨w.val, by omega⟩ = (s.coreAt t.phys t.core).streams[u.val].last) ∧
      (∀ u, Issues s t p (.ssync u) → (s.coreAt t.phys t.core).streams[u.val].bound ≠ none → s.boundOut t u = false →
        ∃ s', exec (.ssync u) s = .next s' ∧ (s'.coreAt t.phys t.core).streams[u.val].fifo = [] ∧
          (s'.coreAt t.phys t.core).streams[u.val].pos = (s.coreAt t.phys t.core).streams[u.val].pos) ∧
      (∀ u, Issues s t p (.ssync u) → (s.coreAt t.phys t.core).streams[u.val].bound = none ∨ s.boundOut t u = true →
        exec (.ssync u) s = .next (s.issued t p (.ssync u))) ∧
      (∀ a n, Issues s t p (.vloop a n) →
        (∀ k < n.val + 1, (s.issued t p (.vloop a n)).bodyTrap t (t.pc + 4 + BitVec.ofNat 64 (4 * k)) = none) →
        let s1 := (s.issued t p (.vloop a n)).goto t.uid (t.pc + 8 + BitVec.ofNat 64 (4 * n.val))
        exec (.vloop a n) s = .next (if t.int a = 0 then s1 else s1.updCore t.phys t.core fun k =>
          { k with seqr := some ⟨t.uid, t.pc, n, 0, t.int a, false, false⟩ })))

/-- The matrix instructions set their contexts and queue their operations for the owner, and MWAIT waits for the queue
(R145, R156, R160, R162, R163, R164, R175, R176, R177). Each of the six raises the vector-ownership trap for a
thread that is not the owner. For the owner, wherever R42 lets it issue: MFMT and MUNF take a valid format word or
unfold descriptor and raise the matrix-parameter trap on any other; MZ, MMA and MST whose checks pass append one
operation of theirs at the end of the core's queue, MMA and MST with the places their address phase computed, an MMA
that has waited for room with those it obtained then, or take the trap that the address phase ends with, a poisoned entry
of its walk being charged to the context (R363); MWAIT owes rd 0 at once where the queue is empty and otherwise
waits for the operations queued before it. -/
def Obligations.MatrixInstructions : Prop :=
  ∀ (s : State) (t : Thread) (p : Port) (n : Fin 2) (a b d : IReg),
    (∀ i ∈ [Instr.mfmt a, .munf, .mma n a b, .mz n, .mst n a b, .mwait d], Issues s t p i → s.owns t = false →
      exec i s = .next (s.takeTrap t p ⟨0x0B, 0, 0, none, none, none⟩)) ∧
    (s.owns t = true →
      (Issues s t p (.mfmt a) → exec (.mfmt a) s = .next (if mfmtOk (t.int a) then
          (s.issued t p (.mfmt a)).updCore t.phys t.core fun k => { k with fmtCtx := some (t.int a) }
        else s.takeTrap t p ⟨0x0E, 0, 0, none, none, none⟩)) ∧
      (Issues s t p .munf → exec .munf s = .next (if munfOk (t.ext 0, t.ext 1, t.ext 2, t.ext 3) then
          (s.issued t p .munf).updCore t.phys t.core fun k => { k with unfold := some (t.ext 0, t.ext 1, t.ext 2, t.ext 3) }
        else s.takeTrap t p ⟨0x0E, 0, 0, none, none, none⟩)) ∧
      (Issues s t p (.mz n) → ∃ s' m, exec (.mz n) s = .next s' ∧ m.uid = t.uid ∧ m.pc = t.pc ∧ m.kind = .mz n ∧
        m.sent = false ∧ (s'.coreAt t.phys t.core).mq = (s.coreAt t.phys t.core).mq ++ [m] ∧ s'.mem = s.mem) ∧
      (∀ k ps s2, Issues s t p (.mma n a b) → (s.mmaArgs t n a b).ok = true →
        (t.kept = none ∧ (s.issued t p (.mma n a b)).mmaPlan t.issuer (s.mmaArgs t n a b) = (.ok (k, ps), s2) ∨
          t.kept = some (.mma k ps) ∧ s2 = s.issued t p (.mma n a b)) →
        ∃ s' m, exec (.mma n a b) s = .next s' ∧ m.uid = t.uid ∧ m.pc = t.pc ∧ m.kind = k ∧ m.pages = ps ∧
          m.args = some (s.mmaArgs t n a b) ∧ m.got = [] ∧
          (s'.coreAt t.phys t.core).mq = (s2.coreAt t.phys t.core).mq ++ [m]) ∧
      (Issues s t p (.mma n a b) → (s.mmaArgs t n a b).ok = false →
        exec (.mma n a b) s = .next (s.takeTrap t p ⟨0x0E, 0, 0, none, none, none⟩)) ∧
      (∀ tr s2, Issues s t p (.mma n a b) → (s.mmaArgs t n a b).ok = true → t.kept = none →
        (s.issued t p (.mma n a b)).mmaPlan t.issuer (s.mmaArgs t n a b) = (.error tr, s2) →
        exec (.mma n a b) s = .next ((s.chargeTrap t.ctx t.phys tr).takeTrap t p tr)) ∧
      (∀ tr s2, Issues s t p (.mst n a b) →
        (s.issued t p (.mst n a b)).mstPlan t.issuer (s.coreAt t.phys t.core).fmtCtx (t.int a) (t.int b) = (.error tr, s2) →
        exec (.mst n a b) s = .next ((s.chargeTrap t.ctx t.phys tr).takeTrap t p tr)) ∧
      (∀ ls s2, Issues s t p (.mst n a b) →
        (s.issued t p (.mst n a b)).mstPlan t.issuer (s.coreAt t.phys t.core).fmtCtx (t.int a) (t.int b) = (.ok ls, s2) →
        ∃ s' m ds, exec (.mst n a b) s = .next s' ∧ m.uid = t.uid ∧ m.kind = .mst n ls (t.int b) ds ∧
          ds.length = (if mstMode (t.int b) = .sr then 512 else 0) ∧
          (s'.coreAt t.phys t.core).mq = (s2.coreAt t.phys t.core).mq ++ [m]) ∧
      (Issues s t p (.mwait d) → exec (.mwait d) s = .next (
        if (s.coreAt t.phys t.core).mq = [] then (s.issued t p (.mwait d)).result t p [(.int d, 0)] .mwait none
        else (s.issued t p (.mwait d)).pend t d (.mwait ((s.coreAt t.phys t.core).mq.map (·.id))))))

/-- A copy whose checks pass raises its token and is held by the engine; WAITK goes on when none is in flight and
reports an error (R234, R235, R239, R240, R243, R245, R247, R249, R250). Wherever R42 lets it issue: CPG.in,
CPG.out, SEND, CPFAR.in and CPFAR.out take their first failing check's trap, a poisoned entry of its walk being charged to
the context (R363), or leave one copy more in the engine,
of their kind, token and units, issued now by the thread, with the token's count raised by one, one that has waited
for room with the translations it obtained then; COLL does so and
joins its communicator's collectives as the next one. WAITK with no copy in flight on its tokens and no error
changes only the thread's position; with an error on one of them it raises the copy-error trap for the lowest such
token, whose error is then cleared, with the code in TRAP_INFO. -/
def Obligations.CopyInstructions : Prop :=
  ∀ (s : State) (t : Thread) (p : Port) (n : Fin 8) (a b : IReg),
    (∀ i kind plan, i = .cpgIn n a b ∧ kind = .cpg false ∧ plan = (fun (s : State) =>
          s.cpgPlan t.issuer false (t.int a) (t.int b) (t.ext 0) (t.ext 1) (t.ext 2) (t.ext 3)) ∨
        i = .cpgOut n a b ∧ kind = .cpg true ∧ plan = (fun (s : State) =>
          s.cpgPlan t.issuer true (t.int a) (t.int b) (t.ext 0) (t.ext 1) (t.ext 2) (t.ext 3)) ∨
        i = .send n a b ∧ kind = .send ∧ plan = (fun (s : State) =>
          s.sendPlan t.issuer (t.int a) (t.int b) (t.ext 0) (t.ext 1) (t.ext 2) (t.ext 3)) ∨
        i = .cpfarIn n a b ∧ kind = .farIn (t.ext 0) ((t.ext 1).toNat % 64)
          (if (t.int b).getLsbD 32 then some ((t.int b).setWidth 32) else none) ∧ plan = (fun (s : State) =>
          s.cpfarPlan t.issuer false (t.int a) (t.int b) (t.ext 1)) ∨
        i = .cpfarOut n a b ∧ kind = .farOut (t.ext 0) ((t.ext 1).toNat % 64) ((t.int b).toNat % 4) ∧
          plan = (fun (s : State) => s.cpfarPlan t.issuer true (t.int a) (t.int b) (t.ext 1)) →
      Issues s t p i →
      (∀ tr s2, t.kept = none → plan (s.issued t p i) = (.error tr, s2) →
        exec i s = .next ((s.chargeTrap t.ctx t.phys tr).takeTrap t p tr)) ∧
      (∀ pl s2, t.kept = none ∧ plan (s.issued t p i) = (.ok pl, s2) ∨
          t.kept = some (.copy pl.units pl.slack pl.pages) ∧ s2 = s.issued t p i → ∃ c : Copy,
        c.uid = t.uid ∧ c.group = t.group ∧ c.ctx = t.ctx ∧ c.kind = kind ∧ c.token = n ∧ c.units = pl.units ∧
        c.plan = pl.units ∧ c.slack = pl.slack ∧ c.issued = s2.now ∧ c.got = [] ∧ c.sent = false ∧ c.agedAt = none ∧
        exec i s = .next ({ s2 with copies := s2.copies ++ [c], fresh := s2.fresh + 1 }.updThread t.uid fun x =>
          { x with tokens := x.tokens.set n.val (x.tokens[n.val] + 1) }))) ∧
    (∀ src dst ps s2 x m, Issues s t p (.coll n a b) →
      (t.kept = none ∧
        (s.issued t p (.coll n a b)).collPlan t.issuer (t.int a) (t.int b) (t.ext 0) (t.ext 1) = (.ok (src, dst, ps), s2) ∨
        t.kept = some (.coll src dst ps) ∧ s2 = s.issued t p (.coll n a b)) →
      s2.ctx? t.ctx = some x → x.comms.find? (fun m => m.num == (CollArgs.of (t.ext 0) (t.ext 1)).comm) = some m →
      ∃ s' c, exec (.coll n a b) s = .next s' ∧ s'.copies = s2.copies ++ [c] ∧ c.uid = t.uid ∧ c.token = n ∧
        c.kind = .coll m.num m.issued ((CollArgs.of (t.ext 0) (t.ext 1)).fmt.width / 8) ∧
        ∃ x' m', s'.ctx? t.ctx = some x' ∧ x'.comms.find? (fun y => y.num == m.num) = some m' ∧
          m'.issued = m.issued + 1 ∧ (m'.open_.map (·.copy)) = (m.open_.map (·.copy)) ++ [c.id]) ∧
    (∀ m, Issues s t p (.waitk m) → (∀ k : Fin 8, m.getLsbD k.val = true → t.tokErr[k.val] = none) →
      exec (.waitk m) s = .next (s.issued t p (.waitk m))) ∧
    (∀ (m : BitVec 8) (k : Fin 8) (e : CopyErr), Issues s t p (.waitk m) → m.getLsbD k.val = true →
      t.tokErr[k.val] = some e → (∀ j < k, m.getLsbD j.val = true → t.tokErr[j.val] = none) →
      exec (.waitk m) s = .next (s.takeTrap t p
        ⟨0x10, 0, BitVec.ofNat 64 (e.detail * 2 ^ 32 + e.code % 8 * 16 + k.val), none, some k, none⟩))

/-- The tag, retain, range and grid instructions send their requests or owe their values, and trap on operands they
refuse (R294, R299, R300, R301, R305, R306, R307, R286). Wherever R42 lets it issue: TAGPUB of a tag its group may
publish sends one publication, TAGWAIT of a tensor of the graph leaves one look pending for rd, TAGQ owes rd the
table's word as it stands at its issue, 0 for no entry (log entry 29); generation 0 and 3 in bits 23:16 for a tensor in
fallback, whose count without an entry is log entry 85's; RETAIN that passes R305's checks leaves its record on its way
behind the group's earlier ones, TAKE and TAKE.arm on a granted range leave their requests with the range unit; each on other
operands raises the schedule trap. GRID owes rd its selector's value and GRID.param the parameter slot's value or 0. -/
def Obligations.TagAndRangeInstructions : Prop :=
  ∀ (s : State) (t : Thread) (p : Port) (a b d : IReg),
    (∀ r, Issues s t p (.tagpub a) → let s1 := s.issued t p (.tagpub a)
      let ok := (t.int a).toNat < 2 ^ 32 ∧ s1.produces t.group ((t.int a).setWidth 32) = true
      (¬ ok → exec (.tagpub a) s = .next (s.takeTrap t p ⟨0x11, 0, 0, none, none, none⟩)) ∧
      (ok → s1.replayOf? t.group = some r → exec (.tagpub a) s = .next { s1 with
        pubs := s1.pubs ++ [⟨s1.fresh, t.ctx, t.group, r.uid, (t.int a).setWidth 32, some t.uid, none, false, t.stamp, t.handle⟩],
        fresh := s1.fresh + 1 })) ∧
    (Issues s t p (.tagwait d a) → exec (.tagwait d a) s = .next (
      if s.tagOk t (t.int a) then (s.issued t p (.tagwait d a)).pend t d (.tagwait ((t.int a).setWidth 32) false)
      else s.takeTrap t p ⟨0x11, 0, 0, none, none, none⟩)) ∧
    (Issues s t p (.tagq d a) → (s.tagOk t (t.int a) = false →
        exec (.tagq d a) s = .next (s.takeTrap t p ⟨0x11, 0, 0, none, none, none⟩)) ∧
      (s.tagOk t (t.int a) = true → ∃ w : Word,
        exec (.tagq d a) s = .next ((s.issued t p (.tagq d a)).result t p [(.int d, w.setWidth 256)] .alu none) ∧
        (∀ r, s.replayOf? t.group = some r → r.fallback.contains ((t.int a).toNat / 2 ^ 24) = false →
          match s.tag? t.ctx ((t.int a).setWidth 32) with
          | none => w = 0
          | some e => w.toNat % 2 ^ 16 = e.gen.toNat ∧ w.toNat / 2 ^ 16 % 256 = (if e.published then 2 else 1) ∧
              w.toNat / 2 ^ 24 = e.count % 65536) ∧
        (∀ r, s.replayOf? t.group = some r → r.fallback.contains ((t.int a).toNat / 2 ^ 24) = true →
          w.toNat % 2 ^ 16 = 0 ∧ w.toNat / 2 ^ 16 % 256 = 3 ∧
          w.toNat / 2 ^ 24 = ((s.tag? t.ctx ((t.int a).setWidth 32)).map (·.count)).getD
            (s.consumersLeft r ((t.int a).setWidth 32)) % 65536))) ∧
    (Issues s t p (.retain a b) → exec (.retain a b) s = .next (
      if s.retainOk t (t.int a) (t.int b) then (s.issued t p (.retain a b)).updGroup t.group fun g =>
        { g with retainMsg := g.retainMsg ++ [((t.int b).toNat, (t.int a).toNat)] }
      else s.takeTrap t p ⟨0x11, 0, 0, none, none, none⟩)) ∧
    (∀ n : Fin 64, Issues s t p (.take d a) → t.int a = BitVec.ofNat 64 n.val → s.ranges[n.val].owner = some t.ctx →
      exec (.take d a) s = .next ((s.issued t p (.take d a)).pend t d (.take n.val))) ∧
    (Issues s t p (.take d a) → (∀ n : Fin 64, t.int a = BitVec.ofNat 64 n.val → s.ranges[n.val].owner ≠ some t.ctx) →
      exec (.take d a) s = .next (s.takeTrap t p ⟨0x11, 0, 0, none, none, none⟩)) ∧
    (∀ n : Fin 64, Issues s t p (.takeArm a) → t.int a = BitVec.ofNat 64 n.val → s.ranges[n.val].owner = some t.ctx →
      let k := (t.ext 2).toNat
      exec (.takeArm a) s = .next (
        if k % 2 ^ 16 = 0 ∨ k / 2 ^ 16 % 2 ^ 32 = 0 ∨ k / 2 ^ 48 ≠ 0 then s.takeTrap t p ⟨0x11, 0, 0, none, none, none⟩
        else (s.issued t p (.takeArm a)).pend t .zero
          (.takeArm n.val (t.ext 0) (t.ext 1) (k % 2 ^ 16) (k / 2 ^ 16 % 2 ^ 32)))) ∧
    (∀ sel g k r, Issues s t p (.grid d sel) → s.group? t.group = some g → s.kernelOf? t.group = some k →
      s.replayOf? t.group = some r → exec (.grid d sel) s = .next ((s.issued t p (.grid d sel)).result t p
        [(.int d, (match sel with
          | .i => BitVec.ofNat 64 (g.lin / (k.gy * k.gz))
          | .j => BitVec.ofNat 64 (g.lin / k.gz % k.gy)
          | .k => BitVec.ofNat 64 (g.lin % k.gz)
          | .lin => BitVec.ofNat 64 g.lin
          | .nx => BitVec.ofNat 64 k.gx
          | .ny => BitVec.ofNat 64 k.gy
          | .nz => BitVec.ofNat 64 k.gz
          | .kern => BitVec.ofNat 64 g.kern
          | .seq => BitVec.ofNat 64 r.seq.toNat
          | .lcl => BitVec.ofNat 64 g.lcl
          | .graph => BitVec.ofNat 64 r.graph.toNat : Word).setWidth 256)] .alu none)) ∧
    (∀ r, Issues s t p (.gridParam d a) → s.replayOf? t.group = some r → exec (.gridParam d a) s =
      .next ((s.issued t p (.gridParam d a)).result t p
        [(.int d, ((r.params.lookup (t.int a).toNat).getD 0).setWidth 256)] .alu none))

/-- SYSR, SYSW, MARK, RDCYC, CVTA and ISAP complete wherever R42 lets them issue, and read and write what their entries name
(R343, R345, R346, R348, R349, R350, R354, R355, R311, R331, R232, R233). That SEQ_COUNT reads the run of any owner to every
thread of the core, and that CVTA and ISAP check one byte at the address, is log entry 31's. A write of a creator's frame
while its slot runs an inline index shows in its frame in TCM (R266). -/
def Obligations.SystemRegisters : Prop :=
  ∀ (s : State) (t : Thread) (p : Port) (a d : IReg),
    (∀ n, Issues s t p (.sysr d n) → ∃ w : Word,
      exec (.sysr d n) s = .next ((s.issued t p (.sysr d n)).result t p [(.int d, w.setWidth 256)] .alu none) ∧
      (match n with
      | .devTime => w = BitVec.ofNat 64 s.now
      | .ctxId => w.toNat = t.ctx % 64
      | .tlbShoot | .censusCtl => w = 0
      | .seqCount => p.seqr = false → w = ((s.coreAt t.phys t.core).seqr.map (·.left)).getD 0
      | _ => True) ∧
      (∀ c, s.ctx? t.ctx = some c → match n with
        | .trapVec => w = c.trapVec
        | .jobSeed => w = c.jobSeed
        | .stratusCtl => w = c.stratusCtl
        | .contrailBase => w = c.contrailBase
        | .contrailCtl => w = c.contrailCtl
        | .sumStatus => w.toNat = c.sumStatus.toNat
        | .fpCtl => w.toNat = c.fpCtl.toNat
        | .censusSel => w.toNat = c.censusSel.toNat
        | .censusVal => let k := s.censusOf t.ctx t.lcore
            (∀ j : Fin 6, c.censusSel.toNat = j.val → w = k.cls[j.val]) ∧
            (∀ j : Fin 7, c.censusSel.toNat = 8 + j.val → w = k.hist[j.val]) ∧
            (∀ j : Fin 20, c.censusSel.toNat = 16 + j.val → w = k.streams[j.val]) ∧
            (c.censusSel.toNat ∈ [6, 7, 15] ∨ 36 ≤ c.censusSel.toNat → w = 0)
        | _ => True) ∧
      (s.served t = none → match n with
        | .trapCause | .trapAddr | .trapWord | .trapData | .trapInfo | .trapHandle | .seqState | .frame _ => w = 0
        | _ => True) ∧
      (∀ r v, s.served t = some r → s.thread? r.uid = some v → match n with
        | .trapCause => w.toNat = r.code % 256 + (if r.seqr then 256 else 0) + (if r.deferred.isSome then 512 else 0)
        | .trapAddr => w = r.addr
        | .trapWord => w = r.word
        | .trapData => w = r.data
        | .trapInfo => w = r.info
        | .trapHandle => w.toNat = v.slot % 64 * 2 ^ 32 + v.handle.toNat
        | .frame k => r.uid ≠ t.uid → p.seqr = false → w = s.frameWord v k.val
        | _ => True)) ∧
    (∀ n, Issues s t p (.sysw a n) → exec (.sysw a n) s = .next (match n with
      | .trapVec => (s.issued t p (.sysw a n)).updCtx t.ctx fun x => { x with trapVec := ((t.int a).setWidth 34).setWidth 64 }
      | .censusSel => (s.issued t p (.sysw a n)).updCtx t.ctx fun x => { x with censusSel := (t.int a).setWidth 8 }
      | _ => s.issued t p (.sysw a n))) ∧
    (Issues s t p (.syswSumStatus a) → exec (.syswSumStatus a) s = .next ((s.issued t p (.syswSumStatus a)).updCtx t.ctx
      fun x => { x with sumStatus := x.sumStatus &&& ~~~((t.int a).setWidth 2) })) ∧
    (Issues s t p (.syswTlbShoot a) → ∃ s' d, exec (.syswTlbShoot a) s = .next s' ∧ s'.shoots = s.shoots ++ [d] ∧
      d.ctx = t.ctx ∧ d.for_ = .thread t.uid ∧ (d.whole = true ↔ (t.int a).toNat % 4 = 3) ∧
      d.size = (match (t.int a).toNat % 4 with
        | 0 => 2 ^ 16
        | 1 => 2 ^ 25
        | _ => 2 ^ 34) ∧ d.lo = (t.int a).toNat / 65536 % 2 ^ 36 * 65536 / d.size * d.size ∧
      ∀ x ∈ s'.threads, x.uid = t.uid → x.run = .shooting d.id) ∧
    (Issues s t p (.syswCensusCtl a) → ∃ s', exec (.syswCensusCtl a) s = .next s' ∧
      ((t.int a).getLsbD 0 = false → s' = s.issued t p (.syswCensusCtl a)) ∧
      ((t.int a).getLsbD 0 = true → s'.censusOf t.ctx t.lcore = ⟨t.ctx, t.lcore, Vector.replicate 6 0, Vector.replicate 7 0,
          Vector.replicate 20 0, (s.censusOf t.ctx t.lcore).cycles⟩ ∧
        ∀ k, k ∈ s'.census → k.ctx ≠ t.ctx ∨ k.lcore ≠ t.lcore → k ∈ s.census)) ∧
    (Issues s t p (.syswSeqState a) → exec (.syswSeqState a) s = .next (
      if ((s.served t).map (·.seqr)).getD false = true ∧ (t.int a).getLsbD 26 = false then
        (s.issued t p (.syswSeqState a)).updCore t.phys t.core fun k =>
          { k with seqr := k.seqr.map fun q => { q with abandoned := true } }
      else s.issued t p (.syswSeqState a))) ∧
    (∀ n : Fin 72, Issues s t p (.syswFrameWindow n a) → let s1 := s.issued t p (.syswFrameWindow n a)
      exec (.syswFrameWindow n a) s = .next (match s1.victim t with
        | some v => (s1.updThread v.uid fun _ => s1.pokeFrame v n.val (t.int a)).keepFrame v.uid
        | none => s1) ∧
      (∀ v, n.val = 70 ∨ n.val = 71 ∨ 18 < n.val ∧ n.val < 31 ∨ n.val = 67 ∨ n.val = 68 →
        s1.pokeFrame v n.val (t.int a) = v) ∧
      ∀ (v : Thread) (i : Fin 15), n.val = i.val → v.isPend (.int (.l i)) = false →
        (s1.pokeFrame v n.val (t.int a)).int (.l i) = t.int a ∧ (s1.pokeFrame v n.val (t.int a)).isFull (.int (.l i)) = true) ∧
    (Issues s t p (.mark a) → ∃ s', exec (.mark a) s = .next s' ∧ (∀ x ∈ s'.threads, x.uid = t.uid → x.stamp.len = 0) ∧
      ((∀ r, s.replayOf? t.group = some r → r.ctrlCtl.getLsbD 8 = false) → s'.mem = s.mem)) ∧
    (Issues s t p (.rdcyc d) → exec (.rdcyc d) s = .next ((s.issued t p (.rdcyc d)).result t p
      [(.int d, ((s.censusOf t.ctx t.lcore).cycles).setWidth 256)] .alu none)) ∧
    (Issues s t p (.cvtaCl d a) → ∃ w : Word,
      exec (.cvtaCl d a) s = .next ((s.issued t p (.cvtaCl d a)).result t p [(.int d, w.setWidth 256)] .alu none) ∧
      ((t.int a).toNat / 2 ^ 21 ≠ 0xE2 * 2 ^ 35 → w = BitVec.allOnes 64) ∧
      ∀ g, s.group? t.group = some g → t.delegated = false → (t.int a).toNat / 2 ^ 21 = 0xE2 * 2 ^ 35 →
        w = if (t.int a).toNat % 2 ^ 21 < g.spadSize then
            BitVec.ofNat 64 (0xE1 * 2 ^ 56 + g.lcl * 2 ^ 21 + g.spadBase + (t.int a).toNat % 2 ^ 21) else BitVec.allOnes 64) ∧
    (Issues s t p (.cvtaSp d a) → ∃ w : Word,
      exec (.cvtaSp d a) s = .next ((s.issued t p (.cvtaSp d a)).result t p [(.int d, w.setWidth 256)] .alu none) ∧
      ∀ g, s.group? t.group = some g → w = if (t.int a).toNat / 2 ^ 29 = 0xE1 * 2 ^ 27 ∧
          (t.int a).toNat / 2 ^ 21 % 256 = g.lcl ∧ g.spadBase ≤ (t.int a).toNat % 2 ^ 21 ∧
          (t.int a).toNat % 2 ^ 21 < g.spadBase + g.spadSize then
        BitVec.ofNat 64 (0xE2 * 2 ^ 56 + ((t.int a).toNat % 2 ^ 21 - g.spadBase)) else BitVec.allOnes 64) ∧
    (∀ x y k, Issues s t p (.isap x y a k) → ∃ c : Bool, exec (.isap x y a k) s =
        .next ((s.issued t p (.isap x y a k)).result t p [(.pred x, if c then 1 else 0), (.pred y, if c then 0 else 1)] .alu none) ∧
      let v := (t.int a).toNat
      let sp (g : Group) : Prop := v / 2 ^ 21 = 0xE2 * 2 ^ 35 ∧ t.delegated = false ∧ v % 2 ^ 21 < g.spadSize
      let cls : Prop := v / 2 ^ 29 = 0xE1 * 2 ^ 27 ∧ (s.holder? t.ctx (v / 2 ^ 21 % 256) (v % 2 ^ 21) 1).isSome = true
      (k = .gl → (c = true ↔ v < 2 ^ 52)) ∧
      (k = .sys → (c = true ↔ v / 2 ^ 56 = 1 ∧ ∃ x, s.ctx? t.ctx = some x ∧
        (x.peers.lookup (v / 2 ^ 47 % 512)).isSome = true)) ∧
      (k = .can → (c = true ↔ v / 2 ^ 28 = 0xE0 * 2 ^ 28 ∧ ∃ x, s.ctx? t.ctx = some x ∧
        covered x.canopy (v % 2 ^ 28) 1 = true)) ∧
      (k = .cls → (c = true ↔ cls)) ∧
      ∀ g, s.group? t.group = some g →
        (k = .sp → (c = true ↔ sp g)) ∧
        (k = .tcm → t.core < 8 → (c = true ↔ v / 2 ^ 17 = 0xE3 * 2 ^ 39 ∧ t.delegated = false ∧ v % 2 ^ 17 < g.tcmSize)) ∧
        (k = .own → (c = true ↔ sp g ∨ cls ∧ v / 2 ^ 21 % 256 = g.lcl ∧ g.spadBase ≤ v % 2 ^ 21 ∧
          v % 2 ^ 21 < g.spadBase + g.spadSize)))

/-- A kick is dropped, queued or refused at its endpoint, and taking it starts a replay or sends the first error of
R285's table (R15, R17, R284, R285, R286, R287, R335, R118). A kick message is read little-endian at R284's offsets, and
bytes that a short one lacks as zero (log entry 95, as is what the cycle of arrival does below).
KICK at a context's command endpoint: a message that its sources or policy refuse is dropped and counted; an
accepted one joins the context's queue behind those that came before it, and before those of the same cycle from
higher-numbered ports; one that finds 64 kicks of earlier cycles queued is answered with status 0x80000001.
KICK_TAKE, where the launch unit may take the context's kicks and the cycle of the first one's arrival is over: the
first kick with a cause of R285 is answered with the status of the first cause and starts nothing; one with no cause
waits, where its graph already runs D replays, until the oldest of them has completed, and otherwise starts a replay
whose parameter block holds every declared slot with its default or the last patch's value, and becomes the graph's
last accepted sequence; a replay of a graph without kernels completes at once. -/
def Obligations.KicksAndReplays : Prop :=
  (∀ m : List Byte, let k := readKick m
    let at_ (off n : Nat) : Nat := leNat ((m.drop off).take n)
    k.graph.toNat = at_ 0 4 ∧ k.seq.toNat = at_ 4 4 ∧ k.count.toNat = at_ 8 2 ∧ k.rsv.toNat = at_ 10 6 ∧
    k.entries.length = (m.length - 16) / 16 ∧ ∀ e x, k.entries[e]? = some x →
      x.slot.toNat = at_ (16 + 16 * e) 2 ∧ x.rsv.toNat = at_ (18 + 16 * e) 6 ∧ x.value.toNat = at_ (24 + 16 * e) 8) ∧
  ∀ (s : State) (c : Context),
    (∀ h port msg, s.ctx? h.ctx = some c → ¬ Allowed c.cmdSrcs c.cmdPolicy h.env →
      exec (.kick h port msg) s = .next { s with dropped := s.dropped + 1 }) ∧
    (∀ h port msg pre post, ForContext s h c → c.destroying = none → c.kicks = pre ++ post → c.kicks.length < 64 →
      (∀ k ∈ pre, k.at_ ≠ s.now ∨ k.port ≤ port % 16) → (∀ k ∈ post, k.at_ = s.now ∧ port % 16 < k.port) →
      exec (.kick h port msg) s = .next (s.updCtx c.id fun x =>
        { x with kicks := pre ++ ⟨h.req, port % 16, readKick msg, s.now, none⟩ :: post })) ∧
    (∀ h port msg, ForContext s h c → c.destroying = none → c.kicks.length = 64 → (∀ k ∈ c.kicks, k.at_ ≠ s.now) →
      ∃ s', exec (.kick h port msg) s = .next s' ∧ s'.ctx? c.id = some c ∧
        s'.out = s.out ++ [.completion c.id h.req (leBytes 4 (readKick msg).graph.toNat ++ leBytes 4 (readKick msg).seq.toNat ++
          leBytes 4 0x80000001 ++ leBytes 4 0)]) ∧
    (∀ k rest, TakesKicks s c → c.kicks = k :: rest → k.at_ < s.now →
      (∀ n, KickCause s c k.msg n → (∀ j < n, ¬ KickCause s c k.msg j) →
        ∃ s' c', exec (.kickTake c.id) s = .next s' ∧ s'.ctx? c.id = some c' ∧ c'.kicks = rest ∧ s'.replays = s.replays ∧
          s'.graphs = s.graphs ∧ s'.out = s.out ++
            [.completion c.id k.req (completionBytes k.msg.graph k.msg.seq (0x80000000 + BitVec.ofNat 32 n))]) ∧
      (∀ g, s.graph? k.msg.graph = some g → g.ctx = c.id → (∀ n, ¬ KickCause s c k.msg n) →
        let running := s.replays.filter fun r => r.graph == g.id
        (∀ r older, k.waits = none → running = r :: older → g.depth ≤ running.length →
          exec (.kickTake c.id) s = .next (s.updCtx c.id fun x => { x with kicks := { k with waits := some r.uid } :: rest })) ∧
        (∀ u, k.waits = some u → s.replay? u ≠ none → exec (.kickTake c.id) s = .next s) ∧
        (k.waits = none ∧ running.length < g.depth ∨ (∃ u, k.waits = some u ∧ s.replay? u = none) →
          ∃ s' c', exec (.kickTake c.id) s = .next s' ∧ s'.ctx? c.id = some c' ∧ c'.kicks = rest ∧
            s'.graph? g.id = some { g with lastSeq := some k.msg.seq } ∧ s'.mem = s.mem ∧
            (g.kernels = [] → (∀ r ∈ s.replays, r.uid ≠ s.fresh) → s'.replays = s.replays ∧
              s'.out = s.out ++ [.completion c.id k.req (completionBytes g.id k.msg.seq 0)]) ∧
            (g.kernels ≠ [] → ∃ r, s'.replays = s.replays ++ [r] ∧ r.ctx = c.id ∧ r.graph = g.id ∧ r.seq = k.msg.seq ∧
              r.req = k.req ∧ r.fault = none ∧ r.seed = c.jobSeed ∧ r.kernels.length = g.kernels.length ∧
              (∀ d v, (d, v) ∈ g.params → (d, (((k.msg.entries.take k.msg.count.toNat).filter
                fun e => e.slot.toNat == d).getLast?.map (·.value)).getD v) ∈ r.params)))))

/-- Placement, dispatch, window, RETAIN's record, retirement and the clearing of an allotment, one event each (R16, R17,
R39, R198, R241, R288, R290, R303, R305). At its retirement a group's TCM ranges are cleared (log entry 40), and no other
byte of memory changes. -/
def Obligations.GroupsStartAndRetire : Prop :=
  ∀ (s : State),
    (∀ c l pre post r k kern lin pl, l < 4 → s.levelOrder l = pre ++ c :: post → (∀ x ∈ pre, s.nextGroup x = none) →
      (∀ m, l < m → m < 4 → ∀ x ∈ s.levelOrder m, s.nextGroup x = none) → s.nextGroup c = some (r, k, kern, lin, pl) →
      ∃ s' g, exec .groupPlacement s = .next s' ∧
        s'.groups = (s.groups.filter fun x => pl.keep != some x.uid) ++ [g] ∧ g.ctx = c.id ∧ g.replay = r.uid ∧
        g.kern = kern ∧ g.lin = lin ∧ g.lcl = pl.lcl ∧ g.phys = pl.phys ∧ g.spadBase = pl.base ∧ g.spadSize = k.spad ∧
        g.tcmSize = k.tcm ∧ g.slots = k.slots ∧ g.st = .placed ∧ s'.threads = s.threads ∧ s'.launchLast[l]? = some c.id) ∧
    (∀ g r k core slot, s.group? g.uid = some g → s.replay? g.replay = some r → s.kernelOf? g.uid = some k →
      g.st = .placed → r.stratus = 0 → (s.clusterAt g.phys).corePt ≠ .gated → s.rootSlot g false = some (core, slot) →
      (∀ x, s.ctx? g.ctx = some x → x.destroying = none) →
      ∃ s' t, exec (.groupDispatch g.uid) s = .next s' ∧ s'.threads = s.threads ++ [t] ∧ t.kind = .root ∧ t.run = .running ∧
        t.ctx = g.ctx ∧ t.group = g.uid ∧ t.graph = r.graph ∧ t.phys = g.phys ∧ t.lcl = g.lcl ∧ t.core = core ∧
        t.slot = slot ∧ t.window = k.window ∧ t.pc = k.entry ∧
        (∀ x, s.ctx? g.ctx = some x → t.flags.toNat = x.fpCtl.toNat / 32 ∧ t.ftz = x.fpCtl.getLsbD 4 ∧
          t.daz = x.fpCtl.getLsbD 3 ∧
          t.rm.toNat = (if x.fpCtl.toNat % 8 ≤ 4 then x.fpCtl.toNat % 8 else 0)) ∧
        (∀ o, t.isFull o = match o with
          | .int .zero | .int (.d _) | .int (.g _) => true
          | .pred q => q == 0
          | _ => false) ∧ (∀ o, t.isPend o = false) ∧ (∀ x, t.int x = 0) ∧
        ∃ g', s'.group? g.uid = some g' ∧ g'.st = .running) ∧
    (∀ r g k kr kern, s.replay? r.uid = some r → s.graph? r.graph = some g → g.kernels[kern]? = some k →
      r.kernels[kern]? = some kr → k.depvecs ≠ [] → kr.wave = none → kr.fin = none →
      (∀ a ∈ k.afters, ∃ x y, r.kernels[a]? = some x ∧ x.fin = some y) → s.waveUsed < 65536 →
      ∃ s' r' kr' w, exec (.waveCounterAllocation r.uid kern) s = .next s' ∧ s'.replay? r.uid = some r' ∧
        r'.kernels[kern]? = some kr' ∧ kr'.wave = some w ∧ w.low = 0 ∧
        w.width = min 16384 (min k.grid (65536 - s.waveUsed)) ∧ w.counts.length = w.width ∧
        ∀ n < w.width, w.counts[n]? = some (n, (k.preds n).length)) ∧
    (∀ g r kr k l rest, s.group? g.uid = some g → s.replay? g.replay = some r → g.retainMsg = (k, l) :: rest →
      g.st = .running ∨ g.st = .saved → r.kernels[k]? = some kr →
      let stands : Prop := l ∈ kr.started ∨ ∃ y ∈ s.groups, y.uid ≠ g.uid ∧ y.replay = g.replay ∧ y.retain = some (k, l)
      ∃ s', exec (.retainRecord g.uid) s = .next s' ∧
        (stands → s' = s.updGroup g.uid fun x => { x with retainMsg := rest }) ∧
        (¬ stands → s' = s.updGroup g.uid fun x => { x with retainMsg := rest, retain := some (k, l) })) ∧
    (∀ g, s.group? g.uid = some g → s.mayRetire g = false → exec (.groupRetirement g.uid) s = .next s) ∧
    (∀ g, s.group? g.uid = some g → s.mayRetire g = true → ∃ s' g', exec (.groupRetirement g.uid) s = .next s' ∧
      s'.group? g.uid = some g' ∧ g'.st = (if s.successorWaits g then .retained else .freeing) ∧
      (∀ (c : Fin 8) (n : Nat), n < g.tcmSize → s'.byteAt (.tcm g.phys c.val (g.tcmBase[c.val] + n)) = 0) ∧
      (Mem.wf s.mem = true → ∀ key, (∀ (c : Fin 8) (n : Nat), n < g.tcmSize →
        key ≠ (Loc.tcm g.phys c.val (g.tcmBase[c.val] + n)).key) → Mem.get s'.mem key = Mem.get s.mem key) ∧
      ∀ r x k kr, s.replay? g.replay = some r → s.graph? r.graph = some x → x.kernels[g.kern]? = some k →
        r.kernels[g.kern]? = some kr → kr.wave = none → k.grid ≤ kr.retired.length + 1 →
        (∀ j y, j ≠ g.kern → r.kernels[j]? = some y → y.fin ≠ none) →
        s'.out = s.out ++ [.completion r.ctx r.req (completionBytes r.graph r.seq (BitVec.ofNat 32 (r.fault.getD 0)))] ∧
        s'.replay? r.uid = none) ∧
    (∀ g, s.group? g.uid = some g → g.st = .freeing → g.phys < 256 → (∀ c ∈ s.copies, c.writesInto g = false) →
      (∀ a ∈ s.accs, g.spadHolds a.loc = false) →
      ∃ s', exec (.allotmentFreeing g.uid) s = .next s' ∧ s'.group? g.uid = none ∧
        (∀ o, g.spadBase ≤ o → o < g.spadBase + g.spadSize → s'.byteAt (.spad g.phys o) = 0) ∧
        (g.spadBase % 16 = 0 → g.spadSize % 16 = 0 →
          ∀ o, g.spadBase ≤ o → o < g.spadBase + g.spadSize → s'.granuleFull (.spad g.phys o) = false) ∧
        (Mem.wf s.mem = true → ∀ key, ¬ ((Loc.spad g.phys g.spadBase).key ≤ key ∧
          key < (Loc.spad g.phys g.spadBase).key + g.spadSize) →
          Mem.get s'.mem key = Mem.get s.mem key))

/-- The tag table acts by the entry it finds, and the range unit serves TAKEs, arms and revokes in order (R287, R295,
R296, R297, R298, R299, R300, R306, R307, R41). A publication that meets an entry of a newer generation changes no entry,
faults its context and is never completed; every other one is performed. -/
def Obligations.TagTableAndRangeUnit : Prop :=
  (∀ (s : State) (r : Replay),
     (∀ (p : Pub), s.pubs.find? (fun x => x.id == p.id) = some p → p.stale = false → p.copy = none →
       s.replay? p.replay = some r →
       ∃ s', exec (.tagPublication p.id) s = .next s' ∧ s'.mem = s.mem ∧
       let performed := s'.pubs = s.pubs.filter (fun x => x.id != p.id)
       (match s.tag? p.ctx p.name with
       | none => performed ∧ (r.fallback.contains (p.name.toNat / 2 ^ 24) = false → s.tags.length < 65536 →
           ∃ e, s'.tag? p.ctx p.name = some e ∧ e.published = true ∧ e.gen.toNat = r.seq.toNat % 2 ^ 16 ∧
             e.count = s.consumersOf r p.name ∧ e.waiters = [])
       | some e =>
         ((r.seq.setWidth 16 - e.gen).toNat ≤ 32767 → performed) ∧
         (e.gen = r.seq.setWidth 16 → e.published = true → s'.tags = s.tags ∧ s'.pends = s.pends) ∧
         (e.gen = r.seq.setWidth 16 → e.published = false →
           (∃ e', s'.tag? p.ctx p.name = some e' ∧ e'.published = true ∧ e'.gen = e.gen ∧ e'.count = e.count ∧
             e'.waiters = []) ∧
           ∀ q, s.pends.find? (fun x => x.id == q.id) = some q → Waiter.thread q.id ∈ e.waiters →
             q ∉ s'.pends ∧ ∃ a ∈ s'.arrivals, a.uid = q.uid ∧ a.writes = [(.int q.dst, e.gen.setWidth 256)]) ∧
         (1 ≤ (r.seq.setWidth 16 - e.gen).toNat → (r.seq.setWidth 16 - e.gen).toNat ≤ 32767 →
           ∃ e', s'.tag? p.ctx p.name = some e' ∧ e'.published = true ∧ e'.gen = r.seq.setWidth 16 ∧ e'.waiters = []) ∧
         (1 ≤ (e.gen - r.seq.setWidth 16).toNat → (e.gen - r.seq.setWidth 16).toNat ≤ 32767 → s'.tags = s.tags ∧
           s'.pubs = s.pubs.map (fun x => if x.id == p.id then { x with stale := true } else x) ∧
           ∀ c, s.ctx? p.ctx = some c → c.freeze = none → FrozenBy s' p.ctx 0x40))) ∧
     (∀ (q : Pend) (name : BitVec 32) (t : Thread), s.pends.find? (fun x => x.id == q.id) = some q →
       q.op = .tagwait name false → s.thread? q.uid = some t → s.replayOf? t.group = some r →
       ∃ s', exec (.tagLookup (.thread q.id)) s = .next s' ∧ s'.mem = s.mem ∧
       (s.producerFin r name ≠ none ∨ (∃ e, s.tag? r.ctx name = some e ∧ e.gen = r.seq.setWidth 16 ∧ e.published = true) →
         q ∉ s'.pends ∧ ∃ a, s'.arrivals = s.arrivals ++ [a] ∧ a.uid = q.uid ∧
           a.writes = [(.int q.dst, (r.seq.setWidth 16 : BitVec 16).setWidth 256)]) ∧
       (s.producerFin r name = none → s.tag? r.ctx name = none → r.fallback.contains (name.toNat / 2 ^ 24) = false →
         s.tags.length < 65536 → ∃ e, s'.tag? r.ctx name = some e ∧ e.published = false ∧ e.gen = r.seq.setWidth 16 ∧
           e.count = s.consumersOf r name ∧ e.waiters = [.thread q.id]) ∧
       (∀ e, s.producerFin r name = none → s.tag? r.ctx name = some e → e.gen = r.seq.setWidth 16 → e.published = false →
         ∃ e', s'.tag? r.ctx name = some e' ∧ e'.published = false ∧ e'.waiters = e.waiters ++ [.thread q.id]) ∧
       (∀ e, s.producerFin r name = none → s.tag? r.ctx name = some e → 1 ≤ (e.gen - r.seq.setWidth 16).toNat →
         (e.gen - r.seq.setWidth 16).toNat ≤ 32767 → s'.tags = s.tags ∧
         s'.pends = s.pends.map (fun x => if x.id == q.id then { x with op := .tagwait name true } else x) ∧
         ∀ c, s.ctx? r.ctx = some c → c.freeze = none → FrozenBy s' r.ctx 0x41) ∧
       (s.producerFin r name = none → s.tag? r.ctx name = none → r.fallback.contains (name.toNat / 2 ^ 24) = true →
         s' = { s with pends := s.pends.map (fun x => if x.id == q.id then { x with op := .tagwait name true } else x) })) ∧
     (∀ (g : Graph) (kern lin : Nat) (k : Kernel) (kr : KRun) (name : BitVec 32), s.replay? r.uid = some r →
       s.graph? r.graph = some g → g.kernels[kern]? = some k → r.kernels[kern]? = some kr → lin ∉ kr.started →
       lin < k.grid → name ∈ k.inputTags lin → s.tagRise r kr lin name = none → (lin, name) ∉ kr.looked →
       ∃ s', exec (.tagLookup (.group r.uid kern lin name)) s = .next s' ∧ s'.mem = s.mem ∧
       (∀ e, s.tag? r.ctx name = some e → e.gen = r.seq.setWidth 16 → e.published = true →
         ∃ r' kr' x, s'.replay? r.uid = some r' ∧ r'.kernels[kern]? = some kr' ∧ (lin, name, x) ∈ kr'.sat) ∧
       (s.tag? r.ctx name = none → r.fallback.contains (name.toNat / 2 ^ 24) = false → s.tags.length < 65536 →
         ∃ e, s'.tag? r.ctx name = some e ∧ e.published = false ∧ e.waiters = [.group r.uid kern lin]))) ∧
  (∀ (s : State) (n : Fin 64),
     (∀ q : Pend, s.pends.find? (fun x => x.id == q.id) = some q → q.op = .take n.val →
       (∀ x ∈ s.pends, x.uid = q.uid → x.op.rangeNo = some n.val → q.id ≤ x.id) →
       let r := s.ranges[n.val]
       ∃ s' a, exec (.takeService q.id) s = .next s' ∧ s'.arrivals = s.arrivals ++ [a] ∧ a.uid = q.uid ∧
         s'.pends = s.pends.filter (fun x => x.id != q.id) ∧ s'.mem = s.mem ∧
         (r.armed = false ∨ r.stop ≤ r.next → s'.ranges = s.ranges ∧
           a.writes = [(.int q.dst, 0xFFFFFFFFFFFFFFFF), (.int (takeNext q.dst), 0)]) ∧
         (∀ c : Nat, r.armed = true → r.next < r.stop → 0 < r.p → r.stop - r.next ≤ 2 * r.p * c →
           2 * r.p * c < r.stop - r.next + 2 * r.p →
           let len : Nat := min (r.stop - r.next).toNat (max r.min c)
           s'.ranges = s.ranges.set n.val { r with next := r.next + len } ∧
           a.writes = [(.int q.dst, (BitVec.ofInt 64 r.next).setWidth 256), (.int (takeNext q.dst), BitVec.ofNat 256 len)])) ∧
     (∀ (q : Pend) (x y : Word) (k m : Nat), s.pends.find? (fun x => x.id == q.id) = some q → q.op = .takeArm n.val x y k m →
       (∀ x ∈ s.pends, x.uid = q.uid → x.op.rangeNo = some n.val → q.id ≤ x.id) →
       exec (.takeService q.id) s = .next { s with
         ranges := s.ranges.set n.val { s.ranges[n.val] with armed := true, next := x.toInt, stop := y.toInt, p := k, min := m },
         pends := s.pends.filter (fun x => x.id != q.id) }) ∧
     (∀ h ids, s.ranges[n.val].revoking = some (h, ids) → (∀ p ∈ s.pends, p.id ∉ ids) → (∀ a ∈ s.arrivals, a.seq ∉ ids) →
       exec (.rangeRevokeComplete n.val) s = .next ({ s with
         ranges := s.ranges.set n.val ⟨none, false, 0, 0, 0, 0, none⟩ }.replied h 0x0C 0 [])))

/-- The launch unit's answer, a probe and its reply each take a delegated family one step, and the creator goes on at
the end (R74, R256, R262, R263, R266). DELEGATION_CANDIDATES takes the free-slot summary, the spare slots of every
logical cluster as they stand, or answers from one that is at most 1 µs old with at most four clusters of the place
and of the allotment, other than the creating one, that show a spare slot, by descending spare count and ascending
number; with none, and an inline frame, the family runs inline and the creator goes past its FGO or CREATE.
DELEGATION_PROBE of a cluster with room makes it the host and places the family there, and any other refuses.
PROBE_REPLY of an accept lets the creator go on; of a refusal it turns to the next candidate. -/
def Obligations.DelegationProbes : Prop :=
  (∀ s : State, ∃ sum : List (Nat × Nat), (∀ l n, (l, n) ∈ sum ↔ l < 256 ∧ ∃ p, s.physOf l = some p ∧ n = s.spareSlots p) ∧
    ∀ fam, exec (.delegationCandidates fam true) s = .next { s with summary := sum, summaryAt := some s.now }) ∧
  ∀ (s : State) (f : Family), s.family? f.uid = some f →
    (∀ (pr : Probe) (c : Context) (at_ : Nat), f.probe = some pr → pr.answered = false → s.ctx? f.ctx = some c →
      s.summaryAt = some at_ → s.now ≤ at_ + 1000 → (s.summary.map (·.1)).Nodup →
      let fits (l n : Nat) : Prop := (l, n) ∈ s.summary ∧ 1 ≤ n ∧ f.inPlace l = true ∧ l ∈ c.allot ∧ l ≠ f.lcl
      ((∃ l n, fits l n) → ∃ (s' : State) (cs : List Nat), exec (.delegationCandidates f.uid false) s = .next s' ∧
        s'.family? f.uid = some { f with probe := some ⟨true, cs, none, 0⟩ } ∧ cs ≠ [] ∧ cs.length ≤ 4 ∧
        (∀ l ∈ cs, ∃ n, fits l n) ∧
        cs.Pairwise (fun a b => ∀ n m, (a, n) ∈ s.summary → (b, m) ∈ s.summary → m < n ∨ m = n ∧ a < b) ∧
        ∀ l n, fits l n → l ∉ cs → cs.length = 4 ∧ ∀ b ∈ cs, ∀ m, (b, m) ∈ s.summary → n < m ∨ n = m ∧ b < l) ∧
      ((∀ l n, ¬ fits l n) → ∀ t, s.thread? f.creator = some t → t.run = .probing f.uid → f.more = true →
        (f.frame ≠ none ∨ s.freeFrame t ≠ none) → ∃ s', exec (.delegationCandidates f.uid false) s = .next s' ∧
          (∃ x ∈ s'.threads, x.uid = t.uid ∧ x.pc = t.pc + 4 ∧ x.run = .hosting f.uid) ∧
          ∃ x ∈ s'.threads, x.fam? = some f.uid ∧ x.run = .running ∧ x.slot = t.slot)) ∧
    (∀ fam at_, s.summaryAt = none ∨ s.summaryAt = some at_ ∧ at_ + 1000 < s.now →
      exec (.delegationCandidates fam false) s = .next s) ∧
    (∀ l rest n phys, f.probe = some ⟨true, l :: rest, none, n⟩ → s.physOf l = some phys →
      (s.mayHost f.ctx l phys = true → f.killed = false → ∃ s' f', exec (.delegationProbe f.uid) s = .next s' ∧
        s'.family? f.uid = some f' ∧ f'.hostPhys = phys ∧ f'.hostLcl = l ∧ f'.where_ = 1 ∧ f'.spare = true ∧
        f'.probe = some ⟨true, l :: rest, some (l, true), n⟩) ∧
      (s.mayHost f.ctx l phys = false ∨ f.killed = true → exec (.delegationProbe f.uid) s = .next
        (s.updFamily f.uid fun x => { x with probe := some ⟨true, l :: rest, some (l, false), n⟩ }))) ∧
    (∀ l rest n b t, f.probe = some ⟨true, l :: rest, some (b, true), n⟩ → s.thread? f.creator = some t →
      t.run = .probing f.uid → ∃ s', exec (.probeReply f.uid) s = .next s' ∧
        (∀ g ∈ s'.families, g.uid = f.uid → g.probe = none) ∧
        ∃ x ∈ s'.threads, x.uid = t.uid ∧ x.pc = t.pc + 4 ∧ x.run = .running) ∧
    (∀ l m rest n b, f.probe = some ⟨true, l :: m :: rest, some (b, false), n⟩ →
      exec (.probeReply f.uid) s = .next (s.updFamily f.uid fun x => { x with probe := some ⟨true, m :: rest, none, n + 1⟩ }))

/-- A forward fills the next member's d register or its home entry, a kill ends every member, and a drained thread goes
(R16, R38, R75, R76, R264, R265, R276, R278, R357). FORWARD_ARRIVAL of a forward that no earlier access of its
sender holds, to a family of a cluster that is not saved: the started member above its sender finds d_i FULL with
the value; for the lowest unstarted member the home entry holds it. FKILL_ARRIVAL ends every listed member of a
running family at once and marks the family killed; a reserved one terminates with status 2; one whose termination
by BREAK is fixed goes on, and a kill for a saved cluster is held. THREAD_TERMINATION of an exiting or breaking
thread waits until its accesses are performed, then cancels its waits and releases what it owns, and once its s
registers have been forwarded the thread is gone; a root's end is recorded with its group. -/
def Obligations.ForwardsKillsAndEnds : Prop :=
  ∀ (s : State),
    (∀ (w : Fwd) (f : Family), s.fwds.find? (fun x => x.id == w.id) = some w → s.fwdHeld w = false →
      s.family? w.fam = some f → f.hostPhys < 256 → ∃ s', exec (.forwardArrival w.id) s = .next s' ∧
        (∀ t, s.threads.find? (fun x => x.member? == some (w.fam, w.m + 1) && x.live) = some t →
          ∀ x ∈ s'.threads, x.uid = t.uid → x.isFull (.int (.d w.reg)) = true ∧ x.int (.d w.reg) = w.value) ∧
        ((∀ x ∈ s.threads, x.member? = some (w.fam, w.m + 1) → x.live = false) → w.m + 1 = f.next → f.more = true →
          ∃ f', s'.family? w.fam = some f' ∧ f'.held[w.reg.val] = some w.value)) ∧
    (∀ (k : Kill) (f : Family), s.kills.find? (fun x => x.id == k.id) = some k → s.family? k.fam = some f →
      (256 ≤ f.hostPhys → exec (.fkillArrival k.id) s = .next s) ∧
      (f.hostPhys < 256 → f.status = none → f.killed = false → (∀ x ∈ s.threads, ∀ y ∈ s.threads, x.uid = y.uid → x = y) →
        ∃ s', exec (.fkillArrival k.id) s = .next s' ∧
          (f.started = true → s.breakFixed f = false → (∀ x ∈ s'.threads, x.fam? = some k.fam → x.run = .ended) ∧
            ∀ g ∈ s'.families, g.uid = k.fam → g.killed = true) ∧
          (f.started = true → s.breakFixed f = true → s' = { s with kills := s.kills.filter fun x => x.id != k.id }) ∧
          (f.started = false → ∀ g ∈ s'.families, g.uid = k.fam → g.status = some 2))) ∧
    (∀ t : Thread, s.thread? t.uid = some t → t.uid < s.fresh →
      (t.run = .exiting ∨ t.run = .breaking → s.drained t = false → exec (.threadTermination t.uid) s = .next s) ∧
      (t.run = .exiting ∨ t.run = .breaking → s.drained t = true →
        (∀ x ∈ (s.pass t).threads, x.uid = t.uid → x.run = .passing) ∧ ∀ a ∈ (s.pass t).accs, a.uid = some t.uid →
          ∀ c v d, a.op = .await c v d → a.cancelled = true) ∧
      ∀ t1, (s.pass t).thread? t.uid = some t1 →
        ((s.pass t).mayEnd t1 = false → exec (.threadTermination t.uid) s = .next (s.pass t)) ∧
        ((s.pass t).mayEnd t1 = true → ∃ s', exec (.threadTermination t.uid) s = .next s' ∧ s'.thread? t.uid = none ∧
          (t1.kind = .root → ∀ g, s'.group? t1.group = some g → g.rootDone = true)))

/-- A walk reads one entry at a time and leaves its leaf in its die's TLB, a completed shootdown leaves no cached leaf of
its range, and peers' accesses are checked (R12, R194, R327, R328, R330, R331, R332, R337, R342, R363, R368).
PAGE_WALK of a page that neither TLB holds starts a walk, where its die has room and none is in flight for the page,
or reads the next entry of the walk in flight at its home (log entry 14): an entry that R328 faults ends the walk, a table
goes on to the next level, a leaf ends it and stands in the die's TLB; a poisoned entry ends it and faults its context with
0x48 (log entry 15). What counts as in use, which leaves and walks go, and that changes of grants are taken in order are
log entries 32 and 33. SHOOTDOWN_COMPLETE, once no copy or queued operation holds a translation of the range and no
earlier change of
grants waits, leaves no cached leaf that reaches the range, and its starter is answered. PEER_ACCESS_ARRIVAL at an
accepting window sends the access to its channel core, or answers it as refused, and the message that cancels an AWAIT
waiting here withdraws it (R227); a message that the window's sources
or policy refuse is dropped. PEER_LOSS withdraws the context's accesses to the peer and faults the context with
0x43. -/
def Obligations.TranslationAndPeers : Prop :=
  ∀ (s : State) (c : Context),
    (∀ phys (va : BitVec 52), phys < 256 → s.ctx? c.id = some c →
      let die := phys / 128
      (s.tlbHit phys c.id va.toNat ≠ none ∨ s.tlbHit (256 + die) c.id va.toNat ≠ none →
        exec (.pageWalk phys c.id va) s = .next s) ∧
      (s.tlbHit phys c.id va.toNat = none → s.tlbHit (256 + die) c.id va.toNat = none →
        (∀ root, s.walkFor die c.id va.toNat = none → c.ptRoot = some root → covered c.grants root 4096 = true →
          (s.walksOn die).length < 256 → exec (.pageWalk phys c.id va) s =
            .next { s with walks := s.walks ++ [⟨die, c.id, va.toNat / 65536 * 65536, 0, root⟩] }) ∧
        (∀ w, s.walkFor die c.id va.toNat = some w →
          let pa := w.table + 8 * walkIndex w.page w.level
          let e := BitVec.ofNat 64 (Mem.getLE s.mem pa 8)
          let a := e.toNat / 4096 % 2 ^ 28 * 4096
          let size := walkSize w.level
          let bad : Prop := e.getLsbD 0 = false ∨ e &&& 0xF00FFF0000000FE8 ≠ 0 ∨
            e.getLsbD 1 = true ∧ (w.level = 0 ∨ a % size ≠ 0 ∨ covered c.grants a size = false) ∨
            e.getLsbD 1 = false ∧ (w.level = 3 ∨ covered c.grants a 4096 = false)
          let s1 := s.passAll (.hbm pa)
          s.homeBusy (.hbm pa) 8 (none, 10, 0) = false →
          (s.poisoned (.hbm pa) 8 = true → c.freeze = none → ∃ s', exec (.pageWalk phys c.id va) s = .next s' ∧
            FrozenBy s' c.id 0x48 ∧ s'.walks = s.walks.erase w) ∧
          (s.poisoned (.hbm pa) 8 = false →
            (bad → exec (.pageWalk phys c.id va) s = .next { s1 with walks := s.walks.erase w }) ∧
            (¬ bad → e.getLsbD 1 = false → exec (.pageWalk phys c.id va) s = .next { s1 with
              walks := s.walks.map fun y => if y = w then { y with level := y.level + 1, table := a } else y }) ∧
            (¬ bad → e.getLsbD 1 = true → ∃ s' l, exec (.pageWalk phys c.id va) s = .next s' ∧ s'.walks = s.walks.erase w ∧
              s'.mem = s.mem ∧ s'.tlbHit (256 + die) c.id w.page = some l ∧ l.pa = a ∧ l.size = size ∧
              l.page = w.page / size * size ∧ l.w = e.getLsbD 2))))) ∧
    (∀ d : Shootdown, s.shoots.find? (fun x => x.id == d.id) = some d → s.rangeInUse d = false → s.grantsBefore d = false →
      ∃ s', exec (.shootdownComplete d.id) s = .next s' ∧ s'.shoots = s.shoots.filter (fun x => x.id != d.id) ∧
        (∀ l ∈ s'.tlb, l ∈ s.tlb ∧ (l.ctx = d.ctx → reaches d.lo d.size d.whole [(l.page, l.size)] = false)) ∧
        (∀ x ∈ s'.walks, x ∈ s.walks ∧ (x.ctx = d.ctx → reaches d.lo d.size d.whole [(x.page, 65536)] = false)) ∧
        s'.mem = s.mem ∧
        match d.for_ with
        | .thread u => (∀ x ∈ s'.threads, x.uid = u → x.run ≠ .shooting d.id) ∧ s'.out = s.out
        | .command h => s'.out = s.out ++ [.reply h 0x1D 0 []] ∧ s'.threads = s.threads
        | .grants h g k => s'.out = s.out ++ [.reply h 0x03 0 []] ∧
            ∀ x, s.ctx? d.ctx = some x → s'.ctx? d.ctx = some { x with grants := g, canopy := k }) ∧
    (∀ h mark pc off size op w, s.ctx? h.ctx = some c → Allowed c.winSrcs c.winPolicy h.env → c.window = some w →
      c.destroying = none → (mark.dev.toNat, pc) ∈ w.accept → off + size ≤ w.length →
      (∀ cc v pa s1 x, op = .cancel cc v → s.windowPlace c w off false = (some pa, s1) →
        s1.accs.find? (fun y => y.peer == some (mark.dev.toNat, pc) && y.handle == mark.who
          && y.requester == 2048 + 2048 * mark.dev.toNat + mark.lcore && y.loc == .hbm pa && y.size == size
          && y.op == .await cc v .zero && !y.cancelled) = some x → x.phase = .waiting →
        exec (.peerAccessArrival h mark pc off size op) s = .next (s1.settle x.id)) ∧
      (∀ pa s1, (∀ cc v, op ≠ .cancel cc v) → s.windowPlace c w off (PeerOp.writes op) = (some pa, s1) →
        ∃ a, exec (.peerAccessArrival h mark pc off size op) s =
            .next { s1 with accs := s1.accs ++ [a], fresh := s1.fresh + 1 } ∧
          a.uid = none ∧ a.ctx = c.id ∧ a.loc = .hbm pa ∧ a.size = size ∧ a.op = PeerOp.op op ∧
          a.peer = some (mark.dev.toNat, pc) ∧
          a.handle = mark.who ∧ a.phase = (if s1.behindHeld a then .outbound else .sent)) ∧
      (∀ s1, s.windowPlace c w off (PeerOp.writes op) = (none, s1) → exec (.peerAccessArrival h mark pc off size op) s =
        .next { s1 with out := s1.out ++ [.peerReply mark.dev.toNat pc false 0 PeerAnswer.none.mark] })) ∧
    (∀ h mark pc off size op, s.ctx? h.ctx = some c → Allowed c.winSrcs c.winPolicy h.env →
      (∀ w, c.window = some w → (mark.dev.toNat, pc) ∈ w.accept → w.length < off + size) →
      exec (.peerAccessArrival h mark pc off size op) s =
        .next { s with out := s.out ++ [.peerReply mark.dev.toNat pc false 0 PeerAnswer.none.mark] }) ∧
    (∀ h mark pc off size op, s.ctx? h.ctx = some c → ¬ Allowed c.winSrcs c.winPolicy h.env →
      exec (.peerAccessArrival h mark pc off size op) s = .next { s with dropped := s.dropped + 1 }) ∧
    (∀ id a, a ∈ s.accs → a.ctx = c.id → a.loc.atPeer (c.peerId id) = true → s.ctx? c.id = some c → c.freeze = none →
      ∃ s', exec (.peerLoss c.id id) s = .next s' ∧ FrozenBy s' c.id 0x43 ∧
        ∀ x ∈ s'.accs, x.ctx = c.id → x.loc.atPeer (c.peerId id) = false)

/-- A stream unit fetches its next element or records its fault, and the sequencer issues a run's next body instruction
(R144, R146, R147, R148, R151, R152, R197, R310, R363). STREAM_FETCH of a unit that may fetch, for its core's owner: an element
on this device whose bytes no poisoned word holds joins the end of the unit's elements with the 32 bytes at its
address, and the unit's count of fetched elements rises; while an aged or passed request goes first at its home the fetch
waits, and becomes aged itself (R197, log entry 93); one of a peer joins with what the peer answers; a check that fails
is recorded against the element, with its code,
TRAP_INFO and TRAP_DATA, and joins none. SEQUENCER_ISSUE of a run that may go on answers what its next body
instruction answers at the sequencer's port, the run then ending where its last pass is over and the cycle's wide
datapath being taken where the instruction issued; once that is taken in a cycle, nothing more issues. An address
that fetches an illegal word traps the run's owner, and a fetch from a poisoned word is charged to its context. -/
def Obligations.StreamAndSequencerUnits : Prop :=
  ∀ (s : State) (t : Thread) (phys c : Nat), t.phys = phys → t.core = c →
    (∀ (u : Fin 4) (peer : Wide) cfg e, (s.coreAt phys c).streams[u.val].nextFetch = some (cfg, e) →
      (s.coreAt phys c).owner = some t.uid → s.thread? t.uid = some t → (s.clusterAt phys).stopped = false →
      (∀ l s1, s.resolve t.issuer .plain (streamAddr cfg e) 32 false false false = (.ok l, s1) → OnDevice l →
        let st := (s.coreAt phys c).streams[u.val]
        let busy := s.homeBusy l 32 (st.aged s.now, c, 0)
        (l.present = false → exec (.streamFetch phys c u peer) s = .next s) ∧
        (l.present = true → busy = true → exec (.streamFetch phys c u peer) s = .next (s.updCore phys c fun k =>
          { k with streams := k.streams.set u.val { st with since := some ((st.since.map (·.1)).getD s.now, l) } })) ∧
        (l.present = true → busy = false → s.poisoned l 32 = false →
        ∃ s', exec (.streamFetch phys c u peer) s = .next s' ∧
          (s'.coreAt phys c).streams[u.val].fifo = (s.coreAt phys c).streams[u.val].fifo ++
            [BitVec.ofNat 256 (Mem.getLE s.mem l.key 32)] ∧
          (s'.censusOf t.ctx t.lcore).streams[5 * u.val] = (s.censusOf t.ctx t.lcore).streams[5 * u.val] + 1)) ∧
      (∀ d off s1, s.resolve t.issuer .plain (streamAddr cfg e) 32 false false false = (.ok (.peer d off), s1) →
        ∃ s', exec (.streamFetch phys c u peer) s = .next s' ∧
          s'.out = s1.out ++ [.peerAccess t.ctx d off 32 (.load .zx (.int .zero))
            ((s.coreAt phys c).streams[u.val].stamp.mark (streamId t u) t.lcore)] ∧
          (s'.coreAt phys c).streams[u.val].fifo = (s.coreAt phys c).streams[u.val].fifo ++ [peer]) ∧
      (∀ tr s1, s.resolve t.issuer .plain (streamAddr cfg e) 32 false false false = (.error tr, s1) →
        ∃ s', exec (.streamFetch phys c u peer) s = .next s' ∧ s'.mem = s.mem ∧
          (s'.coreAt phys c).streams[u.val] =
            { (s.coreAt phys c).streams[u.val] with fault := some ⟨tr.code, tr.info, tr.data⟩ })) ∧
    (∀ r : SeqRun, (s.coreAt phys c).seqr = some r → r.uid = t.uid → s.thread? t.uid = some t →
      s.runReady (s.coreAt phys c) r = true → (s.coreAt phys c).wideBusy = false →
      let p : Port := ⟨t.uid, ⟨false, 0⟩, none, true⟩
      (s.codeBad t.phys r.addr.toNat 4 = true → exec (.sequencerIssue phys c) s = .next (s.chargeCode t)) ∧
      (∀ g i, s.codeBad t.phys r.addr.toNat 4 = false → s.fetchWord t.graph r.addr = .ok g i →
        (∀ o, s.verdict t { p with guard := g } i ≠ .wait (.operand o)) →
        (table137 t.fenv i ≠ none ∨ table139 i ≠ none ∨ table140 t.fenv i ≠ none ∨ table141 t.fenv i ≠ none ∨
          ∃ w x y m f k, i = .vcvt w x y m f k) →
        ∃ s1, exec i { s with port := some { p with guard := g } } = .next s1 ∧
          exec (.sequencerIssue phys c) s =
            .next (((s1.keepFrame t.uid).endRun phys c).takeWide phys c (s.verdict t { p with guard := g } i))) ∧
      (s.codeBad t.phys r.addr.toNat 4 = false → s.fetchWord t.graph r.addr = .illegal →
        exec (.sequencerIssue phys c) s = .next ({ s with port := some p }.takeTrap t p ⟨0x02, 0, 0, none, none, none⟩))) ∧
    (∀ r : SeqRun, (s.coreAt phys c).seqr = some r → (s.coreAt phys c).wideBusy = true →
      exec (.sequencerIssue phys c) s = .next s)

/-- The matrix unit starts a staged operation, and its completion replaces a tile, sends a store's granules or faults
(R156, R158, R164, R166, R167, R168, R169, R170, R171, R175, R176, R177). MATRIX_OP_START puts the head of the queue
that the unit
serves next into the array, where it is staged, the array is empty and the island has power. MATRIX_OP_COMPLETE of a
zero clears its tile alone; of an MMA of integer formats whose operands have been read adds to each of the 512
elements the exact sum of its products modulo 2^32, and of an MMA of a float class leaves in each the sums that R169, R170
and, where it is scaled, R171 give, group after group; of a store sends one access for each granule, and takes the
store out once they are performed; a datapath fault leaves the tile and faults the owner's context with 0x46. A
finished operation leaves the array and its queue. -/
def Obligations.MatrixUnitOperations : Prop :=
  ∀ (s : State) (phys c : Nat) (m : MOp),
    (∀ rest, (s.coreAt phys c).mq = m :: rest → m.staged = true → (s.clusterAt phys).array = none →
      (s.clusterAt phys).stopped = false → (s.clusterAt phys).matPt ≠ .gated → s.nextMatrixCore phys = some c →
      exec (.matrixOpStart phys c []) s =
        .next (s.updCluster phys fun k => { k with array := some (c, m.id), mlast := c })) ∧
    ((s.clusterAt phys).array = some (c, m.id) → (s.coreAt phys c).mq.find? (fun x => x.id == m.id) = some m →
      (∀ n up, m.kind = .mz n → ∃ s', exec (.matrixOpComplete phys up) s = .next s' ∧
        (s'.coreAt phys c).acc n = 0 ∧ (∀ k ≠ n, (s'.coreAt phys c).acc k = (s.coreAt phys c).acc k) ∧
        (s'.coreAt phys c).mq = (s.coreAt phys c).mq.filter (fun x => x.id != m.id) ∧ (s'.clusterAt phys).array = none ∧
        s'.mem = s.mem) ∧
      (∀ n a b sa sb, m.kind = .mma n a b sa sb → (mclass (mfa m.fmt) (mfb m.fmt) = some .integer) →
        (∀ pos l w, m.operands[pos]? = some (some l, w) → m.got.lookup pos ≠ none) →
        a.length = 16 * mdepth m.fmt → b.length = 32 * mdepth m.fmt →
        let val (pos : Nat) : Nat := ((m.got.lookup pos).map (·.toNat)).getD 0
        ∃ s', exec (.matrixOpComplete phys false) s = .next s' ∧ (s'.clusterAt phys).array = none ∧
          (s'.coreAt phys c).mq = (s.coreAt phys c).mq.filter (fun x => x.id != m.id) ∧ s'.mem = s.mem ∧
          ∀ i < 16, ∀ j < 32,
            ((((s'.coreAt phys c).acc n).toNat / 2 ^ (32 * (32 * i + j)) % 2 ^ 32 : Nat) : Int) =
              ((((s.coreAt phys c).acc n).toNat / 2 ^ (32 * (32 * i + j)) % 2 ^ 32 : Nat) +
                ((List.range (mdepth m.fmt)).map fun x => intVal (mfa m.fmt) (val (i * mdepth m.fmt + x)) *
                  intVal (mfb m.fmt) (val (16 * mdepth m.fmt + x * 32 + j))).sum) % 2 ^ 32) ∧
      (∀ n a b sa sb, m.kind = .mma n a b sa sb → mfmtOk m.fmt = true → mclass (mfa m.fmt) (mfb m.fmt) ≠ some .integer →
        (∀ pos l w, m.operands[pos]? = some (some l, w) → m.got.lookup pos ≠ none) →
        a.length = 16 * mdepth m.fmt → b.length = 32 * mdepth m.fmt →
        (mscaled m.fmt = true → sa.length = 16 * (mdepth m.fmt / 128) ∧ sb.length = mdepth m.fmt / 128) →
        let val (pos : Nat) : Nat := ((m.got.lookup pos).map (·.toNat)).getD 0
        ∃ s', exec (.matrixOpComplete phys false) s = .next s' ∧ (s'.clusterAt phys).array = none ∧
          (s'.coreAt phys c).mq = (s.coreAt phys c).mq.filter (fun x => x.id != m.id) ∧ s'.mem = s.mem ∧
          ∀ i < 16, ∀ j < 32, ((s'.coreAt phys c).acc n).toNat / 2 ^ (32 * (32 * i + j)) % 2 ^ 32 =
            mmaFloat m.fmt val i j (((s.coreAt phys c).acc n).toNat / 2 ^ (32 * (32 * i + j)) % 2 ^ 32)) ∧
      (∀ n a b sa sb t x, m.kind = .mma n a b sa sb → s.thread? m.uid = some t → s.ctx? t.ctx = some x →
        x.freeze = none → (∀ pos l w, m.operands[pos]? = some (some l, w) → m.got.lookup pos ≠ none) →
        ∃ s', exec (.matrixOpComplete phys true) s = .next s' ∧ FrozenBy s' t.ctx 0x46 ∧
          (s'.coreAt phys c).acc n = (s.coreAt phys c).acc n ∧ (s'.clusterAt phys).array = none) ∧
      (∀ n dst d draws t up, m.kind = .mst n dst d draws → m.sent = false → s.thread? m.uid = some t →
        ∃ s' as, exec (.matrixOpComplete phys up) s = .next s' ∧ s'.accs = s.accs ++ as ∧ s'.mem = s.mem ∧
          as.map (·.loc) = dst.take (mstGranules d (mstValues m.fmt d ((s.coreAt phys c).acc n) draws)).length ∧
          ∀ a ∈ as, a.uid = some t.uid ∧ a.size = 16 ∧ a.phase = .sent ∧ ∃ v, a.op = .mst v) ∧
      (∀ n dst d draws up, m.kind = .mst n dst d draws → m.sent = true → (∀ a ∈ s.accs, a.uid = some m.uid →
        ∀ v, a.op ≠ .mst v) →
        ∃ s', exec (.matrixOpComplete phys up) s = .next s' ∧ (s'.clusterAt phys).array = none ∧
          (s'.coreAt phys c).mq = (s.coreAt phys c).mq.filter (fun x => x.id != m.id)))

/-- A burst moves a unit's bytes, and acknowledgements, pages, refusals, timeouts and messages take a copy on or end it
(R236, R240, R242, R245, R246, R247, R248, R249, R335). COPY_BURST of one unit of a CPG.out with one 16-byte unit left,
at its turn and while no aged or passed request goes first at its homes, writes the 16 bytes of its source at its
HBM destination, ends the copy and lowers its token's count. FAR_TIER_ACK ends a pushed page's copy;
FAR_PAGE_ARRIVAL hands a page over and ends a malformed one with error 6; FAR_TIER_TIMEOUT and FAR_SERVER_REFUSAL end
a waiting far-tier copy with errors 5 and 4, naming its entry. COLLECTIVE_MESSAGE keeps a message that comes early,
adds one to its open collective, and ends one whose ranks disagree with error 3, naming the first that differs from rank 0
(log entry 48); a message that the far-table
entry's or the communicator's endpoint does not accept is dropped and counted. COLLECTIVE_TIMEOUT ends the earliest
collective with error 2 on a ring (log entry 49) and 1 on a switch, naming the missing rank. -/
def Obligations.CopyProgress : Prop :=
  ∀ (s : State) (c : Copy) (h : Hdr), h.ctx = c.ctx → s.copies.find? (fun x => x.id == c.id) = some c →
    (∀ (src : Loc) (pa : Nat) (peer : List (BitVec 128)) (t : Thread), Mem.wf s.mem = true → c.kind = .cpg true →
      c.units = [(src, [.hbm pa])] → c.got = [] → s.copyTurn c = true → OnDevice src → s.poisoned src 16 = false →
      (s.takeBurst c 1).homeBusy src 16 (c.agedAt, 8, c.id) = false →
      (s.takeBurst c 1).homeBusy (.hbm pa) 16 (c.agedAt, 8, c.id) = false → NoWatch s (.hbm pa) 16 →
        s.thread? c.uid = some t → t.wait = none → s.hosted? c.uid = none →
      ∃ s', exec (.copyBurst c.id ⟨0, 1⟩ 0 peer) s = .next s' ∧ StoredInto s.mem s'.mem pa 16 (Mem.getLE s.mem src.key 16) ∧
        CopyEnded (s.takeBurst c 1) s' c none) ∧
    (∀ key e enc x, c.kind = .farOut key e enc → c.sent = true → s.ctx? c.ctx = some x →
      (acceptsAt x.farAccept e h.env = false →
        exec (.farTierAck ⟨h.env, c.id⟩) s = .next { s with dropped := s.dropped + 1 } ∧
        exec (.farServerRefusal ⟨h.env, c.id⟩) s = .next { s with dropped := s.dropped + 1 }) ∧
      (acceptsAt x.farAccept e h.env = true →
        (∃ s', exec (.farTierAck ⟨h.env, c.id⟩) s = .next s' ∧ CopyEnded s s' c none) ∧
        (∃ s', exec (.farServerRefusal ⟨h.env, c.id⟩) s = .next s' ∧ CopyEnded s s' c (some ⟨4, e⟩))) ∧
      (∃ s', exec (.farTierTimeout c.id) s = .next s' ∧
        (c.issued + s.farTimeout c ≤ s.now → CopyEnded s s' c (some ⟨5, e⟩)) ∧
        (s.now < c.issued + s.farTimeout c → s' = s))) ∧
    (∀ key e tag page x, c.kind = .farIn key e tag → c.sent = true → c.got = [] → (∀ u ∈ c.units, u.2 ≠ []) →
      s.ctx? c.ctx = some x →
      (acceptsAt x.farAccept e h.env = false →
        exec (.farPageArrival ⟨h.env, c.id⟩ page) s = .next { s with dropped := s.dropped + 1 }) ∧
      (acceptsAt x.farAccept e h.env = true →
        (∀ p, pageOfWire page = some p → exec (.farPageArrival ⟨h.env, c.id⟩ page) s =
          .next (s.updCopy c.id fun x => { x with got := pageUnits p })) ∧
        (pageOfWire page = none → ∃ s', exec (.farPageArrival ⟨h.env, c.id⟩ page) s = .next s' ∧
          CopyEnded s s' c (some ⟨6, e⟩)) ∧
        (∃ s', exec (.farServerRefusal ⟨h.env, c.id⟩) s = .next s' ∧ CopyEnded s s' c (some ⟨4, e⟩)))) ∧
    (∀ num k size m x msg, c.kind = .coll num k size → s.commOf c.ctx num = some m → s.ctx? c.ctx = some x →
      acceptsAt x.commAccept num h.env = false →
      exec (.collectiveMessage h num msg) s = .next { s with dropped := s.dropped + 1 }) ∧
    (∀ num k size m x msg, c.kind = .coll num k size → s.commOf c.ctx num = some m → s.ctx? c.ctx = some x →
      acceptsAt x.commAccept num h.env = true → msg.rank < m.p → msg.rank ≠ m.rank →
      (∀ y ∈ m.open_, y.k ≠ msg.k) → m.issued ≤ msg.k → (∀ x ∈ m.early, x.k ≠ msg.k) →
      exec (.collectiveMessage h num msg) s =
        .next (s.updComm c.ctx num fun m => { m with early := m.early ++ [msg] })) ∧
    (∀ num k size m x y msg, c.kind = .coll num k size → s.commOf c.ctx num = some m → s.ctx? c.ctx = some x →
      acceptsAt x.commAccept num h.env = true → msg.rank < m.p → msg.rank ≠ m.rank →
      m.open_.find? (fun y => y.k == msg.k) = some y → y.copy = c.id → (∀ x ∈ y.msgs, x.rank ≠ msg.rank) →
      ∃ s', exec (.collectiveMessage h num msg) s = .next s' ∧
        (c.sent = false ∨ y.msgs.length + 1 < m.p → ∃ m', s'.commOf c.ctx num = some m' ∧
          m'.open_.find? (fun y => y.k == msg.k) = some { y with msgs := y.msgs ++ [msg] }) ∧
        (∀ r, c.sent = true → m.p ≤ y.msgs.length + 1 → disagrees m.p (y.msgs ++ [msg]) = some r →
          CopyEnded s s' c (some ⟨3, r⟩))) ∧
    (∀ num k size m missing lost, c.kind = .coll num k size → s.commOf c.ctx num = some m →
      s.collCopy c.ctx num = some (c, k) → missing < m.p → (lost = true ∨ c.issued + m.timeoutUs * 1000 ≤ s.now) →
      (∀ y, m.open_.find? (fun y => y.k == k) = some y → ∃ s', exec (.collectiveTimeout c.ctx num k missing lost) s = .next s' ∧
        CopyEnded s s' c (some ⟨if y.ring then 2 else 1, missing⟩)) ∧
      (m.open_.find? (fun y => y.k == k) = none → c.sent = true →
        ∃ s', exec (.collectiveTimeout c.ctx num k missing lost) s = .next s' ∧ CopyEnded s s' c (some ⟨2, missing⟩)) ∧
      (m.open_.find? (fun y => y.k == k) = none → c.sent = false →
        exec (.collectiveTimeout c.ctx num k missing lost) s = .next s))

/-- Trap service starts for the head of the queue, an unserved trap is fatal, and freezes complete, expire and are
released (R39, R342, R344, R345, R347, R362, R367, R368, R369). TRAP_SERVICE_START, once what the trapped thread
issued has drained: where TRAP_VEC's body lies in a graph of the context, a service thread starts in slot 63 there
with its d and g registers FULL and the trapped thread's stamp (log entry 103, DESIGN CHOICE); where no body serves
it, the context is frozen with the trap's own code. A record whose thread has ended leaves the queue.
FREEZE_COMPLETE, once every cluster that the frozen context holds has stopped and drained and no save of one is in
progress, records the time and
starts the limit timer unless a debugger is attached. FREEZE_LIMIT_EXPIRY of the first freeze that is due releases
it: every replay ends with one completion and no thread, group or replay of the context is left; a release whose
dump the debugger has asked for waits for the freezes that are due before it, and is then answered. UNIT_WATCHDOG and
PROGRESS_WATCHDOG freeze with 0x47 the contexts whose work has not gone on. -/
def Obligations.TrapServiceAndFreezes : Prop :=
  ∀ (s : State),
    (∀ phys c r rest v x, (s.coreAt phys c).trapQ = r :: rest → (s.coreAt phys c).serving = none → s.thread? r.uid = some v →
      v.live = true → (s.clusterAt phys).stopped = false → s.ctx? v.ctx = some x → s.writesArrived v = true →
        s.accessesDone v = true →
      (∀ g, s.serviceGraph x = some g → ∃ s' t, exec (.trapServiceStart phys c) s = .next s' ∧ s'.threads = s.threads ++ [t] ∧
        t.kind = .service v.uid ∧ t.run = .running ∧ t.slot = 63 ∧ t.phys = v.phys ∧ t.core = v.core ∧ t.flags = 0 ∧
        t.pc.toNat = x.trapVec.toNat % 2 ^ 18 ∧ t.window.toNat = x.trapVec.toNat / 2 ^ 18 % 2 ^ 16 ∧
        (∀ i, t.isFull (.int (.d i)) = true ∧ t.int (.d i) = 0) ∧ (∀ i, t.isFull (.int (.g i)) = true ∧ t.int (.g i) = 0) ∧
        (∀ i, t.isFull (.int (.l i)) = false) ∧ t.stamp = v.stamp ∧
        (s'.coreAt phys c).serving = some (r, t.uid) ∧ (s'.coreAt phys c).trapQ = rest ∧ s'.mem = s.mem) ∧
      (s.serviceGraph x = none → x.freeze = none →
        ∃ s', exec (.trapServiceStart phys c) s = .next s' ∧ FrozenBy s' v.ctx r.code)) ∧
    (∀ phys c r rest, (s.coreAt phys c).trapQ = r :: rest → (s.coreAt phys c).serving = none →
      (∀ v, s.thread? r.uid = some v → v.live = false) →
      exec (.trapServiceStart phys c) s = .next (s.setCore { s.coreAt phys c with trapQ := rest })) ∧
    (∀ c z, s.ctx? c.id = some c → c.freeze = some z → z.complete = none → c.releaseReq = none →
      (∀ k ∈ s.clusters, k.ctx = some c.id → (s.clusterAt k.phys).stopped = true ∧
        (s.clusterAt k.phys).saving = false ∧ s.clusterDrained k.phys = true) →
      let z' : Freeze := { z with complete := some s.now, expires := if c.attached then none else some (s.now + z.left),
                                  debugged := z.debugged || c.attached }
      exec (.freezeComplete c.id) s = .next (s.updCtx c.id fun x => { x with freeze := some z' })) ∧
    (∀ c z t e, s.ctx? c.id = some c → c.freeze = some z → z.complete = some t → z.expires = some e →
      (s.now < e → c.releaseReq = none → exec (.freezeLimitExpiry c.id) s = .next s) ∧
      (e ≤ s.now → (∀ i ∈ s.freezeOrder.takeWhile (· != c.id), ∀ x, s.ctx? i = some x → x.due s.now = false) →
        ∃ s' c', exec (.freezeLimitExpiry c.id) s = .next s' ∧ s'.ctx? c.id = some c' ∧ c'.freeze = none ∧
          (∀ x ∈ s'.threads, x.ctx ≠ c.id) ∧ (∀ x ∈ s'.groups, x.ctx ≠ c.id) ∧ (∀ x ∈ s'.replays, x.ctx ≠ c.id) ∧
          ∀ r ∈ s.replays, r.ctx = c.id → ∃ st, Out.completion c.id r.req (completionBytes r.graph r.seq st) ∈ s'.out ∧
            ∀ n, r.fault = some n → st = BitVec.ofNat 32 n)) ∧
    (∀ c z t h, s.ctx? c.id = some c → c.freeze = some z → z.complete = some t → c.releaseReq = some (h, true) →
      ((∃ i ∈ s.freezeOrder.takeWhile (· != c.id), ∃ x, s.ctx? i = some x ∧ x.due s.now = true) →
        exec (.freezeLimitExpiry c.id) s = .next s) ∧
      ((∀ i ∈ s.freezeOrder.takeWhile (· != c.id), ∀ x, s.ctx? i = some x → x.due s.now = false) →
        ∃ s' c', exec (.freezeLimitExpiry c.id) s = .next s' ∧ s'.ctx? c.id = some c' ∧ c'.freeze = none ∧
          c'.releaseReq = none ∧ Out.reply h 0x29 0 [] ∈ s'.out)) ∧
    (∀ u, (s.workIn u = [] → exec (.unitWatchdog u) s = .next s) ∧
      (s.workIn u ≠ [] → ∃ s', exec (.unitWatchdog u) s = .next s' ∧ s'.mem = s.mem ∧
        ∀ c x, c ∈ s.workIn u → s.ctx? c = some x → x.freeze = none → FrozenBy s' c 0x47)) ∧
    (∀ g t x, s.group? g.uid = some g → g.st = .running → (s.clusterAt g.phys).stopped = false →
      s.waking g.phys = false → (∀ y ∈ s.threads, y.group = g.uid → y.run.isTrapped = false ∧ y.run ≠ .held) →
      s.threads.find? (fun y => y.group == g.uid && (y.run == .running && s.owedWait y)) = some t →
      s.ctx? t.ctx = some x → x.freeze = none →
      ∃ s', exec (.progressWatchdog g.uid) s = .next s' ∧ FrozenBy s' t.ctx 0x47 ∧ s'.mem = s.mem)

/-- A quantum or a slice ends in a stop or starts again, a drained cluster is saved and cleared, and a restore brings
its threads back (R182, R289, R291, R292, R318, R333, R356, R357, R359, R360, R379). QUANTUM_EXPIRY of a held cluster
whose quantum has
passed stops it where a group of another context at the same level or above waits for it, and otherwise starts the
quantum again; HOSTING_SLICE_EXPIRY does the same for 500 µs and the host's other logical clusters. PREEMPTION_SAVE
of a cluster that is stopped for it and drained writes one save record with its threads and the bytes of its
scratchpad, which stand in HBM from 0x164000 of the record on; it leaves the cluster free, with no thread on it and its
scratchpad zero, whether or not the context has been frozen meanwhile (log entry 77, DEDUCED). What drained means
follows log entry 83 (DEDUCED), whether a saved group counts as a ready one log entry 99, and where the record
stands log entry 108 (DESIGN CHOICE). RESTORE puts the record's threads on the cluster found for it, holds the cluster
for the context with a fresh quantum and its arbiters started again, drops the record, and in the same step delivers
what was held for the cluster, performs the accesses and the writes that waited for it, applies its kills, and ends
the waits of WAITKs whose copies have completed meanwhile. -/
def Obligations.SavingAndRestoring : Prop :=
  ∀ (s : State) (phys : Nat) (c : Context),
    (s.ctx? c.id = some c → (s.clusterAt phys).ctx = some c.id → (s.clusterAt phys).stopped = false → c.freeze = none →
      (s.now < (s.clusterAt phys).quantum + s.cfg.quantumUs * 1000 → exec (.quantumExpiry phys) s = .next s) ∧
      ((s.clusterAt phys).quantum + s.cfg.quantumUs * 1000 ≤ s.now → ∃ s', exec (.quantumExpiry phys) s = .next s' ∧
        ((∃ x ∈ s.ctxs, x.id ≠ c.id ∧ c.prio ≤ x.prio ∧ s.wantsCluster x phys = true) →
          s' = s.updCluster phys fun k => { k with stopped := true, saving := true }) ∧
        (¬ (∃ x ∈ s.ctxs, x.id ≠ c.id ∧ c.prio ≤ x.prio ∧ s.wantsCluster x phys = true) →
          s' = s.updCluster phys fun k => { k with quantum := s.now })) ∧
      ∀ l, (s.clusterAt phys).lcl = some l →
        (s.now < (s.clusterAt phys).slice + 500000 → exec (.hostingSliceExpiry phys) s = .next s) ∧
        ((s.clusterAt phys).slice + 500000 ≤ s.now → ∃ s', exec (.hostingSliceExpiry phys) s = .next s' ∧
          ((∃ x ∈ s.hostWork c phys, x ≠ l) → s' = s.updCluster phys fun k => { k with stopped := true, saving := true }) ∧
          (¬ (∃ x ∈ s.hostWork c phys, x ≠ l) → s' = s.updCluster phys fun k => { k with slice := s.now }))) ∧
    (s.ctx? c.id = some c → (s.clusterAt phys).ctx = some c.id → (s.clusterAt phys).stopped = true →
      (s.clusterAt phys).saving = true →
      s.clusterDrained phys = true → s.settledGroups phys = true → ∀ l, s.standingLcl phys = some l →
      ∃ s' r, exec (.preemptionSave phys) s = .next s' ∧ s'.saves = s.saves ++ [r] ∧ r.ctx = c.id ∧ r.lcl = l ∧
        r.base = s.freeRecord ∧
        r.threads.map (·.uid) = (s.threads.filter fun t => t.phys == phys).map (·.uid) ∧
        (∀ t ∈ s'.threads, t.phys ≠ phys) ∧ (s'.clusterAt phys).ctx = none ∧ (s'.clusterAt phys).stopped = false ∧
        (phys < 256 → Mem.wf s.mem = true → ∀ o < 2 ^ 21, Mem.get r.cells (Loc.spad phys o).key = s.byteAt (.spad phys o) ∧
          s'.byteAt (.spad phys o) = 0 ∧
          (r.base + recordSize ≤ 2 ^ 40 → s'.byteAt (.hbm (r.base + 0x164000 + o)) = s.byteAt (.spad phys o)))) ∧
    (∀ (x : SaveRec) p, s.ctx? c.id = some c → c.active = true → x.upset = false →
      s.saves.find? (fun y => y.ctx == c.id && y.lcl == x.lcl) = some x → s.restorePlace c x = some p →
      let away := (s.accs.filter fun a => a.phase == .away && a.loc.onCluster (savedPhys x.ctx x.lcl)).map (·.id)
      ∃ s1 : State, exec (.restore c.id x.lcl) s = .next (x.threads.foldl (fun s t => s.endWaitk t.uid)
          ((((s1.deliverHeld p).performHeld away).writeHeld p).applyKills p)) ∧
        s1.threads = s.threads ++ x.threads.map (fun t => { t with phys := p }) ∧ (s1.clusterAt p).ctx = some c.id ∧
        (s1.clusterAt p).quantum = s.now ∧ (s1.clusterAt p).blast = Vector.replicate 64 8 ∧ s1.kills = s.kills ∧
        s1.arrivals = s.arrivals ∧ s1.fwds = s.fwds ∧
        s1.saves = s.saves.filter (fun y => !(y.ctx == c.id && y.lcl == x.lcl)))

/-- Found errors are counted, reported or poison their word, ports and links report, clusters are fenced, and islands
change their points (R18, R19, R20, R361, R363, R364, R365, R366, R368). PATROL_SCRUB of a single-bit error counts a
corrected error of the 8-byte word and changes no byte; of a multi-bit one it poisons a word of memory or of a code
store, marks the save record the word belongs to, counts one fault of the cluster the word lies in, and freezes with
0x48 the contexts that hold an entry in a word of unit state or own the record it belongs to. That an upset is found
by the patrol scrub alone, and counted once, is the model's reading (log entries 35, PRESUMED, and 89). LINK_RETRY counts,
and the 1,000th of a link within a second is reported and its count starts again (log entry 45, PRESUMED). Gating and
waking take no time here (log entry 53). PORT_STATE_CHANGE sets the port's bit. CLUSTER_FENCING of a cluster that is due
stops one that is held, and fences
an empty one, which leaves the logical map. OPERATING_POINT_CHANGE sets a point that R18 to R20 allow, and a gated
core island loses its contents; MATRIX_ISLAND_GATE gates an idle matrix island; no island of a cluster
that a frozen context holds is gated; CORE_ISLAND_WAKE and
MATRIX_ISLAND_WAKE wake a gated island that has work. -/
def Obligations.IslandsErrorsAndPorts : Prop :=
  ∀ (s : State),
    (∀ v w : Stored, s.wordOf v = w → (Stored.exists_ w = false → ∀ b, exec (.patrolScrub v b) s = .next s) ∧
      (Stored.exists_ w = true →
        (∃ s', exec (.patrolScrub v .single) s = .next s' ∧ s'.mem = s.mem ∧ s'.poison = s.poison ∧
          s'.corrected = (w, s.now) :: s.corrected) ∧
        (∃ s', exec (.patrolScrub v .multi) s = .next s' ∧ s'.mem = s.mem ∧ s'.corrected = s.corrected ∧
          (∀ n, Stored.poison w = some n → n ∈ s'.poison) ∧ (∀ n ∈ s.poison, n ∈ s'.poison) ∧
          (∀ p, Stored.cluster w = some p → (s'.clusterAt p).faults = (s.clusterAt p).faults ++ [s.now]) ∧
          (∀ pa, pa < 2 ^ 40 → w = .mem pa → s'.stackErrs = (channelOf pa / 32, s.now) :: s.stackErrs) ∧
          (∀ pa, pa < 2 ^ 40 → w = .mem pa → ∀ r ∈ s'.saves, r.holds pa = true → r.upset = true) ∧
          (∀ c x, c ∈ s.holders w → s.ctx? c = some x → x.freeze = none → FrozenBy s' c 0x48)))) ∧
    (∀ key a p : Nat, s.wordOf (.mem key) = .mem (key / 8 * 8) ∧ s.wordOf (.code p a) = .code p (a / 8 * 8)) ∧
    (∀ p o, p < 256 → o < 2 ^ 21 → Stored.cluster (.mem (Loc.spad p o).key) = some p) ∧
    (∀ link, let recent := s.linkRetries.filter fun r => decide (s.now < r.2 + 1000000000)
      ((recent.filter fun r => r.1 == link).length < 999 → exec (.linkRetry link) s =
        .next { s with linkRetries := (link, s.now) :: recent }) ∧
      (999 ≤ (recent.filter fun r => r.1 == link).length → ∃ s', exec (.linkRetry link) s = .next s' ∧
        (∀ r ∈ s'.linkRetries, r.1 ≠ link) ∧ (s.events.length < 4096 →
          ∃ e, s'.events = s.events ++ [e] ∧ e.kind = 3 ∧ e.detail = BitVec.ofNat 64 link))) ∧
    (∀ (port : Fin 16) (up : Bool), (s.ports.getLsbD port.val = up → exec (.portStateChange port up) s = .next s) ∧
      (s.ports.getLsbD port.val ≠ up → ∃ s', exec (.portStateChange port up) s = .next s' ∧
        ∀ i < 16, s'.ports.getLsbD i = if i = port.val then up else s.ports.getLsbD i)) ∧
    (∀ phys, phys < 256 → (s.clusterAt phys).fenced = false → ((s.clusterAt phys).fencing || s.fenceDue phys) = true →
      (∀ c x, (s.clusterAt phys).ctx = some c → s.ctx? c = some x → x.freeze = none → exec (.clusterFencing phys) s =
        .next (s.updCluster phys fun k => { k with fencing := true, stopped := true, saving := true })) ∧
      (∀ c x z, (s.clusterAt phys).ctx = some c → s.ctx? c = some x → x.freeze = some z → exec (.clusterFencing phys) s =
        .next (s.updCluster phys fun k => { k with fencing := true })) ∧
      ((s.clusterAt phys).ctx = none → s.vacant phys = true → ∃ s', exec (.clusterFencing phys) s = .next s' ∧
        (s'.clusterAt phys).fenced = true ∧ phys ∉ s'.lmap ∧ s'.lmap.length = s.lmap.length)) ∧
    (∀ (phys : Nat) (pt : OpPoint), phys < 256 →
      (s.frozenOn phys = true → exec (.operatingPointChange ⟨phys, true⟩ .gated) s = .next s ∧
        exec (.operatingPointChange ⟨phys, false⟩ .gated) s = .next s ∧ exec (.matrixIslandGate phys) s = .next s) ∧
      ((s.clusterAt phys).matPt ≠ .gated → (s.clusterAt phys).matPt ≠ pt →
        (pt = .gated → s.matrixIdle phys = true ∧ s.frozenOn phys = false) →
        ∃ s', exec (.operatingPointChange ⟨phys, true⟩ pt) s = .next s' ∧ (s'.clusterAt phys).matPt = pt ∧ s'.mem = s.mem) ∧
      ((s.clusterAt phys).corePt ≠ .gated → (s.clusterAt phys).corePt ≠ pt → (pt = .gated → s.coreIdle phys = true) →
        ∃ s', exec (.operatingPointChange ⟨phys, false⟩ pt) s = .next s' ∧ (s'.clusterAt phys).corePt = pt ∧
          (pt ≠ .gated → s'.mem = s.mem) ∧ (pt = .gated → ∀ o < 2 ^ 21, s'.byteAt (.spad phys o) = 0)) ∧
      ((s.clusterAt phys).matPt ≠ .gated → s.matrixIdle phys = true → s.frozenOn phys = false →
        ∃ s', exec (.matrixIslandGate phys) s = .next s' ∧ (s'.clusterAt phys).matPt = .gated ∧ s'.cores = s.cores) ∧
      ((s.clusterAt phys).corePt = .gated → (∃ g ∈ s.groups, g.phys = phys) ∨ (∃ t ∈ s.threads, t.phys = phys) →
        ∃ s', exec (.coreIslandWake phys) s = .next s' ∧ (s'.clusterAt phys).corePt = .full) ∧
      ((s.clusterAt phys).matPt = .gated → (∃ k ∈ s.cores, k.phys = phys ∧ k.mq ≠ []) →
        ∃ s', exec (.matrixIslandWake phys) s = .next s' ∧ (s'.clusterAt phys).matPt = .full))

/-- A request from a source or under a policy that its endpoint does not accept is dropped, and a malformed one is
refused (R335, R336, R372, R373, R374). For every request of the command, management and debug endpoints: where its
source is not in the endpoint's list, or the policy is required and the message is not secured or comes over RoCE,
or no context has the endpoint, exactly the count of dropped messages changes, by one; an accepted malformed request
is answered with status 3 and changes nothing; a debug request other than an attach is answered with status 2 and
changes nothing unless it comes from the debugger that is attached. UNKNOWN_OPCODE_REQUEST, accepted, is answered
with status 1 and changes nothing; one of opcode 0x18 stands for the write of a register that the host does not set, and
is refused with status 2 (log entry 68, DESIGN CHOICE). -/
def Obligations.RequestsAtEndpoints : Prop :=
  ∀ (s : State) (i : Instr) (h : Hdr) (op : Nat),
    (commandOp i = some (h, op) →
      ((∀ c, s.ctx? h.ctx = some c → ¬ Allowed c.cmdSrcs c.cmdPolicy h.env) →
        exec i s = .next { s with dropped := s.dropped + 1 }) ∧
      (∀ c, ForContext s h c → h.wellFormed = false → exec i s = .next (s.replied h op 3 []))) ∧
    (manageOp i = some (h, op) → s.boot ≠ .off →
      (¬ Allowed s.cfg.mgmtSrcs s.cfg.mgmtPolicy h.env → exec i s = .next { s with dropped := s.dropped + 1 }) ∧
      (ForManagement s h → h.wellFormed = false → exec i s = .next (s.replied h op 3 []))) ∧
    (debugOp i = some (h, op) →
      ((∀ c, s.ctx? h.ctx = some c → ¬ Allowed c.dbgSrcs c.dbgPolicy h.env) →
        exec i s = .next { s with dropped := s.dropped + 1 }) ∧
      (∀ c, ForDebugger s h c → c.debugger ≠ some h.env.src → exec i s = .next (s.replied h op 2 [])) ∧
      (∀ c, ForDebugger s h c → c.debugger = some h.env.src → h.wellFormed = false → exec i s = .next (s.replied h op 3 []))) ∧
    (∀ (n : BitVec 16) (c : Context),
      (ForManagement s h → n = 0 ∨ 0x0C < n.toNat →
        exec (.unknownOpcodeRequest h .management n) s = .next (s.replied h n.toNat 1 [])) ∧
      (ForContext s h c → c.id = h.ctx → n.toNat < 0x10 ∨ 0x1D < n.toNat →
        exec (.unknownOpcodeRequest h (.command h.ctx) n) s = .next (s.replied h n.toNat 1 [])) ∧
      (ForContext s h c → c.id = h.ctx → h.wellFormed = true →
        exec (.unknownOpcodeRequest h (.command h.ctx) 0x18) s = .next (s.replied h 0x18 2 [])) ∧
      (ForDebugger s h c → c.id = h.ctx → n.toNat < 0x20 ∨ 0x29 < n.toNat →
        exec (.unknownOpcodeRequest h (.debug h.ctx) n) s = .next (s.replied h n.toNat 1 [])))

/-- An upload is checked, refused with its first error's record or loaded under the next graph id, and a removal waits
for the graph's replays (R9, R100, R281, R282, R283, R326, R340, R373). That a depth or a count of objects out of range is
malformed, and that an upload for which no code range or place is free is kept and answered once it has been loaded, is
log entry 58 (DESIGN CHOICE); that a second removal of one graph is refused is log entry 69 (DEDUCED). -/
def Obligations.GraphLoading : Prop :=
  ∀ (s : State) (h : Hdr) (c : Context),
    (∀ (depth place : BitVec 8) (objs : List Vgo) (at_ : List Placement), Asks s h c → at_.length = objs.length →
      (depth = 0 ∨ 4 < depth.toNat ∨ objs = [] ∨ 16 < objs.length →
        exec (.uploadGraph h depth place objs at_) s = .next (s.replied h 0x10 3 [])) ∧
      (1 ≤ depth.toNat → depth.toNat ≤ 4 → objs ≠ [] → objs.length ≤ 16 →
        (∀ e, s.loadError c.id objs (s.layout c.id objs at_ ((s.codeFit (textTotal objs)).getD 0)) = some e →
          exec (.uploadGraph h depth place objs at_) s = .next (s.replied h 0x10 2 e.bytes)) ∧
        (s.codeFit (textTotal objs) = none → s.loadError c.id objs (s.layout c.id objs at_ 0) = none →
          ∃ u : Upload, u.hdr = h ∧ u.objs = objs ∧ u.depth = depth.toNat ∧ u.place = place.toNat ∧
            exec (.uploadGraph h depth place objs at_) s = .next { s with uploads := s.uploads ++ [u] }) ∧
        (∀ (u : Upload) b at', s.uploads.find? (fun v => v.hdr == h) = some u → u.objs = objs → at'.length = objs.length →
          c.destroying = none → s.codeFit (textTotal objs) = some b → s.loadError c.id objs (s.layout c.id objs at' b) = none →
          (∀ x ∈ objs.zip at', s.placeable c x.1 x.2 = true) →
          s.apart c.id ((objs.zip at').flatMap fun x => sectionClaims x.1 x.2) = true →
          (s.load h at').uploads = s.uploads.erase u ∧ (s.load h at').nextGraph = s.nextGraph + 1 ∧
            (s.load h at').out = s.out ++ [.reply h 0x10 0 (leBytes 4 s.nextGraph.toNat)]) ∧
        (∀ b l, s.codeFit (textTotal objs) = some b → l = s.layout c.id objs at_ b → s.loadError c.id objs l = none →
          (∀ x ∈ objs.zip at_, s.placeable c x.1 x.2 = true) →
          s.apart c.id ((objs.zip at_).flatMap fun x => sectionClaims x.1 x.2) = true →
          ∃ s' g, exec (.uploadGraph h depth place objs at_) s = .next s' ∧ s'.graphs = s.graphs ++ [g] ∧ g.id = s.nextGraph ∧
            s'.nextGraph = s.nextGraph + 1 ∧ g.ctx = c.id ∧ g.depth = depth.toNat ∧ g.lastSeq = none ∧ g.removing = none ∧
            g.kernels = l.kernels objs ∧ g.params = objs.flatMap (·.params) ∧ g.digests = objs.map (fun v => sha384 v.file) ∧
            s'.out = s.out ++ [.reply h 0x10 0 (leBytes 4 s.nextGraph.toNat)] ∧
            g.claims = (objs.zip at_).flatMap (fun x => sectionClaims x.1 x.2) ∧
            g.textBase = b ∧ g.textSize = (objs.map textLen).sum ∧ g.textBase + g.textSize ≤ 262144 ∧
            (∀ x ∈ s.graphs, x.textBase + x.textSize ≤ g.textBase ∨ g.textBase + g.textSize ≤ x.textBase) ∧
            (∀ v, objs = [v] → v.rels = [] → v.rodata = [] → v.data = [] → v.bss = 0 → v.canopy = [] → Mem.wf s.mem = true →
              ∀ (i : Nat) (hi : i < v.text.length), s'.byteAt (.code (g.textBase + i)) = v.text[i])))) ∧
    (∀ graph, Asks s h c →
      ((∀ g, s.graph? graph = some g → g.ctx ≠ c.id) → exec (.removeGraph h graph) s = .next (s.replied h 0x11 2 [])) ∧
      (∀ g, s.graph? graph = some g → g.removing ≠ none → exec (.removeGraph h graph) s = .next (s.replied h 0x11 2 [])) ∧
      (∀ g, s.graph? graph = some g → g.ctx = c.id → g.removing = none → exec (.removeGraph h graph) s =
        .next { s with graphs := s.graphs.map fun x => if x.id = graph then { x with removing := some h } else x })) ∧
    (∀ g r, s.graph? g.id = some g → g.removing = some r →
      ((∃ x ∈ s.replays, x.graph = g.id) → exec (.graphRemovalComplete g.id) s = .next s) ∧
      ((∀ x ∈ s.replays, x.graph ≠ g.id) → (∀ x, s.ctx? g.ctx = some x → ∀ k ∈ x.kicks, k.msg.graph ≠ g.id) →
        ∃ s', exec (.graphRemovalComplete g.id) s = .next s' ∧ s'.graph? g.id = none ∧ s'.mem = s.mem ∧
          s'.out = s.out ++ [.reply r 0x11 0 []]))

/-- Each well-formed request of a command endpoint sets what its opcode names and is answered, or is refused and changes
nothing (R324, R337, R244, R247, R348, R118, R181, R316, R360, R367, R340, R373). The model's own choices here: the
contrail buffer is checked with the other register as it stands (log entry 59, DEDUCED); a context that holds no
cluster is suspended at once, and a frozen one keeps its clusters (log entry 61, DEDUCED); an exported window of
length 0 is none (log entry 66, DESIGN CHOICE); a peer, far-table or communicator number out of its range is malformed
(log entry 109, DEDUCED). -/
def Obligations.CommandRequests : Prop :=
  ∀ (s : State) (h : Hdr) (c : Context), Asks s h c →
    (∀ pa : Word,
      (pa.toNat % 4096 = 0 → covered c.grants pa.toNat 4096 = true → exec (.setPtRoot h pa) s =
        .next ((s.updCtx c.id fun y => { y with ptRoot := some pa.toNat }).replied h 0x13 0 [])) ∧
      (¬ (pa.toNat % 4096 = 0 ∧ covered c.grants pa.toNat 4096 = true) →
        exec (.setPtRoot h pa) s = .next (s.replied h 0x13 2 []))) ∧
    (∀ (n dev : BitVec 16) (e l : Word),
      (n.toNat < 512 → exec (.setPeerTableEntry h n dev e l) s = .next ((s.updCtx c.id fun y =>
        { y with peers := (n.toNat, ⟨dev.toNat, e, l.toNat⟩) :: y.peers.filter fun q => q.1 != n.toNat }).replied h 0x14 0 [])) ∧
      (512 ≤ n.toNat → exec (.setPeerTableEntry h n dev e l) s = .next (s.replied h 0x14 3 []))) ∧
    (∀ (base len : Word) (acc : List (BitVec 16 × BitVec 16)),
      let ok := base.toNat % 65536 = 0 ∧ len.toNat % 65536 = 0 ∧ PinnedRange s c.id base.toNat len.toNat false
      (len = 0 → exec (.setExportedWindow h base len acc) s =
        .next ((s.updCtx c.id fun y => { y with window := none }).replied h 0x15 0 [])) ∧
      (len ≠ 0 → ok → exec (.setExportedWindow h base len acc) s = .next ((s.updCtx c.id fun y =>
        { y with window := some ⟨base.toNat, len.toNat, acc.map fun a => (a.1.toNat, a.2.toNat)⟩ }).replied h 0x15 0 [])) ∧
      (len ≠ 0 → ¬ ok → exec (.setExportedWindow h base len acc) s = .next (s.replied h 0x15 2 []))) ∧
    (∀ (n : BitVec 8) (server : Word) (port : BitVec 8) (us : BitVec 32),
      (n.toNat < 64 → port.toNat < 16 → exec (.setFarTableEntry h n server port us) s = .next ((s.updCtx c.id fun y =>
        { y with far := (n.toNat, ⟨server, port.toNat, if us = 0 then 1000 else us.toNat⟩) ::
                          y.far.filter fun q => q.1 != n.toNat }).replied h 0x16 0 [])) ∧
      (¬ (n.toNat < 64 ∧ port.toNat < 16) → exec (.setFarTableEntry h n server port us) s = .next (s.replied h 0x16 3 []))) ∧
    (∀ (n p rank : BitVec 16) (prev next group : Word) (us : BitVec 32),
      let ok := 2 ≤ p.toNat ∧ p.toNat ≤ 512 ∧ rank.toNat < p.toNat
      (ok → ∃ m : Comm, m.num = n.toNat ∧ m.p = p.toNat ∧ m.rank = rank.toNat ∧ m.prev = prev ∧ m.next = next ∧
        m.group = group ∧ m.timeoutUs = (if us = 0 then 50 else us.toNat) ∧
        exec (.setCommunicator h n p rank prev next group us) s = .next ((s.updCtx c.id fun y =>
          { y with comms := m :: y.comms.filter fun x => x.num != n.toNat }).replied h 0x17 0 [])) ∧
      (¬ ok → exec (.setCommunicator h n p rank prev next group us) s = .next (s.replied h 0x17 3 []))) ∧
    (∀ v : Word,
      exec (.setFpCtl h v) s = .next ((s.updCtx c.id fun y => { y with fpCtl := (v.setWidth 10 &&& 0x3F8) |||
        (if v.toNat % 8 ≤ 4 then v.setWidth 10 &&& 7 else y.fpCtl &&& 7) }).replied h 0x18 0 []) ∧
      exec (.setJobSeed h v) s = .next ((s.updCtx c.id fun y => { y with jobSeed := v }).replied h 0x18 0 []) ∧
      exec (.setStratusCtl h v) s = .next ((s.updCtx c.id fun y => { y with
        stratusCtl := (if v.toNat ≤ 256 then v else y.stratusCtl) }).replied h 0x18 0 []) ∧
      (v.toNat % 4096 = 0 ∧ ContrailBuffer s c.id v c.contrailCtl → exec (.setContrailBase h v) s =
        .next ((s.updCtx c.id fun y => { y with contrailBase := v }).replied h 0x18 0 [])) ∧
      (¬ (v.toNat % 4096 = 0 ∧ ContrailBuffer s c.id v c.contrailCtl) →
        exec (.setContrailBase h v) s = .next (s.replied h 0x18 2 [])) ∧
      (8 ≤ v.toNat % 32 ∧ v.toNat % 32 ≤ 22 ∧ ContrailBuffer s c.id c.contrailBase v → exec (.setContrailCtl h v) s =
        .next ((s.updCtx c.id fun y => { y with contrailCtl := v &&& 0x11F }).replied h 0x18 0 [])) ∧
      (¬ (8 ≤ v.toNat % 32 ∧ v.toNat % 32 ≤ 22 ∧ ContrailBuffer s c.id c.contrailBase v) →
        exec (.setContrailCtl h v) s = .next (s.replied h 0x18 2 []))) ∧
    (∀ (ms : BitVec 32) (base : Word) (size : BitVec 32),
      let ok := ms.toNat ≤ 3600000 ∧ base.toNat % 4096 = 0 ∧ base.toNat < 2 ^ 52 ∧ 1 ≤ size.toNat ∧ size.toNat ≤ 4096 ∧
        PinnedRange s c.id base.toNat (size.toNat * 65536) true
      (ok → exec (.setFreezeAndDump h ms base size) s = .next ((s.updCtx c.id fun y =>
        { y with newFreeze := some (ms.toNat, base, size.toNat * 65536) }).replied h 0x19 0 [])) ∧
      (¬ ok → exec (.setFreezeAndDump h ms base size) s = .next (s.replied h 0x19 2 []))) ∧
    (∃ s' x, exec (.suspendContext h) s = .next s' ∧ s'.ctx? c.id = some x ∧ x.suspended = true ∧ s'.mem = s.mem ∧
      (c.freeze = none → ∀ k ∈ s'.clusters, k.ctx = some c.id → k.stopped = true ∧ k.saving = true) ∧
      (c.freeze ≠ none → s'.clusters = s.clusters) ∧
      ((∀ k ∈ s.clusters, k.ctx ≠ some c.id) → Out.reply h 0x1A 0 [] ∈ s'.out) ∧
      ((∃ k ∈ s.clusters, k.ctx = some c.id) → s'.out = s.out ∧ h ∈ x.suspendReq)) ∧
    (c.freeze = none → exec (.resumeContext h) s =
      .next ((s.updCtx c.id fun y => { y with suspended := false }).replied h 0x1B 0 [])) ∧
    (c.freeze ≠ none → exec (.resumeContext h) s = .next (s.replied h 0x1B 2 [])) ∧
    (∀ nonce, ∃ q, exec (.contextQuote h nonce) s = .next (s.replied h 0x1C 0 q) ∧ q.length = 608 ∧
      q.take 4 = leBytes 4 1 ∧ (q.drop 8).take 48 = leBytes 48 nonce.toNat ∧ (q.drop 456).take 4 = leBytes 4 c.id) ∧
    (∀ v : Word, ∃ d, exec (.shootdownCommand h v) s = .next { s with shoots := s.shoots ++ [d], fresh := s.fresh + 1 } ∧
      d.ctx = c.id ∧ d.for_ = .command h ∧ (d.whole = true ↔ v.toNat % 4 = 3) ∧
      (v.toNat % 4 ≤ 2 → d.size = 2 ^ (16 + 9 * (v.toNat % 4)) ∧ d.lo % d.size = 0 ∧
        d.lo ≤ v.toNat / 2 ^ 16 % 2 ^ 36 * 2 ^ 16 ∧ v.toNat / 2 ^ 16 % 2 ^ 36 * 2 ^ 16 < d.lo + d.size))

/-- Boot, and each well-formed request of the management endpoint, has the effect its opcode names, or is refused and
changes nothing (R21, R338, R318, R324, R325, R326, R339, R340, R364, R366, R372, R306). BOOT takes the first of the two
image sets whose six images all verify by SHA-384 and ECDSA P-384 against the burnt-in digest of the root key, extends
each image's measurement register by the digest of its bytes, and puts that set's blob in force; where neither verifies
no context is ever started. The model's own choices here: how keys and certificates stand as bytes (log entry 11,
PRESUMED), a failed boot's management sources and an unusable blob (log entry 55, DESIGN CHOICE), the id in
CREATE_CONTEXT's reply (log entry 57, PRESUMED) and a new context's values (log entry 12), digests as 48 bytes with the
lowest first (log entry 64, PRESUMED), an allotment in force at once while a shrink of grants waits (log entry 33,
DEDUCED), and the range of a scrub (log entry 65). -/
def Obligations.ManagementRequests : Prop :=
  ∀ (s : State),
    (s.boot = .off → ∀ (primary recovery : List Image) (cfg : Blobs), ∃ s', exec (.boot primary recovery cfg) s = .next s' ∧
      s'.ctxs = s.ctxs ∧ s'.measure[6] = s.measure[6] ∧ s'.measure[7] = s.measure[7] ∧
      (if ImagesVerify primary then
        s'.boot = .primary ∧ (blobOk cfg.primary = true → s'.cfg = cfg.primary) ∧ s'.lmap = bootMap cfg.primary.lmap ∧
        ∀ (n : Nat) (hn : n < 6) (x : Image), primary[n]? = some x → s'.versions[n] = x.version ∧
          s'.measure[n] = sha384 (leBytes 48 s.measure[n].toNat ++ leBytes 48 (sha384 x.bytes).toNat)
      else if ImagesVerify recovery then
        s'.boot = .recovery ∧ (blobOk cfg.recovery = true → s'.cfg = cfg.recovery) ∧ s'.lmap = bootMap cfg.recovery.lmap
      else s'.boot = .failed ∧ s'.cfg.mgmtSrcs = Config.failedSrcs ∧ s'.lmap = s.lmap)) ∧
    (∀ t, s.boot ≠ .off → exec (.ptpSync t) s = .next { s with now := t }) ∧
    (∀ h, Manages s h →
      (∀ i < 64, s.boot ≠ .failed → s.ctx? i = none → (∀ j < i, s.ctx? j ≠ none) → ∀ cred, ∃ x : Context,
        exec (.createContext ⟨h, cred⟩) s = .next ({ s with ctxs := s.ctxs ++ [x] }.replied h 0x01 0 (leBytes 4 i)) ∧ x.id = i ∧
        x.ptRoot = none ∧ x.grants = [] ∧ x.canopy = [] ∧ x.allot = [] ∧ x.kicks = [] ∧ x.credential = cred ∧
          x.debugger = none ∧ x.freezeLimit = 10000) ∧
      (s.boot = .failed ∨ (∀ j < 64, s.ctx? j ≠ none) →
        ∀ cred, exec (.createContext ⟨h, cred⟩) s = .next (s.replied h 0x01 2 [])) ∧
      (∀ n, s.ctx? n = none → exec (.destroyContext h n) s = .next (s.replied h 0x02 2 [])) ∧
      (∀ c, s.ctx? c.id = some c → c.destroying = none → (s.threads.map (·.uid)).Nodup →
        ∃ s' x, exec (.destroyContext h c.id) s = .next s' ∧ s'.ctx? c.id = some x ∧ x.kicks = [] ∧ x.destroying = some h ∧
          (∀ k ∈ c.kicks, Out.completion c.id k.req (completionBytes k.msg.graph k.msg.seq 0x80000002) ∈ s'.out) ∧
            s'.mem = s.mem ∧
          ∀ t ∈ s'.threads, t.ctx = c.id → t.run = .ended) ∧
      (∀ c gs, s.ctx? c.id = some c →
        ((∃ g ∈ gs.grants, BadGrant s g) ∨ 16 < gs.grants.length ∨ 8 < gs.canopy.length ∨ 3 < gs.prio) →
        exec (.setGrants h c.id gs) s = .next (s.replied h 0x03 2 [])) ∧
      (∀ c gs, s.ctx? c.id = some c → c.destroying = none → s.grantsOk gs = true → s.grantsPending c.id = false →
        ∃ s' x, exec (.setGrants h c.id gs) s = .next s' ∧ s'.ctx? c.id = some x ∧ x.allot = gs.allot ∧ x.prio = gs.prio ∧
          x.cmdSrcs = gs.cmdSrcs ∧ x.cmdPolicy = gs.cmdPolicy ∧ x.dbgSrcs = gs.dbgSrcs ∧ x.dbgPolicy = gs.dbgPolicy ∧
          x.winSrcs = gs.winSrcs ∧ x.winPolicy = gs.winPolicy ∧ x.winEndpoint = gs.winEndpoint ∧
          x.farAccept = gs.farAccept ∧ x.commAccept = gs.commAccept ∧ x.credential = c.credential ∧ s'.mem = s.mem ∧
          (rangesWithin c.grants gs.grants = true ∧ rangesWithin c.canopy gs.canopy = true →
            x.grants = gs.grants ∧ x.canopy = gs.canopy ∧ s'.shoots = s.shoots ∧ s'.out = s.out ++ [.reply h 0x03 0 []]) ∧
          (¬ (rangesWithin c.grants gs.grants = true ∧ rangesWithin c.canopy gs.canopy = true) →
            x.grants = c.grants ∧ x.canopy = c.canopy ∧ s'.out = s.out ∧ ∃ d, s'.shoots = s.shoots ++ [d] ∧
              d.ctx = c.id ∧ d.whole = true ∧ d.for_ = .grants h gs.grants gs.canopy)) ∧
      (∀ base len,
        ((∃ c ∈ s.ctxs, ∃ g ∈ c.grants, g.1 < base + len ∧ base < g.1 + g.2) →
          exec (.scrubRange h base len) s = .next (s.replied h 0x04 2 [])) ∧
        (s.hbmOk base len = true → (∀ c ∈ s.ctxs, ∀ g ∈ c.grants, ¬ (g.1 < base + len ∧ base < g.1 + g.2)) →
          exec (.scrubRange h base len) s = .next { s with scrubs := s.scrubs ++ [(base, len, h)] })) ∧
      (∀ nonce, ∃ q, exec (.quote h nonce) s = .next (s.replied h 0x05 0 q) ∧ q.length = 608 ∧
        (q.drop 8).take 48 = leBytes 48 nonce.toNat ∧ (q.drop 456).take 4 = leBytes 4 0xFFFFFFFF ∧
        (q.drop 464).take 48 = leBytes 48 0) ∧
      exec (.identityCertificate h) s = .next (s.replied h 0x06 0 Config.certificate) ∧
      (∀ n < 256, (s.clusterAt n).fenced = false → exec (.fenceCluster h n) s =
        .next ((s.updCluster n fun k => { k with fencing := true }).replied h 0x07 0 [])) ∧
      (∀ n < 256, ((s.clusterAt n).fenced = true → ∃ s', exec (.unfenceCluster h n true) s = .next s' ∧
          (s'.clusterAt n).fenced = false ∧ s'.mem = s.mem ∧ Out.reply h 0x08 0 [] ∈ s'.out) ∧
        ((s.clusterAt n).fenced = false → exec (.unfenceCluster h n true) s = .next (s.replied h 0x08 2 [])) ∧
        exec (.unfenceCluster h n false) s = .next (s.replied h 0x08 2 [])) ∧
      exec (.readReplaceMeStatus h) s = .next (s.replied h 0x09 0 (leBytes 8 s.replaceMe.toNat)) ∧
      (∀ e, exec (.registerEventEndpoint h e) s = .next ({ s with eventEp := some e }.replied h 0x0A 0 [])) ∧
      (∀ w, (1200 ≤ w ∧ w ≤ 2400 → exec (.setPowerLimit h w) s = .next ({ s with powerLimit := w }.replied h 0x0B 0 [])) ∧
        (¬ (1200 ≤ w ∧ w ≤ 2400) → exec (.setPowerLimit h w) s = .next (s.replied h 0x0B 2 []))) ∧
      (∀ (c : Nat) (b : BitVec 8) (hb : b.toNat < 64),
        (s.ctx? c ≠ none → s.ranges[b.toNat].owner = none → s.ranges[b.toNat].revoking = none → exec (.grantRange h c b) s =
          .next ({ s with ranges := s.ranges.set b.toNat ⟨some c, false, 0, 0, 0, 0, none⟩ }.replied h 0x0C 0 [])) ∧
        (∀ o, s.ranges[b.toNat].owner = some o → o ≠ c → exec (.grantRange h c b) s = .next (s.replied h 0x0C 2 [])) ∧
        (s.ranges[b.toNat].owner ≠ some c → exec (.revokeRange h c b) s = .next (s.replied h 0x0C 2 [])) ∧
        (s.ranges[b.toNat].owner = some c → ∃ ids, exec (.revokeRange h c b) s = .next { s with
            ranges := s.ranges.set b.toNat { s.ranges[b.toNat] with owner := none, revoking := some (h, ids) } } ∧
          (∀ p ∈ s.pends, p.op.rangeNo = some b.toNat → p.id ∈ ids) ∧ ∀ a ∈ s.arrivals, a.prod = .take → a.seq ∈ ids))) ∧
    (∀ c h, s.ctx? c.id = some c → c.destroying = some h →
      (s.destroyDrained c.id = false → exec (.contextDestroyDrained c.id) s = .next s) ∧
      (s.destroyDrained c.id = true → ∃ s', exec (.contextDestroyDrained c.id) s = .next s' ∧ s'.ctx? c.id = none ∧
        (∀ t ∈ s'.threads, t.ctx ≠ c.id) ∧ (∀ g ∈ s'.groups, g.ctx ≠ c.id) ∧ (∀ e ∈ s'.tags, e.ctx ≠ c.id) ∧
        (∀ l ∈ s'.tlb, l.ctx ≠ c.id) ∧ (∀ x ∈ s'.sums, x.ctx ≠ c.id) ∧ (∀ a ∈ s'.accs, a.ctx ≠ c.id) ∧
        (∀ r ∈ s.replays, r.ctx = c.id → Out.completion c.id r.req (completionBytes r.graph r.seq 0x80000006) ∈ s'.out) ∧
        Out.reply h 0x02 0 [] ∈ s'.out)) ∧
    (∀ base n h rest, s.scrubs = (base, n, h) :: rest → Mem.wf s.mem = true → ∃ s', exec .scrubComplete s = .next s' ∧
      s'.scrubs = rest ∧ s'.out = s.out ++ [.reply h 0x04 0 []] ∧
      ∀ k, Mem.get s'.mem k = if base ≤ k ∧ k < base + n then 0 else Mem.get s.mem k)

/-- A debugger attaches with the context's credential, and each of its well-formed requests acts on that context or is
refused (R319, R336, R338, R353, R363, R369, R374, R44). The attach digest's bytes are log entry 64 (PRESUMED), the refusals
of empty slots and frames log entry 63 (PRESUMED). -/
def Obligations.DebugRequests : Prop :=
  ∀ (s : State) (h : Hdr) (c : Context),
    (∀ cred, ForDebugger s h c → h.wellFormed = true →
      (c.attached = true ∨ cred ≠ c.credential → exec (.attach h cred) s = .next (s.replied h 0x20 2 [])) ∧
      (c.attached = false → cred = c.credential → ∃ s' x, exec (.attach h cred) s = .next s' ∧ s'.ctx? c.id = some x ∧
        x.debugger = some h.env.src ∧ s'.measure[6] = sha384 (leBytes 48 s.measure[6].toNat ++
          leBytes 48 (sha384 (leBytes 4 c.id ++ leBytes 8 s.now)).toNat) ∧
        (∀ (n : Nat) (hn : n < 8), n ≠ 6 → s'.measure[n] = s.measure[n]) ∧ s'.out = s.out ++ [.reply h 0x20 0 []] ∧
        s'.mem = s.mem ∧ s'.threads = s.threads)) ∧
    (Debugs s h c →
      (∃ s' x, exec (.debugDetach h) s = .next s' ∧ s'.ctx? c.id = some x ∧ x.debugger = none ∧
        (∀ z, c.freeze = some z → z.complete ≠ none → x.freeze = some { z with expires := some (s.now + z.left) }) ∧
        s'.out = s.out ++ [.reply h 0x21 0 []] ∧ s'.mem = s.mem ∧ s'.threads = s.threads) ∧
      (∀ (l k n : BitVec 8),
        (∀ t, s.framed c l.toNat k.toNat n.toNat = some t →
          exec (.readFrame h l k n) s = .next (s.replied h 0x22 0 (s.frameBytes t)) ∧ (s.frameBytes t).length = 576 ∧
          ∀ (m : BitVec 32) (v : Word), (0x100 ≤ m.toNat → m.toNat ≤ 0x147 → exec (.writeFrameWord h l k n m v) s =
              .next (((s.putThread (s.pokeFrame t (m.toNat - 0x100) v)).keepFrame t.uid).replied h 0x23 0 [])) ∧
            (m.toNat < 0x100 ∨ 0x147 < m.toNat → exec (.writeFrameWord h l k n m v) s = .next (s.replied h 0x23 3 []))) ∧
        (c.freeze = none → (∀ t ∈ s.threads, t.ctx = c.id → t.run ≠ .held) →
          exec (.readFrame h l k n) s = .next (s.replied h 0x22 2 []) ∧
          (∀ (m : BitVec 32) (v : Word), 0x100 ≤ m.toNat → m.toNat ≤ 0x147 →
            exec (.writeFrameWord h l k n m v) s = .next (s.replied h 0x23 2 [])) ∧
          exec (.resumeHeldThread h l k n) s = .next (s.replied h 0x28 2 [])) ∧
        (∀ t, s.threads.find? (fun x => x.ctx == c.id && x.lcl == l.toNat && x.core == k.toNat && x.slot == n.toNat &&
          x.run == .held) = some t →
          exec (.resumeHeldThread h l k n) s = .next ((s.updThread t.uid fun x => { x with run := .running }).replied h 0x28 0 []))) ∧
      (∀ (addr : Word) (len : BitVec 32) (peer : List Byte), 1 ≤ len.toNat → len.toNat ≤ 65536 →
        (bits addr 56 8 ≠ 0 → bits addr 56 8 ≠ 1 → bits addr 56 8 ≠ 0xE0 → exec (.readMemory h addr len peer) s =
          .next (s.replied h 0x24 2 (leBytes 1 5 ++ leBytes 1 0 ++ leBytes 2 0 ++ leBytes 4 0 ++ leBytes 8 addr.toNat))) ∧
        (∀ tr s1, s.debugPlaces c addr false len.toNat = (.error tr, s1) →
          exec (.readMemory h addr len peer) s = .next (s1.replied h 0x24 2 (trapPayload tr))) ∧
        (∀ ls s1, s.debugPlaces c addr false len.toNat = (.ok ls, s1) →
          ((∀ l ∈ ls, OnDevice l ∧ s1.poisoned l 1 = false) →
            exec (.readMemory h addr len peer) s = .next (s1.replied h 0x24 0 (ls.map s1.byteAt))) ∧
          (∀ n, n < ls.length → (∀ m l, ls[m]? = some l → m < n → s1.poisoned l 1 = false) →
            (∀ l, ls[n]? = some l → s1.poisoned l 1 = true) → ∃ s', exec (.readMemory h addr len peer) s = .next s' ∧
              s'.out = s1.out ++ [.reply h 0x24 2 (leBytes 1 0x48 ++ leBytes 1 0 ++ leBytes 2 0 ++ leBytes 4 0 ++
                leBytes 8 (addr + BitVec.ofNat 64 n).toNat)] ∧
              (∀ x, s1.ctx? c.id = some x → x.freeze = none → FrozenBy s' c.id 0x48)))) ∧
      (∀ (addr : Word) (data : List Byte), 1 ≤ data.length → data.length ≤ 65536 →
        (∀ tr s1, s.debugPlaces c addr true data.length = (.error tr, s1) →
          exec (.writeMemory h addr data) s = .next (s1.replied h 0x25 2 (trapPayload tr))) ∧
        (∀ ls s1, s.debugPlaces c addr true data.length = (.ok ls, s1) → (∀ l ∈ ls, OnDevice l) → (ls.map Loc.key).Nodup →
          Mem.wf s.mem = true → ∃ s', exec (.writeMemory h addr data) s = .next s' ∧ Out.reply h 0x25 0 [] ∈ s'.out ∧
            (∀ x ∈ ls.zip data, s'.byteAt x.1 = x.2) ∧ ∀ k, k ∉ ls.map Loc.key → Mem.get s'.mem k = Mem.get s.mem k)) ∧
      (∀ (l k : BitVec 8) (o n : BitVec 32), k.toNat < 8 → 1 ≤ n.toNat → n.toNat ≤ 65536 →
        (c.freeze = none → ∀ a : BitVec 8, a.toNat ≤ 3 →
          exec (.readClusterState h l a k o n) s = .next (s.replied h 0x26 2 [])) ∧
        (∀ p, s.frozenPhys c l.toNat = some p →
          (o.toNat + n.toNat ≤ 2 ^ 21 → (∀ i < n.toNat, s.poisoned (.spad p (o.toNat + i)) 1 = false) →
            exec (.readClusterState h l 0 k o n) s = .next (s.replied h 0x26 0
            ((List.range n.toNat).map fun i => s.byteAt (.spad p (o.toNat + i))))) ∧
          (o.toNat + n.toNat ≤ 2 ^ 17 → (∀ i < n.toNat, s.poisoned (.tcm p k.toNat (o.toNat + i)) 1 = false) →
            exec (.readClusterState h l 1 k o n) s = .next (s.replied h 0x26 0
            ((List.range n.toNat).map fun i => s.byteAt (.tcm p k.toNat (o.toNat + i))))))) ∧
      (∀ (e en : BitVec 8) (hd mask : BitVec 32) (addr : Word),
        (e.toNat < 8 → exec (.setBreakpointEntry h e en hd mask addr) s = .next ((s.updCtx c.id fun y =>
          { y with bkpts := y.bkpts.set! e.toNat ⟨hd, mask, addr, en != 0⟩ }).replied h 0x27 0 [])) ∧
        (8 ≤ e.toNat → exec (.setBreakpointEntry h e en hd mask addr) s = .next (s.replied h 0x27 3 []))) ∧
      (∀ dump, (c.freeze = none → exec (.releaseFreeze h dump) s = .next (s.replied h 0x29 2 [])) ∧
        (∀ z, c.freeze = some z → z.complete = none → c.releaseReq = none → exec (.releaseFreeze h dump) s =
          .next (s.updCtx c.id fun y => { y with releaseReq := some (h, dump) })) ∧
        (c.freeze ≠ none → c.releaseReq ≠ none → exec (.releaseFreeze h dump) s = .next (s.replied h 0x29 2 [])) ∧
        (∀ z, c.freeze = some z → z.complete ≠ none → c.releaseReq = none → dump = true → s.writerBusy c.id = true →
          exec (.releaseFreeze h dump) s = .next (s.updCtx c.id fun y => { y with releaseReq := some (h, dump) })) ∧
        (∀ z, c.freeze = some z → z.complete ≠ none → c.releaseReq = none → (dump = true → s.writerBusy c.id = false) →
          ∃ s' x, exec (.releaseFreeze h dump) s = .next s' ∧
          s'.ctx? c.id = some x ∧ x.freeze = none ∧ (∀ t ∈ s'.threads, t.ctx ≠ c.id) ∧ (∀ r ∈ s'.replays, r.ctx ≠ c.id) ∧
          Out.reply h 0x29 0 [] ∈ s'.out)))

/-- An instruction meets the checks of R42 in their order, and waits, traps or has no effect as the first that applies
says (R32, R36, R37, R38, R42, R51, R319, R341). For every instruction that a thread issues but ORD, at a thread at
the issue port: an illegal one takes the illegal-instruction trap; else one that names a register outside its window
takes the window-violation trap; else, outside a sequencer run and not just resumed from it, one that hits a
breakpoint takes the breakpoint trap with TRAP_INFO the entry; else with its guard's predicate EMPTY it waits and
nothing changes; with a false guard the thread stands behind it and nothing else changes; with a true one and a
destination pending, or a source EMPTY, it waits and nothing changes. With no thread at the port it stops with the
fault of log entry 10 (noIssuer). -/
def Obligations.IssueChecksInOrder : Prop :=
  ∀ (s : State) (i : Instr), ThreadInstr i → (∀ o c, i ≠ .ord o c) →
    (s.port = none → exec i s = .fault .noIssuer) ∧
    ∀ (t : Thread) (p : Port), s.port = some p → s.thread? p.uid = some t →
      (illegalAt t p i = true → exec i s = .next (s.takeTrap t p ⟨0x02, 0, 0, none, none, none⟩)) ∧
      (illegalAt t p i = false → (∃ o ∈ s.names t i, inWindow t.window o = false) →
        exec i s = .next (s.takeTrap t p ⟨0x03, 0, 0, none, none, none⟩)) ∧
      (∀ e, illegalAt t p i = false → (∀ o ∈ s.names t i, inWindow t.window o = true) → p.seqr = false → t.bpSkip ≠ some t.pc →
        s.breakpoint t = some e → exec i s = .next (s.takeTrap t p ⟨0x12, 0, BitVec.ofNat 64 e, none, none, none⟩)) ∧
      (ReachesGuard s t p i →
        (t.isFull (.pred p.guard.p) = false → exec i s = .next s) ∧
        (t.isFull (.pred p.guard.p) = true → t.pred p.guard.p = p.guard.neg → exec i s = .next (s.advance t p i)) ∧
        (t.isFull (.pred p.guard.p) = true → t.pred p.guard.p ≠ p.guard.neg →
          ((∃ o ∈ (regsOf i).dsts, s.pending t o = true) → exec i s = .next s) ∧
          ((∀ o ∈ (regsOf i).dsts, s.pending t o = false) → (∃ o ∈ s.srcsOf t i, s.empty t o = true) → exec i s = .next s)))

/-- What an instruction's issue leaves unchanged: memory, granules, register values, flags, accumulators and special
registers (R37, R41, R123, R198, R201, R231, R348). For every instruction that a thread issues but CREATE, FGO,
EXIT, BREAK, SUNBIND, VDISOWN, VOWN, SYSW to the frame window, ERET, MARK and ORD: whenever exec answers a next
state, be it the instruction's own, a wait or a trap, every byte of memory, every poisoned word and every granule
state is as it was (a store reaches memory when its home performs it); there are the same threads, each with the
same register values; the flags and control bits of every thread are as they were, WRFP and CLRFLG apart; the
accumulators of every core are as they were; and every context's special registers are, the two SYSW that write one
apart. -/
def Obligations.IssueFrame : Prop :=
  ∀ (s s' : State) (i : Instr), ThreadInstr i → plainIssue i = true → exec i s = .next s' →
    s'.mem = s.mem ∧ s'.poison = s.poison ∧ s'.granules = s.granules ∧
    s'.threads.map (·.uid) = s.threads.map (·.uid) ∧
    (∀ x ∈ s.threads, ∃ y ∈ s'.threads, y.uid = x.uid ∧ y.sameValues x ∧
      ((∀ a, i ≠ .wrfp a) → i ≠ .clrflg → y.flags = x.flags ∧ y.ftz = x.ftz ∧ y.daz = x.daz ∧ y.rm = x.rm)) ∧
    (∀ phys core, (s'.coreAt phys core).acc0 = (s.coreAt phys core).acc0 ∧
      (s'.coreAt phys core).acc1 = (s.coreAt phys core).acc1) ∧
    ((∀ a n, i ≠ .sysw a n) → (∀ a, i ≠ .syswSumStatus a) → ∀ x ∈ s.ctxs, ∃ y ∈ s'.ctxs, y.id = x.id ∧ y.sameRegs x)

/-- What taking a trap saves and leaves, who takes one, and the return from it (R23, R41, R51, R53, R341, R342, R343,
R344, R347, R351, R352, R353). A thread outside trap service that takes a trap stops with its registers as they
were, its pc at the resume address, and joins its core's trap queue with the trap's code, address, TRAP_DATA and
TRAP_INFO (TRAP_WORD 0 for an instruction-address trap, the word for an illegal instruction); no byte of memory and
no other thread changes. In trap service it is a double trap, which freezes the context with 0x45. TRAP and BKPT
take theirs with the resume address behind them, an illegal word and a failed fetch take 0x02 and 0x01, and HALT
freezes the context with 0x44. ERET ends the service: the served thread runs on with its registers and pc as the
frame holds them, and the trap slot is free. -/
def Obligations.TrapIsTaken : Prop :=
  ∀ (s : State) (t : Thread) (p : Port), (∀ x ∈ s.threads, x.uid = t.uid → x = t) → s.thread? t.uid = some t →
    (∀ tr : Trap, let s' := s.takeTrap t p tr
      (t.isService = false → (tr.code = 0x12 → ∀ c, s.ctx? t.ctx = some c → c.attached = false) →
        ∃ x r, s'.thread? t.uid = some x ∧ x.run = .trapped (if p.seqr then t.run else t.run.behind fun _ => .running) ∧
          x.sameValues t ∧ x.full = t.full ∧ x.pend = t.pend ∧
          (p.seqr = false → x.pc = tr.resume.getD t.pc ∧ r.addr = t.pc) ∧ (p.seqr = true → x.pc = t.pc) ∧
          (s'.coreAt t.phys t.core).trapQ = (s.coreAt t.phys t.core).trapQ ++ [r] ∧ r.uid = t.uid ∧ r.code = tr.code ∧
          r.data = tr.data ∧ r.info = tr.info ∧ r.seqr = p.seqr ∧ (tr.code = 1 → r.word = 0) ∧
          (tr.code = 2 → p.seqr = false → (s.codeHalf t.pc.toNat).getLsbD 0 = true →
            r.word.toNat = s.read (.code t.pc.toNat) 4) ∧
          s'.mem = s.mem ∧ s'.accs = s.accs ∧ s'.arrivals = s.arrivals ∧ ∀ y ∈ s.threads, y.uid ≠ t.uid → y ∈ s'.threads) ∧
      (t.isService = false → tr.code = 0x12 → ∀ c, s.ctx? t.ctx = some c → c.attached = true →
        ∃ x, s'.thread? t.uid = some x ∧ x.run = .held ∧ x.sameValues t ∧ x.full = t.full ∧ x.pend = t.pend ∧
          (p.seqr = false → x.pc = tr.resume.getD t.pc) ∧ s'.cores = s.cores ∧ s'.mem = s.mem ∧ s'.accs = s.accs) ∧
      (t.isService = true → ∀ c, s.ctx? t.ctx = some c → c.freeze = none → FrozenBy s' t.ctx 0x45 ∧ s'.mem = s.mem)) ∧
    (∀ c, Issues s t p (.trap c) → exec (.trap c) s =
      .next (s.takeTrap t p ⟨0x13, 0, c.setWidth 64, some (t.pc + 2), none, none⟩)) ∧
    (Issues s t p .bkpt → exec .bkpt s = .next (s.takeTrap t p ⟨0x12, 0, 8, some (t.pc + 4), none, none⟩)) ∧
    (s.port = some p → p.uid = t.uid →
      exec .illegalInstruction s = .next (s.takeTrap t p ⟨0x02, 0, 0, none, none, none⟩) ∧
      ∀ d, s.fetch t.graph t.pc = .bad d →
        exec .instructionAddressTrap s = .next (s.takeTrap t p ⟨0x01, d, 0, none, none, none⟩)) ∧
    (∀ c, Issues s t p .halt → t.isService = false → (∀ r, (s.coreAt t.phys t.core).serving ≠ some (r, t.uid)) →
      s.ctx? t.ctx = some c → c.freeze = none →
      ∃ s', exec .halt s = .next s' ∧ FrozenBy s' t.ctx 0x44 ∧ s'.mem = s.mem) ∧
    (∀ r v, Issues s t p .eret → (s.coreAt t.phys t.core).serving = some (r, t.uid) → r.uid ≠ t.uid → s.thread? r.uid = some v →
      ∃ s' v', exec .eret s = .next s' ∧ s'.thread? r.uid = some v' ∧ v'.run = v.run.served ∧ v'.pc = v.pc ∧ v'.sameValues v ∧
        v'.full = v.full ∧ (s'.coreAt t.phys t.core).serving = none ∧ s'.thread? t.uid = none)

/-- A core's turn runs the instruction that its bytes decode to, for the thread that the barrel picks (R22, R23, R31,
R42, R255, R363). Where the next turn is a cycle of a core and the barrel picks a thread (its state before the issue, s1,
has the same memory, and the thread the same pc and register values), step is exec of the instruction that the bytes
at its pc decode to, at a port with the decoded guard, when the pc is even and each halfword of the word lies in the
graph's .text; of the prefix where the word is one and the word after it can be fetched; of INSTRUCTION_ADDRESS_TRAP
where the fetch fails; and of ILLEGAL_INSTRUCTION where the bytes decode to nothing. A fetch from a poisoned word of
the cluster's code store is charged to the thread's context, and nothing issues. Where the next turn is an
event, step is exec of it. -/
def Obligations.StepRunsDecodedInstruction : Prop :=
  (∀ (s s1 : State) (phys core : Nat) (rest : List Turn) (t : Thread), s.turns = .cycle phys core :: rest →
    ({ s with turns := rest } : State).prepared phys core = (s1, some t) →
    let port (g : Guard) : State := { s1 with port := some ⟨t.uid, g, none, false⟩ }
    let h := s1.codeHalf t.pc.toNat
    let inside := t.pc.getLsbD 0 = false ∧ s1.inText t.graph t.pc.toNat = true ∧
      (h.getLsbD 0 = true → s1.inText t.graph (t.pc + 2).toNat = true)
    let bad := s1.codeBad t.phys t.pc.toNat (s1.fetchLength t.pc)
    let whole := isPrefix h = true → ∀ d, s1.fetchWord t.graph (t.pc + 2) ≠ .bad d
    s1.mem = s.mem ∧ (∃ x ∈ s.threads, x.uid = t.uid ∧ x.pc = t.pc ∧ x.sameValues t) ∧
    (∀ g i tail, decode (Mem.bytes s1.mem (Loc.code t.pc.toNat).key 4) = .ok (g, i, tail) → inside → whole → bad = false →
      step s = exec i (port g)) ∧
    (∀ e, decode (Mem.bytes s1.mem (Loc.code t.pc.toNat).key 4) = .error e → inside → whole → bad = false →
      step s = exec .illegalInstruction (port Guard.always)) ∧
    (inside → whole → bad = true → step s = .next (s1.chargeCode t)) ∧
    (¬ inside → step s = exec .instructionAddressTrap (port Guard.always)) ∧
    (isPrefix h = true → (∃ d, s1.fetchWord t.graph (t.pc + 2) = .bad d) →
      step s = exec .instructionAddressTrap (port Guard.always))) ∧
  (∀ (s : State) (i : Instr) (rest : List Turn), s.turns = .event i :: rest →
    step s = exec i { s with turns := rest, port := none })

/-- What reset leaves (R21, R338, R379). After reset no image has been verified and no context, thread, graph, replay,
access or copy exists; memory is in its canonical form with nothing listed, so that every byte reads as zero (the
model's choice, log entry 5); every measurement register is 0; and each arbiter that R379 names starts as if its
highest-numbered requester had been served last: slot 63 of each core, core 7 of each matrix unit, the copy engine
of each bank, context 63 at each level. -/
def Obligations.ResetState : Prop :=
  State.reset.boot = .off ∧ State.reset.ctxs = [] ∧ State.reset.threads = [] ∧ State.reset.graphs = [] ∧
  State.reset.replays = [] ∧ State.reset.accs = [] ∧ State.reset.copies = [] ∧ State.reset.groups = [] ∧
  Mem.wf State.reset.mem = true ∧ (∀ k, Mem.get State.reset.mem k = 0) ∧
  (∀ (n : Nat) (h : n < 8), State.reset.measure[n] = 0) ∧ (∀ p c, (State.reset.coreAt p c).last = 63) ∧
  (∀ p, (State.reset.clusterAt p).mlast = 7 ∧ (State.reset.clusterAt p).blast = Vector.replicate 64 8) ∧
  (∀ (n : Nat) (h : n < 4), State.reset.launchLast[n] = 63)

/-- Every step keeps the memory in its one canonical form (R2, R198, R201). For every state whose memory is in canonical
form (keys strictly rising, no entry that equals what an unlisted byte reads as), whatever step does next (an issue
cycle of a core, any event, a host message or the passing of time), the memory of its next state is in canonical
form. Two states with the same bytes everywhere therefore have equal memories. -/
def Obligations.MemoryFormKept : Prop :=
  ∀ s s' : State, Mem.wf s.mem = true → step s = .next s' → Mem.wf s'.mem = true

/-- Decoding the words of a well-formed instruction gives it back with its guard, and leaves what follows (R22, R24,
R25, R26, R27, R28, R29, R30, R49, R51). For every instruction that a thread issues, with every operand at every
value that its encoding admits, and every guard that is legal (compact instructions take none): decoding the bytes
that encode writes for it, whatever bytes follow, gives exactly that guard, that instruction and the bytes that
follow. No bit of an operand is dropped and no two well-formed instructions share a word. -/
def Obligations.EncodeDecodeRoundTrip : Prop :=
  ∀ (g : Guard) (i : Instr) (rest : List Byte), g.ok = true → i.wf = true → encode g i ≠ [] →
    decode (encode g i ++ rest) = .ok (g, i, rest)

/-- The words that the spec's own worked encodings give decode to the instructions they stand for (R30, R61, R128, R221,
R226, R228, R229, R230, R232, R234, R243, R352). Each word that the spec writes out decodes to the instruction it is
given for: ORD.rel.cl 0x0182, MOV l2, l1 0x1886, TRAP #7 0x01CA, AADD l1, [l3], l2 0x00C8_2091, ACAS 0x48C8_2091,
AWAIT.eq 0x00C8_2095 and AWAIT.ge.w 0x90C8_2095, SUMON p1, p2, [l3] 0x0011_1097, SUMADD.s [l3], l2 0x00C8_0099,
SUMOFF l1, [l3] 0x0008_209B, CVTA.cl l2, l1 0x0004_3039, CVT.e4.s and CVT.e4.s.sat 0xD904_30A9 and 0xD9C4_40A9,
CPG.in t0, l2, l3 0x0106_00F1 and WAITK #0x01 0x0002_00F3. -/
def Obligations.WordSamples : Prop :=
  decode (bytes16 0x0182) = .ok (Guard.always, .ord .rel .cl, []) ∧
  decode (bytes16 0x1886) = .ok (Guard.always, .mov (.l 1) (.l 2), []) ∧
  decode (bytes16 0x01CA) = .ok (Guard.always, .trap 7, []) ∧
  decode (bytes32 0x00C82091) = .ok (Guard.always, .aadd (.l 1) (.l 3) (.l 2) .d, []) ∧
  decode (bytes32 0x48C82091) = .ok (Guard.always, .acas (.l 1) (.l 3) (.l 2) .d, []) ∧
  decode (bytes32 0x00C82095) = .ok (Guard.always, .await (.l 1) (.l 3) (.l 2) .eq .d, []) ∧
  decode (bytes32 0x90C82095) = .ok (Guard.always, .await (.l 1) (.l 3) (.l 2) .ge .w, []) ∧
  decode (bytes32 0x00111097) = .ok (Guard.always, .sumon 1 2 (.l 3), []) ∧
  decode (bytes32 0x00C80099) = .ok (Guard.always, .sumaddS (.l 3) (.l 2), []) ∧
  decode (bytes32 0x0008209B) = .ok (Guard.always, .sumoff (.l 1) (.l 3), []) ∧
  decode (bytes32 0x00043039) = .ok (Guard.always, .cvtaCl (.l 2) (.l 1), []) ∧
  decode (bytes32 0xD90430A9) = .ok (Guard.always, .cvt (.l 2) (.l 1) .dyn .s .e4, []) ∧
  decode (bytes32 0xD9C440A9) = .ok (Guard.always, .cvt (.l 3) (.l 1) .sat .s .e4, []) ∧
  decode (bytes32 0x010600F1) = .ok (Guard.always, .cpgIn 0 (.l 2) (.l 3), []) ∧
  decode (bytes32 0x000200F3) = .ok (Guard.always, .waitk 1, [])
end

