-- ==== Sys2Proof/Laws/Issue.lean ====
section
/-! SUPPORT. What one attempt to issue does (R42), once for every instruction: the verdict where the checks pass, the
start of an instruction without a stream, and the outcome of the attempt. -/

namespace Sys2Proof.Machine

/-- The checks of R42 pass: the verdict is to issue. -/
theorem verdict_of_issues {s : State} {t : Thread} {p : Port} {i : Instr} (h : Issues s t p i) :
    s.verdict t p i = .go := by
  obtain ⟨-, -, hill, hwin, hbp, hheld, hg, hgt, hd, hs, hh⟩ := h
  have h1 : ((s.names t i).all (inWindow t.window)) = true := List.all_eq_true.mpr hwin
  have h2 : (if p.seqr || t.bpSkip == some t.pc then none else s.breakpoint t) = none := by
    rcases hbp with h | h | h <;> simp [h]
  have h3 : (!p.seqr && (.pred p.guard.p :: s.names t i).any (s.isHeld t)) = false := by
    rcases hheld with h | h
    · simp [h]
    · simp only [Bool.and_eq_false_iff, List.any_eq_false]
      exact .inr fun o ho => by simp [h o ho]
  have h4 : (t.pred p.guard.p == p.guard.neg) = false := by simpa using hgt
  have h5 : (regsOf i).dsts.find? (s.pending t) = none := by
    simp only [List.find?_eq_none]
    exact fun o ho => by simp [(hd o ho).1]
  have h6 : (s.srcsOf t i).find? (s.empty t) = none := by
    simp only [List.find?_eq_none]
    exact fun o ho => by simp [hs o ho]
  have h7 : (regsOf i).dsts.any (s.pushFull t) = false := by
    simp only [List.any_eq_false]
    exact fun o ho => by simp [(hd o ho).2]
  simp only [State.verdict, hill, h1, h2, h3, hg, h4, h5, h6, hh, h7, Bool.false_eq_true, if_false, Bool.not_true]

/-- Popping nothing changes nothing. -/
theorem popAll_plain {s : State} {t : Thread} {ws : List WReg} (h : ∀ w ∈ ws, s.binding t w = .plain) :
    s.popAll t ws = .ok (s, t) := by
  induction ws with
  | nil => rfl
  | cons w ws ih =>
    have hw := h w (by simp)
    simp only [State.popAll, hw]
    exact ih fun x hx => h x (by simp [hx])

/-- Opening no push changes nothing. -/
theorem pushAll_plain {s : State} {t : Thread} {p : Port} {ws : List WReg} (h : ∀ w ∈ ws, s.binding t w = .plain) :
    s.pushAll t p ws = .ok s := by
  induction ws with
  | nil => rfl
  | cons w ws ih =>
    have hw := h w (by simp)
    simp only [State.pushAll, hw]
    exact ih fun x hx => h x (by simp [hx])

/-- A wide register of a list stands in its `widesOf`. -/
theorem mem_widesOf {os : List Operand} {w : WReg} : w ∈ widesOf os ↔ Operand.wide w ∈ os := by
  simp only [widesOf, List.mem_dedup, List.mem_filterMap]
  constructor
  · rintro ⟨o, ho, h⟩
    cases o <;> simp_all
  · exact fun h => ⟨_, h, rfl⟩

/-- With no stream bound, every destination is owed. -/
theorem owedBy_plain {s : State} {t : Thread} {i : Instr} (h : ∀ w ∈ widesOf (regsOf i).dsts, s.binding t w = .plain) :
    s.owedBy t i = (regsOf i).dsts := by
  simp only [State.owedBy, List.filter_eq_self]
  intro o ho
  cases o with
  | wide w => simp [h w (mem_widesOf.mpr ho)]
  | _ => rfl

/-- An instruction without a stream starts (R42 step 8) with the operands as they stand. -/
theorem begin_of_noStream {s : State} {t : Thread} {p : Port} {i : Instr} (h : NoStream s t i) :
    s.begin t p i = .ok (s.issued t p i, t) := by
  simp only [State.begin, popAll_plain h.1, pushAll_plain h.2, owedBy_plain h.2, State.issued]

/-- An instruction that names no wide register has no stream. -/
theorem noStream_of_noWide {s : State} {t : Thread} {i : Instr} (h1 : widesOf (s.srcsOf t i) = [])
    (h2 : widesOf (regsOf i).dsts = []) : NoStream s t i := by
  simp [NoStream, h1, h2]

/-- One attempt where the checks pass and the instruction starts. -/
theorem attempt_of_begin {s s1 : State} {t t1 : Thread} {p : Port} {i : Instr}
    {body : State → Thread → Port → Except Trap State} (h : Issues s t p i) (hb : s.begin t p i = .ok (s1, t1)) :
    attempt i s body = .next (match body s1 t1 p with
      | .error tr => (s.chargeTrap t.ctx t.phys tr).takeTrap t p tr
      | .ok s2 => s2) := by
  unfold attempt
  rw [h.1]
  dsimp only
  rw [h.2.1]
  dsimp only
  rw [State.attemptAt, verdict_of_issues h]
  dsimp only
  rw [hb]
  all_goals (dsimp only; rcases body s1 t1 p <;> rfl)

/-- One attempt of an instruction without a stream whose operation completes. -/
theorem attempt_ok {s s2 : State} {t : Thread} {p : Port} {i : Instr}
    {body : State → Thread → Port → Except Trap State} (h : Issues s t p i) (hn : NoStream s t i)
    (hb : body (s.issued t p i) t p = .ok s2) : attempt i s body = .next s2 := by
  rw [attempt_of_begin h (begin_of_noStream hn), hb]

/-- A trap that is no translation fault charges nothing. -/
theorem chargeTrap_of_code {s : State} {c p : Nat} {tr : Trap} (h : tr.code ≠ 0x06) : s.chargeTrap c p tr = s := by
  simp [State.chargeTrap, h]

/-- With no word poisoned, a trap charges nothing (R363). -/
theorem chargeTrap_of_sound {s : State} {c p : Nat} {tr : Trap} (h : s.poison = []) : s.chargeTrap c p tr = s := by
  simp [State.chargeTrap, h]

/-- One attempt of an instruction without a stream whose operation traps: the thread takes the trap, and nothing that
issuing did stays (R41), the charge of a poisoned word that the translation read apart (R363). -/
theorem attempt_trap {s : State} {t : Thread} {p : Port} {i : Instr} {tr : Trap}
    {body : State → Thread → Port → Except Trap State} (h : Issues s t p i) (hn : NoStream s t i)
    (hb : body (s.issued t p i) t p = .error tr) :
    attempt i s body = .next ((s.chargeTrap t.ctx t.phys tr).takeTrap t p tr) := by
  rw [attempt_of_begin h (begin_of_noStream hn), hb]

/-- Every instruction that a thread issues, ORD apart, is one attempt of some operation. -/
theorem exec_eq_attempt {i : Instr} (h : ThreadInstr i) (ho : ∀ o c, i ≠ .ord o c) (s : State) : ∃ body, exec i s = attempt i s body := by
  cases i <;> first
    | exact ⟨_, rfl⟩
    | exact absurd rfl h
    | exact absurd rfl (ho _ _)

/-- A computation without a stream issues with its result on its way. -/
theorem compute_ok {s : State} {t : Thread} {p : Port} {i : Instr} {f : Thread → List (Operand × Wide)}
    (h : Issues s t p i) (hn : NoStream s t i) :
    compute i s f = .next ((s.issued t p i).result t p (f t) .alu none) := attempt_ok h hn rfl

end Sys2Proof.Machine
end

