-- ==== Sys2Proof/Laws/Memory.lean ====
section
/-! SUPPORT. The laws of the memory: what a byte reads as after each operation, that each operation keeps the canonical form,
and that two memories in that form with the same bytes are equal. -/

namespace Sys2Proof.Machine

namespace Mem

/-! ## The canonical form -/

theorem wfFrom_mono {lo lo' : Nat} {m : List Host.Cell} (h : lo' ≤ lo) (hw : wfFrom lo m = true) : wfFrom lo' m = true := by
  cases m with
  | nil => rfl
  | cons c rest => simp only [wfFrom, Bool.and_eq_true, decide_eq_true_eq] at hw ⊢; exact ⟨⟨by omega, hw.1.2⟩, hw.2⟩

theorem get_of_lt {lo a : Nat} {m : List Host.Cell} (hw : wfFrom lo m = true) (h : a < lo) : get m a = unlisted := by
  cases m with
  | nil => rfl
  | cons c rest =>
    simp only [wfFrom, Bool.and_eq_true, decide_eq_true_eq] at hw
    simp only [get, show c.1 ≠ a by omega, show a < c.1 by omega, if_true, if_false]

/-- Canonical memories with the same bytes are the same list. -/
theorem eq_of_get {m m' : List Host.Cell} : ∀ lo, wfFrom lo m = true → wfFrom lo m' = true → (∀ a, get m a = get m' a) → m = m' := by
  induction m generalizing m' with
  | nil =>
    intro lo _ h' he
    cases m' with
    | nil => rfl
    | cons c rest =>
      simp only [wfFrom, Bool.and_eq_true, bne_iff_ne, ne_eq] at h'
      exact absurd (he c.1).symm (by simpa [get] using h'.1.2)
  | cons c rest ih =>
    intro lo h h' he
    simp only [wfFrom, Bool.and_eq_true, decide_eq_true_eq, bne_iff_ne, ne_eq] at h
    cases m' with
    | nil => exact absurd (he c.1) (by simpa [get] using h.1.2)
    | cons c' rest' =>
      simp only [wfFrom, Bool.and_eq_true, decide_eq_true_eq, bne_iff_ne, ne_eq] at h'
      obtain ⟨k, v⟩ := c
      obtain ⟨k', v'⟩ := c'
      have hk : k = k' := by
        rcases Nat.lt_trichotomy k k' with hlt | heq | hlt
        · have := he k
          simp only [get, if_true, show k' ≠ k by omega, hlt, if_false] at this
          exact absurd this h.1.2
        · exact heq
        · have := he k'
          simp only [get, if_true, show k ≠ k' by omega, hlt, if_false] at this
          exact absurd this.symm h'.1.2
      subst hk
      have hv : v = v' := by simpa [get] using he k
      subst hv
      have : rest = rest' := by
        refine ih (k + 1) h.2 h'.2 fun a => ?_
        rcases Nat.lt_or_ge k a with hlt | hge
        · have := he a
          simpa only [get, show k ≠ a by omega, show ¬ a < k by omega, if_false] using this
        · rw [get_of_lt h.2 (by omega), get_of_lt h'.2 (by omega)]
      rw [this]

theorem eq_of_wf {m m' : List Host.Cell} (h : wf m = true) (h' : wf m' = true) (he : ∀ a, get m a = get m' a) : m = m' :=
  eq_of_get 0 h h' he

/-! ## One byte -/

theorem wfFrom_set {lo a : Nat} {m : List Host.Cell} {b : Byte} (h : wfFrom lo m = true) (ha : lo ≤ a) : wfFrom lo (set m a b) = true := by
  induction m generalizing lo with
  | nil => unfold set; split <;> simp_all [wfFrom]
  | cons c rest ih =>
    obtain ⟨k, v⟩ := c
    simp only [wfFrom, Bool.and_eq_true, decide_eq_true_eq, bne_iff_ne, ne_eq] at h
    unfold set
    by_cases h1 : a < k
    · by_cases hb : b = unlisted
      · simp [h1, hb, wfFrom, h.1.1, h.1.2, h.2]
      · simp [h1, hb, wfFrom, ha, h.1.2, h.2, show a + 1 ≤ k by omega]
    · by_cases h2 : a = k
      · subst h2
        by_cases hb : b = unlisted
        · simpa [hb] using wfFrom_mono (by omega) h.2
        · simp [hb, wfFrom, ha, h.2]
      · simp [h1, h2, wfFrom, h.1.1, h.1.2, ih h.2 (by omega)]

theorem wf_set {m : List Host.Cell} {a : Nat} {b : Byte} (h : wf m = true) : wf (set m a b) = true := wfFrom_set h (Nat.zero_le a)

/-- A read after a write to the same place gives what was written; every other place keeps its byte. -/
theorem get_setFrom {lo : Nat} {m : List Host.Cell} {a : Nat} {b : Byte} (h : wfFrom lo m = true) (x : Nat) :
    get (set m a b) x = if x = a then b else get m x := by
  induction m generalizing lo with
  | nil =>
    unfold set
    by_cases hb : b = unlisted
    · simp [hb, get]
    · by_cases hx : x = a
      · simp [hb, hx, get]
      · simp [hb, hx, get, Ne.symm hx]
  | cons c rest ih =>
    obtain ⟨k, v⟩ := c
    simp only [wfFrom, Bool.and_eq_true, decide_eq_true_eq] at h
    have hr : ∀ y, y ≤ k → get rest y = unlisted := fun y hy => get_of_lt h.2 (by omega)
    unfold set
    by_cases h1 : a < k
    · by_cases hb : b = unlisted
      · simp only [h1, if_true, hb]
        split
        · next hx => subst hx; simp [get, show k ≠ x by omega, h1]
        · rfl
      · simp only [h1, if_true, hb, if_false]
        rw [get]
        by_cases hx : x = a
        · simp [hx]
        · simp only [Ne.symm hx, if_false, hx]
          split
          · next hlt => simp [get, show k ≠ x by omega, show x < k by omega]
          · rfl
    · by_cases h2 : a = k
      · subst h2
        by_cases hb : b = unlisted
        · simp only [Nat.lt_irrefl, if_true, if_false, hb, get]
          by_cases hx : x = a
          · simp [hx, hr]
          · simp only [hx, Ne.symm hx, if_false]
            split
            · exact hr _ (by omega)
            · rfl
        · simp only [Nat.lt_irrefl, if_true, if_false, hb, get]
          by_cases hx : x = a
          · simp [hx]
          · simp [hx, Ne.symm hx]
      · simp only [h1, h2, if_false, get, ih h.2]
        by_cases hx : x = a
        · simp [hx, Ne.symm h2, h1]
        · simp [hx]

theorem get_set {m : List Host.Cell} {a : Nat} {b : Byte} (h : wf m = true) (x : Nat) :
    get (set m a b) x = if x = a then b else get m x := get_setFrom h x

/-! ## Several bytes -/

theorem wf_setBytes {m : List Host.Cell} {a : Nat} {bs : List Byte} (h : wf m = true) : wf (setBytes m a bs) = true := by
  induction bs generalizing m a with
  | nil => exact h
  | cons b bs ih => exact ih (wf_set h)

theorem wf_setLE {m : List Host.Cell} {a n v : Nat} (h : wf m = true) : wf (setLE m a n v) = true := by
  induction n generalizing m a v with
  | zero => exact h
  | succ n ih => exact ih (wf_set h)

theorem wf_setCells {m cs : List Host.Cell} (h : wf m = true) : wf (setCells m cs) = true := by
  induction cs generalizing m with
  | nil => exact h
  | cons c cs ih => exact ih (wf_set h)

theorem wfFrom_filter {m : List Host.Cell} (f : Host.Cell → Bool) : ∀ lo, wfFrom lo m = true → wfFrom lo (m.filter f) = true := by
  induction m with
  | nil => intro lo h; exact h
  | cons c rest ih =>
    intro lo h
    simp only [wfFrom, Bool.and_eq_true, decide_eq_true_eq] at h
    simp only [List.filter_cons]
    split
    · simp only [wfFrom, Bool.and_eq_true, decide_eq_true_eq]; exact ⟨h.1, ih _ h.2⟩
    · exact wfFrom_mono (by omega) (ih _ h.2)

theorem wf_clear {m : List Host.Cell} {lo n : Nat} (h : wf m = true) : wf (clear m lo n) = true := wfFrom_filter _ _ h

theorem wf_slice {m : List Host.Cell} {lo n : Nat} (h : wf m = true) : wf (slice m lo n) = true := wfFrom_filter _ _ h

/-- A list of bytes put from a key on: byte `i` of it stands `i` bytes on, and every other place keeps its byte. -/
theorem get_setBytes {m : List Host.Cell} {a : Nat} {bs : List Byte} (h : wf m = true) (x : Nat) :
    get (setBytes m a bs) x = if a ≤ x then (bs[x - a]?).getD (get m x) else get m x := by
  induction bs generalizing m a with
  | nil => simp [setBytes]
  | cons b bs ih =>
    rw [setBytes, ih (wf_set h), get_set h]
    rcases Nat.lt_trichotomy x a with hlt | rfl | hgt
    · simp [show ¬ a + 1 ≤ x by omega, show ¬ a ≤ x by omega, show x ≠ a by omega]
    · simp
    · obtain ⟨d, rfl⟩ : ∃ d, x = a + 1 + d := ⟨x - (a + 1), by omega⟩
      simp [show a + 1 + d - a = d + 1 by omega, show a + 1 + d ≠ a by omega, show a + 1 + d - (a + 1) = d by omega,
        show a ≤ a + 1 + d by omega]

/-- A number put from a key on, little-endian: byte `i` of it stands `i` bytes on. -/
theorem get_setLE {m : List Host.Cell} {a n v : Nat} (h : wf m = true) (x : Nat) :
    get (setLE m a n v) x = if a ≤ x ∧ x < a + n then BitVec.ofNat 8 (v / 256 ^ (x - a)) else get m x := by
  induction n generalizing m a v with
  | zero => rw [setLE, if_neg (by omega)]
  | succ n ih =>
    rw [setLE, ih (wf_set h), get_set h]
    rcases Nat.lt_trichotomy x a with hlt | rfl | hgt
    · rw [if_neg (by omega), if_neg (by omega), if_neg (by omega)]
    · simp
    · obtain ⟨d, rfl⟩ : ∃ d, x = a + 1 + d := ⟨x - (a + 1), by omega⟩
      have e : a + 1 + d - a = d + 1 := by omega
      by_cases hd : d < n
      · simp [show a + 1 + d < a + 1 + n by omega, show a ≤ a + 1 + d by omega, show a + 1 + d < a + (n + 1) by omega, e,
          Nat.pow_succ, Nat.div_div_eq_div_mul, Nat.mul_comm]
      · simp [show ¬ a + 1 + d < a + 1 + n by omega, show ¬ a + 1 + d < a + (n + 1) by omega, show a + 1 + d ≠ a by omega]

theorem get_filter {m : List Host.Cell} (f : Nat → Bool) : ∀ lo, wfFrom lo m = true → ∀ x,
    get (m.filter fun c => f c.1) x = if f x then get m x else unlisted := by
  induction m with
  | nil => intro lo _ x; simp [get]
  | cons c rest ih =>
    intro lo h x
    obtain ⟨k, v⟩ := c
    simp only [wfFrom, Bool.and_eq_true, decide_eq_true_eq] at h
    have hr : ∀ y, y ≤ k → get rest y = unlisted := fun y hy => get_of_lt h.2 (by omega)
    simp only [List.filter_cons]
    split
    · next hf =>
      simp only [get, ih _ h.2]
      split
      · next e => simp [← e, hf]
      · split
        · simp
        · rfl
    · next hf =>
      rw [ih _ h.2, get]
      by_cases e : k = x
      · simp [← e, hf]
      · simp only [e, if_false]
        by_cases hlt : x < k
        · simp [hlt, hr x (by omega)]
        · simp [hlt]

theorem get_clear {m : List Host.Cell} {lo n : Nat} (h : wf m = true) (x : Nat) :
    get (clear m lo n) x = if lo ≤ x ∧ x < lo + n then unlisted else get m x := by
  rw [clear, get_filter (fun k => !(decide (lo ≤ k) && decide (k < lo + n))) 0 h x]
  by_cases h1 : lo ≤ x <;> by_cases h2 : x < lo + n <;> simp [h1, h2]

/-- Bytes that two memories share read as the same number. -/
theorem getLE_congr {m m' : List Host.Cell} {a n : Nat} (h : ∀ x, a ≤ x → x < a + n → get m x = get m' x) : getLE m a n = getLE m' a n := by
  induction n generalizing a with
  | zero => rfl
  | succ n ih =>
    simp only [getLE, h a (by omega) (by omega)]
    rw [ih fun x h1 h2 => h x (by omega) (by omega)]

/-- Reading the bytes that a write has put gives the low bytes of the number. -/
theorem getLE_setLE {m : List Host.Cell} {a n v : Nat} (h : wf m = true) : getLE (setLE m a n v) a n = v % 256 ^ n := by
  have key : ∀ (m' : List Host.Cell) (n a v : Nat), (∀ x, a ≤ x → x < a + n → get m' x = BitVec.ofNat 8 (v / 256 ^ (x - a))) →
      getLE m' a n = v % 256 ^ n := by
    intro m' n
    induction n with
    | zero => intro a v _; simp [getLE, Nat.mod_one]
    | succ n ih =>
      intro a v hx
      rw [getLE, hx a (by omega) (by omega), ih (a + 1) (v / 256)]
      · simp only [Nat.sub_self, Nat.pow_zero, Nat.div_one, BitVec.toNat_ofNat]
        rw [Nat.pow_succ 256 n, Nat.mul_comm (256 ^ n) 256, Nat.mod_mul]
      · intro x h1 h2
        rw [hx x (by omega) (by omega), show x - a = (x - (a + 1)) + 1 by omega, Nat.pow_succ, Nat.mul_comm, ← Nat.div_div_eq_div_mul]
  refine key _ _ _ _ fun x h1 h2 => ?_
  rw [get_setLE h, if_pos ⟨h1, h2⟩]

/-- Bytes outside a write read as before. -/
theorem getLE_setLE_of_disjoint {m : List Host.Cell} {a b n k v : Nat} (h : wf m = true) (hd : b + k ≤ a ∨ a + n ≤ b) :
    getLE (setLE m a n v) b k = getLE m b k :=
  getLE_congr fun x h1 h2 => by rw [get_setLE h, if_neg (by omega)]

end Mem

/-- A write at a place keeps the canonical form. -/
theorem wf_write {s : State} {l : Loc} {n v : Nat} (h : Mem.wf s.mem = true) : Mem.wf (s.write l n v).mem = true := Mem.wf_setLE h

/-- A byte after a write at a place. -/
theorem get_write {s : State} {l : Loc} {n v : Nat} (h : Mem.wf s.mem = true) (x : Nat) :
    Mem.get (s.write l n v).mem x = if l.key ≤ x ∧ x < l.key + n then BitVec.ofNat 8 (v / 256 ^ (x - l.key)) else Mem.get s.mem x :=
  Mem.get_setLE h x

/-- A read of the place written gives the low bytes of the number. -/
theorem read_write {s : State} {l : Loc} {n v : Nat} (h : Mem.wf s.mem = true) : (s.write l n v).read l n = v % 256 ^ n := Mem.getLE_setLE h

end Sys2Proof.Machine
end

