-- ==== Sys2Proof/Laws/State.lean ====
section
/-! SUPPORT. What each update of the state leaves in each field, one lemma per field and update, so that no proof unfolds a
record update; and the same for the updates of a thread's registers. -/

set_option Elab.async false

namespace Sys2Proof.Machine

/-! ## The state -/

/-! ### `State.updThread` -/

section
variable (s : State) (u : Nat) (f : Thread → Thread)

@[simp] theorem State.updThread_mem : (s.updThread u f).mem = s.mem := rfl
@[simp] theorem State.updThread_granules : (s.updThread u f).granules = s.granules := rfl
@[simp] theorem State.updThread_poison : (s.updThread u f).poison = s.poison := rfl
@[simp] theorem State.updThread_threads : (s.updThread u f).threads = s.threads.map fun t => if t.uid == u then f t else t := rfl
@[simp] theorem State.updThread_accs : (s.updThread u f).accs = s.accs := rfl
@[simp] theorem State.updThread_arrivals : (s.updThread u f).arrivals = s.arrivals := rfl
@[simp] theorem State.updThread_pends : (s.updThread u f).pends = s.pends := rfl
@[simp] theorem State.updThread_fwds : (s.updThread u f).fwds = s.fwds := rfl
@[simp] theorem State.updThread_families : (s.updThread u f).families = s.families := rfl
@[simp] theorem State.updThread_kills : (s.updThread u f).kills = s.kills := rfl
@[simp] theorem State.updThread_cores : (s.updThread u f).cores = s.cores := rfl
@[simp] theorem State.updThread_clusters : (s.updThread u f).clusters = s.clusters := rfl
@[simp] theorem State.updThread_copies : (s.updThread u f).copies = s.copies := rfl
@[simp] theorem State.updThread_saves : (s.updThread u f).saves = s.saves := rfl
@[simp] theorem State.updThread_groups : (s.updThread u f).groups = s.groups := rfl
@[simp] theorem State.updThread_graphs : (s.updThread u f).graphs = s.graphs := rfl
@[simp] theorem State.updThread_uploads : (s.updThread u f).uploads = s.uploads := rfl
@[simp] theorem State.updThread_replays : (s.updThread u f).replays = s.replays := rfl
@[simp] theorem State.updThread_tags : (s.updThread u f).tags = s.tags := rfl
@[simp] theorem State.updThread_pubs : (s.updThread u f).pubs = s.pubs := rfl
@[simp] theorem State.updThread_ranges : (s.updThread u f).ranges = s.ranges := rfl
@[simp] theorem State.updThread_ctxs : (s.updThread u f).ctxs = s.ctxs := rfl
@[simp] theorem State.updThread_census : (s.updThread u f).census = s.census := rfl
@[simp] theorem State.updThread_tlb : (s.updThread u f).tlb = s.tlb := rfl
@[simp] theorem State.updThread_walks : (s.updThread u f).walks = s.walks := rfl
@[simp] theorem State.updThread_sums : (s.updThread u f).sums = s.sums := rfl
@[simp] theorem State.updThread_shoots : (s.updThread u f).shoots = s.shoots := rfl
@[simp] theorem State.updThread_summary : (s.updThread u f).summary = s.summary := rfl
@[simp] theorem State.updThread_summaryAt : (s.updThread u f).summaryAt = s.summaryAt := rfl
@[simp] theorem State.updThread_lmap : (s.updThread u f).lmap = s.lmap := rfl
@[simp] theorem State.updThread_freezeOrder : (s.updThread u f).freezeOrder = s.freezeOrder := rfl
@[simp] theorem State.updThread_launchLast : (s.updThread u f).launchLast = s.launchLast := rfl
@[simp] theorem State.updThread_watchLast : (s.updThread u f).watchLast = s.watchLast := rfl
@[simp] theorem State.updThread_scrubs : (s.updThread u f).scrubs = s.scrubs := rfl
@[simp] theorem State.updThread_events : (s.updThread u f).events = s.events := rfl
@[simp] theorem State.updThread_eventSeq : (s.updThread u f).eventSeq = s.eventSeq := rfl
@[simp] theorem State.updThread_eventEp : (s.updThread u f).eventEp = s.eventEp := rfl
@[simp] theorem State.updThread_out : (s.updThread u f).out = s.out := rfl
@[simp] theorem State.updThread_dropped : (s.updThread u f).dropped = s.dropped := rfl
@[simp] theorem State.updThread_ports : (s.updThread u f).ports = s.ports := rfl
@[simp] theorem State.updThread_stackErrs : (s.updThread u f).stackErrs = s.stackErrs := rfl
@[simp] theorem State.updThread_linkRetries : (s.updThread u f).linkRetries = s.linkRetries := rfl
@[simp] theorem State.updThread_corrected : (s.updThread u f).corrected = s.corrected := rfl
@[simp] theorem State.updThread_replaceMe : (s.updThread u f).replaceMe = s.replaceMe := rfl
@[simp] theorem State.updThread_powerLimit : (s.updThread u f).powerLimit = s.powerLimit := rfl
@[simp] theorem State.updThread_boot : (s.updThread u f).boot = s.boot := rfl
@[simp] theorem State.updThread_cfg : (s.updThread u f).cfg = s.cfg := rfl
@[simp] theorem State.updThread_measure : (s.updThread u f).measure = s.measure := rfl
@[simp] theorem State.updThread_versions : (s.updThread u f).versions = s.versions := rfl
@[simp] theorem State.updThread_nextGraph : (s.updThread u f).nextGraph = s.nextGraph := rfl
@[simp] theorem State.updThread_now : (s.updThread u f).now = s.now := rfl
@[simp] theorem State.updThread_port : (s.updThread u f).port = s.port := rfl
@[simp] theorem State.updThread_turns : (s.updThread u f).turns = s.turns := rfl
@[simp] theorem State.updThread_fresh : (s.updThread u f).fresh = s.fresh := rfl
@[simp] theorem State.updThread_free : (s.updThread u f).free = s.free := rfl

end

/-! ### `State.dropThread` -/

section
variable (s : State) (u : Nat)

@[simp] theorem State.dropThread_mem : (s.dropThread u).mem = s.mem := rfl
@[simp] theorem State.dropThread_granules : (s.dropThread u).granules = s.granules := rfl
@[simp] theorem State.dropThread_poison : (s.dropThread u).poison = s.poison := rfl
@[simp] theorem State.dropThread_threads : (s.dropThread u).threads = s.threads.filter fun t => t.uid != u := rfl
@[simp] theorem State.dropThread_accs : (s.dropThread u).accs = s.accs := rfl
@[simp] theorem State.dropThread_arrivals : (s.dropThread u).arrivals = s.arrivals := rfl
@[simp] theorem State.dropThread_pends : (s.dropThread u).pends = s.pends := rfl
@[simp] theorem State.dropThread_fwds : (s.dropThread u).fwds = s.fwds := rfl
@[simp] theorem State.dropThread_families : (s.dropThread u).families = s.families := rfl
@[simp] theorem State.dropThread_kills : (s.dropThread u).kills = s.kills := rfl
@[simp] theorem State.dropThread_cores : (s.dropThread u).cores = s.cores := rfl
@[simp] theorem State.dropThread_clusters : (s.dropThread u).clusters = s.clusters := rfl
@[simp] theorem State.dropThread_copies : (s.dropThread u).copies = s.copies := rfl
@[simp] theorem State.dropThread_saves : (s.dropThread u).saves = s.saves := rfl
@[simp] theorem State.dropThread_groups : (s.dropThread u).groups = s.groups := rfl
@[simp] theorem State.dropThread_graphs : (s.dropThread u).graphs = s.graphs := rfl
@[simp] theorem State.dropThread_uploads : (s.dropThread u).uploads = s.uploads := rfl
@[simp] theorem State.dropThread_replays : (s.dropThread u).replays = s.replays := rfl
@[simp] theorem State.dropThread_tags : (s.dropThread u).tags = s.tags := rfl
@[simp] theorem State.dropThread_pubs : (s.dropThread u).pubs = s.pubs := rfl
@[simp] theorem State.dropThread_ranges : (s.dropThread u).ranges = s.ranges := rfl
@[simp] theorem State.dropThread_ctxs : (s.dropThread u).ctxs = s.ctxs := rfl
@[simp] theorem State.dropThread_census : (s.dropThread u).census = s.census := rfl
@[simp] theorem State.dropThread_tlb : (s.dropThread u).tlb = s.tlb := rfl
@[simp] theorem State.dropThread_walks : (s.dropThread u).walks = s.walks := rfl
@[simp] theorem State.dropThread_sums : (s.dropThread u).sums = s.sums := rfl
@[simp] theorem State.dropThread_shoots : (s.dropThread u).shoots = s.shoots := rfl
@[simp] theorem State.dropThread_summary : (s.dropThread u).summary = s.summary := rfl
@[simp] theorem State.dropThread_summaryAt : (s.dropThread u).summaryAt = s.summaryAt := rfl
@[simp] theorem State.dropThread_lmap : (s.dropThread u).lmap = s.lmap := rfl
@[simp] theorem State.dropThread_freezeOrder : (s.dropThread u).freezeOrder = s.freezeOrder := rfl
@[simp] theorem State.dropThread_launchLast : (s.dropThread u).launchLast = s.launchLast := rfl
@[simp] theorem State.dropThread_watchLast : (s.dropThread u).watchLast = s.watchLast := rfl
@[simp] theorem State.dropThread_scrubs : (s.dropThread u).scrubs = s.scrubs := rfl
@[simp] theorem State.dropThread_events : (s.dropThread u).events = s.events := rfl
@[simp] theorem State.dropThread_eventSeq : (s.dropThread u).eventSeq = s.eventSeq := rfl
@[simp] theorem State.dropThread_eventEp : (s.dropThread u).eventEp = s.eventEp := rfl
@[simp] theorem State.dropThread_out : (s.dropThread u).out = s.out := rfl
@[simp] theorem State.dropThread_dropped : (s.dropThread u).dropped = s.dropped := rfl
@[simp] theorem State.dropThread_ports : (s.dropThread u).ports = s.ports := rfl
@[simp] theorem State.dropThread_stackErrs : (s.dropThread u).stackErrs = s.stackErrs := rfl
@[simp] theorem State.dropThread_linkRetries : (s.dropThread u).linkRetries = s.linkRetries := rfl
@[simp] theorem State.dropThread_corrected : (s.dropThread u).corrected = s.corrected := rfl
@[simp] theorem State.dropThread_replaceMe : (s.dropThread u).replaceMe = s.replaceMe := rfl
@[simp] theorem State.dropThread_powerLimit : (s.dropThread u).powerLimit = s.powerLimit := rfl
@[simp] theorem State.dropThread_boot : (s.dropThread u).boot = s.boot := rfl
@[simp] theorem State.dropThread_cfg : (s.dropThread u).cfg = s.cfg := rfl
@[simp] theorem State.dropThread_measure : (s.dropThread u).measure = s.measure := rfl
@[simp] theorem State.dropThread_versions : (s.dropThread u).versions = s.versions := rfl
@[simp] theorem State.dropThread_nextGraph : (s.dropThread u).nextGraph = s.nextGraph := rfl
@[simp] theorem State.dropThread_now : (s.dropThread u).now = s.now := rfl
@[simp] theorem State.dropThread_port : (s.dropThread u).port = s.port := rfl
@[simp] theorem State.dropThread_turns : (s.dropThread u).turns = s.turns := rfl
@[simp] theorem State.dropThread_fresh : (s.dropThread u).fresh = s.fresh := rfl
@[simp] theorem State.dropThread_free : (s.dropThread u).free = s.free := rfl

end

/-! ### `State.setCore` -/

section
variable (s : State) (k : CoreSt)

@[simp] theorem State.setCore_mem : (s.setCore k).mem = s.mem := by unfold State.setCore; split <;> rfl
@[simp] theorem State.setCore_granules : (s.setCore k).granules = s.granules := by unfold State.setCore; split <;> rfl
@[simp] theorem State.setCore_poison : (s.setCore k).poison = s.poison := by unfold State.setCore; split <;> rfl
@[simp] theorem State.setCore_threads : (s.setCore k).threads = s.threads := by unfold State.setCore; split <;> rfl
@[simp] theorem State.setCore_accs : (s.setCore k).accs = s.accs := by unfold State.setCore; split <;> rfl
@[simp] theorem State.setCore_arrivals : (s.setCore k).arrivals = s.arrivals := by unfold State.setCore; split <;> rfl
@[simp] theorem State.setCore_pends : (s.setCore k).pends = s.pends := by unfold State.setCore; split <;> rfl
@[simp] theorem State.setCore_fwds : (s.setCore k).fwds = s.fwds := by unfold State.setCore; split <;> rfl
@[simp] theorem State.setCore_families : (s.setCore k).families = s.families := by unfold State.setCore; split <;> rfl
@[simp] theorem State.setCore_kills : (s.setCore k).kills = s.kills := by unfold State.setCore; split <;> rfl
@[simp] theorem State.setCore_clusters : (s.setCore k).clusters = s.clusters := by unfold State.setCore; split <;> rfl
@[simp] theorem State.setCore_copies : (s.setCore k).copies = s.copies := by unfold State.setCore; split <;> rfl
@[simp] theorem State.setCore_saves : (s.setCore k).saves = s.saves := by unfold State.setCore; split <;> rfl
@[simp] theorem State.setCore_groups : (s.setCore k).groups = s.groups := by unfold State.setCore; split <;> rfl
@[simp] theorem State.setCore_graphs : (s.setCore k).graphs = s.graphs := by unfold State.setCore; split <;> rfl
@[simp] theorem State.setCore_uploads : (s.setCore k).uploads = s.uploads := by unfold State.setCore; split <;> rfl
@[simp] theorem State.setCore_replays : (s.setCore k).replays = s.replays := by unfold State.setCore; split <;> rfl
@[simp] theorem State.setCore_tags : (s.setCore k).tags = s.tags := by unfold State.setCore; split <;> rfl
@[simp] theorem State.setCore_pubs : (s.setCore k).pubs = s.pubs := by unfold State.setCore; split <;> rfl
@[simp] theorem State.setCore_ranges : (s.setCore k).ranges = s.ranges := by unfold State.setCore; split <;> rfl
@[simp] theorem State.setCore_ctxs : (s.setCore k).ctxs = s.ctxs := by unfold State.setCore; split <;> rfl
@[simp] theorem State.setCore_census : (s.setCore k).census = s.census := by unfold State.setCore; split <;> rfl
@[simp] theorem State.setCore_tlb : (s.setCore k).tlb = s.tlb := by unfold State.setCore; split <;> rfl
@[simp] theorem State.setCore_walks : (s.setCore k).walks = s.walks := by unfold State.setCore; split <;> rfl
@[simp] theorem State.setCore_sums : (s.setCore k).sums = s.sums := by unfold State.setCore; split <;> rfl
@[simp] theorem State.setCore_shoots : (s.setCore k).shoots = s.shoots := by unfold State.setCore; split <;> rfl
@[simp] theorem State.setCore_summary : (s.setCore k).summary = s.summary := by unfold State.setCore; split <;> rfl
@[simp] theorem State.setCore_summaryAt : (s.setCore k).summaryAt = s.summaryAt := by unfold State.setCore; split <;> rfl
@[simp] theorem State.setCore_lmap : (s.setCore k).lmap = s.lmap := by unfold State.setCore; split <;> rfl
@[simp] theorem State.setCore_freezeOrder : (s.setCore k).freezeOrder = s.freezeOrder := by unfold State.setCore; split <;> rfl
@[simp] theorem State.setCore_launchLast : (s.setCore k).launchLast = s.launchLast := by unfold State.setCore; split <;> rfl
@[simp] theorem State.setCore_watchLast : (s.setCore k).watchLast = s.watchLast := by unfold State.setCore; split <;> rfl
@[simp] theorem State.setCore_scrubs : (s.setCore k).scrubs = s.scrubs := by unfold State.setCore; split <;> rfl
@[simp] theorem State.setCore_events : (s.setCore k).events = s.events := by unfold State.setCore; split <;> rfl
@[simp] theorem State.setCore_eventSeq : (s.setCore k).eventSeq = s.eventSeq := by unfold State.setCore; split <;> rfl
@[simp] theorem State.setCore_eventEp : (s.setCore k).eventEp = s.eventEp := by unfold State.setCore; split <;> rfl
@[simp] theorem State.setCore_out : (s.setCore k).out = s.out := by unfold State.setCore; split <;> rfl
@[simp] theorem State.setCore_dropped : (s.setCore k).dropped = s.dropped := by unfold State.setCore; split <;> rfl
@[simp] theorem State.setCore_ports : (s.setCore k).ports = s.ports := by unfold State.setCore; split <;> rfl
@[simp] theorem State.setCore_stackErrs : (s.setCore k).stackErrs = s.stackErrs := by unfold State.setCore; split <;> rfl
@[simp] theorem State.setCore_linkRetries : (s.setCore k).linkRetries = s.linkRetries := by unfold State.setCore; split <;> rfl
@[simp] theorem State.setCore_corrected : (s.setCore k).corrected = s.corrected := by unfold State.setCore; split <;> rfl
@[simp] theorem State.setCore_replaceMe : (s.setCore k).replaceMe = s.replaceMe := by unfold State.setCore; split <;> rfl
@[simp] theorem State.setCore_powerLimit : (s.setCore k).powerLimit = s.powerLimit := by unfold State.setCore; split <;> rfl
@[simp] theorem State.setCore_boot : (s.setCore k).boot = s.boot := by unfold State.setCore; split <;> rfl
@[simp] theorem State.setCore_cfg : (s.setCore k).cfg = s.cfg := by unfold State.setCore; split <;> rfl
@[simp] theorem State.setCore_measure : (s.setCore k).measure = s.measure := by unfold State.setCore; split <;> rfl
@[simp] theorem State.setCore_versions : (s.setCore k).versions = s.versions := by unfold State.setCore; split <;> rfl
@[simp] theorem State.setCore_nextGraph : (s.setCore k).nextGraph = s.nextGraph := by unfold State.setCore; split <;> rfl
@[simp] theorem State.setCore_now : (s.setCore k).now = s.now := by unfold State.setCore; split <;> rfl
@[simp] theorem State.setCore_port : (s.setCore k).port = s.port := by unfold State.setCore; split <;> rfl
@[simp] theorem State.setCore_turns : (s.setCore k).turns = s.turns := by unfold State.setCore; split <;> rfl
@[simp] theorem State.setCore_fresh : (s.setCore k).fresh = s.fresh := by unfold State.setCore; split <;> rfl
@[simp] theorem State.setCore_free : (s.setCore k).free = s.free := by unfold State.setCore; split <;> rfl

end

/-! ### `State.updCore` -/

section
variable (s : State) (p c : Nat) (f : CoreSt → CoreSt)

@[simp] theorem State.updCore_mem : (s.updCore p c f).mem = s.mem := State.setCore_mem _ _
@[simp] theorem State.updCore_granules : (s.updCore p c f).granules = s.granules := State.setCore_granules _ _
@[simp] theorem State.updCore_poison : (s.updCore p c f).poison = s.poison := State.setCore_poison _ _
@[simp] theorem State.updCore_threads : (s.updCore p c f).threads = s.threads := State.setCore_threads _ _
@[simp] theorem State.updCore_accs : (s.updCore p c f).accs = s.accs := State.setCore_accs _ _
@[simp] theorem State.updCore_arrivals : (s.updCore p c f).arrivals = s.arrivals := State.setCore_arrivals _ _
@[simp] theorem State.updCore_pends : (s.updCore p c f).pends = s.pends := State.setCore_pends _ _
@[simp] theorem State.updCore_fwds : (s.updCore p c f).fwds = s.fwds := State.setCore_fwds _ _
@[simp] theorem State.updCore_families : (s.updCore p c f).families = s.families := State.setCore_families _ _
@[simp] theorem State.updCore_kills : (s.updCore p c f).kills = s.kills := State.setCore_kills _ _
@[simp] theorem State.updCore_clusters : (s.updCore p c f).clusters = s.clusters := State.setCore_clusters _ _
@[simp] theorem State.updCore_copies : (s.updCore p c f).copies = s.copies := State.setCore_copies _ _
@[simp] theorem State.updCore_saves : (s.updCore p c f).saves = s.saves := State.setCore_saves _ _
@[simp] theorem State.updCore_groups : (s.updCore p c f).groups = s.groups := State.setCore_groups _ _
@[simp] theorem State.updCore_graphs : (s.updCore p c f).graphs = s.graphs := State.setCore_graphs _ _
@[simp] theorem State.updCore_uploads : (s.updCore p c f).uploads = s.uploads := State.setCore_uploads _ _
@[simp] theorem State.updCore_replays : (s.updCore p c f).replays = s.replays := State.setCore_replays _ _
@[simp] theorem State.updCore_tags : (s.updCore p c f).tags = s.tags := State.setCore_tags _ _
@[simp] theorem State.updCore_pubs : (s.updCore p c f).pubs = s.pubs := State.setCore_pubs _ _
@[simp] theorem State.updCore_ranges : (s.updCore p c f).ranges = s.ranges := State.setCore_ranges _ _
@[simp] theorem State.updCore_ctxs : (s.updCore p c f).ctxs = s.ctxs := State.setCore_ctxs _ _
@[simp] theorem State.updCore_census : (s.updCore p c f).census = s.census := State.setCore_census _ _
@[simp] theorem State.updCore_tlb : (s.updCore p c f).tlb = s.tlb := State.setCore_tlb _ _
@[simp] theorem State.updCore_walks : (s.updCore p c f).walks = s.walks := State.setCore_walks _ _
@[simp] theorem State.updCore_sums : (s.updCore p c f).sums = s.sums := State.setCore_sums _ _
@[simp] theorem State.updCore_shoots : (s.updCore p c f).shoots = s.shoots := State.setCore_shoots _ _
@[simp] theorem State.updCore_summary : (s.updCore p c f).summary = s.summary := State.setCore_summary _ _
@[simp] theorem State.updCore_summaryAt : (s.updCore p c f).summaryAt = s.summaryAt := State.setCore_summaryAt _ _
@[simp] theorem State.updCore_lmap : (s.updCore p c f).lmap = s.lmap := State.setCore_lmap _ _
@[simp] theorem State.updCore_freezeOrder : (s.updCore p c f).freezeOrder = s.freezeOrder := State.setCore_freezeOrder _ _
@[simp] theorem State.updCore_launchLast : (s.updCore p c f).launchLast = s.launchLast := State.setCore_launchLast _ _
@[simp] theorem State.updCore_watchLast : (s.updCore p c f).watchLast = s.watchLast := State.setCore_watchLast _ _
@[simp] theorem State.updCore_scrubs : (s.updCore p c f).scrubs = s.scrubs := State.setCore_scrubs _ _
@[simp] theorem State.updCore_events : (s.updCore p c f).events = s.events := State.setCore_events _ _
@[simp] theorem State.updCore_eventSeq : (s.updCore p c f).eventSeq = s.eventSeq := State.setCore_eventSeq _ _
@[simp] theorem State.updCore_eventEp : (s.updCore p c f).eventEp = s.eventEp := State.setCore_eventEp _ _
@[simp] theorem State.updCore_out : (s.updCore p c f).out = s.out := State.setCore_out _ _
@[simp] theorem State.updCore_dropped : (s.updCore p c f).dropped = s.dropped := State.setCore_dropped _ _
@[simp] theorem State.updCore_ports : (s.updCore p c f).ports = s.ports := State.setCore_ports _ _
@[simp] theorem State.updCore_stackErrs : (s.updCore p c f).stackErrs = s.stackErrs := State.setCore_stackErrs _ _
@[simp] theorem State.updCore_linkRetries : (s.updCore p c f).linkRetries = s.linkRetries := State.setCore_linkRetries _ _
@[simp] theorem State.updCore_corrected : (s.updCore p c f).corrected = s.corrected := State.setCore_corrected _ _
@[simp] theorem State.updCore_replaceMe : (s.updCore p c f).replaceMe = s.replaceMe := State.setCore_replaceMe _ _
@[simp] theorem State.updCore_powerLimit : (s.updCore p c f).powerLimit = s.powerLimit := State.setCore_powerLimit _ _
@[simp] theorem State.updCore_boot : (s.updCore p c f).boot = s.boot := State.setCore_boot _ _
@[simp] theorem State.updCore_cfg : (s.updCore p c f).cfg = s.cfg := State.setCore_cfg _ _
@[simp] theorem State.updCore_measure : (s.updCore p c f).measure = s.measure := State.setCore_measure _ _
@[simp] theorem State.updCore_versions : (s.updCore p c f).versions = s.versions := State.setCore_versions _ _
@[simp] theorem State.updCore_nextGraph : (s.updCore p c f).nextGraph = s.nextGraph := State.setCore_nextGraph _ _
@[simp] theorem State.updCore_now : (s.updCore p c f).now = s.now := State.setCore_now _ _
@[simp] theorem State.updCore_port : (s.updCore p c f).port = s.port := State.setCore_port _ _
@[simp] theorem State.updCore_turns : (s.updCore p c f).turns = s.turns := State.setCore_turns _ _
@[simp] theorem State.updCore_fresh : (s.updCore p c f).fresh = s.fresh := State.setCore_fresh _ _
@[simp] theorem State.updCore_free : (s.updCore p c f).free = s.free := State.setCore_free _ _

end

/-! ### `State.setCluster` -/

section
variable (s : State) (k : Cluster)

@[simp] theorem State.setCluster_mem : (s.setCluster k).mem = s.mem := by unfold State.setCluster; split <;> rfl
@[simp] theorem State.setCluster_granules : (s.setCluster k).granules = s.granules := by unfold State.setCluster; split <;> rfl
@[simp] theorem State.setCluster_poison : (s.setCluster k).poison = s.poison := by unfold State.setCluster; split <;> rfl
@[simp] theorem State.setCluster_threads : (s.setCluster k).threads = s.threads := by unfold State.setCluster; split <;> rfl
@[simp] theorem State.setCluster_accs : (s.setCluster k).accs = s.accs := by unfold State.setCluster; split <;> rfl
@[simp] theorem State.setCluster_arrivals : (s.setCluster k).arrivals = s.arrivals := by unfold State.setCluster; split <;> rfl
@[simp] theorem State.setCluster_pends : (s.setCluster k).pends = s.pends := by unfold State.setCluster; split <;> rfl
@[simp] theorem State.setCluster_fwds : (s.setCluster k).fwds = s.fwds := by unfold State.setCluster; split <;> rfl
@[simp] theorem State.setCluster_families : (s.setCluster k).families = s.families := by unfold State.setCluster; split <;> rfl
@[simp] theorem State.setCluster_kills : (s.setCluster k).kills = s.kills := by unfold State.setCluster; split <;> rfl
@[simp] theorem State.setCluster_cores : (s.setCluster k).cores = s.cores := by unfold State.setCluster; split <;> rfl
@[simp] theorem State.setCluster_copies : (s.setCluster k).copies = s.copies := by unfold State.setCluster; split <;> rfl
@[simp] theorem State.setCluster_saves : (s.setCluster k).saves = s.saves := by unfold State.setCluster; split <;> rfl
@[simp] theorem State.setCluster_groups : (s.setCluster k).groups = s.groups := by unfold State.setCluster; split <;> rfl
@[simp] theorem State.setCluster_graphs : (s.setCluster k).graphs = s.graphs := by unfold State.setCluster; split <;> rfl
@[simp] theorem State.setCluster_uploads : (s.setCluster k).uploads = s.uploads := by unfold State.setCluster; split <;> rfl
@[simp] theorem State.setCluster_replays : (s.setCluster k).replays = s.replays := by unfold State.setCluster; split <;> rfl
@[simp] theorem State.setCluster_tags : (s.setCluster k).tags = s.tags := by unfold State.setCluster; split <;> rfl
@[simp] theorem State.setCluster_pubs : (s.setCluster k).pubs = s.pubs := by unfold State.setCluster; split <;> rfl
@[simp] theorem State.setCluster_ranges : (s.setCluster k).ranges = s.ranges := by unfold State.setCluster; split <;> rfl
@[simp] theorem State.setCluster_ctxs : (s.setCluster k).ctxs = s.ctxs := by unfold State.setCluster; split <;> rfl
@[simp] theorem State.setCluster_census : (s.setCluster k).census = s.census := by unfold State.setCluster; split <;> rfl
@[simp] theorem State.setCluster_tlb : (s.setCluster k).tlb = s.tlb := by unfold State.setCluster; split <;> rfl
@[simp] theorem State.setCluster_walks : (s.setCluster k).walks = s.walks := by unfold State.setCluster; split <;> rfl
@[simp] theorem State.setCluster_sums : (s.setCluster k).sums = s.sums := by unfold State.setCluster; split <;> rfl
@[simp] theorem State.setCluster_shoots : (s.setCluster k).shoots = s.shoots := by unfold State.setCluster; split <;> rfl
@[simp] theorem State.setCluster_summary : (s.setCluster k).summary = s.summary := by unfold State.setCluster; split <;> rfl
@[simp] theorem State.setCluster_summaryAt : (s.setCluster k).summaryAt = s.summaryAt := by unfold State.setCluster; split <;> rfl
@[simp] theorem State.setCluster_lmap : (s.setCluster k).lmap = s.lmap := by unfold State.setCluster; split <;> rfl
@[simp] theorem State.setCluster_freezeOrder : (s.setCluster k).freezeOrder = s.freezeOrder := by unfold State.setCluster; split <;> rfl
@[simp] theorem State.setCluster_launchLast : (s.setCluster k).launchLast = s.launchLast := by unfold State.setCluster; split <;> rfl
@[simp] theorem State.setCluster_watchLast : (s.setCluster k).watchLast = s.watchLast := by unfold State.setCluster; split <;> rfl
@[simp] theorem State.setCluster_scrubs : (s.setCluster k).scrubs = s.scrubs := by unfold State.setCluster; split <;> rfl
@[simp] theorem State.setCluster_events : (s.setCluster k).events = s.events := by unfold State.setCluster; split <;> rfl
@[simp] theorem State.setCluster_eventSeq : (s.setCluster k).eventSeq = s.eventSeq := by unfold State.setCluster; split <;> rfl
@[simp] theorem State.setCluster_eventEp : (s.setCluster k).eventEp = s.eventEp := by unfold State.setCluster; split <;> rfl
@[simp] theorem State.setCluster_out : (s.setCluster k).out = s.out := by unfold State.setCluster; split <;> rfl
@[simp] theorem State.setCluster_dropped : (s.setCluster k).dropped = s.dropped := by unfold State.setCluster; split <;> rfl
@[simp] theorem State.setCluster_ports : (s.setCluster k).ports = s.ports := by unfold State.setCluster; split <;> rfl
@[simp] theorem State.setCluster_stackErrs : (s.setCluster k).stackErrs = s.stackErrs := by unfold State.setCluster; split <;> rfl
@[simp] theorem State.setCluster_linkRetries : (s.setCluster k).linkRetries = s.linkRetries := by unfold State.setCluster; split <;> rfl
@[simp] theorem State.setCluster_corrected : (s.setCluster k).corrected = s.corrected := by unfold State.setCluster; split <;> rfl
@[simp] theorem State.setCluster_replaceMe : (s.setCluster k).replaceMe = s.replaceMe := by unfold State.setCluster; split <;> rfl
@[simp] theorem State.setCluster_powerLimit : (s.setCluster k).powerLimit = s.powerLimit := by unfold State.setCluster; split <;> rfl
@[simp] theorem State.setCluster_boot : (s.setCluster k).boot = s.boot := by unfold State.setCluster; split <;> rfl
@[simp] theorem State.setCluster_cfg : (s.setCluster k).cfg = s.cfg := by unfold State.setCluster; split <;> rfl
@[simp] theorem State.setCluster_measure : (s.setCluster k).measure = s.measure := by unfold State.setCluster; split <;> rfl
@[simp] theorem State.setCluster_versions : (s.setCluster k).versions = s.versions := by unfold State.setCluster; split <;> rfl
@[simp] theorem State.setCluster_nextGraph : (s.setCluster k).nextGraph = s.nextGraph := by unfold State.setCluster; split <;> rfl
@[simp] theorem State.setCluster_now : (s.setCluster k).now = s.now := by unfold State.setCluster; split <;> rfl
@[simp] theorem State.setCluster_port : (s.setCluster k).port = s.port := by unfold State.setCluster; split <;> rfl
@[simp] theorem State.setCluster_turns : (s.setCluster k).turns = s.turns := by unfold State.setCluster; split <;> rfl
@[simp] theorem State.setCluster_fresh : (s.setCluster k).fresh = s.fresh := by unfold State.setCluster; split <;> rfl
@[simp] theorem State.setCluster_free : (s.setCluster k).free = s.free := by unfold State.setCluster; split <;> rfl

end

/-! ### `State.updCluster` -/

section
variable (s : State) (p : Nat) (f : Cluster → Cluster)

@[simp] theorem State.updCluster_mem : (s.updCluster p f).mem = s.mem := State.setCluster_mem _ _
@[simp] theorem State.updCluster_granules : (s.updCluster p f).granules = s.granules := State.setCluster_granules _ _
@[simp] theorem State.updCluster_poison : (s.updCluster p f).poison = s.poison := State.setCluster_poison _ _
@[simp] theorem State.updCluster_threads : (s.updCluster p f).threads = s.threads := State.setCluster_threads _ _
@[simp] theorem State.updCluster_accs : (s.updCluster p f).accs = s.accs := State.setCluster_accs _ _
@[simp] theorem State.updCluster_arrivals : (s.updCluster p f).arrivals = s.arrivals := State.setCluster_arrivals _ _
@[simp] theorem State.updCluster_pends : (s.updCluster p f).pends = s.pends := State.setCluster_pends _ _
@[simp] theorem State.updCluster_fwds : (s.updCluster p f).fwds = s.fwds := State.setCluster_fwds _ _
@[simp] theorem State.updCluster_families : (s.updCluster p f).families = s.families := State.setCluster_families _ _
@[simp] theorem State.updCluster_kills : (s.updCluster p f).kills = s.kills := State.setCluster_kills _ _
@[simp] theorem State.updCluster_cores : (s.updCluster p f).cores = s.cores := State.setCluster_cores _ _
@[simp] theorem State.updCluster_copies : (s.updCluster p f).copies = s.copies := State.setCluster_copies _ _
@[simp] theorem State.updCluster_saves : (s.updCluster p f).saves = s.saves := State.setCluster_saves _ _
@[simp] theorem State.updCluster_groups : (s.updCluster p f).groups = s.groups := State.setCluster_groups _ _
@[simp] theorem State.updCluster_graphs : (s.updCluster p f).graphs = s.graphs := State.setCluster_graphs _ _
@[simp] theorem State.updCluster_uploads : (s.updCluster p f).uploads = s.uploads := State.setCluster_uploads _ _
@[simp] theorem State.updCluster_replays : (s.updCluster p f).replays = s.replays := State.setCluster_replays _ _
@[simp] theorem State.updCluster_tags : (s.updCluster p f).tags = s.tags := State.setCluster_tags _ _
@[simp] theorem State.updCluster_pubs : (s.updCluster p f).pubs = s.pubs := State.setCluster_pubs _ _
@[simp] theorem State.updCluster_ranges : (s.updCluster p f).ranges = s.ranges := State.setCluster_ranges _ _
@[simp] theorem State.updCluster_ctxs : (s.updCluster p f).ctxs = s.ctxs := State.setCluster_ctxs _ _
@[simp] theorem State.updCluster_census : (s.updCluster p f).census = s.census := State.setCluster_census _ _
@[simp] theorem State.updCluster_tlb : (s.updCluster p f).tlb = s.tlb := State.setCluster_tlb _ _
@[simp] theorem State.updCluster_walks : (s.updCluster p f).walks = s.walks := State.setCluster_walks _ _
@[simp] theorem State.updCluster_sums : (s.updCluster p f).sums = s.sums := State.setCluster_sums _ _
@[simp] theorem State.updCluster_shoots : (s.updCluster p f).shoots = s.shoots := State.setCluster_shoots _ _
@[simp] theorem State.updCluster_summary : (s.updCluster p f).summary = s.summary := State.setCluster_summary _ _
@[simp] theorem State.updCluster_summaryAt : (s.updCluster p f).summaryAt = s.summaryAt := State.setCluster_summaryAt _ _
@[simp] theorem State.updCluster_lmap : (s.updCluster p f).lmap = s.lmap := State.setCluster_lmap _ _
@[simp] theorem State.updCluster_freezeOrder : (s.updCluster p f).freezeOrder = s.freezeOrder := State.setCluster_freezeOrder _ _
@[simp] theorem State.updCluster_launchLast : (s.updCluster p f).launchLast = s.launchLast := State.setCluster_launchLast _ _
@[simp] theorem State.updCluster_watchLast : (s.updCluster p f).watchLast = s.watchLast := State.setCluster_watchLast _ _
@[simp] theorem State.updCluster_scrubs : (s.updCluster p f).scrubs = s.scrubs := State.setCluster_scrubs _ _
@[simp] theorem State.updCluster_events : (s.updCluster p f).events = s.events := State.setCluster_events _ _
@[simp] theorem State.updCluster_eventSeq : (s.updCluster p f).eventSeq = s.eventSeq := State.setCluster_eventSeq _ _
@[simp] theorem State.updCluster_eventEp : (s.updCluster p f).eventEp = s.eventEp := State.setCluster_eventEp _ _
@[simp] theorem State.updCluster_out : (s.updCluster p f).out = s.out := State.setCluster_out _ _
@[simp] theorem State.updCluster_dropped : (s.updCluster p f).dropped = s.dropped := State.setCluster_dropped _ _
@[simp] theorem State.updCluster_ports : (s.updCluster p f).ports = s.ports := State.setCluster_ports _ _
@[simp] theorem State.updCluster_stackErrs : (s.updCluster p f).stackErrs = s.stackErrs := State.setCluster_stackErrs _ _
@[simp] theorem State.updCluster_linkRetries : (s.updCluster p f).linkRetries = s.linkRetries := State.setCluster_linkRetries _ _
@[simp] theorem State.updCluster_corrected : (s.updCluster p f).corrected = s.corrected := State.setCluster_corrected _ _
@[simp] theorem State.updCluster_replaceMe : (s.updCluster p f).replaceMe = s.replaceMe := State.setCluster_replaceMe _ _
@[simp] theorem State.updCluster_powerLimit : (s.updCluster p f).powerLimit = s.powerLimit := State.setCluster_powerLimit _ _
@[simp] theorem State.updCluster_boot : (s.updCluster p f).boot = s.boot := State.setCluster_boot _ _
@[simp] theorem State.updCluster_cfg : (s.updCluster p f).cfg = s.cfg := State.setCluster_cfg _ _
@[simp] theorem State.updCluster_measure : (s.updCluster p f).measure = s.measure := State.setCluster_measure _ _
@[simp] theorem State.updCluster_versions : (s.updCluster p f).versions = s.versions := State.setCluster_versions _ _
@[simp] theorem State.updCluster_nextGraph : (s.updCluster p f).nextGraph = s.nextGraph := State.setCluster_nextGraph _ _
@[simp] theorem State.updCluster_now : (s.updCluster p f).now = s.now := State.setCluster_now _ _
@[simp] theorem State.updCluster_port : (s.updCluster p f).port = s.port := State.setCluster_port _ _
@[simp] theorem State.updCluster_turns : (s.updCluster p f).turns = s.turns := State.setCluster_turns _ _
@[simp] theorem State.updCluster_fresh : (s.updCluster p f).fresh = s.fresh := State.setCluster_fresh _ _
@[simp] theorem State.updCluster_free : (s.updCluster p f).free = s.free := State.setCluster_free _ _

end

/-! ### `State.updCtx` -/

section
variable (s : State) (i : Nat) (f : Context → Context)

@[simp] theorem State.updCtx_mem : (s.updCtx i f).mem = s.mem := rfl
@[simp] theorem State.updCtx_granules : (s.updCtx i f).granules = s.granules := rfl
@[simp] theorem State.updCtx_poison : (s.updCtx i f).poison = s.poison := rfl
@[simp] theorem State.updCtx_threads : (s.updCtx i f).threads = s.threads := rfl
@[simp] theorem State.updCtx_accs : (s.updCtx i f).accs = s.accs := rfl
@[simp] theorem State.updCtx_arrivals : (s.updCtx i f).arrivals = s.arrivals := rfl
@[simp] theorem State.updCtx_pends : (s.updCtx i f).pends = s.pends := rfl
@[simp] theorem State.updCtx_fwds : (s.updCtx i f).fwds = s.fwds := rfl
@[simp] theorem State.updCtx_families : (s.updCtx i f).families = s.families := rfl
@[simp] theorem State.updCtx_kills : (s.updCtx i f).kills = s.kills := rfl
@[simp] theorem State.updCtx_cores : (s.updCtx i f).cores = s.cores := rfl
@[simp] theorem State.updCtx_clusters : (s.updCtx i f).clusters = s.clusters := rfl
@[simp] theorem State.updCtx_copies : (s.updCtx i f).copies = s.copies := rfl
@[simp] theorem State.updCtx_saves : (s.updCtx i f).saves = s.saves := rfl
@[simp] theorem State.updCtx_groups : (s.updCtx i f).groups = s.groups := rfl
@[simp] theorem State.updCtx_graphs : (s.updCtx i f).graphs = s.graphs := rfl
@[simp] theorem State.updCtx_uploads : (s.updCtx i f).uploads = s.uploads := rfl
@[simp] theorem State.updCtx_replays : (s.updCtx i f).replays = s.replays := rfl
@[simp] theorem State.updCtx_tags : (s.updCtx i f).tags = s.tags := rfl
@[simp] theorem State.updCtx_pubs : (s.updCtx i f).pubs = s.pubs := rfl
@[simp] theorem State.updCtx_ranges : (s.updCtx i f).ranges = s.ranges := rfl
@[simp] theorem State.updCtx_ctxs : (s.updCtx i f).ctxs = s.ctxs.map fun c => if c.id == i then f c else c := rfl
@[simp] theorem State.updCtx_census : (s.updCtx i f).census = s.census := rfl
@[simp] theorem State.updCtx_tlb : (s.updCtx i f).tlb = s.tlb := rfl
@[simp] theorem State.updCtx_walks : (s.updCtx i f).walks = s.walks := rfl
@[simp] theorem State.updCtx_sums : (s.updCtx i f).sums = s.sums := rfl
@[simp] theorem State.updCtx_shoots : (s.updCtx i f).shoots = s.shoots := rfl
@[simp] theorem State.updCtx_summary : (s.updCtx i f).summary = s.summary := rfl
@[simp] theorem State.updCtx_summaryAt : (s.updCtx i f).summaryAt = s.summaryAt := rfl
@[simp] theorem State.updCtx_lmap : (s.updCtx i f).lmap = s.lmap := rfl
@[simp] theorem State.updCtx_freezeOrder : (s.updCtx i f).freezeOrder = s.freezeOrder := rfl
@[simp] theorem State.updCtx_launchLast : (s.updCtx i f).launchLast = s.launchLast := rfl
@[simp] theorem State.updCtx_watchLast : (s.updCtx i f).watchLast = s.watchLast := rfl
@[simp] theorem State.updCtx_scrubs : (s.updCtx i f).scrubs = s.scrubs := rfl
@[simp] theorem State.updCtx_events : (s.updCtx i f).events = s.events := rfl
@[simp] theorem State.updCtx_eventSeq : (s.updCtx i f).eventSeq = s.eventSeq := rfl
@[simp] theorem State.updCtx_eventEp : (s.updCtx i f).eventEp = s.eventEp := rfl
@[simp] theorem State.updCtx_out : (s.updCtx i f).out = s.out := rfl
@[simp] theorem State.updCtx_dropped : (s.updCtx i f).dropped = s.dropped := rfl
@[simp] theorem State.updCtx_ports : (s.updCtx i f).ports = s.ports := rfl
@[simp] theorem State.updCtx_stackErrs : (s.updCtx i f).stackErrs = s.stackErrs := rfl
@[simp] theorem State.updCtx_linkRetries : (s.updCtx i f).linkRetries = s.linkRetries := rfl
@[simp] theorem State.updCtx_corrected : (s.updCtx i f).corrected = s.corrected := rfl
@[simp] theorem State.updCtx_replaceMe : (s.updCtx i f).replaceMe = s.replaceMe := rfl
@[simp] theorem State.updCtx_powerLimit : (s.updCtx i f).powerLimit = s.powerLimit := rfl
@[simp] theorem State.updCtx_boot : (s.updCtx i f).boot = s.boot := rfl
@[simp] theorem State.updCtx_cfg : (s.updCtx i f).cfg = s.cfg := rfl
@[simp] theorem State.updCtx_measure : (s.updCtx i f).measure = s.measure := rfl
@[simp] theorem State.updCtx_versions : (s.updCtx i f).versions = s.versions := rfl
@[simp] theorem State.updCtx_nextGraph : (s.updCtx i f).nextGraph = s.nextGraph := rfl
@[simp] theorem State.updCtx_now : (s.updCtx i f).now = s.now := rfl
@[simp] theorem State.updCtx_port : (s.updCtx i f).port = s.port := rfl
@[simp] theorem State.updCtx_turns : (s.updCtx i f).turns = s.turns := rfl
@[simp] theorem State.updCtx_fresh : (s.updCtx i f).fresh = s.fresh := rfl
@[simp] theorem State.updCtx_free : (s.updCtx i f).free = s.free := rfl

end

/-! ### `State.updFamily` -/

section
variable (s : State) (u : Nat) (f : Family → Family)

@[simp] theorem State.updFamily_mem : (s.updFamily u f).mem = s.mem := rfl
@[simp] theorem State.updFamily_granules : (s.updFamily u f).granules = s.granules := rfl
@[simp] theorem State.updFamily_poison : (s.updFamily u f).poison = s.poison := rfl
@[simp] theorem State.updFamily_threads : (s.updFamily u f).threads = s.threads := rfl
@[simp] theorem State.updFamily_accs : (s.updFamily u f).accs = s.accs := rfl
@[simp] theorem State.updFamily_arrivals : (s.updFamily u f).arrivals = s.arrivals := rfl
@[simp] theorem State.updFamily_pends : (s.updFamily u f).pends = s.pends := rfl
@[simp] theorem State.updFamily_fwds : (s.updFamily u f).fwds = s.fwds := rfl
@[simp] theorem State.updFamily_families : (s.updFamily u f).families = s.families.map fun x => if x.uid == u then f x else x := rfl
@[simp] theorem State.updFamily_kills : (s.updFamily u f).kills = s.kills := rfl
@[simp] theorem State.updFamily_cores : (s.updFamily u f).cores = s.cores := rfl
@[simp] theorem State.updFamily_clusters : (s.updFamily u f).clusters = s.clusters := rfl
@[simp] theorem State.updFamily_copies : (s.updFamily u f).copies = s.copies := rfl
@[simp] theorem State.updFamily_saves : (s.updFamily u f).saves = s.saves := rfl
@[simp] theorem State.updFamily_groups : (s.updFamily u f).groups = s.groups := rfl
@[simp] theorem State.updFamily_graphs : (s.updFamily u f).graphs = s.graphs := rfl
@[simp] theorem State.updFamily_uploads : (s.updFamily u f).uploads = s.uploads := rfl
@[simp] theorem State.updFamily_replays : (s.updFamily u f).replays = s.replays := rfl
@[simp] theorem State.updFamily_tags : (s.updFamily u f).tags = s.tags := rfl
@[simp] theorem State.updFamily_pubs : (s.updFamily u f).pubs = s.pubs := rfl
@[simp] theorem State.updFamily_ranges : (s.updFamily u f).ranges = s.ranges := rfl
@[simp] theorem State.updFamily_ctxs : (s.updFamily u f).ctxs = s.ctxs := rfl
@[simp] theorem State.updFamily_census : (s.updFamily u f).census = s.census := rfl
@[simp] theorem State.updFamily_tlb : (s.updFamily u f).tlb = s.tlb := rfl
@[simp] theorem State.updFamily_walks : (s.updFamily u f).walks = s.walks := rfl
@[simp] theorem State.updFamily_sums : (s.updFamily u f).sums = s.sums := rfl
@[simp] theorem State.updFamily_shoots : (s.updFamily u f).shoots = s.shoots := rfl
@[simp] theorem State.updFamily_summary : (s.updFamily u f).summary = s.summary := rfl
@[simp] theorem State.updFamily_summaryAt : (s.updFamily u f).summaryAt = s.summaryAt := rfl
@[simp] theorem State.updFamily_lmap : (s.updFamily u f).lmap = s.lmap := rfl
@[simp] theorem State.updFamily_freezeOrder : (s.updFamily u f).freezeOrder = s.freezeOrder := rfl
@[simp] theorem State.updFamily_launchLast : (s.updFamily u f).launchLast = s.launchLast := rfl
@[simp] theorem State.updFamily_watchLast : (s.updFamily u f).watchLast = s.watchLast := rfl
@[simp] theorem State.updFamily_scrubs : (s.updFamily u f).scrubs = s.scrubs := rfl
@[simp] theorem State.updFamily_events : (s.updFamily u f).events = s.events := rfl
@[simp] theorem State.updFamily_eventSeq : (s.updFamily u f).eventSeq = s.eventSeq := rfl
@[simp] theorem State.updFamily_eventEp : (s.updFamily u f).eventEp = s.eventEp := rfl
@[simp] theorem State.updFamily_out : (s.updFamily u f).out = s.out := rfl
@[simp] theorem State.updFamily_dropped : (s.updFamily u f).dropped = s.dropped := rfl
@[simp] theorem State.updFamily_ports : (s.updFamily u f).ports = s.ports := rfl
@[simp] theorem State.updFamily_stackErrs : (s.updFamily u f).stackErrs = s.stackErrs := rfl
@[simp] theorem State.updFamily_linkRetries : (s.updFamily u f).linkRetries = s.linkRetries := rfl
@[simp] theorem State.updFamily_corrected : (s.updFamily u f).corrected = s.corrected := rfl
@[simp] theorem State.updFamily_replaceMe : (s.updFamily u f).replaceMe = s.replaceMe := rfl
@[simp] theorem State.updFamily_powerLimit : (s.updFamily u f).powerLimit = s.powerLimit := rfl
@[simp] theorem State.updFamily_boot : (s.updFamily u f).boot = s.boot := rfl
@[simp] theorem State.updFamily_cfg : (s.updFamily u f).cfg = s.cfg := rfl
@[simp] theorem State.updFamily_measure : (s.updFamily u f).measure = s.measure := rfl
@[simp] theorem State.updFamily_versions : (s.updFamily u f).versions = s.versions := rfl
@[simp] theorem State.updFamily_nextGraph : (s.updFamily u f).nextGraph = s.nextGraph := rfl
@[simp] theorem State.updFamily_now : (s.updFamily u f).now = s.now := rfl
@[simp] theorem State.updFamily_port : (s.updFamily u f).port = s.port := rfl
@[simp] theorem State.updFamily_turns : (s.updFamily u f).turns = s.turns := rfl
@[simp] theorem State.updFamily_fresh : (s.updFamily u f).fresh = s.fresh := rfl
@[simp] theorem State.updFamily_free : (s.updFamily u f).free = s.free := rfl

end

/-! ### `State.updGroup` -/

section
variable (s : State) (u : Nat) (f : Group → Group)

@[simp] theorem State.updGroup_mem : (s.updGroup u f).mem = s.mem := rfl
@[simp] theorem State.updGroup_granules : (s.updGroup u f).granules = s.granules := rfl
@[simp] theorem State.updGroup_poison : (s.updGroup u f).poison = s.poison := rfl
@[simp] theorem State.updGroup_threads : (s.updGroup u f).threads = s.threads := rfl
@[simp] theorem State.updGroup_accs : (s.updGroup u f).accs = s.accs := rfl
@[simp] theorem State.updGroup_arrivals : (s.updGroup u f).arrivals = s.arrivals := rfl
@[simp] theorem State.updGroup_pends : (s.updGroup u f).pends = s.pends := rfl
@[simp] theorem State.updGroup_fwds : (s.updGroup u f).fwds = s.fwds := rfl
@[simp] theorem State.updGroup_families : (s.updGroup u f).families = s.families := rfl
@[simp] theorem State.updGroup_kills : (s.updGroup u f).kills = s.kills := rfl
@[simp] theorem State.updGroup_cores : (s.updGroup u f).cores = s.cores := rfl
@[simp] theorem State.updGroup_clusters : (s.updGroup u f).clusters = s.clusters := rfl
@[simp] theorem State.updGroup_copies : (s.updGroup u f).copies = s.copies := rfl
@[simp] theorem State.updGroup_saves : (s.updGroup u f).saves = s.saves := rfl
@[simp] theorem State.updGroup_groups : (s.updGroup u f).groups = s.groups.map fun x => if x.uid == u then f x else x := rfl
@[simp] theorem State.updGroup_graphs : (s.updGroup u f).graphs = s.graphs := rfl
@[simp] theorem State.updGroup_uploads : (s.updGroup u f).uploads = s.uploads := rfl
@[simp] theorem State.updGroup_replays : (s.updGroup u f).replays = s.replays := rfl
@[simp] theorem State.updGroup_tags : (s.updGroup u f).tags = s.tags := rfl
@[simp] theorem State.updGroup_pubs : (s.updGroup u f).pubs = s.pubs := rfl
@[simp] theorem State.updGroup_ranges : (s.updGroup u f).ranges = s.ranges := rfl
@[simp] theorem State.updGroup_ctxs : (s.updGroup u f).ctxs = s.ctxs := rfl
@[simp] theorem State.updGroup_census : (s.updGroup u f).census = s.census := rfl
@[simp] theorem State.updGroup_tlb : (s.updGroup u f).tlb = s.tlb := rfl
@[simp] theorem State.updGroup_walks : (s.updGroup u f).walks = s.walks := rfl
@[simp] theorem State.updGroup_sums : (s.updGroup u f).sums = s.sums := rfl
@[simp] theorem State.updGroup_shoots : (s.updGroup u f).shoots = s.shoots := rfl
@[simp] theorem State.updGroup_summary : (s.updGroup u f).summary = s.summary := rfl
@[simp] theorem State.updGroup_summaryAt : (s.updGroup u f).summaryAt = s.summaryAt := rfl
@[simp] theorem State.updGroup_lmap : (s.updGroup u f).lmap = s.lmap := rfl
@[simp] theorem State.updGroup_freezeOrder : (s.updGroup u f).freezeOrder = s.freezeOrder := rfl
@[simp] theorem State.updGroup_launchLast : (s.updGroup u f).launchLast = s.launchLast := rfl
@[simp] theorem State.updGroup_watchLast : (s.updGroup u f).watchLast = s.watchLast := rfl
@[simp] theorem State.updGroup_scrubs : (s.updGroup u f).scrubs = s.scrubs := rfl
@[simp] theorem State.updGroup_events : (s.updGroup u f).events = s.events := rfl
@[simp] theorem State.updGroup_eventSeq : (s.updGroup u f).eventSeq = s.eventSeq := rfl
@[simp] theorem State.updGroup_eventEp : (s.updGroup u f).eventEp = s.eventEp := rfl
@[simp] theorem State.updGroup_out : (s.updGroup u f).out = s.out := rfl
@[simp] theorem State.updGroup_dropped : (s.updGroup u f).dropped = s.dropped := rfl
@[simp] theorem State.updGroup_ports : (s.updGroup u f).ports = s.ports := rfl
@[simp] theorem State.updGroup_stackErrs : (s.updGroup u f).stackErrs = s.stackErrs := rfl
@[simp] theorem State.updGroup_linkRetries : (s.updGroup u f).linkRetries = s.linkRetries := rfl
@[simp] theorem State.updGroup_corrected : (s.updGroup u f).corrected = s.corrected := rfl
@[simp] theorem State.updGroup_replaceMe : (s.updGroup u f).replaceMe = s.replaceMe := rfl
@[simp] theorem State.updGroup_powerLimit : (s.updGroup u f).powerLimit = s.powerLimit := rfl
@[simp] theorem State.updGroup_boot : (s.updGroup u f).boot = s.boot := rfl
@[simp] theorem State.updGroup_cfg : (s.updGroup u f).cfg = s.cfg := rfl
@[simp] theorem State.updGroup_measure : (s.updGroup u f).measure = s.measure := rfl
@[simp] theorem State.updGroup_versions : (s.updGroup u f).versions = s.versions := rfl
@[simp] theorem State.updGroup_nextGraph : (s.updGroup u f).nextGraph = s.nextGraph := rfl
@[simp] theorem State.updGroup_now : (s.updGroup u f).now = s.now := rfl
@[simp] theorem State.updGroup_port : (s.updGroup u f).port = s.port := rfl
@[simp] theorem State.updGroup_turns : (s.updGroup u f).turns = s.turns := rfl
@[simp] theorem State.updGroup_fresh : (s.updGroup u f).fresh = s.fresh := rfl
@[simp] theorem State.updGroup_free : (s.updGroup u f).free = s.free := rfl

end

/-! ### `State.updReplay` -/

section
variable (s : State) (u : Nat) (f : Replay → Replay)

@[simp] theorem State.updReplay_mem : (s.updReplay u f).mem = s.mem := rfl
@[simp] theorem State.updReplay_granules : (s.updReplay u f).granules = s.granules := rfl
@[simp] theorem State.updReplay_poison : (s.updReplay u f).poison = s.poison := rfl
@[simp] theorem State.updReplay_threads : (s.updReplay u f).threads = s.threads := rfl
@[simp] theorem State.updReplay_accs : (s.updReplay u f).accs = s.accs := rfl
@[simp] theorem State.updReplay_arrivals : (s.updReplay u f).arrivals = s.arrivals := rfl
@[simp] theorem State.updReplay_pends : (s.updReplay u f).pends = s.pends := rfl
@[simp] theorem State.updReplay_fwds : (s.updReplay u f).fwds = s.fwds := rfl
@[simp] theorem State.updReplay_families : (s.updReplay u f).families = s.families := rfl
@[simp] theorem State.updReplay_kills : (s.updReplay u f).kills = s.kills := rfl
@[simp] theorem State.updReplay_cores : (s.updReplay u f).cores = s.cores := rfl
@[simp] theorem State.updReplay_clusters : (s.updReplay u f).clusters = s.clusters := rfl
@[simp] theorem State.updReplay_copies : (s.updReplay u f).copies = s.copies := rfl
@[simp] theorem State.updReplay_saves : (s.updReplay u f).saves = s.saves := rfl
@[simp] theorem State.updReplay_groups : (s.updReplay u f).groups = s.groups := rfl
@[simp] theorem State.updReplay_graphs : (s.updReplay u f).graphs = s.graphs := rfl
@[simp] theorem State.updReplay_uploads : (s.updReplay u f).uploads = s.uploads := rfl
@[simp] theorem State.updReplay_replays : (s.updReplay u f).replays = s.replays.map fun x => if x.uid == u then f x else x := rfl
@[simp] theorem State.updReplay_tags : (s.updReplay u f).tags = s.tags := rfl
@[simp] theorem State.updReplay_pubs : (s.updReplay u f).pubs = s.pubs := rfl
@[simp] theorem State.updReplay_ranges : (s.updReplay u f).ranges = s.ranges := rfl
@[simp] theorem State.updReplay_ctxs : (s.updReplay u f).ctxs = s.ctxs := rfl
@[simp] theorem State.updReplay_census : (s.updReplay u f).census = s.census := rfl
@[simp] theorem State.updReplay_tlb : (s.updReplay u f).tlb = s.tlb := rfl
@[simp] theorem State.updReplay_walks : (s.updReplay u f).walks = s.walks := rfl
@[simp] theorem State.updReplay_sums : (s.updReplay u f).sums = s.sums := rfl
@[simp] theorem State.updReplay_shoots : (s.updReplay u f).shoots = s.shoots := rfl
@[simp] theorem State.updReplay_summary : (s.updReplay u f).summary = s.summary := rfl
@[simp] theorem State.updReplay_summaryAt : (s.updReplay u f).summaryAt = s.summaryAt := rfl
@[simp] theorem State.updReplay_lmap : (s.updReplay u f).lmap = s.lmap := rfl
@[simp] theorem State.updReplay_freezeOrder : (s.updReplay u f).freezeOrder = s.freezeOrder := rfl
@[simp] theorem State.updReplay_launchLast : (s.updReplay u f).launchLast = s.launchLast := rfl
@[simp] theorem State.updReplay_watchLast : (s.updReplay u f).watchLast = s.watchLast := rfl
@[simp] theorem State.updReplay_scrubs : (s.updReplay u f).scrubs = s.scrubs := rfl
@[simp] theorem State.updReplay_events : (s.updReplay u f).events = s.events := rfl
@[simp] theorem State.updReplay_eventSeq : (s.updReplay u f).eventSeq = s.eventSeq := rfl
@[simp] theorem State.updReplay_eventEp : (s.updReplay u f).eventEp = s.eventEp := rfl
@[simp] theorem State.updReplay_out : (s.updReplay u f).out = s.out := rfl
@[simp] theorem State.updReplay_dropped : (s.updReplay u f).dropped = s.dropped := rfl
@[simp] theorem State.updReplay_ports : (s.updReplay u f).ports = s.ports := rfl
@[simp] theorem State.updReplay_stackErrs : (s.updReplay u f).stackErrs = s.stackErrs := rfl
@[simp] theorem State.updReplay_linkRetries : (s.updReplay u f).linkRetries = s.linkRetries := rfl
@[simp] theorem State.updReplay_corrected : (s.updReplay u f).corrected = s.corrected := rfl
@[simp] theorem State.updReplay_replaceMe : (s.updReplay u f).replaceMe = s.replaceMe := rfl
@[simp] theorem State.updReplay_powerLimit : (s.updReplay u f).powerLimit = s.powerLimit := rfl
@[simp] theorem State.updReplay_boot : (s.updReplay u f).boot = s.boot := rfl
@[simp] theorem State.updReplay_cfg : (s.updReplay u f).cfg = s.cfg := rfl
@[simp] theorem State.updReplay_measure : (s.updReplay u f).measure = s.measure := rfl
@[simp] theorem State.updReplay_versions : (s.updReplay u f).versions = s.versions := rfl
@[simp] theorem State.updReplay_nextGraph : (s.updReplay u f).nextGraph = s.nextGraph := rfl
@[simp] theorem State.updReplay_now : (s.updReplay u f).now = s.now := rfl
@[simp] theorem State.updReplay_port : (s.updReplay u f).port = s.port := rfl
@[simp] theorem State.updReplay_turns : (s.updReplay u f).turns = s.turns := rfl
@[simp] theorem State.updReplay_fresh : (s.updReplay u f).fresh = s.fresh := rfl
@[simp] theorem State.updReplay_free : (s.updReplay u f).free = s.free := rfl

end

/-! ### `State.write` -/

section
variable (s : State) (l : Loc) (n v : Nat)

@[simp] theorem State.write_mem : (s.write l n v).mem = Mem.setLE s.mem l.key n v := rfl
@[simp] theorem State.write_granules : (s.write l n v).granules = s.granules := rfl
@[simp] theorem State.write_poison : (s.write l n v).poison = s.poison := rfl
@[simp] theorem State.write_threads : (s.write l n v).threads = s.threads := rfl
@[simp] theorem State.write_accs : (s.write l n v).accs = s.accs := rfl
@[simp] theorem State.write_arrivals : (s.write l n v).arrivals = s.arrivals := rfl
@[simp] theorem State.write_pends : (s.write l n v).pends = s.pends := rfl
@[simp] theorem State.write_fwds : (s.write l n v).fwds = s.fwds := rfl
@[simp] theorem State.write_families : (s.write l n v).families = s.families := rfl
@[simp] theorem State.write_kills : (s.write l n v).kills = s.kills := rfl
@[simp] theorem State.write_cores : (s.write l n v).cores = s.cores := rfl
@[simp] theorem State.write_clusters : (s.write l n v).clusters = s.clusters := rfl
@[simp] theorem State.write_copies : (s.write l n v).copies = s.copies := rfl
@[simp] theorem State.write_saves : (s.write l n v).saves = s.saves := rfl
@[simp] theorem State.write_groups : (s.write l n v).groups = s.groups := rfl
@[simp] theorem State.write_graphs : (s.write l n v).graphs = s.graphs := rfl
@[simp] theorem State.write_uploads : (s.write l n v).uploads = s.uploads := rfl
@[simp] theorem State.write_replays : (s.write l n v).replays = s.replays := rfl
@[simp] theorem State.write_tags : (s.write l n v).tags = s.tags := rfl
@[simp] theorem State.write_pubs : (s.write l n v).pubs = s.pubs := rfl
@[simp] theorem State.write_ranges : (s.write l n v).ranges = s.ranges := rfl
@[simp] theorem State.write_ctxs : (s.write l n v).ctxs = s.ctxs := rfl
@[simp] theorem State.write_census : (s.write l n v).census = s.census := rfl
@[simp] theorem State.write_tlb : (s.write l n v).tlb = s.tlb := rfl
@[simp] theorem State.write_walks : (s.write l n v).walks = s.walks := rfl
@[simp] theorem State.write_sums : (s.write l n v).sums = s.sums := rfl
@[simp] theorem State.write_shoots : (s.write l n v).shoots = s.shoots := rfl
@[simp] theorem State.write_summary : (s.write l n v).summary = s.summary := rfl
@[simp] theorem State.write_summaryAt : (s.write l n v).summaryAt = s.summaryAt := rfl
@[simp] theorem State.write_lmap : (s.write l n v).lmap = s.lmap := rfl
@[simp] theorem State.write_freezeOrder : (s.write l n v).freezeOrder = s.freezeOrder := rfl
@[simp] theorem State.write_launchLast : (s.write l n v).launchLast = s.launchLast := rfl
@[simp] theorem State.write_watchLast : (s.write l n v).watchLast = s.watchLast := rfl
@[simp] theorem State.write_scrubs : (s.write l n v).scrubs = s.scrubs := rfl
@[simp] theorem State.write_events : (s.write l n v).events = s.events := rfl
@[simp] theorem State.write_eventSeq : (s.write l n v).eventSeq = s.eventSeq := rfl
@[simp] theorem State.write_eventEp : (s.write l n v).eventEp = s.eventEp := rfl
@[simp] theorem State.write_out : (s.write l n v).out = s.out := rfl
@[simp] theorem State.write_dropped : (s.write l n v).dropped = s.dropped := rfl
@[simp] theorem State.write_ports : (s.write l n v).ports = s.ports := rfl
@[simp] theorem State.write_stackErrs : (s.write l n v).stackErrs = s.stackErrs := rfl
@[simp] theorem State.write_linkRetries : (s.write l n v).linkRetries = s.linkRetries := rfl
@[simp] theorem State.write_corrected : (s.write l n v).corrected = s.corrected := rfl
@[simp] theorem State.write_replaceMe : (s.write l n v).replaceMe = s.replaceMe := rfl
@[simp] theorem State.write_powerLimit : (s.write l n v).powerLimit = s.powerLimit := rfl
@[simp] theorem State.write_boot : (s.write l n v).boot = s.boot := rfl
@[simp] theorem State.write_cfg : (s.write l n v).cfg = s.cfg := rfl
@[simp] theorem State.write_measure : (s.write l n v).measure = s.measure := rfl
@[simp] theorem State.write_versions : (s.write l n v).versions = s.versions := rfl
@[simp] theorem State.write_nextGraph : (s.write l n v).nextGraph = s.nextGraph := rfl
@[simp] theorem State.write_now : (s.write l n v).now = s.now := rfl
@[simp] theorem State.write_port : (s.write l n v).port = s.port := rfl
@[simp] theorem State.write_turns : (s.write l n v).turns = s.turns := rfl
@[simp] theorem State.write_fresh : (s.write l n v).fresh = s.fresh := rfl
@[simp] theorem State.write_free : (s.write l n v).free = s.free := rfl

end

/-! ### `State.setGranule` -/

section
variable (s : State) (l : Loc) (b : Bool)

@[simp] theorem State.setGranule_mem : (s.setGranule l b).mem = s.mem := by cases l <;> rfl
@[simp] theorem State.setGranule_poison : (s.setGranule l b).poison = s.poison := by cases l <;> rfl
@[simp] theorem State.setGranule_threads : (s.setGranule l b).threads = s.threads := by cases l <;> rfl
@[simp] theorem State.setGranule_accs : (s.setGranule l b).accs = s.accs := by cases l <;> rfl
@[simp] theorem State.setGranule_arrivals : (s.setGranule l b).arrivals = s.arrivals := by cases l <;> rfl
@[simp] theorem State.setGranule_pends : (s.setGranule l b).pends = s.pends := by cases l <;> rfl
@[simp] theorem State.setGranule_fwds : (s.setGranule l b).fwds = s.fwds := by cases l <;> rfl
@[simp] theorem State.setGranule_families : (s.setGranule l b).families = s.families := by cases l <;> rfl
@[simp] theorem State.setGranule_kills : (s.setGranule l b).kills = s.kills := by cases l <;> rfl
@[simp] theorem State.setGranule_cores : (s.setGranule l b).cores = s.cores := by cases l <;> rfl
@[simp] theorem State.setGranule_clusters : (s.setGranule l b).clusters = s.clusters := by cases l <;> rfl
@[simp] theorem State.setGranule_copies : (s.setGranule l b).copies = s.copies := by cases l <;> rfl
@[simp] theorem State.setGranule_saves : (s.setGranule l b).saves = s.saves := by cases l <;> rfl
@[simp] theorem State.setGranule_groups : (s.setGranule l b).groups = s.groups := by cases l <;> rfl
@[simp] theorem State.setGranule_graphs : (s.setGranule l b).graphs = s.graphs := by cases l <;> rfl
@[simp] theorem State.setGranule_uploads : (s.setGranule l b).uploads = s.uploads := by cases l <;> rfl
@[simp] theorem State.setGranule_replays : (s.setGranule l b).replays = s.replays := by cases l <;> rfl
@[simp] theorem State.setGranule_tags : (s.setGranule l b).tags = s.tags := by cases l <;> rfl
@[simp] theorem State.setGranule_pubs : (s.setGranule l b).pubs = s.pubs := by cases l <;> rfl
@[simp] theorem State.setGranule_ranges : (s.setGranule l b).ranges = s.ranges := by cases l <;> rfl
@[simp] theorem State.setGranule_ctxs : (s.setGranule l b).ctxs = s.ctxs := by cases l <;> rfl
@[simp] theorem State.setGranule_census : (s.setGranule l b).census = s.census := by cases l <;> rfl
@[simp] theorem State.setGranule_tlb : (s.setGranule l b).tlb = s.tlb := by cases l <;> rfl
@[simp] theorem State.setGranule_walks : (s.setGranule l b).walks = s.walks := by cases l <;> rfl
@[simp] theorem State.setGranule_sums : (s.setGranule l b).sums = s.sums := by cases l <;> rfl
@[simp] theorem State.setGranule_shoots : (s.setGranule l b).shoots = s.shoots := by cases l <;> rfl
@[simp] theorem State.setGranule_summary : (s.setGranule l b).summary = s.summary := by cases l <;> rfl
@[simp] theorem State.setGranule_summaryAt : (s.setGranule l b).summaryAt = s.summaryAt := by cases l <;> rfl
@[simp] theorem State.setGranule_lmap : (s.setGranule l b).lmap = s.lmap := by cases l <;> rfl
@[simp] theorem State.setGranule_freezeOrder : (s.setGranule l b).freezeOrder = s.freezeOrder := by cases l <;> rfl
@[simp] theorem State.setGranule_launchLast : (s.setGranule l b).launchLast = s.launchLast := by cases l <;> rfl
@[simp] theorem State.setGranule_watchLast : (s.setGranule l b).watchLast = s.watchLast := by cases l <;> rfl
@[simp] theorem State.setGranule_scrubs : (s.setGranule l b).scrubs = s.scrubs := by cases l <;> rfl
@[simp] theorem State.setGranule_events : (s.setGranule l b).events = s.events := by cases l <;> rfl
@[simp] theorem State.setGranule_eventSeq : (s.setGranule l b).eventSeq = s.eventSeq := by cases l <;> rfl
@[simp] theorem State.setGranule_eventEp : (s.setGranule l b).eventEp = s.eventEp := by cases l <;> rfl
@[simp] theorem State.setGranule_out : (s.setGranule l b).out = s.out := by cases l <;> rfl
@[simp] theorem State.setGranule_dropped : (s.setGranule l b).dropped = s.dropped := by cases l <;> rfl
@[simp] theorem State.setGranule_ports : (s.setGranule l b).ports = s.ports := by cases l <;> rfl
@[simp] theorem State.setGranule_stackErrs : (s.setGranule l b).stackErrs = s.stackErrs := by cases l <;> rfl
@[simp] theorem State.setGranule_linkRetries : (s.setGranule l b).linkRetries = s.linkRetries := by cases l <;> rfl
@[simp] theorem State.setGranule_corrected : (s.setGranule l b).corrected = s.corrected := by cases l <;> rfl
@[simp] theorem State.setGranule_replaceMe : (s.setGranule l b).replaceMe = s.replaceMe := by cases l <;> rfl
@[simp] theorem State.setGranule_powerLimit : (s.setGranule l b).powerLimit = s.powerLimit := by cases l <;> rfl
@[simp] theorem State.setGranule_boot : (s.setGranule l b).boot = s.boot := by cases l <;> rfl
@[simp] theorem State.setGranule_cfg : (s.setGranule l b).cfg = s.cfg := by cases l <;> rfl
@[simp] theorem State.setGranule_measure : (s.setGranule l b).measure = s.measure := by cases l <;> rfl
@[simp] theorem State.setGranule_versions : (s.setGranule l b).versions = s.versions := by cases l <;> rfl
@[simp] theorem State.setGranule_nextGraph : (s.setGranule l b).nextGraph = s.nextGraph := by cases l <;> rfl
@[simp] theorem State.setGranule_now : (s.setGranule l b).now = s.now := by cases l <;> rfl
@[simp] theorem State.setGranule_port : (s.setGranule l b).port = s.port := by cases l <;> rfl
@[simp] theorem State.setGranule_turns : (s.setGranule l b).turns = s.turns := by cases l <;> rfl
@[simp] theorem State.setGranule_fresh : (s.setGranule l b).fresh = s.fresh := by cases l <;> rfl
@[simp] theorem State.setGranule_free : (s.setGranule l b).free = s.free := by cases l <;> rfl

end

/-! ### `State.send` -/

section
variable (s : State) (o : Out)

@[simp] theorem State.send_mem : (s.send o).mem = s.mem := rfl
@[simp] theorem State.send_granules : (s.send o).granules = s.granules := rfl
@[simp] theorem State.send_poison : (s.send o).poison = s.poison := rfl
@[simp] theorem State.send_threads : (s.send o).threads = s.threads := rfl
@[simp] theorem State.send_accs : (s.send o).accs = s.accs := rfl
@[simp] theorem State.send_arrivals : (s.send o).arrivals = s.arrivals := rfl
@[simp] theorem State.send_pends : (s.send o).pends = s.pends := rfl
@[simp] theorem State.send_fwds : (s.send o).fwds = s.fwds := rfl
@[simp] theorem State.send_families : (s.send o).families = s.families := rfl
@[simp] theorem State.send_kills : (s.send o).kills = s.kills := rfl
@[simp] theorem State.send_cores : (s.send o).cores = s.cores := rfl
@[simp] theorem State.send_clusters : (s.send o).clusters = s.clusters := rfl
@[simp] theorem State.send_copies : (s.send o).copies = s.copies := rfl
@[simp] theorem State.send_saves : (s.send o).saves = s.saves := rfl
@[simp] theorem State.send_groups : (s.send o).groups = s.groups := rfl
@[simp] theorem State.send_graphs : (s.send o).graphs = s.graphs := rfl
@[simp] theorem State.send_uploads : (s.send o).uploads = s.uploads := rfl
@[simp] theorem State.send_replays : (s.send o).replays = s.replays := rfl
@[simp] theorem State.send_tags : (s.send o).tags = s.tags := rfl
@[simp] theorem State.send_pubs : (s.send o).pubs = s.pubs := rfl
@[simp] theorem State.send_ranges : (s.send o).ranges = s.ranges := rfl
@[simp] theorem State.send_ctxs : (s.send o).ctxs = s.ctxs := rfl
@[simp] theorem State.send_census : (s.send o).census = s.census := rfl
@[simp] theorem State.send_tlb : (s.send o).tlb = s.tlb := rfl
@[simp] theorem State.send_walks : (s.send o).walks = s.walks := rfl
@[simp] theorem State.send_sums : (s.send o).sums = s.sums := rfl
@[simp] theorem State.send_shoots : (s.send o).shoots = s.shoots := rfl
@[simp] theorem State.send_summary : (s.send o).summary = s.summary := rfl
@[simp] theorem State.send_summaryAt : (s.send o).summaryAt = s.summaryAt := rfl
@[simp] theorem State.send_lmap : (s.send o).lmap = s.lmap := rfl
@[simp] theorem State.send_freezeOrder : (s.send o).freezeOrder = s.freezeOrder := rfl
@[simp] theorem State.send_launchLast : (s.send o).launchLast = s.launchLast := rfl
@[simp] theorem State.send_watchLast : (s.send o).watchLast = s.watchLast := rfl
@[simp] theorem State.send_scrubs : (s.send o).scrubs = s.scrubs := rfl
@[simp] theorem State.send_events : (s.send o).events = s.events := rfl
@[simp] theorem State.send_eventSeq : (s.send o).eventSeq = s.eventSeq := rfl
@[simp] theorem State.send_eventEp : (s.send o).eventEp = s.eventEp := rfl
@[simp] theorem State.send_out : (s.send o).out = s.out ++ [o] := rfl
@[simp] theorem State.send_dropped : (s.send o).dropped = s.dropped := rfl
@[simp] theorem State.send_ports : (s.send o).ports = s.ports := rfl
@[simp] theorem State.send_stackErrs : (s.send o).stackErrs = s.stackErrs := rfl
@[simp] theorem State.send_linkRetries : (s.send o).linkRetries = s.linkRetries := rfl
@[simp] theorem State.send_corrected : (s.send o).corrected = s.corrected := rfl
@[simp] theorem State.send_replaceMe : (s.send o).replaceMe = s.replaceMe := rfl
@[simp] theorem State.send_powerLimit : (s.send o).powerLimit = s.powerLimit := rfl
@[simp] theorem State.send_boot : (s.send o).boot = s.boot := rfl
@[simp] theorem State.send_cfg : (s.send o).cfg = s.cfg := rfl
@[simp] theorem State.send_measure : (s.send o).measure = s.measure := rfl
@[simp] theorem State.send_versions : (s.send o).versions = s.versions := rfl
@[simp] theorem State.send_nextGraph : (s.send o).nextGraph = s.nextGraph := rfl
@[simp] theorem State.send_now : (s.send o).now = s.now := rfl
@[simp] theorem State.send_port : (s.send o).port = s.port := rfl
@[simp] theorem State.send_turns : (s.send o).turns = s.turns := rfl
@[simp] theorem State.send_fresh : (s.send o).fresh = s.fresh := rfl
@[simp] theorem State.send_free : (s.send o).free = s.free := rfl

end

/-! ### `State.report` -/

section
variable (s : State) (e : BitVec 32) (k : Nat) (c : BitVec 16) (d : Word)

@[simp] theorem State.report_mem : (s.report e k c d).mem = s.mem := by unfold State.report; dsimp only; split <;> rfl
@[simp] theorem State.report_granules : (s.report e k c d).granules = s.granules := by unfold State.report; dsimp only; split <;> rfl
@[simp] theorem State.report_poison : (s.report e k c d).poison = s.poison := by unfold State.report; dsimp only; split <;> rfl
@[simp] theorem State.report_threads : (s.report e k c d).threads = s.threads := by unfold State.report; dsimp only; split <;> rfl
@[simp] theorem State.report_accs : (s.report e k c d).accs = s.accs := by unfold State.report; dsimp only; split <;> rfl
@[simp] theorem State.report_arrivals : (s.report e k c d).arrivals = s.arrivals := by unfold State.report; dsimp only; split <;> rfl
@[simp] theorem State.report_pends : (s.report e k c d).pends = s.pends := by unfold State.report; dsimp only; split <;> rfl
@[simp] theorem State.report_fwds : (s.report e k c d).fwds = s.fwds := by unfold State.report; dsimp only; split <;> rfl
@[simp] theorem State.report_families : (s.report e k c d).families = s.families := by unfold State.report; dsimp only; split <;> rfl
@[simp] theorem State.report_kills : (s.report e k c d).kills = s.kills := by unfold State.report; dsimp only; split <;> rfl
@[simp] theorem State.report_cores : (s.report e k c d).cores = s.cores := by unfold State.report; dsimp only; split <;> rfl
@[simp] theorem State.report_clusters : (s.report e k c d).clusters = s.clusters := by unfold State.report; dsimp only; split <;> rfl
@[simp] theorem State.report_copies : (s.report e k c d).copies = s.copies := by unfold State.report; dsimp only; split <;> rfl
@[simp] theorem State.report_saves : (s.report e k c d).saves = s.saves := by unfold State.report; dsimp only; split <;> rfl
@[simp] theorem State.report_groups : (s.report e k c d).groups = s.groups := by unfold State.report; dsimp only; split <;> rfl
@[simp] theorem State.report_graphs : (s.report e k c d).graphs = s.graphs := by unfold State.report; dsimp only; split <;> rfl
@[simp] theorem State.report_uploads : (s.report e k c d).uploads = s.uploads := by unfold State.report; dsimp only; split <;> rfl
@[simp] theorem State.report_replays : (s.report e k c d).replays = s.replays := by unfold State.report; dsimp only; split <;> rfl
@[simp] theorem State.report_tags : (s.report e k c d).tags = s.tags := by unfold State.report; dsimp only; split <;> rfl
@[simp] theorem State.report_pubs : (s.report e k c d).pubs = s.pubs := by unfold State.report; dsimp only; split <;> rfl
@[simp] theorem State.report_ranges : (s.report e k c d).ranges = s.ranges := by unfold State.report; dsimp only; split <;> rfl
@[simp] theorem State.report_ctxs : (s.report e k c d).ctxs = s.ctxs := by unfold State.report; dsimp only; split <;> rfl
@[simp] theorem State.report_census : (s.report e k c d).census = s.census := by unfold State.report; dsimp only; split <;> rfl
@[simp] theorem State.report_tlb : (s.report e k c d).tlb = s.tlb := by unfold State.report; dsimp only; split <;> rfl
@[simp] theorem State.report_walks : (s.report e k c d).walks = s.walks := by unfold State.report; dsimp only; split <;> rfl
@[simp] theorem State.report_sums : (s.report e k c d).sums = s.sums := by unfold State.report; dsimp only; split <;> rfl
@[simp] theorem State.report_shoots : (s.report e k c d).shoots = s.shoots := by unfold State.report; dsimp only; split <;> rfl
@[simp] theorem State.report_summary : (s.report e k c d).summary = s.summary := by unfold State.report; dsimp only; split <;> rfl
@[simp] theorem State.report_summaryAt : (s.report e k c d).summaryAt = s.summaryAt := by unfold State.report; dsimp only; split <;> rfl
@[simp] theorem State.report_lmap : (s.report e k c d).lmap = s.lmap := by unfold State.report; dsimp only; split <;> rfl
@[simp] theorem State.report_freezeOrder : (s.report e k c d).freezeOrder = s.freezeOrder := by unfold State.report; dsimp only; split <;> rfl
@[simp] theorem State.report_launchLast : (s.report e k c d).launchLast = s.launchLast := by unfold State.report; dsimp only; split <;> rfl
@[simp] theorem State.report_watchLast : (s.report e k c d).watchLast = s.watchLast := by unfold State.report; dsimp only; split <;> rfl
@[simp] theorem State.report_scrubs : (s.report e k c d).scrubs = s.scrubs := by unfold State.report; dsimp only; split <;> rfl
@[simp] theorem State.report_eventEp : (s.report e k c d).eventEp = s.eventEp := by unfold State.report; dsimp only; split <;> rfl
@[simp] theorem State.report_out : (s.report e k c d).out = s.out := by unfold State.report; dsimp only; split <;> rfl
@[simp] theorem State.report_dropped : (s.report e k c d).dropped = s.dropped := by unfold State.report; dsimp only; split <;> rfl
@[simp] theorem State.report_ports : (s.report e k c d).ports = s.ports := by unfold State.report; dsimp only; split <;> rfl
@[simp] theorem State.report_stackErrs : (s.report e k c d).stackErrs = s.stackErrs := by unfold State.report; dsimp only; split <;> rfl
@[simp] theorem State.report_linkRetries : (s.report e k c d).linkRetries = s.linkRetries := by unfold State.report; dsimp only; split <;> rfl
@[simp] theorem State.report_corrected : (s.report e k c d).corrected = s.corrected := by unfold State.report; dsimp only; split <;> rfl
@[simp] theorem State.report_replaceMe : (s.report e k c d).replaceMe = s.replaceMe := by unfold State.report; dsimp only; split <;> rfl
@[simp] theorem State.report_powerLimit : (s.report e k c d).powerLimit = s.powerLimit := by unfold State.report; dsimp only; split <;> rfl
@[simp] theorem State.report_boot : (s.report e k c d).boot = s.boot := by unfold State.report; dsimp only; split <;> rfl
@[simp] theorem State.report_cfg : (s.report e k c d).cfg = s.cfg := by unfold State.report; dsimp only; split <;> rfl
@[simp] theorem State.report_measure : (s.report e k c d).measure = s.measure := by unfold State.report; dsimp only; split <;> rfl
@[simp] theorem State.report_versions : (s.report e k c d).versions = s.versions := by unfold State.report; dsimp only; split <;> rfl
@[simp] theorem State.report_nextGraph : (s.report e k c d).nextGraph = s.nextGraph := by unfold State.report; dsimp only; split <;> rfl
@[simp] theorem State.report_now : (s.report e k c d).now = s.now := by unfold State.report; dsimp only; split <;> rfl
@[simp] theorem State.report_port : (s.report e k c d).port = s.port := by unfold State.report; dsimp only; split <;> rfl
@[simp] theorem State.report_turns : (s.report e k c d).turns = s.turns := by unfold State.report; dsimp only; split <;> rfl
@[simp] theorem State.report_fresh : (s.report e k c d).fresh = s.fresh := by unfold State.report; dsimp only; split <;> rfl
@[simp] theorem State.report_free : (s.report e k c d).free = s.free := by unfold State.report; dsimp only; split <;> rfl

end

/-! ### `State.drop` -/

section
variable (s : State) 

@[simp] theorem State.drop_mem : (s.drop).mem = s.mem := rfl
@[simp] theorem State.drop_granules : (s.drop).granules = s.granules := rfl
@[simp] theorem State.drop_poison : (s.drop).poison = s.poison := rfl
@[simp] theorem State.drop_threads : (s.drop).threads = s.threads := rfl
@[simp] theorem State.drop_accs : (s.drop).accs = s.accs := rfl
@[simp] theorem State.drop_arrivals : (s.drop).arrivals = s.arrivals := rfl
@[simp] theorem State.drop_pends : (s.drop).pends = s.pends := rfl
@[simp] theorem State.drop_fwds : (s.drop).fwds = s.fwds := rfl
@[simp] theorem State.drop_families : (s.drop).families = s.families := rfl
@[simp] theorem State.drop_kills : (s.drop).kills = s.kills := rfl
@[simp] theorem State.drop_cores : (s.drop).cores = s.cores := rfl
@[simp] theorem State.drop_clusters : (s.drop).clusters = s.clusters := rfl
@[simp] theorem State.drop_copies : (s.drop).copies = s.copies := rfl
@[simp] theorem State.drop_saves : (s.drop).saves = s.saves := rfl
@[simp] theorem State.drop_groups : (s.drop).groups = s.groups := rfl
@[simp] theorem State.drop_graphs : (s.drop).graphs = s.graphs := rfl
@[simp] theorem State.drop_uploads : (s.drop).uploads = s.uploads := rfl
@[simp] theorem State.drop_replays : (s.drop).replays = s.replays := rfl
@[simp] theorem State.drop_tags : (s.drop).tags = s.tags := rfl
@[simp] theorem State.drop_pubs : (s.drop).pubs = s.pubs := rfl
@[simp] theorem State.drop_ranges : (s.drop).ranges = s.ranges := rfl
@[simp] theorem State.drop_ctxs : (s.drop).ctxs = s.ctxs := rfl
@[simp] theorem State.drop_census : (s.drop).census = s.census := rfl
@[simp] theorem State.drop_tlb : (s.drop).tlb = s.tlb := rfl
@[simp] theorem State.drop_walks : (s.drop).walks = s.walks := rfl
@[simp] theorem State.drop_sums : (s.drop).sums = s.sums := rfl
@[simp] theorem State.drop_shoots : (s.drop).shoots = s.shoots := rfl
@[simp] theorem State.drop_summary : (s.drop).summary = s.summary := rfl
@[simp] theorem State.drop_summaryAt : (s.drop).summaryAt = s.summaryAt := rfl
@[simp] theorem State.drop_lmap : (s.drop).lmap = s.lmap := rfl
@[simp] theorem State.drop_freezeOrder : (s.drop).freezeOrder = s.freezeOrder := rfl
@[simp] theorem State.drop_launchLast : (s.drop).launchLast = s.launchLast := rfl
@[simp] theorem State.drop_watchLast : (s.drop).watchLast = s.watchLast := rfl
@[simp] theorem State.drop_scrubs : (s.drop).scrubs = s.scrubs := rfl
@[simp] theorem State.drop_events : (s.drop).events = s.events := rfl
@[simp] theorem State.drop_eventSeq : (s.drop).eventSeq = s.eventSeq := rfl
@[simp] theorem State.drop_eventEp : (s.drop).eventEp = s.eventEp := rfl
@[simp] theorem State.drop_out : (s.drop).out = s.out := rfl
@[simp] theorem State.drop_dropped : (s.drop).dropped = s.dropped + 1 := rfl
@[simp] theorem State.drop_ports : (s.drop).ports = s.ports := rfl
@[simp] theorem State.drop_stackErrs : (s.drop).stackErrs = s.stackErrs := rfl
@[simp] theorem State.drop_linkRetries : (s.drop).linkRetries = s.linkRetries := rfl
@[simp] theorem State.drop_corrected : (s.drop).corrected = s.corrected := rfl
@[simp] theorem State.drop_replaceMe : (s.drop).replaceMe = s.replaceMe := rfl
@[simp] theorem State.drop_powerLimit : (s.drop).powerLimit = s.powerLimit := rfl
@[simp] theorem State.drop_boot : (s.drop).boot = s.boot := rfl
@[simp] theorem State.drop_cfg : (s.drop).cfg = s.cfg := rfl
@[simp] theorem State.drop_measure : (s.drop).measure = s.measure := rfl
@[simp] theorem State.drop_versions : (s.drop).versions = s.versions := rfl
@[simp] theorem State.drop_nextGraph : (s.drop).nextGraph = s.nextGraph := rfl
@[simp] theorem State.drop_now : (s.drop).now = s.now := rfl
@[simp] theorem State.drop_port : (s.drop).port = s.port := rfl
@[simp] theorem State.drop_turns : (s.drop).turns = s.turns := rfl
@[simp] theorem State.drop_fresh : (s.drop).fresh = s.fresh := rfl
@[simp] theorem State.drop_free : (s.drop).free = s.free := rfl

end

/-! ### `State.newId` -/

section
variable (s : State) 

@[simp] theorem State.newId_mem : (s.newId.2).mem = s.mem := rfl
@[simp] theorem State.newId_granules : (s.newId.2).granules = s.granules := rfl
@[simp] theorem State.newId_poison : (s.newId.2).poison = s.poison := rfl
@[simp] theorem State.newId_threads : (s.newId.2).threads = s.threads := rfl
@[simp] theorem State.newId_accs : (s.newId.2).accs = s.accs := rfl
@[simp] theorem State.newId_arrivals : (s.newId.2).arrivals = s.arrivals := rfl
@[simp] theorem State.newId_pends : (s.newId.2).pends = s.pends := rfl
@[simp] theorem State.newId_fwds : (s.newId.2).fwds = s.fwds := rfl
@[simp] theorem State.newId_families : (s.newId.2).families = s.families := rfl
@[simp] theorem State.newId_kills : (s.newId.2).kills = s.kills := rfl
@[simp] theorem State.newId_cores : (s.newId.2).cores = s.cores := rfl
@[simp] theorem State.newId_clusters : (s.newId.2).clusters = s.clusters := rfl
@[simp] theorem State.newId_copies : (s.newId.2).copies = s.copies := rfl
@[simp] theorem State.newId_saves : (s.newId.2).saves = s.saves := rfl
@[simp] theorem State.newId_groups : (s.newId.2).groups = s.groups := rfl
@[simp] theorem State.newId_graphs : (s.newId.2).graphs = s.graphs := rfl
@[simp] theorem State.newId_uploads : (s.newId.2).uploads = s.uploads := rfl
@[simp] theorem State.newId_replays : (s.newId.2).replays = s.replays := rfl
@[simp] theorem State.newId_tags : (s.newId.2).tags = s.tags := rfl
@[simp] theorem State.newId_pubs : (s.newId.2).pubs = s.pubs := rfl
@[simp] theorem State.newId_ranges : (s.newId.2).ranges = s.ranges := rfl
@[simp] theorem State.newId_ctxs : (s.newId.2).ctxs = s.ctxs := rfl
@[simp] theorem State.newId_census : (s.newId.2).census = s.census := rfl
@[simp] theorem State.newId_tlb : (s.newId.2).tlb = s.tlb := rfl
@[simp] theorem State.newId_walks : (s.newId.2).walks = s.walks := rfl
@[simp] theorem State.newId_sums : (s.newId.2).sums = s.sums := rfl
@[simp] theorem State.newId_shoots : (s.newId.2).shoots = s.shoots := rfl
@[simp] theorem State.newId_summary : (s.newId.2).summary = s.summary := rfl
@[simp] theorem State.newId_summaryAt : (s.newId.2).summaryAt = s.summaryAt := rfl
@[simp] theorem State.newId_lmap : (s.newId.2).lmap = s.lmap := rfl
@[simp] theorem State.newId_freezeOrder : (s.newId.2).freezeOrder = s.freezeOrder := rfl
@[simp] theorem State.newId_launchLast : (s.newId.2).launchLast = s.launchLast := rfl
@[simp] theorem State.newId_watchLast : (s.newId.2).watchLast = s.watchLast := rfl
@[simp] theorem State.newId_scrubs : (s.newId.2).scrubs = s.scrubs := rfl
@[simp] theorem State.newId_events : (s.newId.2).events = s.events := rfl
@[simp] theorem State.newId_eventSeq : (s.newId.2).eventSeq = s.eventSeq := rfl
@[simp] theorem State.newId_eventEp : (s.newId.2).eventEp = s.eventEp := rfl
@[simp] theorem State.newId_out : (s.newId.2).out = s.out := rfl
@[simp] theorem State.newId_dropped : (s.newId.2).dropped = s.dropped := rfl
@[simp] theorem State.newId_ports : (s.newId.2).ports = s.ports := rfl
@[simp] theorem State.newId_stackErrs : (s.newId.2).stackErrs = s.stackErrs := rfl
@[simp] theorem State.newId_linkRetries : (s.newId.2).linkRetries = s.linkRetries := rfl
@[simp] theorem State.newId_corrected : (s.newId.2).corrected = s.corrected := rfl
@[simp] theorem State.newId_replaceMe : (s.newId.2).replaceMe = s.replaceMe := rfl
@[simp] theorem State.newId_powerLimit : (s.newId.2).powerLimit = s.powerLimit := rfl
@[simp] theorem State.newId_boot : (s.newId.2).boot = s.boot := rfl
@[simp] theorem State.newId_cfg : (s.newId.2).cfg = s.cfg := rfl
@[simp] theorem State.newId_measure : (s.newId.2).measure = s.measure := rfl
@[simp] theorem State.newId_versions : (s.newId.2).versions = s.versions := rfl
@[simp] theorem State.newId_nextGraph : (s.newId.2).nextGraph = s.nextGraph := rfl
@[simp] theorem State.newId_now : (s.newId.2).now = s.now := rfl
@[simp] theorem State.newId_port : (s.newId.2).port = s.port := rfl
@[simp] theorem State.newId_turns : (s.newId.2).turns = s.turns := rfl
@[simp] theorem State.newId_fresh : (s.newId.2).fresh = s.fresh + 1 := rfl
@[simp] theorem State.newId_free : (s.newId.2).free = s.free := rfl

end

/-! ### `State.newFree` -/

section
variable (s : State) 

@[simp] theorem State.newFree_mem : (s.newFree.2).mem = s.mem := rfl
@[simp] theorem State.newFree_granules : (s.newFree.2).granules = s.granules := rfl
@[simp] theorem State.newFree_poison : (s.newFree.2).poison = s.poison := rfl
@[simp] theorem State.newFree_threads : (s.newFree.2).threads = s.threads := rfl
@[simp] theorem State.newFree_accs : (s.newFree.2).accs = s.accs := rfl
@[simp] theorem State.newFree_arrivals : (s.newFree.2).arrivals = s.arrivals := rfl
@[simp] theorem State.newFree_pends : (s.newFree.2).pends = s.pends := rfl
@[simp] theorem State.newFree_fwds : (s.newFree.2).fwds = s.fwds := rfl
@[simp] theorem State.newFree_families : (s.newFree.2).families = s.families := rfl
@[simp] theorem State.newFree_kills : (s.newFree.2).kills = s.kills := rfl
@[simp] theorem State.newFree_cores : (s.newFree.2).cores = s.cores := rfl
@[simp] theorem State.newFree_clusters : (s.newFree.2).clusters = s.clusters := rfl
@[simp] theorem State.newFree_copies : (s.newFree.2).copies = s.copies := rfl
@[simp] theorem State.newFree_saves : (s.newFree.2).saves = s.saves := rfl
@[simp] theorem State.newFree_groups : (s.newFree.2).groups = s.groups := rfl
@[simp] theorem State.newFree_graphs : (s.newFree.2).graphs = s.graphs := rfl
@[simp] theorem State.newFree_uploads : (s.newFree.2).uploads = s.uploads := rfl
@[simp] theorem State.newFree_replays : (s.newFree.2).replays = s.replays := rfl
@[simp] theorem State.newFree_tags : (s.newFree.2).tags = s.tags := rfl
@[simp] theorem State.newFree_pubs : (s.newFree.2).pubs = s.pubs := rfl
@[simp] theorem State.newFree_ranges : (s.newFree.2).ranges = s.ranges := rfl
@[simp] theorem State.newFree_ctxs : (s.newFree.2).ctxs = s.ctxs := rfl
@[simp] theorem State.newFree_census : (s.newFree.2).census = s.census := rfl
@[simp] theorem State.newFree_tlb : (s.newFree.2).tlb = s.tlb := rfl
@[simp] theorem State.newFree_walks : (s.newFree.2).walks = s.walks := rfl
@[simp] theorem State.newFree_sums : (s.newFree.2).sums = s.sums := rfl
@[simp] theorem State.newFree_shoots : (s.newFree.2).shoots = s.shoots := rfl
@[simp] theorem State.newFree_summary : (s.newFree.2).summary = s.summary := rfl
@[simp] theorem State.newFree_summaryAt : (s.newFree.2).summaryAt = s.summaryAt := rfl
@[simp] theorem State.newFree_lmap : (s.newFree.2).lmap = s.lmap := rfl
@[simp] theorem State.newFree_freezeOrder : (s.newFree.2).freezeOrder = s.freezeOrder := rfl
@[simp] theorem State.newFree_launchLast : (s.newFree.2).launchLast = s.launchLast := rfl
@[simp] theorem State.newFree_watchLast : (s.newFree.2).watchLast = s.watchLast := rfl
@[simp] theorem State.newFree_scrubs : (s.newFree.2).scrubs = s.scrubs := rfl
@[simp] theorem State.newFree_events : (s.newFree.2).events = s.events := rfl
@[simp] theorem State.newFree_eventSeq : (s.newFree.2).eventSeq = s.eventSeq := rfl
@[simp] theorem State.newFree_eventEp : (s.newFree.2).eventEp = s.eventEp := rfl
@[simp] theorem State.newFree_out : (s.newFree.2).out = s.out := rfl
@[simp] theorem State.newFree_dropped : (s.newFree.2).dropped = s.dropped := rfl
@[simp] theorem State.newFree_ports : (s.newFree.2).ports = s.ports := rfl
@[simp] theorem State.newFree_stackErrs : (s.newFree.2).stackErrs = s.stackErrs := rfl
@[simp] theorem State.newFree_linkRetries : (s.newFree.2).linkRetries = s.linkRetries := rfl
@[simp] theorem State.newFree_corrected : (s.newFree.2).corrected = s.corrected := rfl
@[simp] theorem State.newFree_replaceMe : (s.newFree.2).replaceMe = s.replaceMe := rfl
@[simp] theorem State.newFree_powerLimit : (s.newFree.2).powerLimit = s.powerLimit := rfl
@[simp] theorem State.newFree_boot : (s.newFree.2).boot = s.boot := rfl
@[simp] theorem State.newFree_cfg : (s.newFree.2).cfg = s.cfg := rfl
@[simp] theorem State.newFree_measure : (s.newFree.2).measure = s.measure := rfl
@[simp] theorem State.newFree_versions : (s.newFree.2).versions = s.versions := rfl
@[simp] theorem State.newFree_nextGraph : (s.newFree.2).nextGraph = s.nextGraph := rfl
@[simp] theorem State.newFree_now : (s.newFree.2).now = s.now := rfl
@[simp] theorem State.newFree_port : (s.newFree.2).port = s.port := rfl
@[simp] theorem State.newFree_turns : (s.newFree.2).turns = s.turns := rfl
@[simp] theorem State.newFree_fresh : (s.newFree.2).fresh = s.fresh := rfl
@[simp] theorem State.newFree_free : (s.newFree.2).free = s.free + 1 := rfl

end

/-! ### `State.sendAccess` -/

section
variable (s : State) (t : Thread) (p : Port) (l : Loc) (n : Nat) (op : AccOp) (r : Bool) (x : Option Nat)

@[simp] theorem State.sendAccess_mem : (s.sendAccess t p l n op r x).mem = s.mem := rfl
@[simp] theorem State.sendAccess_granules : (s.sendAccess t p l n op r x).granules = s.granules := rfl
@[simp] theorem State.sendAccess_poison : (s.sendAccess t p l n op r x).poison = s.poison := rfl
@[simp] theorem State.sendAccess_threads : (s.sendAccess t p l n op r x).threads = s.threads := rfl
@[simp] theorem State.sendAccess_arrivals : (s.sendAccess t p l n op r x).arrivals = s.arrivals := rfl
@[simp] theorem State.sendAccess_pends : (s.sendAccess t p l n op r x).pends = s.pends := rfl
@[simp] theorem State.sendAccess_fwds : (s.sendAccess t p l n op r x).fwds = s.fwds := rfl
@[simp] theorem State.sendAccess_families : (s.sendAccess t p l n op r x).families = s.families := rfl
@[simp] theorem State.sendAccess_kills : (s.sendAccess t p l n op r x).kills = s.kills := rfl
@[simp] theorem State.sendAccess_cores : (s.sendAccess t p l n op r x).cores = s.cores := rfl
@[simp] theorem State.sendAccess_clusters : (s.sendAccess t p l n op r x).clusters = s.clusters := rfl
@[simp] theorem State.sendAccess_copies : (s.sendAccess t p l n op r x).copies = s.copies := rfl
@[simp] theorem State.sendAccess_saves : (s.sendAccess t p l n op r x).saves = s.saves := rfl
@[simp] theorem State.sendAccess_groups : (s.sendAccess t p l n op r x).groups = s.groups := rfl
@[simp] theorem State.sendAccess_graphs : (s.sendAccess t p l n op r x).graphs = s.graphs := rfl
@[simp] theorem State.sendAccess_uploads : (s.sendAccess t p l n op r x).uploads = s.uploads := rfl
@[simp] theorem State.sendAccess_replays : (s.sendAccess t p l n op r x).replays = s.replays := rfl
@[simp] theorem State.sendAccess_tags : (s.sendAccess t p l n op r x).tags = s.tags := rfl
@[simp] theorem State.sendAccess_pubs : (s.sendAccess t p l n op r x).pubs = s.pubs := rfl
@[simp] theorem State.sendAccess_ranges : (s.sendAccess t p l n op r x).ranges = s.ranges := rfl
@[simp] theorem State.sendAccess_ctxs : (s.sendAccess t p l n op r x).ctxs = s.ctxs := rfl
@[simp] theorem State.sendAccess_census : (s.sendAccess t p l n op r x).census = s.census := rfl
@[simp] theorem State.sendAccess_tlb : (s.sendAccess t p l n op r x).tlb = s.tlb := rfl
@[simp] theorem State.sendAccess_walks : (s.sendAccess t p l n op r x).walks = s.walks := rfl
@[simp] theorem State.sendAccess_sums : (s.sendAccess t p l n op r x).sums = s.sums := rfl
@[simp] theorem State.sendAccess_shoots : (s.sendAccess t p l n op r x).shoots = s.shoots := rfl
@[simp] theorem State.sendAccess_summary : (s.sendAccess t p l n op r x).summary = s.summary := rfl
@[simp] theorem State.sendAccess_summaryAt : (s.sendAccess t p l n op r x).summaryAt = s.summaryAt := rfl
@[simp] theorem State.sendAccess_lmap : (s.sendAccess t p l n op r x).lmap = s.lmap := rfl
@[simp] theorem State.sendAccess_freezeOrder : (s.sendAccess t p l n op r x).freezeOrder = s.freezeOrder := rfl
@[simp] theorem State.sendAccess_launchLast : (s.sendAccess t p l n op r x).launchLast = s.launchLast := rfl
@[simp] theorem State.sendAccess_watchLast : (s.sendAccess t p l n op r x).watchLast = s.watchLast := rfl
@[simp] theorem State.sendAccess_scrubs : (s.sendAccess t p l n op r x).scrubs = s.scrubs := rfl
@[simp] theorem State.sendAccess_events : (s.sendAccess t p l n op r x).events = s.events := rfl
@[simp] theorem State.sendAccess_eventSeq : (s.sendAccess t p l n op r x).eventSeq = s.eventSeq := rfl
@[simp] theorem State.sendAccess_eventEp : (s.sendAccess t p l n op r x).eventEp = s.eventEp := rfl
@[simp] theorem State.sendAccess_out : (s.sendAccess t p l n op r x).out = s.out := rfl
@[simp] theorem State.sendAccess_dropped : (s.sendAccess t p l n op r x).dropped = s.dropped := rfl
@[simp] theorem State.sendAccess_ports : (s.sendAccess t p l n op r x).ports = s.ports := rfl
@[simp] theorem State.sendAccess_stackErrs : (s.sendAccess t p l n op r x).stackErrs = s.stackErrs := rfl
@[simp] theorem State.sendAccess_linkRetries : (s.sendAccess t p l n op r x).linkRetries = s.linkRetries := rfl
@[simp] theorem State.sendAccess_corrected : (s.sendAccess t p l n op r x).corrected = s.corrected := rfl
@[simp] theorem State.sendAccess_replaceMe : (s.sendAccess t p l n op r x).replaceMe = s.replaceMe := rfl
@[simp] theorem State.sendAccess_powerLimit : (s.sendAccess t p l n op r x).powerLimit = s.powerLimit := rfl
@[simp] theorem State.sendAccess_boot : (s.sendAccess t p l n op r x).boot = s.boot := rfl
@[simp] theorem State.sendAccess_cfg : (s.sendAccess t p l n op r x).cfg = s.cfg := rfl
@[simp] theorem State.sendAccess_measure : (s.sendAccess t p l n op r x).measure = s.measure := rfl
@[simp] theorem State.sendAccess_versions : (s.sendAccess t p l n op r x).versions = s.versions := rfl
@[simp] theorem State.sendAccess_nextGraph : (s.sendAccess t p l n op r x).nextGraph = s.nextGraph := rfl
@[simp] theorem State.sendAccess_now : (s.sendAccess t p l n op r x).now = s.now := rfl
@[simp] theorem State.sendAccess_port : (s.sendAccess t p l n op r x).port = s.port := rfl
@[simp] theorem State.sendAccess_turns : (s.sendAccess t p l n op r x).turns = s.turns := rfl
@[simp] theorem State.sendAccess_fresh : (s.sendAccess t p l n op r x).fresh = s.fresh + 1 := rfl
@[simp] theorem State.sendAccess_free : (s.sendAccess t p l n op r x).free = s.free := rfl

end

/-! ### `State.result` -/

section
variable (s : State) (t : Thread) (p : Port) (w : List (Operand × Wide)) (r : Prod) (x : Option FFlags)

@[simp] theorem State.result_mem : (s.result t p w r x).mem = s.mem := rfl
@[simp] theorem State.result_granules : (s.result t p w r x).granules = s.granules := rfl
@[simp] theorem State.result_poison : (s.result t p w r x).poison = s.poison := rfl
@[simp] theorem State.result_threads : (s.result t p w r x).threads = s.threads := rfl
@[simp] theorem State.result_accs : (s.result t p w r x).accs = s.accs := rfl
@[simp] theorem State.result_pends : (s.result t p w r x).pends = s.pends := rfl
@[simp] theorem State.result_fwds : (s.result t p w r x).fwds = s.fwds := rfl
@[simp] theorem State.result_families : (s.result t p w r x).families = s.families := rfl
@[simp] theorem State.result_kills : (s.result t p w r x).kills = s.kills := rfl
@[simp] theorem State.result_cores : (s.result t p w r x).cores = s.cores := rfl
@[simp] theorem State.result_clusters : (s.result t p w r x).clusters = s.clusters := rfl
@[simp] theorem State.result_copies : (s.result t p w r x).copies = s.copies := rfl
@[simp] theorem State.result_saves : (s.result t p w r x).saves = s.saves := rfl
@[simp] theorem State.result_groups : (s.result t p w r x).groups = s.groups := rfl
@[simp] theorem State.result_graphs : (s.result t p w r x).graphs = s.graphs := rfl
@[simp] theorem State.result_uploads : (s.result t p w r x).uploads = s.uploads := rfl
@[simp] theorem State.result_replays : (s.result t p w r x).replays = s.replays := rfl
@[simp] theorem State.result_tags : (s.result t p w r x).tags = s.tags := rfl
@[simp] theorem State.result_pubs : (s.result t p w r x).pubs = s.pubs := rfl
@[simp] theorem State.result_ranges : (s.result t p w r x).ranges = s.ranges := rfl
@[simp] theorem State.result_ctxs : (s.result t p w r x).ctxs = s.ctxs := rfl
@[simp] theorem State.result_census : (s.result t p w r x).census = s.census := rfl
@[simp] theorem State.result_tlb : (s.result t p w r x).tlb = s.tlb := rfl
@[simp] theorem State.result_walks : (s.result t p w r x).walks = s.walks := rfl
@[simp] theorem State.result_sums : (s.result t p w r x).sums = s.sums := rfl
@[simp] theorem State.result_shoots : (s.result t p w r x).shoots = s.shoots := rfl
@[simp] theorem State.result_summary : (s.result t p w r x).summary = s.summary := rfl
@[simp] theorem State.result_summaryAt : (s.result t p w r x).summaryAt = s.summaryAt := rfl
@[simp] theorem State.result_lmap : (s.result t p w r x).lmap = s.lmap := rfl
@[simp] theorem State.result_freezeOrder : (s.result t p w r x).freezeOrder = s.freezeOrder := rfl
@[simp] theorem State.result_launchLast : (s.result t p w r x).launchLast = s.launchLast := rfl
@[simp] theorem State.result_watchLast : (s.result t p w r x).watchLast = s.watchLast := rfl
@[simp] theorem State.result_scrubs : (s.result t p w r x).scrubs = s.scrubs := rfl
@[simp] theorem State.result_events : (s.result t p w r x).events = s.events := rfl
@[simp] theorem State.result_eventSeq : (s.result t p w r x).eventSeq = s.eventSeq := rfl
@[simp] theorem State.result_eventEp : (s.result t p w r x).eventEp = s.eventEp := rfl
@[simp] theorem State.result_out : (s.result t p w r x).out = s.out := rfl
@[simp] theorem State.result_dropped : (s.result t p w r x).dropped = s.dropped := rfl
@[simp] theorem State.result_ports : (s.result t p w r x).ports = s.ports := rfl
@[simp] theorem State.result_stackErrs : (s.result t p w r x).stackErrs = s.stackErrs := rfl
@[simp] theorem State.result_linkRetries : (s.result t p w r x).linkRetries = s.linkRetries := rfl
@[simp] theorem State.result_corrected : (s.result t p w r x).corrected = s.corrected := rfl
@[simp] theorem State.result_replaceMe : (s.result t p w r x).replaceMe = s.replaceMe := rfl
@[simp] theorem State.result_powerLimit : (s.result t p w r x).powerLimit = s.powerLimit := rfl
@[simp] theorem State.result_boot : (s.result t p w r x).boot = s.boot := rfl
@[simp] theorem State.result_cfg : (s.result t p w r x).cfg = s.cfg := rfl
@[simp] theorem State.result_measure : (s.result t p w r x).measure = s.measure := rfl
@[simp] theorem State.result_versions : (s.result t p w r x).versions = s.versions := rfl
@[simp] theorem State.result_nextGraph : (s.result t p w r x).nextGraph = s.nextGraph := rfl
@[simp] theorem State.result_now : (s.result t p w r x).now = s.now := rfl
@[simp] theorem State.result_port : (s.result t p w r x).port = s.port := rfl
@[simp] theorem State.result_turns : (s.result t p w r x).turns = s.turns := rfl
@[simp] theorem State.result_fresh : (s.result t p w r x).fresh = s.fresh + 1 := rfl
@[simp] theorem State.result_free : (s.result t p w r x).free = s.free := rfl

end

/-! ### `State.deliver` -/

section
variable (s : State) (p : Pend) (v : Word) (r : Prod) (k : Nat) (a : BitVec 32) (z : Stamp)

@[simp] theorem State.deliver_mem : (s.deliver p v r k a z).mem = s.mem := rfl
@[simp] theorem State.deliver_granules : (s.deliver p v r k a z).granules = s.granules := rfl
@[simp] theorem State.deliver_poison : (s.deliver p v r k a z).poison = s.poison := rfl
@[simp] theorem State.deliver_threads : (s.deliver p v r k a z).threads = s.threads := rfl
@[simp] theorem State.deliver_accs : (s.deliver p v r k a z).accs = s.accs := rfl
@[simp] theorem State.deliver_pends : (s.deliver p v r k a z).pends = s.pends.filter (·.id != p.id) := rfl
@[simp] theorem State.deliver_fwds : (s.deliver p v r k a z).fwds = s.fwds := rfl
@[simp] theorem State.deliver_families : (s.deliver p v r k a z).families = s.families := rfl
@[simp] theorem State.deliver_kills : (s.deliver p v r k a z).kills = s.kills := rfl
@[simp] theorem State.deliver_cores : (s.deliver p v r k a z).cores = s.cores := rfl
@[simp] theorem State.deliver_clusters : (s.deliver p v r k a z).clusters = s.clusters := rfl
@[simp] theorem State.deliver_copies : (s.deliver p v r k a z).copies = s.copies := rfl
@[simp] theorem State.deliver_saves : (s.deliver p v r k a z).saves = s.saves := rfl
@[simp] theorem State.deliver_groups : (s.deliver p v r k a z).groups = s.groups := rfl
@[simp] theorem State.deliver_graphs : (s.deliver p v r k a z).graphs = s.graphs := rfl
@[simp] theorem State.deliver_uploads : (s.deliver p v r k a z).uploads = s.uploads := rfl
@[simp] theorem State.deliver_replays : (s.deliver p v r k a z).replays = s.replays := rfl
@[simp] theorem State.deliver_tags : (s.deliver p v r k a z).tags = s.tags := rfl
@[simp] theorem State.deliver_pubs : (s.deliver p v r k a z).pubs = s.pubs := rfl
@[simp] theorem State.deliver_ranges : (s.deliver p v r k a z).ranges = s.ranges := rfl
@[simp] theorem State.deliver_ctxs : (s.deliver p v r k a z).ctxs = s.ctxs := rfl
@[simp] theorem State.deliver_census : (s.deliver p v r k a z).census = s.census := rfl
@[simp] theorem State.deliver_tlb : (s.deliver p v r k a z).tlb = s.tlb := rfl
@[simp] theorem State.deliver_walks : (s.deliver p v r k a z).walks = s.walks := rfl
@[simp] theorem State.deliver_sums : (s.deliver p v r k a z).sums = s.sums := rfl
@[simp] theorem State.deliver_shoots : (s.deliver p v r k a z).shoots = s.shoots := rfl
@[simp] theorem State.deliver_summary : (s.deliver p v r k a z).summary = s.summary := rfl
@[simp] theorem State.deliver_summaryAt : (s.deliver p v r k a z).summaryAt = s.summaryAt := rfl
@[simp] theorem State.deliver_lmap : (s.deliver p v r k a z).lmap = s.lmap := rfl
@[simp] theorem State.deliver_freezeOrder : (s.deliver p v r k a z).freezeOrder = s.freezeOrder := rfl
@[simp] theorem State.deliver_launchLast : (s.deliver p v r k a z).launchLast = s.launchLast := rfl
@[simp] theorem State.deliver_watchLast : (s.deliver p v r k a z).watchLast = s.watchLast := rfl
@[simp] theorem State.deliver_scrubs : (s.deliver p v r k a z).scrubs = s.scrubs := rfl
@[simp] theorem State.deliver_events : (s.deliver p v r k a z).events = s.events := rfl
@[simp] theorem State.deliver_eventSeq : (s.deliver p v r k a z).eventSeq = s.eventSeq := rfl
@[simp] theorem State.deliver_eventEp : (s.deliver p v r k a z).eventEp = s.eventEp := rfl
@[simp] theorem State.deliver_out : (s.deliver p v r k a z).out = s.out := rfl
@[simp] theorem State.deliver_dropped : (s.deliver p v r k a z).dropped = s.dropped := rfl
@[simp] theorem State.deliver_ports : (s.deliver p v r k a z).ports = s.ports := rfl
@[simp] theorem State.deliver_stackErrs : (s.deliver p v r k a z).stackErrs = s.stackErrs := rfl
@[simp] theorem State.deliver_linkRetries : (s.deliver p v r k a z).linkRetries = s.linkRetries := rfl
@[simp] theorem State.deliver_corrected : (s.deliver p v r k a z).corrected = s.corrected := rfl
@[simp] theorem State.deliver_replaceMe : (s.deliver p v r k a z).replaceMe = s.replaceMe := rfl
@[simp] theorem State.deliver_powerLimit : (s.deliver p v r k a z).powerLimit = s.powerLimit := rfl
@[simp] theorem State.deliver_boot : (s.deliver p v r k a z).boot = s.boot := rfl
@[simp] theorem State.deliver_cfg : (s.deliver p v r k a z).cfg = s.cfg := rfl
@[simp] theorem State.deliver_measure : (s.deliver p v r k a z).measure = s.measure := rfl
@[simp] theorem State.deliver_versions : (s.deliver p v r k a z).versions = s.versions := rfl
@[simp] theorem State.deliver_nextGraph : (s.deliver p v r k a z).nextGraph = s.nextGraph := rfl
@[simp] theorem State.deliver_now : (s.deliver p v r k a z).now = s.now := rfl
@[simp] theorem State.deliver_port : (s.deliver p v r k a z).port = s.port := rfl
@[simp] theorem State.deliver_turns : (s.deliver p v r k a z).turns = s.turns := rfl
@[simp] theorem State.deliver_fresh : (s.deliver p v r k a z).fresh = s.fresh + 1 := rfl
@[simp] theorem State.deliver_free : (s.deliver p v r k a z).free = s.free := rfl

end

/-! ### `State.pend` -/

section
variable (s : State) (t : Thread) (d : IReg) (op : PendOp)

@[simp] theorem State.pend_mem : (s.pend t d op).mem = s.mem := rfl
@[simp] theorem State.pend_granules : (s.pend t d op).granules = s.granules := rfl
@[simp] theorem State.pend_poison : (s.pend t d op).poison = s.poison := rfl
@[simp] theorem State.pend_threads : (s.pend t d op).threads = s.threads := rfl
@[simp] theorem State.pend_accs : (s.pend t d op).accs = s.accs := rfl
@[simp] theorem State.pend_arrivals : (s.pend t d op).arrivals = s.arrivals := rfl
@[simp] theorem State.pend_pends : (s.pend t d op).pends = s.pends ++ [⟨s.fresh, t.uid, d, op⟩] := rfl
@[simp] theorem State.pend_fwds : (s.pend t d op).fwds = s.fwds := rfl
@[simp] theorem State.pend_families : (s.pend t d op).families = s.families := rfl
@[simp] theorem State.pend_kills : (s.pend t d op).kills = s.kills := rfl
@[simp] theorem State.pend_cores : (s.pend t d op).cores = s.cores := rfl
@[simp] theorem State.pend_clusters : (s.pend t d op).clusters = s.clusters := rfl
@[simp] theorem State.pend_copies : (s.pend t d op).copies = s.copies := rfl
@[simp] theorem State.pend_saves : (s.pend t d op).saves = s.saves := rfl
@[simp] theorem State.pend_groups : (s.pend t d op).groups = s.groups := rfl
@[simp] theorem State.pend_graphs : (s.pend t d op).graphs = s.graphs := rfl
@[simp] theorem State.pend_uploads : (s.pend t d op).uploads = s.uploads := rfl
@[simp] theorem State.pend_replays : (s.pend t d op).replays = s.replays := rfl
@[simp] theorem State.pend_tags : (s.pend t d op).tags = s.tags := rfl
@[simp] theorem State.pend_pubs : (s.pend t d op).pubs = s.pubs := rfl
@[simp] theorem State.pend_ranges : (s.pend t d op).ranges = s.ranges := rfl
@[simp] theorem State.pend_ctxs : (s.pend t d op).ctxs = s.ctxs := rfl
@[simp] theorem State.pend_census : (s.pend t d op).census = s.census := rfl
@[simp] theorem State.pend_tlb : (s.pend t d op).tlb = s.tlb := rfl
@[simp] theorem State.pend_walks : (s.pend t d op).walks = s.walks := rfl
@[simp] theorem State.pend_sums : (s.pend t d op).sums = s.sums := rfl
@[simp] theorem State.pend_shoots : (s.pend t d op).shoots = s.shoots := rfl
@[simp] theorem State.pend_summary : (s.pend t d op).summary = s.summary := rfl
@[simp] theorem State.pend_summaryAt : (s.pend t d op).summaryAt = s.summaryAt := rfl
@[simp] theorem State.pend_lmap : (s.pend t d op).lmap = s.lmap := rfl
@[simp] theorem State.pend_freezeOrder : (s.pend t d op).freezeOrder = s.freezeOrder := rfl
@[simp] theorem State.pend_launchLast : (s.pend t d op).launchLast = s.launchLast := rfl
@[simp] theorem State.pend_watchLast : (s.pend t d op).watchLast = s.watchLast := rfl
@[simp] theorem State.pend_scrubs : (s.pend t d op).scrubs = s.scrubs := rfl
@[simp] theorem State.pend_events : (s.pend t d op).events = s.events := rfl
@[simp] theorem State.pend_eventSeq : (s.pend t d op).eventSeq = s.eventSeq := rfl
@[simp] theorem State.pend_eventEp : (s.pend t d op).eventEp = s.eventEp := rfl
@[simp] theorem State.pend_out : (s.pend t d op).out = s.out := rfl
@[simp] theorem State.pend_dropped : (s.pend t d op).dropped = s.dropped := rfl
@[simp] theorem State.pend_ports : (s.pend t d op).ports = s.ports := rfl
@[simp] theorem State.pend_stackErrs : (s.pend t d op).stackErrs = s.stackErrs := rfl
@[simp] theorem State.pend_linkRetries : (s.pend t d op).linkRetries = s.linkRetries := rfl
@[simp] theorem State.pend_corrected : (s.pend t d op).corrected = s.corrected := rfl
@[simp] theorem State.pend_replaceMe : (s.pend t d op).replaceMe = s.replaceMe := rfl
@[simp] theorem State.pend_powerLimit : (s.pend t d op).powerLimit = s.powerLimit := rfl
@[simp] theorem State.pend_boot : (s.pend t d op).boot = s.boot := rfl
@[simp] theorem State.pend_cfg : (s.pend t d op).cfg = s.cfg := rfl
@[simp] theorem State.pend_measure : (s.pend t d op).measure = s.measure := rfl
@[simp] theorem State.pend_versions : (s.pend t d op).versions = s.versions := rfl
@[simp] theorem State.pend_nextGraph : (s.pend t d op).nextGraph = s.nextGraph := rfl
@[simp] theorem State.pend_now : (s.pend t d op).now = s.now := rfl
@[simp] theorem State.pend_port : (s.pend t d op).port = s.port := rfl
@[simp] theorem State.pend_turns : (s.pend t d op).turns = s.turns := rfl
@[simp] theorem State.pend_fresh : (s.pend t d op).fresh = s.fresh + 1 := rfl
@[simp] theorem State.pend_free : (s.pend t d op).free = s.free := rfl

end

/-! ### `State.liftFences` -/

section
variable (s : State) 

@[simp] theorem State.liftFences_mem : (s.liftFences).mem = s.mem := rfl
@[simp] theorem State.liftFences_granules : (s.liftFences).granules = s.granules := rfl
@[simp] theorem State.liftFences_poison : (s.liftFences).poison = s.poison := rfl
@[simp] theorem State.liftFences_threads : (s.liftFences).threads = s.threads := rfl
@[simp] theorem State.liftFences_accs : (s.liftFences).accs = s.accs := rfl
@[simp] theorem State.liftFences_arrivals : (s.liftFences).arrivals = s.arrivals := rfl
@[simp] theorem State.liftFences_fwds : (s.liftFences).fwds = s.fwds := rfl
@[simp] theorem State.liftFences_families : (s.liftFences).families = s.families := rfl
@[simp] theorem State.liftFences_kills : (s.liftFences).kills = s.kills := rfl
@[simp] theorem State.liftFences_cores : (s.liftFences).cores = s.cores := rfl
@[simp] theorem State.liftFences_clusters : (s.liftFences).clusters = s.clusters := rfl
@[simp] theorem State.liftFences_copies : (s.liftFences).copies = s.copies := rfl
@[simp] theorem State.liftFences_saves : (s.liftFences).saves = s.saves := rfl
@[simp] theorem State.liftFences_groups : (s.liftFences).groups = s.groups := rfl
@[simp] theorem State.liftFences_graphs : (s.liftFences).graphs = s.graphs := rfl
@[simp] theorem State.liftFences_uploads : (s.liftFences).uploads = s.uploads := rfl
@[simp] theorem State.liftFences_replays : (s.liftFences).replays = s.replays := rfl
@[simp] theorem State.liftFences_tags : (s.liftFences).tags = s.tags := rfl
@[simp] theorem State.liftFences_pubs : (s.liftFences).pubs = s.pubs := rfl
@[simp] theorem State.liftFences_ranges : (s.liftFences).ranges = s.ranges := rfl
@[simp] theorem State.liftFences_ctxs : (s.liftFences).ctxs = s.ctxs := rfl
@[simp] theorem State.liftFences_census : (s.liftFences).census = s.census := rfl
@[simp] theorem State.liftFences_tlb : (s.liftFences).tlb = s.tlb := rfl
@[simp] theorem State.liftFences_walks : (s.liftFences).walks = s.walks := rfl
@[simp] theorem State.liftFences_sums : (s.liftFences).sums = s.sums := rfl
@[simp] theorem State.liftFences_shoots : (s.liftFences).shoots = s.shoots := rfl
@[simp] theorem State.liftFences_summary : (s.liftFences).summary = s.summary := rfl
@[simp] theorem State.liftFences_summaryAt : (s.liftFences).summaryAt = s.summaryAt := rfl
@[simp] theorem State.liftFences_lmap : (s.liftFences).lmap = s.lmap := rfl
@[simp] theorem State.liftFences_freezeOrder : (s.liftFences).freezeOrder = s.freezeOrder := rfl
@[simp] theorem State.liftFences_launchLast : (s.liftFences).launchLast = s.launchLast := rfl
@[simp] theorem State.liftFences_watchLast : (s.liftFences).watchLast = s.watchLast := rfl
@[simp] theorem State.liftFences_scrubs : (s.liftFences).scrubs = s.scrubs := rfl
@[simp] theorem State.liftFences_events : (s.liftFences).events = s.events := rfl
@[simp] theorem State.liftFences_eventSeq : (s.liftFences).eventSeq = s.eventSeq := rfl
@[simp] theorem State.liftFences_eventEp : (s.liftFences).eventEp = s.eventEp := rfl
@[simp] theorem State.liftFences_out : (s.liftFences).out = s.out := rfl
@[simp] theorem State.liftFences_dropped : (s.liftFences).dropped = s.dropped := rfl
@[simp] theorem State.liftFences_ports : (s.liftFences).ports = s.ports := rfl
@[simp] theorem State.liftFences_stackErrs : (s.liftFences).stackErrs = s.stackErrs := rfl
@[simp] theorem State.liftFences_linkRetries : (s.liftFences).linkRetries = s.linkRetries := rfl
@[simp] theorem State.liftFences_corrected : (s.liftFences).corrected = s.corrected := rfl
@[simp] theorem State.liftFences_replaceMe : (s.liftFences).replaceMe = s.replaceMe := rfl
@[simp] theorem State.liftFences_powerLimit : (s.liftFences).powerLimit = s.powerLimit := rfl
@[simp] theorem State.liftFences_boot : (s.liftFences).boot = s.boot := rfl
@[simp] theorem State.liftFences_cfg : (s.liftFences).cfg = s.cfg := rfl
@[simp] theorem State.liftFences_measure : (s.liftFences).measure = s.measure := rfl
@[simp] theorem State.liftFences_versions : (s.liftFences).versions = s.versions := rfl
@[simp] theorem State.liftFences_nextGraph : (s.liftFences).nextGraph = s.nextGraph := rfl
@[simp] theorem State.liftFences_now : (s.liftFences).now = s.now := rfl
@[simp] theorem State.liftFences_port : (s.liftFences).port = s.port := rfl
@[simp] theorem State.liftFences_turns : (s.liftFences).turns = s.turns := rfl
@[simp] theorem State.liftFences_fresh : (s.liftFences).fresh = s.fresh := rfl
@[simp] theorem State.liftFences_free : (s.liftFences).free = s.free := rfl

end

/-! ### `State.settle` -/

section
variable (s : State) (i : Nat)

@[simp] theorem State.settle_mem : (s.settle i).mem = s.mem := rfl
@[simp] theorem State.settle_granules : (s.settle i).granules = s.granules := rfl
@[simp] theorem State.settle_poison : (s.settle i).poison = s.poison := rfl
@[simp] theorem State.settle_threads : (s.settle i).threads = s.threads := rfl
@[simp] theorem State.settle_accs : (s.settle i).accs = s.accs.filter (·.id != i) := rfl
@[simp] theorem State.settle_arrivals : (s.settle i).arrivals = s.arrivals := rfl
@[simp] theorem State.settle_fwds : (s.settle i).fwds = s.fwds := rfl
@[simp] theorem State.settle_families : (s.settle i).families = s.families := rfl
@[simp] theorem State.settle_kills : (s.settle i).kills = s.kills := rfl
@[simp] theorem State.settle_cores : (s.settle i).cores = s.cores := rfl
@[simp] theorem State.settle_clusters : (s.settle i).clusters = s.clusters := rfl
@[simp] theorem State.settle_copies : (s.settle i).copies = s.copies := rfl
@[simp] theorem State.settle_saves : (s.settle i).saves = s.saves := rfl
@[simp] theorem State.settle_groups : (s.settle i).groups = s.groups := rfl
@[simp] theorem State.settle_graphs : (s.settle i).graphs = s.graphs := rfl
@[simp] theorem State.settle_uploads : (s.settle i).uploads = s.uploads := rfl
@[simp] theorem State.settle_replays : (s.settle i).replays = s.replays := rfl
@[simp] theorem State.settle_tags : (s.settle i).tags = s.tags := rfl
@[simp] theorem State.settle_pubs : (s.settle i).pubs = s.pubs := rfl
@[simp] theorem State.settle_ranges : (s.settle i).ranges = s.ranges := rfl
@[simp] theorem State.settle_ctxs : (s.settle i).ctxs = s.ctxs := rfl
@[simp] theorem State.settle_census : (s.settle i).census = s.census := rfl
@[simp] theorem State.settle_tlb : (s.settle i).tlb = s.tlb := rfl
@[simp] theorem State.settle_walks : (s.settle i).walks = s.walks := rfl
@[simp] theorem State.settle_sums : (s.settle i).sums = s.sums := rfl
@[simp] theorem State.settle_shoots : (s.settle i).shoots = s.shoots := rfl
@[simp] theorem State.settle_summary : (s.settle i).summary = s.summary := rfl
@[simp] theorem State.settle_summaryAt : (s.settle i).summaryAt = s.summaryAt := rfl
@[simp] theorem State.settle_lmap : (s.settle i).lmap = s.lmap := rfl
@[simp] theorem State.settle_freezeOrder : (s.settle i).freezeOrder = s.freezeOrder := rfl
@[simp] theorem State.settle_launchLast : (s.settle i).launchLast = s.launchLast := rfl
@[simp] theorem State.settle_watchLast : (s.settle i).watchLast = s.watchLast := rfl
@[simp] theorem State.settle_scrubs : (s.settle i).scrubs = s.scrubs := rfl
@[simp] theorem State.settle_events : (s.settle i).events = s.events := rfl
@[simp] theorem State.settle_eventSeq : (s.settle i).eventSeq = s.eventSeq := rfl
@[simp] theorem State.settle_eventEp : (s.settle i).eventEp = s.eventEp := rfl
@[simp] theorem State.settle_out : (s.settle i).out = s.out := rfl
@[simp] theorem State.settle_dropped : (s.settle i).dropped = s.dropped := rfl
@[simp] theorem State.settle_ports : (s.settle i).ports = s.ports := rfl
@[simp] theorem State.settle_stackErrs : (s.settle i).stackErrs = s.stackErrs := rfl
@[simp] theorem State.settle_linkRetries : (s.settle i).linkRetries = s.linkRetries := rfl
@[simp] theorem State.settle_corrected : (s.settle i).corrected = s.corrected := rfl
@[simp] theorem State.settle_replaceMe : (s.settle i).replaceMe = s.replaceMe := rfl
@[simp] theorem State.settle_powerLimit : (s.settle i).powerLimit = s.powerLimit := rfl
@[simp] theorem State.settle_boot : (s.settle i).boot = s.boot := rfl
@[simp] theorem State.settle_cfg : (s.settle i).cfg = s.cfg := rfl
@[simp] theorem State.settle_measure : (s.settle i).measure = s.measure := rfl
@[simp] theorem State.settle_versions : (s.settle i).versions = s.versions := rfl
@[simp] theorem State.settle_nextGraph : (s.settle i).nextGraph = s.nextGraph := rfl
@[simp] theorem State.settle_now : (s.settle i).now = s.now := rfl
@[simp] theorem State.settle_port : (s.settle i).port = s.port := rfl
@[simp] theorem State.settle_turns : (s.settle i).turns = s.turns := rfl
@[simp] theorem State.settle_fresh : (s.settle i).fresh = s.fresh := rfl
@[simp] theorem State.settle_free : (s.settle i).free = s.free := rfl

end

/-! ### `State.stampGroup` -/

section
variable (s : State) (g : Nat) (z : Stamp)

@[simp] theorem State.stampGroup_mem : (s.stampGroup g z).mem = s.mem := rfl
@[simp] theorem State.stampGroup_granules : (s.stampGroup g z).granules = s.granules := rfl
@[simp] theorem State.stampGroup_poison : (s.stampGroup g z).poison = s.poison := rfl
@[simp] theorem State.stampGroup_threads : (s.stampGroup g z).threads = s.threads := rfl
@[simp] theorem State.stampGroup_accs : (s.stampGroup g z).accs = s.accs := rfl
@[simp] theorem State.stampGroup_arrivals : (s.stampGroup g z).arrivals = s.arrivals := rfl
@[simp] theorem State.stampGroup_pends : (s.stampGroup g z).pends = s.pends := rfl
@[simp] theorem State.stampGroup_fwds : (s.stampGroup g z).fwds = s.fwds := rfl
@[simp] theorem State.stampGroup_families : (s.stampGroup g z).families = s.families := rfl
@[simp] theorem State.stampGroup_kills : (s.stampGroup g z).kills = s.kills := rfl
@[simp] theorem State.stampGroup_cores : (s.stampGroup g z).cores = s.cores := rfl
@[simp] theorem State.stampGroup_clusters : (s.stampGroup g z).clusters = s.clusters := rfl
@[simp] theorem State.stampGroup_copies : (s.stampGroup g z).copies = s.copies := rfl
@[simp] theorem State.stampGroup_saves : (s.stampGroup g z).saves = s.saves := rfl
@[simp] theorem State.stampGroup_graphs : (s.stampGroup g z).graphs = s.graphs := rfl
@[simp] theorem State.stampGroup_uploads : (s.stampGroup g z).uploads = s.uploads := rfl
@[simp] theorem State.stampGroup_replays : (s.stampGroup g z).replays = s.replays := rfl
@[simp] theorem State.stampGroup_tags : (s.stampGroup g z).tags = s.tags := rfl
@[simp] theorem State.stampGroup_pubs : (s.stampGroup g z).pubs = s.pubs := rfl
@[simp] theorem State.stampGroup_ranges : (s.stampGroup g z).ranges = s.ranges := rfl
@[simp] theorem State.stampGroup_ctxs : (s.stampGroup g z).ctxs = s.ctxs := rfl
@[simp] theorem State.stampGroup_census : (s.stampGroup g z).census = s.census := rfl
@[simp] theorem State.stampGroup_tlb : (s.stampGroup g z).tlb = s.tlb := rfl
@[simp] theorem State.stampGroup_walks : (s.stampGroup g z).walks = s.walks := rfl
@[simp] theorem State.stampGroup_sums : (s.stampGroup g z).sums = s.sums := rfl
@[simp] theorem State.stampGroup_shoots : (s.stampGroup g z).shoots = s.shoots := rfl
@[simp] theorem State.stampGroup_summary : (s.stampGroup g z).summary = s.summary := rfl
@[simp] theorem State.stampGroup_summaryAt : (s.stampGroup g z).summaryAt = s.summaryAt := rfl
@[simp] theorem State.stampGroup_lmap : (s.stampGroup g z).lmap = s.lmap := rfl
@[simp] theorem State.stampGroup_freezeOrder : (s.stampGroup g z).freezeOrder = s.freezeOrder := rfl
@[simp] theorem State.stampGroup_launchLast : (s.stampGroup g z).launchLast = s.launchLast := rfl
@[simp] theorem State.stampGroup_watchLast : (s.stampGroup g z).watchLast = s.watchLast := rfl
@[simp] theorem State.stampGroup_scrubs : (s.stampGroup g z).scrubs = s.scrubs := rfl
@[simp] theorem State.stampGroup_events : (s.stampGroup g z).events = s.events := rfl
@[simp] theorem State.stampGroup_eventSeq : (s.stampGroup g z).eventSeq = s.eventSeq := rfl
@[simp] theorem State.stampGroup_eventEp : (s.stampGroup g z).eventEp = s.eventEp := rfl
@[simp] theorem State.stampGroup_out : (s.stampGroup g z).out = s.out := rfl
@[simp] theorem State.stampGroup_dropped : (s.stampGroup g z).dropped = s.dropped := rfl
@[simp] theorem State.stampGroup_ports : (s.stampGroup g z).ports = s.ports := rfl
@[simp] theorem State.stampGroup_stackErrs : (s.stampGroup g z).stackErrs = s.stackErrs := rfl
@[simp] theorem State.stampGroup_linkRetries : (s.stampGroup g z).linkRetries = s.linkRetries := rfl
@[simp] theorem State.stampGroup_corrected : (s.stampGroup g z).corrected = s.corrected := rfl
@[simp] theorem State.stampGroup_replaceMe : (s.stampGroup g z).replaceMe = s.replaceMe := rfl
@[simp] theorem State.stampGroup_powerLimit : (s.stampGroup g z).powerLimit = s.powerLimit := rfl
@[simp] theorem State.stampGroup_boot : (s.stampGroup g z).boot = s.boot := rfl
@[simp] theorem State.stampGroup_cfg : (s.stampGroup g z).cfg = s.cfg := rfl
@[simp] theorem State.stampGroup_measure : (s.stampGroup g z).measure = s.measure := rfl
@[simp] theorem State.stampGroup_versions : (s.stampGroup g z).versions = s.versions := rfl
@[simp] theorem State.stampGroup_nextGraph : (s.stampGroup g z).nextGraph = s.nextGraph := rfl
@[simp] theorem State.stampGroup_now : (s.stampGroup g z).now = s.now := rfl
@[simp] theorem State.stampGroup_port : (s.stampGroup g z).port = s.port := rfl
@[simp] theorem State.stampGroup_turns : (s.stampGroup g z).turns = s.turns := rfl
@[simp] theorem State.stampGroup_fresh : (s.stampGroup g z).fresh = s.fresh := rfl
@[simp] theorem State.stampGroup_free : (s.stampGroup g z).free = s.free := rfl

end

/-! ### `State.setCensus` -/

section
variable (s : State) (c : Census)

@[simp] theorem State.setCensus_mem : (s.setCensus c).mem = s.mem := rfl
@[simp] theorem State.setCensus_granules : (s.setCensus c).granules = s.granules := rfl
@[simp] theorem State.setCensus_poison : (s.setCensus c).poison = s.poison := rfl
@[simp] theorem State.setCensus_threads : (s.setCensus c).threads = s.threads := rfl
@[simp] theorem State.setCensus_accs : (s.setCensus c).accs = s.accs := rfl
@[simp] theorem State.setCensus_arrivals : (s.setCensus c).arrivals = s.arrivals := rfl
@[simp] theorem State.setCensus_pends : (s.setCensus c).pends = s.pends := rfl
@[simp] theorem State.setCensus_fwds : (s.setCensus c).fwds = s.fwds := rfl
@[simp] theorem State.setCensus_families : (s.setCensus c).families = s.families := rfl
@[simp] theorem State.setCensus_kills : (s.setCensus c).kills = s.kills := rfl
@[simp] theorem State.setCensus_cores : (s.setCensus c).cores = s.cores := rfl
@[simp] theorem State.setCensus_clusters : (s.setCensus c).clusters = s.clusters := rfl
@[simp] theorem State.setCensus_copies : (s.setCensus c).copies = s.copies := rfl
@[simp] theorem State.setCensus_saves : (s.setCensus c).saves = s.saves := rfl
@[simp] theorem State.setCensus_groups : (s.setCensus c).groups = s.groups := rfl
@[simp] theorem State.setCensus_graphs : (s.setCensus c).graphs = s.graphs := rfl
@[simp] theorem State.setCensus_uploads : (s.setCensus c).uploads = s.uploads := rfl
@[simp] theorem State.setCensus_replays : (s.setCensus c).replays = s.replays := rfl
@[simp] theorem State.setCensus_tags : (s.setCensus c).tags = s.tags := rfl
@[simp] theorem State.setCensus_pubs : (s.setCensus c).pubs = s.pubs := rfl
@[simp] theorem State.setCensus_ranges : (s.setCensus c).ranges = s.ranges := rfl
@[simp] theorem State.setCensus_ctxs : (s.setCensus c).ctxs = s.ctxs := rfl
@[simp] theorem State.setCensus_tlb : (s.setCensus c).tlb = s.tlb := rfl
@[simp] theorem State.setCensus_walks : (s.setCensus c).walks = s.walks := rfl
@[simp] theorem State.setCensus_sums : (s.setCensus c).sums = s.sums := rfl
@[simp] theorem State.setCensus_shoots : (s.setCensus c).shoots = s.shoots := rfl
@[simp] theorem State.setCensus_summary : (s.setCensus c).summary = s.summary := rfl
@[simp] theorem State.setCensus_summaryAt : (s.setCensus c).summaryAt = s.summaryAt := rfl
@[simp] theorem State.setCensus_lmap : (s.setCensus c).lmap = s.lmap := rfl
@[simp] theorem State.setCensus_freezeOrder : (s.setCensus c).freezeOrder = s.freezeOrder := rfl
@[simp] theorem State.setCensus_launchLast : (s.setCensus c).launchLast = s.launchLast := rfl
@[simp] theorem State.setCensus_watchLast : (s.setCensus c).watchLast = s.watchLast := rfl
@[simp] theorem State.setCensus_scrubs : (s.setCensus c).scrubs = s.scrubs := rfl
@[simp] theorem State.setCensus_events : (s.setCensus c).events = s.events := rfl
@[simp] theorem State.setCensus_eventSeq : (s.setCensus c).eventSeq = s.eventSeq := rfl
@[simp] theorem State.setCensus_eventEp : (s.setCensus c).eventEp = s.eventEp := rfl
@[simp] theorem State.setCensus_out : (s.setCensus c).out = s.out := rfl
@[simp] theorem State.setCensus_dropped : (s.setCensus c).dropped = s.dropped := rfl
@[simp] theorem State.setCensus_ports : (s.setCensus c).ports = s.ports := rfl
@[simp] theorem State.setCensus_stackErrs : (s.setCensus c).stackErrs = s.stackErrs := rfl
@[simp] theorem State.setCensus_linkRetries : (s.setCensus c).linkRetries = s.linkRetries := rfl
@[simp] theorem State.setCensus_corrected : (s.setCensus c).corrected = s.corrected := rfl
@[simp] theorem State.setCensus_replaceMe : (s.setCensus c).replaceMe = s.replaceMe := rfl
@[simp] theorem State.setCensus_powerLimit : (s.setCensus c).powerLimit = s.powerLimit := rfl
@[simp] theorem State.setCensus_boot : (s.setCensus c).boot = s.boot := rfl
@[simp] theorem State.setCensus_cfg : (s.setCensus c).cfg = s.cfg := rfl
@[simp] theorem State.setCensus_measure : (s.setCensus c).measure = s.measure := rfl
@[simp] theorem State.setCensus_versions : (s.setCensus c).versions = s.versions := rfl
@[simp] theorem State.setCensus_nextGraph : (s.setCensus c).nextGraph = s.nextGraph := rfl
@[simp] theorem State.setCensus_now : (s.setCensus c).now = s.now := rfl
@[simp] theorem State.setCensus_port : (s.setCensus c).port = s.port := rfl
@[simp] theorem State.setCensus_turns : (s.setCensus c).turns = s.turns := rfl
@[simp] theorem State.setCensus_fresh : (s.setCensus c).fresh = s.fresh := rfl
@[simp] theorem State.setCensus_free : (s.setCensus c).free = s.free := rfl

end

/-! ## Threads -/

/-! ### `Thread.owe` -/

@[simp] theorem Thread.owe_uid (t : Thread) (o : Operand) : (t.owe o).uid = t.uid := by unfold Thread.owe; split <;> rfl
@[simp] theorem Thread.owe_kind (t : Thread) (o : Operand) : (t.owe o).kind = t.kind := by unfold Thread.owe; split <;> rfl
@[simp] theorem Thread.owe_run (t : Thread) (o : Operand) : (t.owe o).run = t.run := by unfold Thread.owe; split <;> rfl
@[simp] theorem Thread.owe_ctx (t : Thread) (o : Operand) : (t.owe o).ctx = t.ctx := by unfold Thread.owe; split <;> rfl
@[simp] theorem Thread.owe_group (t : Thread) (o : Operand) : (t.owe o).group = t.group := by unfold Thread.owe; split <;> rfl
@[simp] theorem Thread.owe_graph (t : Thread) (o : Operand) : (t.owe o).graph = t.graph := by unfold Thread.owe; split <;> rfl
@[simp] theorem Thread.owe_phys (t : Thread) (o : Operand) : (t.owe o).phys = t.phys := by unfold Thread.owe; split <;> rfl
@[simp] theorem Thread.owe_lcl (t : Thread) (o : Operand) : (t.owe o).lcl = t.lcl := by unfold Thread.owe; split <;> rfl
@[simp] theorem Thread.owe_core (t : Thread) (o : Operand) : (t.owe o).core = t.core := by unfold Thread.owe; split <;> rfl
@[simp] theorem Thread.owe_slot (t : Thread) (o : Operand) : (t.owe o).slot = t.slot := by unfold Thread.owe; split <;> rfl
@[simp] theorem Thread.owe_delegated (t : Thread) (o : Operand) : (t.owe o).delegated = t.delegated := by unfold Thread.owe; split <;> rfl
@[simp] theorem Thread.owe_ints (t : Thread) (o : Operand) : (t.owe o).ints = t.ints := by unfold Thread.owe; split <;> rfl
@[simp] theorem Thread.owe_wides (t : Thread) (o : Operand) : (t.owe o).wides = t.wides := by unfold Thread.owe; split <;> rfl
@[simp] theorem Thread.owe_exts (t : Thread) (o : Operand) : (t.owe o).exts = t.exts := by unfold Thread.owe; split <;> rfl
@[simp] theorem Thread.owe_preds (t : Thread) (o : Operand) : (t.owe o).preds = t.preds := by unfold Thread.owe; split <;> rfl
@[simp] theorem Thread.owe_flags (t : Thread) (o : Operand) : (t.owe o).flags = t.flags := by unfold Thread.owe; split <;> rfl
@[simp] theorem Thread.owe_ftz (t : Thread) (o : Operand) : (t.owe o).ftz = t.ftz := by unfold Thread.owe; split <;> rfl
@[simp] theorem Thread.owe_daz (t : Thread) (o : Operand) : (t.owe o).daz = t.daz := by unfold Thread.owe; split <;> rfl
@[simp] theorem Thread.owe_rm (t : Thread) (o : Operand) : (t.owe o).rm = t.rm := by unfold Thread.owe; split <;> rfl
@[simp] theorem Thread.owe_tokens (t : Thread) (o : Operand) : (t.owe o).tokens = t.tokens := by unfold Thread.owe; split <;> rfl
@[simp] theorem Thread.owe_tokErr (t : Thread) (o : Operand) : (t.owe o).tokErr = t.tokErr := by unfold Thread.owe; split <;> rfl
@[simp] theorem Thread.owe_tokEnd (t : Thread) (o : Operand) : (t.owe o).tokEnd = t.tokEnd := by unfold Thread.owe; split <;> rfl
@[simp] theorem Thread.owe_reds (t : Thread) (o : Operand) : (t.owe o).reds = t.reds := by unfold Thread.owe; split <;> rfl
@[simp] theorem Thread.owe_window (t : Thread) (o : Operand) : (t.owe o).window = t.window := by unfold Thread.owe; split <;> rfl
@[simp] theorem Thread.owe_pc (t : Thread) (o : Operand) : (t.owe o).pc = t.pc := by unfold Thread.owe; split <;> rfl
@[simp] theorem Thread.owe_index (t : Thread) (o : Operand) : (t.owe o).index = t.index := by unfold Thread.owe; split <;> rfl
@[simp] theorem Thread.owe_handle (t : Thread) (o : Operand) : (t.owe o).handle = t.handle := by unfold Thread.owe; split <;> rfl
@[simp] theorem Thread.owe_draws (t : Thread) (o : Operand) : (t.owe o).draws = t.draws := by unfold Thread.owe; split <;> rfl
@[simp] theorem Thread.owe_key (t : Thread) (o : Operand) : (t.owe o).key = t.key := by unfold Thread.owe; split <;> rfl
@[simp] theorem Thread.owe_creations (t : Thread) (o : Operand) : (t.owe o).creations = t.creations := by unfold Thread.owe; split <;> rfl
@[simp] theorem Thread.owe_fwd (t : Thread) (o : Operand) : (t.owe o).fwd = t.fwd := by unfold Thread.owe; split <;> rfl
@[simp] theorem Thread.owe_bpSkip (t : Thread) (o : Operand) : (t.owe o).bpSkip = t.bpSkip := by unfold Thread.owe; split <;> rfl
@[simp] theorem Thread.owe_yield (t : Thread) (o : Operand) : (t.owe o).yield = t.yield := by unfold Thread.owe; split <;> rfl
@[simp] theorem Thread.owe_wait (t : Thread) (o : Operand) : (t.owe o).wait = t.wait := by unfold Thread.owe; split <;> rfl
@[simp] theorem Thread.owe_kept (t : Thread) (o : Operand) : (t.owe o).kept = t.kept := by unfold Thread.owe; split <;> rfl
@[simp] theorem Thread.owe_after (t : Thread) (o : Operand) : (t.owe o).after = t.after := by unfold Thread.owe; split <;> rfl
@[simp] theorem Thread.owe_stamp (t : Thread) (o : Operand) : (t.owe o).stamp = t.stamp := by unfold Thread.owe; split <;> rfl

/-! ### `Thread.setVal` -/

@[simp] theorem Thread.setVal_uid (t : Thread) (o : Operand) (v : Wide) : (t.setVal o v).uid = t.uid := by unfold Thread.setVal; (repeat' split) <;> rfl
@[simp] theorem Thread.setVal_kind (t : Thread) (o : Operand) (v : Wide) : (t.setVal o v).kind = t.kind := by unfold Thread.setVal; (repeat' split) <;> rfl
@[simp] theorem Thread.setVal_run (t : Thread) (o : Operand) (v : Wide) : (t.setVal o v).run = t.run := by unfold Thread.setVal; (repeat' split) <;> rfl
@[simp] theorem Thread.setVal_ctx (t : Thread) (o : Operand) (v : Wide) : (t.setVal o v).ctx = t.ctx := by unfold Thread.setVal; (repeat' split) <;> rfl
@[simp] theorem Thread.setVal_group (t : Thread) (o : Operand) (v : Wide) : (t.setVal o v).group = t.group := by unfold Thread.setVal; (repeat' split) <;> rfl
@[simp] theorem Thread.setVal_graph (t : Thread) (o : Operand) (v : Wide) : (t.setVal o v).graph = t.graph := by unfold Thread.setVal; (repeat' split) <;> rfl
@[simp] theorem Thread.setVal_phys (t : Thread) (o : Operand) (v : Wide) : (t.setVal o v).phys = t.phys := by unfold Thread.setVal; (repeat' split) <;> rfl
@[simp] theorem Thread.setVal_lcl (t : Thread) (o : Operand) (v : Wide) : (t.setVal o v).lcl = t.lcl := by unfold Thread.setVal; (repeat' split) <;> rfl
@[simp] theorem Thread.setVal_core (t : Thread) (o : Operand) (v : Wide) : (t.setVal o v).core = t.core := by unfold Thread.setVal; (repeat' split) <;> rfl
@[simp] theorem Thread.setVal_slot (t : Thread) (o : Operand) (v : Wide) : (t.setVal o v).slot = t.slot := by unfold Thread.setVal; (repeat' split) <;> rfl
@[simp] theorem Thread.setVal_delegated (t : Thread) (o : Operand) (v : Wide) : (t.setVal o v).delegated = t.delegated := by unfold Thread.setVal; (repeat' split) <;> rfl
@[simp] theorem Thread.setVal_full (t : Thread) (o : Operand) (v : Wide) : (t.setVal o v).full = t.full := by unfold Thread.setVal; (repeat' split) <;> rfl
@[simp] theorem Thread.setVal_pend (t : Thread) (o : Operand) (v : Wide) : (t.setVal o v).pend = t.pend := by unfold Thread.setVal; (repeat' split) <;> rfl
@[simp] theorem Thread.setVal_flags (t : Thread) (o : Operand) (v : Wide) : (t.setVal o v).flags = t.flags := by unfold Thread.setVal; (repeat' split) <;> rfl
@[simp] theorem Thread.setVal_ftz (t : Thread) (o : Operand) (v : Wide) : (t.setVal o v).ftz = t.ftz := by unfold Thread.setVal; (repeat' split) <;> rfl
@[simp] theorem Thread.setVal_daz (t : Thread) (o : Operand) (v : Wide) : (t.setVal o v).daz = t.daz := by unfold Thread.setVal; (repeat' split) <;> rfl
@[simp] theorem Thread.setVal_rm (t : Thread) (o : Operand) (v : Wide) : (t.setVal o v).rm = t.rm := by unfold Thread.setVal; (repeat' split) <;> rfl
@[simp] theorem Thread.setVal_tokens (t : Thread) (o : Operand) (v : Wide) : (t.setVal o v).tokens = t.tokens := by unfold Thread.setVal; (repeat' split) <;> rfl
@[simp] theorem Thread.setVal_tokErr (t : Thread) (o : Operand) (v : Wide) : (t.setVal o v).tokErr = t.tokErr := by unfold Thread.setVal; (repeat' split) <;> rfl
@[simp] theorem Thread.setVal_tokEnd (t : Thread) (o : Operand) (v : Wide) : (t.setVal o v).tokEnd = t.tokEnd := by unfold Thread.setVal; (repeat' split) <;> rfl
@[simp] theorem Thread.setVal_reds (t : Thread) (o : Operand) (v : Wide) : (t.setVal o v).reds = t.reds := by unfold Thread.setVal; (repeat' split) <;> rfl
@[simp] theorem Thread.setVal_window (t : Thread) (o : Operand) (v : Wide) : (t.setVal o v).window = t.window := by unfold Thread.setVal; (repeat' split) <;> rfl
@[simp] theorem Thread.setVal_pc (t : Thread) (o : Operand) (v : Wide) : (t.setVal o v).pc = t.pc := by unfold Thread.setVal; (repeat' split) <;> rfl
@[simp] theorem Thread.setVal_index (t : Thread) (o : Operand) (v : Wide) : (t.setVal o v).index = t.index := by unfold Thread.setVal; (repeat' split) <;> rfl
@[simp] theorem Thread.setVal_handle (t : Thread) (o : Operand) (v : Wide) : (t.setVal o v).handle = t.handle := by unfold Thread.setVal; (repeat' split) <;> rfl
@[simp] theorem Thread.setVal_draws (t : Thread) (o : Operand) (v : Wide) : (t.setVal o v).draws = t.draws := by unfold Thread.setVal; (repeat' split) <;> rfl
@[simp] theorem Thread.setVal_key (t : Thread) (o : Operand) (v : Wide) : (t.setVal o v).key = t.key := by unfold Thread.setVal; (repeat' split) <;> rfl
@[simp] theorem Thread.setVal_creations (t : Thread) (o : Operand) (v : Wide) : (t.setVal o v).creations = t.creations := by unfold Thread.setVal; (repeat' split) <;> rfl
@[simp] theorem Thread.setVal_fwd (t : Thread) (o : Operand) (v : Wide) : (t.setVal o v).fwd = t.fwd := by unfold Thread.setVal; (repeat' split) <;> rfl
@[simp] theorem Thread.setVal_bpSkip (t : Thread) (o : Operand) (v : Wide) : (t.setVal o v).bpSkip = t.bpSkip := by unfold Thread.setVal; (repeat' split) <;> rfl
@[simp] theorem Thread.setVal_yield (t : Thread) (o : Operand) (v : Wide) : (t.setVal o v).yield = t.yield := by unfold Thread.setVal; (repeat' split) <;> rfl
@[simp] theorem Thread.setVal_wait (t : Thread) (o : Operand) (v : Wide) : (t.setVal o v).wait = t.wait := by unfold Thread.setVal; (repeat' split) <;> rfl
@[simp] theorem Thread.setVal_kept (t : Thread) (o : Operand) (v : Wide) : (t.setVal o v).kept = t.kept := by unfold Thread.setVal; (repeat' split) <;> rfl
@[simp] theorem Thread.setVal_after (t : Thread) (o : Operand) (v : Wide) : (t.setVal o v).after = t.after := by unfold Thread.setVal; (repeat' split) <;> rfl
@[simp] theorem Thread.setVal_stamp (t : Thread) (o : Operand) (v : Wide) : (t.setVal o v).stamp = t.stamp := by unfold Thread.setVal; (repeat' split) <;> rfl

/-! ### `Thread.put` -/

@[simp] theorem Thread.put_uid (t : Thread) (o : Operand) (v : Wide) : (t.put o v).uid = t.uid := by unfold Thread.put; dsimp only; split <;> simp
@[simp] theorem Thread.put_kind (t : Thread) (o : Operand) (v : Wide) : (t.put o v).kind = t.kind := by unfold Thread.put; dsimp only; split <;> simp
@[simp] theorem Thread.put_run (t : Thread) (o : Operand) (v : Wide) : (t.put o v).run = t.run := by unfold Thread.put; dsimp only; split <;> simp
@[simp] theorem Thread.put_ctx (t : Thread) (o : Operand) (v : Wide) : (t.put o v).ctx = t.ctx := by unfold Thread.put; dsimp only; split <;> simp
@[simp] theorem Thread.put_group (t : Thread) (o : Operand) (v : Wide) : (t.put o v).group = t.group := by unfold Thread.put; dsimp only; split <;> simp
@[simp] theorem Thread.put_graph (t : Thread) (o : Operand) (v : Wide) : (t.put o v).graph = t.graph := by unfold Thread.put; dsimp only; split <;> simp
@[simp] theorem Thread.put_phys (t : Thread) (o : Operand) (v : Wide) : (t.put o v).phys = t.phys := by unfold Thread.put; dsimp only; split <;> simp
@[simp] theorem Thread.put_lcl (t : Thread) (o : Operand) (v : Wide) : (t.put o v).lcl = t.lcl := by unfold Thread.put; dsimp only; split <;> simp
@[simp] theorem Thread.put_core (t : Thread) (o : Operand) (v : Wide) : (t.put o v).core = t.core := by unfold Thread.put; dsimp only; split <;> simp
@[simp] theorem Thread.put_slot (t : Thread) (o : Operand) (v : Wide) : (t.put o v).slot = t.slot := by unfold Thread.put; dsimp only; split <;> simp
@[simp] theorem Thread.put_delegated (t : Thread) (o : Operand) (v : Wide) : (t.put o v).delegated = t.delegated := by unfold Thread.put; dsimp only; split <;> simp
@[simp] theorem Thread.put_flags (t : Thread) (o : Operand) (v : Wide) : (t.put o v).flags = t.flags := by unfold Thread.put; dsimp only; split <;> simp
@[simp] theorem Thread.put_ftz (t : Thread) (o : Operand) (v : Wide) : (t.put o v).ftz = t.ftz := by unfold Thread.put; dsimp only; split <;> simp
@[simp] theorem Thread.put_daz (t : Thread) (o : Operand) (v : Wide) : (t.put o v).daz = t.daz := by unfold Thread.put; dsimp only; split <;> simp
@[simp] theorem Thread.put_rm (t : Thread) (o : Operand) (v : Wide) : (t.put o v).rm = t.rm := by unfold Thread.put; dsimp only; split <;> simp
@[simp] theorem Thread.put_tokens (t : Thread) (o : Operand) (v : Wide) : (t.put o v).tokens = t.tokens := by unfold Thread.put; dsimp only; split <;> simp
@[simp] theorem Thread.put_tokErr (t : Thread) (o : Operand) (v : Wide) : (t.put o v).tokErr = t.tokErr := by unfold Thread.put; dsimp only; split <;> simp
@[simp] theorem Thread.put_tokEnd (t : Thread) (o : Operand) (v : Wide) : (t.put o v).tokEnd = t.tokEnd := by unfold Thread.put; dsimp only; split <;> simp
@[simp] theorem Thread.put_reds (t : Thread) (o : Operand) (v : Wide) : (t.put o v).reds = t.reds := by unfold Thread.put; dsimp only; split <;> simp
@[simp] theorem Thread.put_window (t : Thread) (o : Operand) (v : Wide) : (t.put o v).window = t.window := by unfold Thread.put; dsimp only; split <;> simp
@[simp] theorem Thread.put_pc (t : Thread) (o : Operand) (v : Wide) : (t.put o v).pc = t.pc := by unfold Thread.put; dsimp only; split <;> simp
@[simp] theorem Thread.put_index (t : Thread) (o : Operand) (v : Wide) : (t.put o v).index = t.index := by unfold Thread.put; dsimp only; split <;> simp
@[simp] theorem Thread.put_handle (t : Thread) (o : Operand) (v : Wide) : (t.put o v).handle = t.handle := by unfold Thread.put; dsimp only; split <;> simp
@[simp] theorem Thread.put_draws (t : Thread) (o : Operand) (v : Wide) : (t.put o v).draws = t.draws := by unfold Thread.put; dsimp only; split <;> simp
@[simp] theorem Thread.put_key (t : Thread) (o : Operand) (v : Wide) : (t.put o v).key = t.key := by unfold Thread.put; dsimp only; split <;> simp
@[simp] theorem Thread.put_creations (t : Thread) (o : Operand) (v : Wide) : (t.put o v).creations = t.creations := by unfold Thread.put; dsimp only; split <;> simp
@[simp] theorem Thread.put_fwd (t : Thread) (o : Operand) (v : Wide) : (t.put o v).fwd = t.fwd := by unfold Thread.put; dsimp only; split <;> simp
@[simp] theorem Thread.put_bpSkip (t : Thread) (o : Operand) (v : Wide) : (t.put o v).bpSkip = t.bpSkip := by unfold Thread.put; dsimp only; split <;> simp
@[simp] theorem Thread.put_yield (t : Thread) (o : Operand) (v : Wide) : (t.put o v).yield = t.yield := by unfold Thread.put; dsimp only; split <;> simp
@[simp] theorem Thread.put_wait (t : Thread) (o : Operand) (v : Wide) : (t.put o v).wait = t.wait := by unfold Thread.put; dsimp only; split <;> simp
@[simp] theorem Thread.put_kept (t : Thread) (o : Operand) (v : Wide) : (t.put o v).kept = t.kept := by unfold Thread.put; dsimp only; split <;> simp
@[simp] theorem Thread.put_after (t : Thread) (o : Operand) (v : Wide) : (t.put o v).after = t.after := by unfold Thread.put; dsimp only; split <;> simp
@[simp] theorem Thread.put_stamp (t : Thread) (o : Operand) (v : Wide) : (t.put o v).stamp = t.stamp := by unfold Thread.put; dsimp only; split <;> simp

/-! ### `Thread.oweAll` -/

@[simp] theorem Thread.oweAll_uid (t : Thread) (os : List Operand) : (t.oweAll os).uid = t.uid := by
  unfold Thread.oweAll; induction os generalizing t with
  | nil => rfl
  | cons o os ih => simp [ih]
@[simp] theorem Thread.oweAll_kind (t : Thread) (os : List Operand) : (t.oweAll os).kind = t.kind := by
  unfold Thread.oweAll; induction os generalizing t with
  | nil => rfl
  | cons o os ih => simp [ih]
@[simp] theorem Thread.oweAll_run (t : Thread) (os : List Operand) : (t.oweAll os).run = t.run := by
  unfold Thread.oweAll; induction os generalizing t with
  | nil => rfl
  | cons o os ih => simp [ih]
@[simp] theorem Thread.oweAll_ctx (t : Thread) (os : List Operand) : (t.oweAll os).ctx = t.ctx := by
  unfold Thread.oweAll; induction os generalizing t with
  | nil => rfl
  | cons o os ih => simp [ih]
@[simp] theorem Thread.oweAll_group (t : Thread) (os : List Operand) : (t.oweAll os).group = t.group := by
  unfold Thread.oweAll; induction os generalizing t with
  | nil => rfl
  | cons o os ih => simp [ih]
@[simp] theorem Thread.oweAll_graph (t : Thread) (os : List Operand) : (t.oweAll os).graph = t.graph := by
  unfold Thread.oweAll; induction os generalizing t with
  | nil => rfl
  | cons o os ih => simp [ih]
@[simp] theorem Thread.oweAll_phys (t : Thread) (os : List Operand) : (t.oweAll os).phys = t.phys := by
  unfold Thread.oweAll; induction os generalizing t with
  | nil => rfl
  | cons o os ih => simp [ih]
@[simp] theorem Thread.oweAll_lcl (t : Thread) (os : List Operand) : (t.oweAll os).lcl = t.lcl := by
  unfold Thread.oweAll; induction os generalizing t with
  | nil => rfl
  | cons o os ih => simp [ih]
@[simp] theorem Thread.oweAll_core (t : Thread) (os : List Operand) : (t.oweAll os).core = t.core := by
  unfold Thread.oweAll; induction os generalizing t with
  | nil => rfl
  | cons o os ih => simp [ih]
@[simp] theorem Thread.oweAll_slot (t : Thread) (os : List Operand) : (t.oweAll os).slot = t.slot := by
  unfold Thread.oweAll; induction os generalizing t with
  | nil => rfl
  | cons o os ih => simp [ih]
@[simp] theorem Thread.oweAll_delegated (t : Thread) (os : List Operand) : (t.oweAll os).delegated = t.delegated := by
  unfold Thread.oweAll; induction os generalizing t with
  | nil => rfl
  | cons o os ih => simp [ih]
@[simp] theorem Thread.oweAll_ints (t : Thread) (os : List Operand) : (t.oweAll os).ints = t.ints := by
  unfold Thread.oweAll; induction os generalizing t with
  | nil => rfl
  | cons o os ih => simp [ih]
@[simp] theorem Thread.oweAll_wides (t : Thread) (os : List Operand) : (t.oweAll os).wides = t.wides := by
  unfold Thread.oweAll; induction os generalizing t with
  | nil => rfl
  | cons o os ih => simp [ih]
@[simp] theorem Thread.oweAll_exts (t : Thread) (os : List Operand) : (t.oweAll os).exts = t.exts := by
  unfold Thread.oweAll; induction os generalizing t with
  | nil => rfl
  | cons o os ih => simp [ih]
@[simp] theorem Thread.oweAll_preds (t : Thread) (os : List Operand) : (t.oweAll os).preds = t.preds := by
  unfold Thread.oweAll; induction os generalizing t with
  | nil => rfl
  | cons o os ih => simp [ih]
@[simp] theorem Thread.oweAll_flags (t : Thread) (os : List Operand) : (t.oweAll os).flags = t.flags := by
  unfold Thread.oweAll; induction os generalizing t with
  | nil => rfl
  | cons o os ih => simp [ih]
@[simp] theorem Thread.oweAll_ftz (t : Thread) (os : List Operand) : (t.oweAll os).ftz = t.ftz := by
  unfold Thread.oweAll; induction os generalizing t with
  | nil => rfl
  | cons o os ih => simp [ih]
@[simp] theorem Thread.oweAll_daz (t : Thread) (os : List Operand) : (t.oweAll os).daz = t.daz := by
  unfold Thread.oweAll; induction os generalizing t with
  | nil => rfl
  | cons o os ih => simp [ih]
@[simp] theorem Thread.oweAll_rm (t : Thread) (os : List Operand) : (t.oweAll os).rm = t.rm := by
  unfold Thread.oweAll; induction os generalizing t with
  | nil => rfl
  | cons o os ih => simp [ih]
@[simp] theorem Thread.oweAll_tokens (t : Thread) (os : List Operand) : (t.oweAll os).tokens = t.tokens := by
  unfold Thread.oweAll; induction os generalizing t with
  | nil => rfl
  | cons o os ih => simp [ih]
@[simp] theorem Thread.oweAll_tokErr (t : Thread) (os : List Operand) : (t.oweAll os).tokErr = t.tokErr := by
  unfold Thread.oweAll; induction os generalizing t with
  | nil => rfl
  | cons o os ih => simp [ih]
@[simp] theorem Thread.oweAll_tokEnd (t : Thread) (os : List Operand) : (t.oweAll os).tokEnd = t.tokEnd := by
  unfold Thread.oweAll; induction os generalizing t with
  | nil => rfl
  | cons o os ih => simp [ih]
@[simp] theorem Thread.oweAll_reds (t : Thread) (os : List Operand) : (t.oweAll os).reds = t.reds := by
  unfold Thread.oweAll; induction os generalizing t with
  | nil => rfl
  | cons o os ih => simp [ih]
@[simp] theorem Thread.oweAll_window (t : Thread) (os : List Operand) : (t.oweAll os).window = t.window := by
  unfold Thread.oweAll; induction os generalizing t with
  | nil => rfl
  | cons o os ih => simp [ih]
@[simp] theorem Thread.oweAll_pc (t : Thread) (os : List Operand) : (t.oweAll os).pc = t.pc := by
  unfold Thread.oweAll; induction os generalizing t with
  | nil => rfl
  | cons o os ih => simp [ih]
@[simp] theorem Thread.oweAll_index (t : Thread) (os : List Operand) : (t.oweAll os).index = t.index := by
  unfold Thread.oweAll; induction os generalizing t with
  | nil => rfl
  | cons o os ih => simp [ih]
@[simp] theorem Thread.oweAll_handle (t : Thread) (os : List Operand) : (t.oweAll os).handle = t.handle := by
  unfold Thread.oweAll; induction os generalizing t with
  | nil => rfl
  | cons o os ih => simp [ih]
@[simp] theorem Thread.oweAll_draws (t : Thread) (os : List Operand) : (t.oweAll os).draws = t.draws := by
  unfold Thread.oweAll; induction os generalizing t with
  | nil => rfl
  | cons o os ih => simp [ih]
@[simp] theorem Thread.oweAll_key (t : Thread) (os : List Operand) : (t.oweAll os).key = t.key := by
  unfold Thread.oweAll; induction os generalizing t with
  | nil => rfl
  | cons o os ih => simp [ih]
@[simp] theorem Thread.oweAll_creations (t : Thread) (os : List Operand) : (t.oweAll os).creations = t.creations := by
  unfold Thread.oweAll; induction os generalizing t with
  | nil => rfl
  | cons o os ih => simp [ih]
@[simp] theorem Thread.oweAll_fwd (t : Thread) (os : List Operand) : (t.oweAll os).fwd = t.fwd := by
  unfold Thread.oweAll; induction os generalizing t with
  | nil => rfl
  | cons o os ih => simp [ih]
@[simp] theorem Thread.oweAll_bpSkip (t : Thread) (os : List Operand) : (t.oweAll os).bpSkip = t.bpSkip := by
  unfold Thread.oweAll; induction os generalizing t with
  | nil => rfl
  | cons o os ih => simp [ih]
@[simp] theorem Thread.oweAll_yield (t : Thread) (os : List Operand) : (t.oweAll os).yield = t.yield := by
  unfold Thread.oweAll; induction os generalizing t with
  | nil => rfl
  | cons o os ih => simp [ih]
@[simp] theorem Thread.oweAll_wait (t : Thread) (os : List Operand) : (t.oweAll os).wait = t.wait := by
  unfold Thread.oweAll; induction os generalizing t with
  | nil => rfl
  | cons o os ih => simp [ih]
@[simp] theorem Thread.oweAll_kept (t : Thread) (os : List Operand) : (t.oweAll os).kept = t.kept := by
  unfold Thread.oweAll; induction os generalizing t with
  | nil => rfl
  | cons o os ih => simp [ih]
@[simp] theorem Thread.oweAll_after (t : Thread) (os : List Operand) : (t.oweAll os).after = t.after := by
  unfold Thread.oweAll; induction os generalizing t with
  | nil => rfl
  | cons o os ih => simp [ih]
@[simp] theorem Thread.oweAll_stamp (t : Thread) (os : List Operand) : (t.oweAll os).stamp = t.stamp := by
  unfold Thread.oweAll; induction os generalizing t with
  | nil => rfl
  | cons o os ih => simp [ih]

/-! ### `Thread.putAll` -/

@[simp] theorem Thread.putAll_uid (t : Thread) (w : List (Operand × Wide)) : (t.putAll w).uid = t.uid := by
  unfold Thread.putAll; induction w generalizing t with
  | nil => rfl
  | cons o os ih => simp [ih]
@[simp] theorem Thread.putAll_kind (t : Thread) (w : List (Operand × Wide)) : (t.putAll w).kind = t.kind := by
  unfold Thread.putAll; induction w generalizing t with
  | nil => rfl
  | cons o os ih => simp [ih]
@[simp] theorem Thread.putAll_run (t : Thread) (w : List (Operand × Wide)) : (t.putAll w).run = t.run := by
  unfold Thread.putAll; induction w generalizing t with
  | nil => rfl
  | cons o os ih => simp [ih]
@[simp] theorem Thread.putAll_ctx (t : Thread) (w : List (Operand × Wide)) : (t.putAll w).ctx = t.ctx := by
  unfold Thread.putAll; induction w generalizing t with
  | nil => rfl
  | cons o os ih => simp [ih]
@[simp] theorem Thread.putAll_group (t : Thread) (w : List (Operand × Wide)) : (t.putAll w).group = t.group := by
  unfold Thread.putAll; induction w generalizing t with
  | nil => rfl
  | cons o os ih => simp [ih]
@[simp] theorem Thread.putAll_graph (t : Thread) (w : List (Operand × Wide)) : (t.putAll w).graph = t.graph := by
  unfold Thread.putAll; induction w generalizing t with
  | nil => rfl
  | cons o os ih => simp [ih]
@[simp] theorem Thread.putAll_phys (t : Thread) (w : List (Operand × Wide)) : (t.putAll w).phys = t.phys := by
  unfold Thread.putAll; induction w generalizing t with
  | nil => rfl
  | cons o os ih => simp [ih]
@[simp] theorem Thread.putAll_lcl (t : Thread) (w : List (Operand × Wide)) : (t.putAll w).lcl = t.lcl := by
  unfold Thread.putAll; induction w generalizing t with
  | nil => rfl
  | cons o os ih => simp [ih]
@[simp] theorem Thread.putAll_core (t : Thread) (w : List (Operand × Wide)) : (t.putAll w).core = t.core := by
  unfold Thread.putAll; induction w generalizing t with
  | nil => rfl
  | cons o os ih => simp [ih]
@[simp] theorem Thread.putAll_slot (t : Thread) (w : List (Operand × Wide)) : (t.putAll w).slot = t.slot := by
  unfold Thread.putAll; induction w generalizing t with
  | nil => rfl
  | cons o os ih => simp [ih]
@[simp] theorem Thread.putAll_delegated (t : Thread) (w : List (Operand × Wide)) : (t.putAll w).delegated = t.delegated := by
  unfold Thread.putAll; induction w generalizing t with
  | nil => rfl
  | cons o os ih => simp [ih]
@[simp] theorem Thread.putAll_flags (t : Thread) (w : List (Operand × Wide)) : (t.putAll w).flags = t.flags := by
  unfold Thread.putAll; induction w generalizing t with
  | nil => rfl
  | cons o os ih => simp [ih]
@[simp] theorem Thread.putAll_ftz (t : Thread) (w : List (Operand × Wide)) : (t.putAll w).ftz = t.ftz := by
  unfold Thread.putAll; induction w generalizing t with
  | nil => rfl
  | cons o os ih => simp [ih]
@[simp] theorem Thread.putAll_daz (t : Thread) (w : List (Operand × Wide)) : (t.putAll w).daz = t.daz := by
  unfold Thread.putAll; induction w generalizing t with
  | nil => rfl
  | cons o os ih => simp [ih]
@[simp] theorem Thread.putAll_rm (t : Thread) (w : List (Operand × Wide)) : (t.putAll w).rm = t.rm := by
  unfold Thread.putAll; induction w generalizing t with
  | nil => rfl
  | cons o os ih => simp [ih]
@[simp] theorem Thread.putAll_tokens (t : Thread) (w : List (Operand × Wide)) : (t.putAll w).tokens = t.tokens := by
  unfold Thread.putAll; induction w generalizing t with
  | nil => rfl
  | cons o os ih => simp [ih]
@[simp] theorem Thread.putAll_tokErr (t : Thread) (w : List (Operand × Wide)) : (t.putAll w).tokErr = t.tokErr := by
  unfold Thread.putAll; induction w generalizing t with
  | nil => rfl
  | cons o os ih => simp [ih]
@[simp] theorem Thread.putAll_tokEnd (t : Thread) (w : List (Operand × Wide)) : (t.putAll w).tokEnd = t.tokEnd := by
  unfold Thread.putAll; induction w generalizing t with
  | nil => rfl
  | cons o os ih => simp [ih]
@[simp] theorem Thread.putAll_reds (t : Thread) (w : List (Operand × Wide)) : (t.putAll w).reds = t.reds := by
  unfold Thread.putAll; induction w generalizing t with
  | nil => rfl
  | cons o os ih => simp [ih]
@[simp] theorem Thread.putAll_window (t : Thread) (w : List (Operand × Wide)) : (t.putAll w).window = t.window := by
  unfold Thread.putAll; induction w generalizing t with
  | nil => rfl
  | cons o os ih => simp [ih]
@[simp] theorem Thread.putAll_pc (t : Thread) (w : List (Operand × Wide)) : (t.putAll w).pc = t.pc := by
  unfold Thread.putAll; induction w generalizing t with
  | nil => rfl
  | cons o os ih => simp [ih]
@[simp] theorem Thread.putAll_index (t : Thread) (w : List (Operand × Wide)) : (t.putAll w).index = t.index := by
  unfold Thread.putAll; induction w generalizing t with
  | nil => rfl
  | cons o os ih => simp [ih]
@[simp] theorem Thread.putAll_handle (t : Thread) (w : List (Operand × Wide)) : (t.putAll w).handle = t.handle := by
  unfold Thread.putAll; induction w generalizing t with
  | nil => rfl
  | cons o os ih => simp [ih]
@[simp] theorem Thread.putAll_draws (t : Thread) (w : List (Operand × Wide)) : (t.putAll w).draws = t.draws := by
  unfold Thread.putAll; induction w generalizing t with
  | nil => rfl
  | cons o os ih => simp [ih]
@[simp] theorem Thread.putAll_key (t : Thread) (w : List (Operand × Wide)) : (t.putAll w).key = t.key := by
  unfold Thread.putAll; induction w generalizing t with
  | nil => rfl
  | cons o os ih => simp [ih]
@[simp] theorem Thread.putAll_creations (t : Thread) (w : List (Operand × Wide)) : (t.putAll w).creations = t.creations := by
  unfold Thread.putAll; induction w generalizing t with
  | nil => rfl
  | cons o os ih => simp [ih]
@[simp] theorem Thread.putAll_fwd (t : Thread) (w : List (Operand × Wide)) : (t.putAll w).fwd = t.fwd := by
  unfold Thread.putAll; induction w generalizing t with
  | nil => rfl
  | cons o os ih => simp [ih]
@[simp] theorem Thread.putAll_bpSkip (t : Thread) (w : List (Operand × Wide)) : (t.putAll w).bpSkip = t.bpSkip := by
  unfold Thread.putAll; induction w generalizing t with
  | nil => rfl
  | cons o os ih => simp [ih]
@[simp] theorem Thread.putAll_yield (t : Thread) (w : List (Operand × Wide)) : (t.putAll w).yield = t.yield := by
  unfold Thread.putAll; induction w generalizing t with
  | nil => rfl
  | cons o os ih => simp [ih]
@[simp] theorem Thread.putAll_wait (t : Thread) (w : List (Operand × Wide)) : (t.putAll w).wait = t.wait := by
  unfold Thread.putAll; induction w generalizing t with
  | nil => rfl
  | cons o os ih => simp [ih]
@[simp] theorem Thread.putAll_kept (t : Thread) (w : List (Operand × Wide)) : (t.putAll w).kept = t.kept := by
  unfold Thread.putAll; induction w generalizing t with
  | nil => rfl
  | cons o os ih => simp [ih]
@[simp] theorem Thread.putAll_after (t : Thread) (w : List (Operand × Wide)) : (t.putAll w).after = t.after := by
  unfold Thread.putAll; induction w generalizing t with
  | nil => rfl
  | cons o os ih => simp [ih]
@[simp] theorem Thread.putAll_stamp (t : Thread) (w : List (Operand × Wide)) : (t.putAll w).stamp = t.stamp := by
  unfold Thread.putAll; induction w generalizing t with
  | nil => rfl
  | cons o os ih => simp [ih]

end Sys2Proof.Machine
end

