-- ==== Sys2Proof/Laws/Ops.lean ====
section
/-! SUPPORT. What the shared operations can do: what a lookup finds after an update, and for each operation on the way of an
access, a result, a wait or a trap what it leaves unchanged and how memory stands after it. -/

set_option Elab.async false

namespace Sys2Proof.Machine

/-! ## Lookups after updates -/

/-- Looking up by a key that the change of an element keeps. -/
theorem find?_map_key {α κ : Type} [BEq κ] [LawfulBEq κ] (key : α → κ) (k k' : κ) (f : α → α) (xs : List α)
    (h : ∀ x, key (f x) = key x) :
    (xs.map fun x => if key x == k then f x else x).find? (fun x => key x == k')
      = (xs.find? fun x => key x == k').map fun x => if key x == k then f x else x := by
  induction xs with
  | nil => rfl
  | cons x xs ih =>
    have hk : key (if key x == k then f x else x) = key x := by split <;> simp [h]
    simp only [List.map_cons, List.find?_cons, hk]
    split <;> simp [ih]

theorem thread?_updThread (s : State) (u v : Nat) (f : Thread → Thread) (h : ∀ t, (f t).uid = t.uid) :
    (s.updThread u f).thread? v = (s.thread? v).map fun t => if t.uid == u then f t else t :=
  find?_map_key Thread.uid u v f s.threads h

theorem thread?_uid {s : State} {u : Nat} {t : Thread} (h : s.thread? u = some t) : t.uid = u := by
  have := List.find?_some h; simpa using this

theorem thread?_mem {s : State} {u : Nat} {t : Thread} (h : s.thread? u = some t) : t ∈ s.threads := List.mem_of_find?_eq_some h

/-- The changed thread stands where it stood. -/
theorem thread?_updThread_same {s : State} {u : Nat} {t : Thread} {f : Thread → Thread} (h : s.thread? u = some t)
    (hf : ∀ t, (f t).uid = t.uid) : (s.updThread u f).thread? u = some (f t) := by
  rw [thread?_updThread s u u f hf, h]; simp [thread?_uid h]

theorem thread?_updThread_other {s : State} {u v : Nat} {f : Thread → Thread} (hf : ∀ t, (f t).uid = t.uid) (hv : v ≠ u) :
    (s.updThread u f).thread? v = s.thread? v := by
  rw [thread?_updThread s u v f hf]
  cases h : s.thread? v with
  | none => rfl
  | some t => simp [thread?_uid h, hv]

theorem ctx?_updCtx (s : State) (i j : Nat) (f : Context → Context) (h : ∀ c, (f c).id = c.id) :
    (s.updCtx i f).ctx? j = (s.ctx? j).map fun c => if c.id == i then f c else c :=
  find?_map_key Context.id i j f s.ctxs h

theorem ctx?_id {s : State} {i : Nat} {c : Context} (h : s.ctx? i = some c) : c.id = i := by
  have := List.find?_some h; simpa using this

theorem ctx?_updCtx_same {s : State} {i : Nat} {c : Context} {f : Context → Context} (h : s.ctx? i = some c)
    (hf : ∀ c, (f c).id = c.id) : (s.updCtx i f).ctx? i = some (f c) := by
  rw [ctx?_updCtx s i i f hf, h]; simp [ctx?_id h]

theorem ctx?_updCtx_other {s : State} {i j : Nat} {f : Context → Context} (hf : ∀ c, (f c).id = c.id) (hj : j ≠ i) :
    (s.updCtx i f).ctx? j = s.ctx? j := by
  rw [ctx?_updCtx s i j f hf]
  cases h : s.ctx? j with
  | none => rfl
  | some c => simp [ctx?_id h, hj]

theorem family?_updFamily (s : State) (u v : Nat) (f : Family → Family) (h : ∀ x, (f x).uid = x.uid) :
    (s.updFamily u f).family? v = (s.family? v).map fun x => if x.uid == u then f x else x :=
  find?_map_key Family.uid u v f s.families h

theorem group?_updGroup (s : State) (u v : Nat) (f : Group → Group) (h : ∀ x, (f x).uid = x.uid) :
    (s.updGroup u f).group? v = (s.group? v).map fun x => if x.uid == u then f x else x :=
  find?_map_key Group.uid u v f s.groups h

theorem replay?_updReplay (s : State) (u v : Nat) (f : Replay → Replay) (h : ∀ x, (f x).uid = x.uid) :
    (s.updReplay u f).replay? v = (s.replay? v).map fun x => if x.uid == u then f x else x :=
  find?_map_key Replay.uid u v f s.replays h

/-- A core written is the core read; every other core is as it was. -/
theorem coreAt_setCore (s : State) (k : CoreSt) (p c : Nat) :
    (s.setCore k).coreAt p c = if k.phys = p ∧ k.core = c then k else s.coreAt p c := by
  have map : ∀ xs : List CoreSt, ((xs.map fun x => if x.phys == k.phys && x.core == k.core then k else x).find? fun x =>
      x.phys == p && x.core == c) = if k.phys = p ∧ k.core = c then
        (if xs.any (fun x => x.phys == k.phys && x.core == k.core) then some k else none)
      else xs.find? fun x => x.phys == p && x.core == c := by
    intro xs
    induction xs with
    | nil => by_cases h : k.phys = p ∧ k.core = c <;> simp [h]
    | cons x xs ih =>
      simp only [List.map_cons, List.find?_cons, List.any_cons, ih]
      by_cases hx : x.phys = k.phys ∧ x.core = k.core
      · by_cases h : k.phys = p ∧ k.core = c
        · simp [hx, h]
        · have h' : (k.phys == p && k.core == c) = false := by
            simp only [Bool.and_eq_false_iff, beq_eq_false_iff_ne]; omega
          simp [hx, h, h']
      · have hx' : (x.phys == k.phys && x.core == k.core) = false := by
          simp only [Bool.and_eq_false_iff, beq_eq_false_iff_ne]; omega
        by_cases h : k.phys = p ∧ k.core = c
        · have : (x.phys == p && x.core == c) = false := by rw [← h.1, ← h.2]; exact hx'
          simp [hx', h, this]
        · simp [hx', h]
  unfold State.setCore State.coreAt
  split
  · next ha =>
    dsimp only
    rw [map]
    split <;> simp [ha]
  · next ha =>
    have hn : ∀ x ∈ s.cores, (x.phys == k.phys && x.core == k.core) = false := by simpa using ha
    dsimp only
    rw [List.find?_append]
    by_cases h : k.phys = p ∧ k.core = c
    · have : s.cores.find? (fun x => x.phys == p && x.core == c) = none := by
        rw [List.find?_eq_none]; intro x hx; rw [← h.1, ← h.2]; simp [hn x hx]
      simp [this, h]
    · have h' : (k.phys == p && k.core == c) = false := by
        simp only [Bool.and_eq_false_iff, beq_eq_false_iff_ne]; omega
      simp [h, h']

/-- A core stands under its own numbers. -/
theorem coreAt_names (s : State) (p c : Nat) : (s.coreAt p c).phys = p ∧ (s.coreAt p c).core = c := by
  unfold State.coreAt
  cases h : s.cores.find? fun k => k.phys == p && k.core == c with
  | none => exact ⟨rfl, rfl⟩
  | some k => have := List.find?_some h; simpa using this

theorem coreAt_updCore (s : State) (p c p' c' : Nat) (f : CoreSt → CoreSt) (h : ∀ k, (f k).phys = k.phys ∧ (f k).core = k.core) :
    (s.updCore p c f).coreAt p' c' = if p = p' ∧ c = c' then f (s.coreAt p c) else s.coreAt p' c' := by
  rw [State.updCore, coreAt_setCore, (h _).1, (h _).2, (coreAt_names s p c).1, (coreAt_names s p c).2]

/-- Updates that do not touch the cores. -/
theorem coreAt_of_cores {s s' : State} (h : s'.cores = s.cores) (p c : Nat) : s'.coreAt p c = s.coreAt p c := by
  unfold State.coreAt; rw [h]

theorem clusterAt_of_clusters {s s' : State} (h : s'.clusters = s.clusters) (p : Nat) : s'.clusterAt p = s.clusterAt p := by
  unfold State.clusterAt; rw [h]

/-- A cluster written is the cluster read; every other one is as it was. -/
theorem clusterAt_setCluster (s : State) (k : Cluster) (p : Nat) :
    (s.setCluster k).clusterAt p = if k.phys = p then k else s.clusterAt p := by
  have map : ∀ xs : List Cluster, ((xs.map fun x => if x.phys == k.phys then k else x).find? fun x => x.phys == p)
      = if k.phys = p then (if xs.any (fun x => x.phys == k.phys) then some k else none) else xs.find? fun x => x.phys == p := by
    intro xs
    induction xs with
    | nil => by_cases h : k.phys = p <;> simp [h]
    | cons x xs ih =>
      simp only [List.map_cons, List.find?_cons, List.any_cons, ih]
      by_cases hx : x.phys = k.phys
      · by_cases h : k.phys = p
        · simp [hx, h]
        · simp [hx, h, beq_eq_false_iff_ne.mpr h]
      · by_cases h : k.phys = p
        · have : x.phys ≠ p := by rw [← h]; exact hx
          simp [hx, h, beq_eq_false_iff_ne.mpr this]
        · simp [hx, h]
  unfold State.setCluster State.clusterAt
  split
  · next ha =>
    dsimp only
    rw [map]
    split <;> simp [ha]
  · next ha =>
    have hn : ∀ x ∈ s.clusters, x.phys ≠ k.phys := by simpa using ha
    dsimp only
    rw [List.find?_append]
    by_cases h : k.phys = p
    · have : s.clusters.find? (fun x => x.phys == p) = none := by
        rw [List.find?_eq_none]; intro x hx; rw [← h]; simpa using hn x hx
      simp [this, h]
    · simp [h]

/-! ## Results, accesses and positions -/

/-- Standing behind an instruction changes the thread, or its core's sequencer run, alone. -/
@[simp] theorem advance_mem (s : State) (t : Thread) (p : Port) (i : Instr) : (s.advance t p i).mem = s.mem := by
  unfold State.advance; split <;> simp

@[simp] theorem advance_accs (s : State) (t : Thread) (p : Port) (i : Instr) : (s.advance t p i).accs = s.accs := by
  unfold State.advance; split <;> simp

@[simp] theorem advance_arrivals (s : State) (t : Thread) (p : Port) (i : Instr) : (s.advance t p i).arrivals = s.arrivals := by
  unfold State.advance; split <;> simp

@[simp] theorem advance_ctxs (s : State) (t : Thread) (p : Port) (i : Instr) : (s.advance t p i).ctxs = s.ctxs := by
  unfold State.advance; split <;> simp

@[simp] theorem advance_granules (s : State) (t : Thread) (p : Port) (i : Instr) : (s.advance t p i).granules = s.granules := by
  unfold State.advance; split <;> simp

@[simp] theorem advance_poison (s : State) (t : Thread) (p : Port) (i : Instr) : (s.advance t p i).poison = s.poison := by
  unfold State.advance; split <;> simp

/-- A reply leaves an arrival, a message to a peer, or nothing. -/
theorem reply_cases (s : State) (a : Access) (w : List (Operand × Wide)) (r : Prod) (k : Nat) (b : BitVec 32) (z : Stamp) :
    s.reply a w r k b z = s ∨ (∃ o, s.reply a w r k b z = s.send o) ∨
      ∃ x, s.reply a w r k b z = { s with arrivals := s.arrivals ++ [x], fresh := s.fresh + 1 } := by
  unfold State.reply
  split
  · split
    · exact .inr (.inl ⟨_, rfl⟩)
    · exact .inl rfl
  · split
    · exact .inl rfl
    · exact .inr (.inr ⟨_, rfl⟩)

@[simp] theorem reply_mem (s : State) (a : Access) (w : List (Operand × Wide)) (r : Prod) (k : Nat) (b : BitVec 32) (z : Stamp) :
    (s.reply a w r k b z).mem = s.mem := by
  rcases reply_cases s a w r k b z with h | ⟨o, h⟩ | ⟨x, h⟩ <;> rw [h] <;> rfl

@[simp] theorem reply_threads (s : State) (a : Access) (w : List (Operand × Wide)) (r : Prod) (k : Nat) (b : BitVec 32) (z : Stamp) :
    (s.reply a w r k b z).threads = s.threads := by
  rcases reply_cases s a w r k b z with h | ⟨o, h⟩ | ⟨x, h⟩ <;> rw [h] <;> rfl

/-! ## Context faults -/

@[simp] theorem faultReplay_mem (s : State) (r : Option Nat) (k : Nat) : (s.faultReplay r k).mem = s.mem := by
  unfold State.faultReplay; split <;> rfl

@[simp] theorem faultReplay_threads (s : State) (r : Option Nat) (k : Nat) : (s.faultReplay r k).threads = s.threads := by
  unfold State.faultReplay; split <;> rfl

@[simp] theorem contextFault_mem (s : State) (c : Nat) (r : Option Nat) (f : FaultRec) : (s.contextFault c r f).mem = s.mem := by
  unfold State.contextFault; dsimp only; repeat' split
  all_goals simp

@[simp] theorem contextFault_threads (s : State) (c : Nat) (r : Option Nat) (f : FaultRec) : (s.contextFault c r f).threads = s.threads := by
  unfold State.contextFault; dsimp only; repeat' split
  all_goals simp

@[simp] theorem chargeRead_mem (s : State) (e : BitVec 32) (c : Nat) (g : Option Nat) (w : Option Thread) :
    (s.chargeRead e c g w).mem = s.mem := by simp [State.chargeRead]

@[simp] theorem chargeRead_threads (s : State) (e : BitVec 32) (c : Nat) (g : Option Nat) (w : Option Thread) :
    (s.chargeRead e c g w).threads = s.threads := by simp [State.chargeRead]

/-- A read at a home writes nothing. -/
@[simp] theorem homeRead_mem (s : State) (l : Loc) (n c : Nat) (g : Option Nat) (w : Option Thread) :
    (s.homeRead l n c g w).2.mem = s.mem := by
  unfold State.homeRead; dsimp only; split <;> simp [State.newFree]

@[simp] theorem homeRead_threads (s : State) (l : Loc) (n c : Nat) (g : Option Nat) (w : Option Thread) :
    (s.homeRead l n c g w).2.threads = s.threads := by
  unfold State.homeRead; dsimp only; split <;> simp [State.newFree]

/-- A read of a place without a poisoned word is the bytes that stand there, and charges nobody (R363). -/
theorem homeRead_sound {s : State} {l : Loc} {n c : Nat} {g : Option Nat} {w : Option Thread} (h : s.poisoned l n = false) :
    s.homeRead l n c g w = (s.read l n, s) := by simp [State.homeRead, h]

/-! ## Writes at their homes -/

/-- What each step of a fold keeps, the fold keeps. -/
theorem foldl_keeps {α β γ : Type} (g : β → γ) (f : β → α → β) (h : ∀ b a, g (f b a) = g b) (b : β) (xs : List α) :
    g (xs.foldl f b) = g b := by
  induction xs generalizing b with
  | nil => rfl
  | cons x xs ih => rw [List.foldl_cons, ih, h]

/-- Waking the AWAITs of a place writes nothing. -/
@[simp] theorem wake_mem (s : State) (l : Loc) (n : Nat) (b : BitVec 32) (z : Stamp) : (s.wake l n b z).mem = s.mem := by
  unfold State.wake
  refine foldl_keeps State.mem _ (fun s a => ?_) s _
  dsimp only
  (repeat' split) <;> simp

@[simp] theorem wake_threads (s : State) (l : Loc) (n : Nat) (b : BitVec 32) (z : Stamp) : (s.wake l n b z).threads = s.threads := by
  unfold State.wake
  refine foldl_keeps State.threads _ (fun s a => ?_) s _
  dsimp only
  (repeat' split) <;> simp

/-- With no AWAIT waiting on the place, nothing is woken. -/
theorem wake_none {s : State} {l : Loc} {n : Nat} {b : BitVec 32} {z : Stamp}
    (h : ∀ a ∈ s.accs, a.phase = .waiting → a.loc.overlaps a.size l n = false) : s.wake l n b z = s := by
  unfold State.wake
  have : (s.accs.filter fun a => a.phase == .waiting && a.loc.overlaps a.size l n) = [] := by
    rw [List.filter_eq_nil_iff]
    intro a ha
    by_cases hp : a.phase = .waiting
    · simp [h a ha hp]
    · simp [hp]
  rw [this]; rfl

/-- A write at its home puts exactly its bytes into memory. -/
@[simp] theorem homeWrite_mem (s : State) (l : Loc) (n v : Nat) (b : BitVec 32) (z : Stamp) :
    (s.homeWrite l n v b z).mem = Mem.setLE s.mem l.key n v := by
  unfold State.homeWrite
  split <;> simp

theorem wf_homeWrite {s : State} {l : Loc} {n v : Nat} {b : BitVec 32} {z : Stamp} (h : Mem.wf s.mem = true) :
    Mem.wf (s.homeWrite l n v b z).mem = true := by rw [homeWrite_mem]; exact Mem.wf_setLE h

theorem get_homeWrite {s : State} {l : Loc} {n v : Nat} {b : BitVec 32} {z : Stamp} (h : Mem.wf s.mem = true) (x : Nat) :
    Mem.get (s.homeWrite l n v b z).mem x
      = if l.key ≤ x ∧ x < l.key + n then BitVec.ofNat 8 (v / 256 ^ (x - l.key)) else Mem.get s.mem x := by
  rw [homeWrite_mem]; exact Mem.get_setLE h x

/-! ## Translation -/

@[simp] theorem chargeWalk_mem (s : State) (c : Nat) (read : List Nat) : (s.chargeWalk c read).mem = s.mem := by
  unfold State.chargeWalk
  split
  · rfl
  · rw [foldl_keeps State.mem _ fun s pa => chargeRead_mem ..]; rfl

@[simp] theorem walkNow_mem (s : State) (c va : Nat) : (s.walkNow c va).2.mem = s.mem := chargeWalk_mem ..

@[simp] theorem tlbFill_mem (s : State) (l : TlbLeaf) : (s.tlbFill l).mem = s.mem := by
  unfold State.tlbFill; dsimp only; split <;> rfl

@[simp] theorem endWalk_mem (s : State) (x : PageWalk) (va : Nat) : (s.endWalk x va).2.mem = s.mem := by
  unfold State.endWalk; dsimp only; split <;> simp

@[simp] theorem walkRoom_mem (s : State) (die : Nat) : (s.walkRoom die).mem = s.mem := by
  unfold State.walkRoom; repeat' split
  all_goals simp

@[simp] theorem walkMiss_mem (s : State) (die c va : Nat) : (s.walkMiss die c va).2.mem = s.mem := by
  have h := walkNow_mem (s.walkRoom die) c va
  unfold State.walkMiss
  split
  · simp
  · split
    · next e => rw [e] at h; simpa using h
    · simp

@[simp] theorem tlbRead_mem (s : State) (u c va : Nat) : (s.tlbRead u c va).2.mem = s.mem := by
  unfold State.tlbRead; repeat' split
  all_goals simp

@[simp] theorem leafOf_mem (s : State) (c p va : Nat) : (s.leafOf c p va).2.mem = s.mem := by
  have h1 := tlbRead_mem s p c va
  unfold State.leafOf; dsimp only
  split
  · next e => rw [e] at h1; exact h1
  · next s1 e =>
    rw [e] at h1
    have h2 := tlbRead_mem s1 (256 + p / 128) c va
    split
    · next e => rw [e] at h2; simpa using h2.trans h1
    · next s2 e =>
      rw [e] at h2
      have h3 := walkMiss_mem s2 (p / 128) c va
      split
      · next e => rw [e] at h3; exact h3.trans (h2.trans h1)
      · next e => rw [e] at h3; simpa using h3.trans (h2.trans h1)

/-- The charge of a trap writes nothing. -/
@[simp] theorem chargeTrap_mem (s : State) (c p : Nat) (tr : Trap) : (s.chargeTrap c p tr).mem = s.mem := by
  unfold State.chargeTrap; split <;> simp

@[simp] theorem translate_mem (s : State) (c p va : Nat) (w ph : Bool) : (s.translate c p va w ph).2.mem = s.mem := by
  have h := leafOf_mem s c p va
  unfold State.translate
  split
  · next e => rw [e] at h; exact h
  · next e => rw [e] at h; split <;> [rfl; exact h]

/-! ## Waits and their records -/

theorem wf_writeVa {s : State} {c p va : Nat} {bs : List Byte} (h : Mem.wf s.mem = true) : Mem.wf (s.writeVa c p va bs).mem = true := by
  have ht := translate_mem s c p va true false
  unfold State.writeVa
  split
  · next e => rw [e] at ht; exact wf_homeWrite (by rw [show _ = s.mem from ht]; exact h)
  · next e => rw [e] at ht; rw [show _ = s.mem from ht]; exact h

theorem wf_endWait {s : State} {r : Option Replay} {c p z : Nat} {w a : BitVec 32} {k : Nat} {st : Stamp} (h : Mem.wf s.mem = true) :
    Mem.wf (s.endWait r c p z w a k st).2.mem = true := by
  unfold State.endWait
  dsimp only
  split
  · split
    · exact wf_writeVa (by exact h)
    · exact h
  · exact h

theorem wf_endThreadWait {s : State} {u : Nat} {a : BitVec 32} {k : Nat} {st : Stamp} (h : Mem.wf s.mem = true) :
    Mem.wf (s.endThreadWait u a k st).mem = true := by
  unfold State.endThreadWait
  split
  · exact h
  · exact wf_endWait h

/-! ## Traps -/

@[simp] theorem trapWord_mem (s : State) (k a : Nat) : (s.trapWord k a).2.mem = s.mem := by
  unfold State.trapWord; dsimp only; repeat' split
  all_goals rfl

/-- Taking a trap writes nothing. -/
@[simp] theorem takeTrap_mem (s : State) (t : Thread) (p : Port) (tr : Trap) : (s.takeTrap t p tr).mem = s.mem := by
  unfold State.takeTrap; dsimp only
  split
  · exact contextFault_mem ..
  · split
    · rfl
    · simp

theorem wf_returnTrap {s : State} {p c : Nat} (h : Mem.wf s.mem = true) : Mem.wf (s.returnTrap p c).mem = true := by
  unfold State.returnTrap; dsimp only
  split
  · exact h
  · exact wf_endThreadWait (by simpa using h)

end Sys2Proof.Machine
end

