-- ==== Sys2Proof/Tests/Slice0.lean ====
section
/-! SUPPORT. Our own tests: a term that each legality check refuses, words that the decoder refuses and reads, single steps
whose results come from the spec's tables or from hand calculation, and for each statement with hypotheses a state that meets
them. -/

set_option Elab.async false

open Sys2Proof Sys2Proof.Machine
namespace Sys2Proof.Tests

/-! ## Legality (R28, R32, R34, R51, R52): a term that each check refuses -/

/-- R34: a destination that threads only read. -/
theorem test_illegal_dest : (Instr.add (.g 0) (.l 1) (.l 2)).check = some .dest
    ∧ (Instr.ldD (.d 3) (.l 2) 0).check = some .dest := by decide

/-- R28: one predicate in pd and pq, p0 apart. -/
theorem test_illegal_predicates : (Instr.plog 3 3 1 2 0x5).check = some .predicates
    ∧ (Instr.plog 0 0 1 2 0x5).check = none := by decide

/-- R27: a format that the function does not accept. -/
theorem test_illegal_format : (Instr.vand 0 1 2 .s).check = some .format ∧ (Instr.vsqrt 0 1 .i8).check = some .format
    ∧ (Instr.vadd 0 1 2 .e4).check = some .format ∧ (Instr.cvt (.l 0) (.l 1) .dyn .d .d).check = some .format
    ∧ (Instr.vcvt 0 1 2 .s .dyn .h).check = some .format := by decide

/-- R127: a mode that the pair does not accept. -/
theorem test_illegal_mode : (Instr.cvt (.l 0) (.l 1) .sr .s .d).check = some .mode
    ∧ (Instr.vcvt 0 1 0 .x8 .sr .s).check = some .mode := by decide

/-- R26: a branch to itself or into itself. -/
theorem test_illegal_short_branch : (Instr.b 0).check = some .shortBranch ∧ (Instr.b 1).check = some .shortBranch
    ∧ (Instr.b 2).check = none := by decide

/-- R307: TAKE's destination is one of l0 to l13. -/
theorem test_illegal_take_destination : (Instr.take (.l 14) (.l 1)).check = some .takeDest
    ∧ (Instr.take .zero (.l 1)).check = some .takeDest ∧ (Instr.take (.l 13) (.l 1)).check = none := by decide

/-- R150: SBIND names w0 to w3. -/
theorem test_illegal_stream_register : (Instr.sbind 4 0).check = some .streamReg ∧ (Instr.sbind 3 0).check = none := by decide

/-- R346, R348: a number with a constructor of its own is written with that one. -/
theorem test_illegal_system_register : (Instr.sysw (.l 1) .tlbShoot).check = some .sysReg := by decide

/-- R130: FTANH has no FP64 form. -/
theorem test_illegal_function : (Instr.ftanh .d (.l 0) (.l 1)).check = some .function := by decide

/-- R32: the negation of p0 is no guard. -/
theorem test_illegal_guard : (Guard.mk true 0).ok = false ∧ (Guard.mk true 1).ok = true := by decide

/-! ## Words that the decoder refuses (R46 to R52) -/

theorem test_decode_refuses_reserved_majors :
    decode32 0x00000809#32 = .error .guard ∧ decode32 0x000000FF#32 = .error .major
    ∧ decode32 0x0000001F#32 = .error .major := ⟨rfl, rfl, rfl⟩

theorem test_decode_refuses_function_and_field :
    decode32 0xA0000301#32 = .error .function ∧ decode32 0x00400405#32 = .error .field
    ∧ decode32 0x000200FD#32 = .error .field := ⟨rfl, rfl, rfl⟩

theorem test_decode_refuses_conditions_selectors_registers :
    decode32 0xC0009041#32 = .error .cond ∧ decode32 0x2FC010F5#32 = .error .selector
    ∧ decode32 0x024010F9#32 = .error .sysReg := ⟨rfl, rfl, rfl⟩

theorem test_decode_refuses_compacts :
    decode16 0x0000#16 = .error .compact ∧ decode16 0x000C#16 = .error .compact ∧ decode16 0x0044#16 = .error .field := ⟨rfl, rfl, rfl⟩

theorem test_decode_refuses_truncated :
    decode [0x01#8, 0x10#8] = .error .truncated ∧ decode [0x02#8] = .error .truncated := ⟨rfl, rfl⟩

/-! ## Words that the decoder reads, one for each row, built from the encodings of chapters 2 to 23 -/

theorem test_decode_majors_00_to_07_1 : ∀ x ∈ (
    [(0x06466201, .add (.l 5) (.l 2) (.g 1)), (0x0E466201, .sub (.l 5) (.l 2) (.g 1)),
     (0x16466201, .and (.l 5) (.l 2) (.g 1)), (0x1E466201, .or (.l 5) (.l 2) (.g 1)),
     (0x26466201, .xor (.l 5) (.l 2) (.g 1)), (0x2E466201, .andn (.l 5) (.l 2) (.g 1)),
     (0x36466201, .orn (.l 5) (.l 2) (.g 1)), (0x3E466201, .xnor (.l 5) (.l 2) (.g 1)),
     (0x46466201, .sll (.l 5) (.l 2) (.g 1)), (0x4E466201, .srl (.l 5) (.l 2) (.g 1)),
     (0x56466201, .sra (.l 5) (.l 2) (.g 1)), (0x5E466201, .ror (.l 5) (.l 2) (.g 1)),
     (0x66466201, .min (.l 5) (.l 2) (.g 1)), (0x6E466201, .max (.l 5) (.l 2) (.g 1)),
     (0x76466201, .minu (.l 5) (.l 2) (.g 1)), (0x7E466201, .maxu (.l 5) (.l 2) (.g 1)),
     (0x86466201, .adds (.l 5) (.l 2) (.g 1)), (0x8E466201, .subs (.l 5) (.l 2) (.g 1)),
     (0x96466201, .addsu (.l 5) (.l 2) (.g 1)), (0x9E466201, .subsu (.l 5) (.l 2) (.g 1)),
     (0xA9466209, .addImm (.l 5) (.l 2) 0x2A5), (0xA946620B, .andImm (.l 5) (.l 2) 0x2A5),
     (0xA946620D, .orImm (.l 5) (.l 2) 0x2A5), (0xA946620F, .xorImm (.l 5) (.l 2) 0x2A5)] : List (Nat × Instr)),
    decodeTableWord 32 x.1 = some x.2 := by decide

theorem test_decode_majors_00_to_07_2 : ∀ x ∈ (
    [(0x06466203, .mul (.l 5) (.l 2) (.g 1)), (0x0E466203, .mulh (.l 5) (.l 2) (.g 1)),
     (0x16466203, .mulhu (.l 5) (.l 2) (.g 1)), (0x1E466203, .mulhsu (.l 5) (.l 2) (.g 1)),
     (0x26466203, .div (.l 5) (.l 2) (.g 1)), (0x2E466203, .divu (.l 5) (.l 2) (.g 1)),
     (0x36466203, .rem (.l 5) (.l 2) (.g 1)), (0x3E466203, .remu (.l 5) (.l 2) (.g 1)),
     (0x00066205, .clz (.l 5) (.l 2)), (0x08066205, .ctz (.l 5) (.l 2)), (0x10066205, .popc (.l 5) (.l 2)),
     (0x18066205, .brev (.l 5) (.l 2)), (0x20066205, .bswap (.l 5) (.l 2)), (0x28066205, .sxb (.l 5) (.l 2)),
     (0x30066205, .sxh (.l 5) (.l 2)), (0x38066205, .sxw (.l 5) (.l 2)), (0x46466205, .bfx (.l 5) (.l 2) (.g 1)),
     (0x4E466205, .bfxu (.l 5) (.l 2) (.g 1)), (0x56466205, .bfi (.l 5) (.l 2) (.g 1)), (0x00062207, .movk 2 (.l 2)),
     (0x08046207, .rdk (.l 5) 2), (0x10006207, .rdpw (.l 5)), (0x18060207, .wrpw (.l 2))] : List (Nat × Instr)),
    decodeTableWord 32 x.1 = some x.2 := by decide

theorem test_decode_majors_08_to_0f : ∀ x ∈ (
    [(0x0A866211, .sllImm (.l 5) (.l 2) 0x2A), (0x0A866213, .srlImm (.l 5) (.l 2) 0x2A),
     (0x0A866215, .sraImm (.l 5) (.l 2) 0x2A), (0x0A866217, .rorImm (.l 5) (.l 2) 0x2A),
     (0xA9466219, .mulImm (.l 5) (.l 2) 0x2A5), (0xA946621B, .minImm (.l 5) (.l 2) 0x2A5),
     (0xA946621D, .maxImm (.l 5) (.l 2) 0x2A5)] : List (Nat × Instr)),
    decodeTableWord 32 x.1 = some x.2 := by decide

theorem test_decode_majors_10_to_17 : ∀ x ∈ (
    [(0xA54A6221, .li (.l 5) 0x52A5), (0xA54A6223, .lis (.l 5) 0x52A5)] : List (Nat × Instr)),
    decodeTableWord 32 x.1 = some x.2 := by decide

theorem test_decode_majors_20_to_27 : ∀ x ∈ (
    [(0x6C8D1241, .cmp 1 2 (.l 2) (.g 1) .ltu), (0x6A8D1243, .cmpi 1 2 (.l 2) 0x15 .ltu),
     (0x3C8D1245, .fcmpD 1 2 (.l 2) (.g 1) .le), (0x3C8D1247, .fcmpS 1 2 (.l 2) (.g 1) .le),
     (0x3C8D1249, .fcmpH 1 2 (.l 2) (.g 1) .le), (0x3C8D124B, .fcmpBf 1 2 (.l 2) (.g 1) .le),
     (0x500D124D, .isap 1 2 (.l 2) .tcm), (0x9315124F, .plog 1 2 5 6 0x9)] : List (Nat × Instr)),
    decodeTableWord 32 x.1 = some x.2 := by decide

theorem test_decode_majors_28_to_2f : ∀ x ∈ (
    [(0xA52A5251, .b 0xA52A5), (0xA54A6253, .call (.l 5) 0x52A5), (0xA9460255, .bri (.l 2) 0x2A5),
     (0xA9466257, .callr (.l 5) (.l 2) 0x2A5), (0x00060259, .ret (.l 2))] : List (Nat × Instr)),
    decodeTableWord 32 x.1 = some x.2 := by decide

theorem test_decode_majors_30_to_37 : ∀ x ∈ (
    [(0xA54A6261, .create (.l 5) 0x52A5), (0xA54A3263, .fgo (.l 2) 0x52A5), (0x00006265, .falloc (.l 5)),
     (0x08066265, .fsync (.l 5) (.l 2)), (0x10060265, .frel (.l 2)), (0x18006265, .tix (.l 5)),
     (0x36460265, .fputD (.l 2) (.g 1) 2), (0x76460265, .fputG (.l 2) (.g 1) 6), (0x90066265, .fget (.l 5) (.l 2) 2),
     (0xA0060265, .fkill (.l 2)), (0xA0061265, .fkillTree (.l 2)), (0xA8066265, .fstat (.l 5) (.l 2)),
     (0xB0060265, .detach (.l 2)), (0xBE460265, .fplace (.l 2) (.g 1)), (0x00000267, .exit), (0x08000267, .brk),
     (0x10000267, .yield)] : List (Nat × Instr)),
    decodeTableWord 32 x.1 = some x.2 := by decide

theorem test_decode_majors_38_to_3f : ∀ x ∈ (
    [(0xA9726271, .ldBs (.l 5) (.g 1) 0x2A5), (0xA9726273, .ldBz (.l 5) (.g 1) 0x2A5),
     (0xA9726275, .ldHs (.l 5) (.g 1) 0x2A5), (0xA9726277, .ldHz (.l 5) (.g 1) 0x2A5),
     (0xA9726279, .ldWs (.l 5) (.g 1) 0x2A5), (0xA972627B, .ldWz (.l 5) (.g 1) 0x2A5),
     (0xA972627D, .ldD (.l 5) (.g 1) 0x2A5), (0xA972527F, .ldw 5 (.g 1) 0x2A5)] : List (Nat × Instr)),
    decodeTableWord 32 x.1 = some x.2 := by decide

theorem test_decode_majors_40_to_47 : ∀ x ∈ (
    [(0xA9731281, .stB (.s 1) (.g 1) 0x2A5), (0xA9731283, .stH (.s 1) (.g 1) 0x2A5),
     (0xA9731285, .stW (.s 1) (.g 1) 0x2A5), (0xA9731287, .stD (.s 1) (.g 1) 0x2A5),
     (0xA9725289, .stw 5 (.g 1) 0x2A5), (0xA972228B, .ldk 2 (.g 1) 0x2A5), (0x0646628D, .ldfe (.l 5) (.l 2) (.g 1)),
     (0x0E46628D, .ldff (.l 5) (.l 2) (.g 1)), (0x1646628D, .stfe (.l 5) (.l 2) (.g 1)),
     (0x1E46028D, .feinitE (.l 2) (.g 1)), (0x1E46128D, .feinitF (.l 2) (.g 1)), (0x2000028D, .fenceCore),
     (0x2800028D, .fenceCl), (0x3000028D, .fenceDev), (0x3800028D, .fenceSys)] : List (Nat × Instr)),
    decodeTableWord 32 x.1 = some x.2 := by decide

theorem test_decode_majors_48_to_4f_1 : ∀ x ∈ (
    [(0x86466291, .aadd (.l 5) (.l 2) (.g 1) .w), (0x8E466291, .aand (.l 5) (.l 2) (.g 1) .w),
     (0x96466291, .aor (.l 5) (.l 2) (.g 1) .w), (0x9E466291, .axor (.l 5) (.l 2) (.g 1) .w),
     (0xA6466291, .amin (.l 5) (.l 2) (.g 1) .w), (0xAE466291, .amax (.l 5) (.l 2) (.g 1) .w),
     (0xB6466291, .aminu (.l 5) (.l 2) (.g 1) .w), (0xBE466291, .amaxu (.l 5) (.l 2) (.g 1) .w),
     (0xC6466291, .axchg (.l 5) (.l 2) (.g 1) .w), (0xCE466291, .acas (.l 5) (.l 2) (.g 1) .w),
     (0xD6466291, .afadd (.l 5) (.l 2) (.g 1) .w), (0x86460293, .redAdd (.l 2) (.g 1) .w),
     (0x8E460293, .redAnd (.l 2) (.g 1) .w), (0x96460293, .redOr (.l 2) (.g 1) .w),
     (0x9E460293, .redXor (.l 2) (.g 1) .w), (0xA6460293, .redMin (.l 2) (.g 1) .w),
     (0xAE460293, .redMax (.l 2) (.g 1) .w), (0xB6460293, .redMinu (.l 2) (.g 1) .w),
     (0xBE460293, .redMaxu (.l 2) (.g 1) .w), (0xD6460293, .redfadd (.l 2) (.g 1) .w),
     (0x96466295, .await (.l 5) (.l 2) (.g 1) .ge .w), (0x000D1297, .sumon 1 2 (.l 2)),
     (0x06460299, .sumaddS (.l 2) (.g 1)), (0x0E460299, .sumaddBf (.l 2) (.g 1))] : List (Nat × Instr)),
    decodeTableWord 32 x.1 = some x.2 := by decide

theorem test_decode_majors_48_to_4f_2 : ∀ x ∈ (
    [(0x16460299, .sumaddH (.l 2) (.g 1)), (0x0006629B, .sumoff (.l 5) (.l 2))] : List (Nat × Instr)),
    decodeTableWord 32 x.1 = some x.2 := by decide

theorem test_decode_majors_18_to_1f : ∀ x ∈ (
    [(0x00066239, .cvtaCl (.l 5) (.l 2)), (0x00466239, .cvtaSp (.l 5) (.l 2))] : List (Nat × Instr)),
    decodeTableWord 32 x.1 = some x.2 := by decide

theorem test_decode_floating_point : ∀ x ∈ (
    [(0x064662A5, .fadd .h (.l 5) (.l 2) (.g 1)), (0x0E4662A5, .fsub .h (.l 5) (.l 2) (.g 1)),
     (0x164662A5, .fmul .h (.l 5) (.l 2) (.g 1)), (0x1E4662A5, .fdiv .h (.l 5) (.l 2) (.g 1)),
     (0x264662A5, .fmin .h (.l 5) (.l 2) (.g 1)), (0x2E4662A5, .fmax .h (.l 5) (.l 2) (.g 1)),
     (0x300662A5, .fsqrt .h (.l 5) (.l 2)), (0x380662A5, .fabs .h (.l 5) (.l 2)),
     (0x400662A5, .fneg .h (.l 5) (.l 2)), (0x4E4662A5, .fma .h (.l 5) (.l 2) (.g 1)),
     (0x500662A5, .fclass .h (.l 5) (.l 2)), (0x800662A5, .frcp .h (.l 5) (.l 2)),
     (0x880662A5, .frsq .h (.l 5) (.l 2)), (0x900662A5, .fexp2 .h (.l 5) (.l 2)),
     (0x980662A5, .flog2 .h (.l 5) (.l 2)), (0xA00662A5, .fsin .h (.l 5) (.l 2)),
     (0xA80662A5, .fcos .h (.l 5) (.l 2)), (0xB00662A5, .ftanh .h (.l 5) (.l 2))] : List (Nat × Instr)),
    decodeTableWord 32 x.1 = some x.2 := by decide

theorem test_decode_majors_50_to_57 : ∀ x ∈ (
    [(0xA84662A9, .cvt (.l 5) (.l 2) .rtz .d .h), (0x000062AD, .rdfp (.l 5)), (0x080602AD, .wrfp (.l 2)),
     (0x100002AD, .clrflg)] : List (Nat × Instr)),
    decodeTableWord 32 x.1 = some x.2 := by decide

theorem test_decode_majors_60_to_67_1 : ∀ x ∈ (
    [(0x016F52C1, .vadd 5 6 3 .bf), (0x036F52C1, .vsub 5 6 3 .bf), (0x056F52C1, .vmul 5 6 3 .bf),
     (0x076F52C1, .vfma 5 6 3 .bf), (0x096F52C1, .vmin 5 6 3 .bf), (0x0B6F52C1, .vmax 5 6 3 .bf),
     (0x0CAF52C1, .vadds 5 6 3 .n16), (0x0EAF52C1, .vsubs 5 6 3 .n16), (0x10AF52C1, .vand 5 6 3 .n16),
     (0x12AF52C1, .vor 5 6 3 .n16), (0x14AF52C1, .vxor 5 6 3 .n16), (0x16AF52C1, .vsll 5 6 3 .n16),
     (0x18AF52C1, .vsrl 5 6 3 .n16), (0x1AAF52C1, .vsra 5 6 3 .n16), (0x1D6F52C1, .vdiv 5 6 3 .bf),
     (0x1F6352C1, .vsqrt 5 6 .bf), (0x216352C1, .vabs 5 6 .bf), (0x236352C1, .vneg 5 6 .bf),
     (0x24AF52C1, .vmulh 5 6 3 .n16), (0x016F52C3, .vcmpEq 5 6 3 .bf), (0x036F52C3, .vcmpNe 5 6 3 .bf),
     (0x056F52C3, .vcmpLt 5 6 3 .bf), (0x076F52C3, .vcmpLe 5 6 3 .bf), (0x096F52C3, .vcmpUn 5 6 3 .bf)] : List (Nat × Instr)),
    decodeTableWord 32 x.1 = some x.2 := by decide

theorem test_decode_majors_60_to_67_2 : ∀ x ∈ (
    [(0x116F52C3, .vsel 5 6 3 .bf), (0x00AF52C5, .vperm 5 6 3 .n16), (0x02AF52C5, .vzipl 5 6 3 .n16),
     (0x04AF52C5, .vziph 5 6 3 .n16), (0x06AF52C5, .vunzipl 5 6 3 .n16), (0x08AF52C5, .vunziph 5 6 3 .n16),
     (0x016352C7, .vredadd 5 6 .bf), (0x036352C7, .vredmin 5 6 .bf), (0x056352C7, .vredmax 5 6 .bf),
     (0x06A352C7, .vredand 5 6 .n16), (0x08A352C7, .vredor 5 6 .n16), (0x0AA352C7, .vredxor 5 6 .n16),
     (0x016F52C9, .vscanAddInc 5 6 3 .bf), (0x036F52C9, .vscanAddExc 5 6 3 .bf),
     (0x056F52C9, .vscanMinInc 5 6 3 .bf), (0x076F52C9, .vscanMinExc 5 6 3 .bf),
     (0x096F52C9, .vscanMaxInc 5 6 3 .bf), (0x0B6F52C9, .vscanMaxExc 5 6 3 .bf),
     (0x93AF52CB, .vcvt 5 6 3 .e4 .rtz .s), (0x164C62CD, .vget (.l 5) 6 (.g 1) .w),
     (0x364652CD, .vput 5 (.l 2) (.g 1) .w), (0x500652CD, .vbcast 5 (.l 2) .w)] : List (Nat × Instr)),
    decodeTableWord 32 x.1 = some x.2 := by decide

theorem test_decode_majors_70_to_77 : ∀ x ∈ (
    [(0x000022E1, .scfg 2), (0x080422E1, .sbind 2 2), (0x100022E1, .sunbind 2), (0x180022E1, .ssync 2),
     (0x200062E1, .vown (.l 5)), (0x280002E1, .vdisown), (0x001C32E3, .vloop (.l 2) 14), (0x000602E9, .mfmt (.l 2)),
     (0x080002E9, .munf), (0x164612E9, .mma 1 (.l 2) (.g 1)), (0x180012E9, .mz 1),
     (0x264612E9, .mst 1 (.l 2) (.g 1)), (0x280062E9, .mwait (.l 5))] : List (Nat × Instr)),
    decodeTableWord 32 x.1 = some x.2 := by decide

theorem test_decode_majors_78_to_7f_1 : ∀ x ∈ (
    [(0x064662F1, .cpgIn 6 (.l 2) (.g 1)), (0x0646E2F1, .cpgOut 6 (.l 2) (.g 1)),
     (0x0E4662F1, .send 6 (.l 2) (.g 1)), (0x164662F1, .cpfarIn 6 (.l 2) (.g 1)),
     (0x1646E2F1, .cpfarOut 6 (.l 2) (.g 1)), (0x1E4662F1, .coll 6 (.l 2) (.g 1)), (0x014A02F3, .waitk 0xA5),
     (0x000602F5, .tagpub (.l 2)), (0x080662F5, .tagwait (.l 5) (.l 2)), (0x100662F5, .tagq (.l 5) (.l 2)),
     (0x1E4602F5, .retain (.l 2) (.g 1)), (0x200662F5, .take (.l 5) (.l 2)), (0x204602F5, .takeArm (.l 2)),
     (0x2A0062F5, .grid (.l 5) .seq), (0x2A4662F5, .gridParam (.l 5) (.l 2)), (0x018062F9, .sysr (.l 5) .trapVec),
     (0x018602FB, .sysw (.l 2) .trapVec), (0x058602FB, .syswTlbShoot (.l 2)), (0x088602FB, .syswCensusCtl (.l 2)),
     (0x01C602FB, .syswSeqState (.l 2)), (0x04C602FB, .syswSumStatus (.l 2)), (0x000002FD, .eret),
     (0x080002FD, .halt), (0x100002FD, .bkpt)] : List (Nat × Instr)),
    decodeTableWord 32 x.1 = some x.2 := by decide

theorem test_decode_majors_78_to_7f_2 : ∀ x ∈ (
    [(0x180602FD, .mark (.l 2)), (0x200062FD, .rdcyc (.l 5))] : List (Nat × Instr)),
    decodeTableWord 32 x.1 = some x.2 := by decide

theorem test_decode_compact : ∀ x ∈ (
    [(0x0382, .ord .rel .sys), (0x0004, .nop), (0x30C6, .mov (.l 2) (.l 5)), (0x3548, .movi 0x15 (.l 5)),
     (0xA94A, .trap 0x2A5)] : List (Nat × Instr)),
    decodeTableWord 16 x.1 = some x.2 := by decide

/-- A word of SYSW under a number of the frame window (R346, R348): imm10 0x100 + 3. -/
theorem test_decode_frame_window : decodeTableWord 32 0x40C600FB = some (.syswFrameWindow 3 (.l 2)) := by decide

/-- The halfwords and words that the spec decodes by hand (R46, R49, R61, R64). -/
theorem test_decode_by_hand : decodeTableWord 32 0x00C43009 = some (.addImm (.l 2) (.l 1) 3)
    ∧ decodeTableWord 32 0x0048207D = some (.ldD (.l 1) (.l 3) 1) ∧ decodeTableWord 16 0x0182 = some (.ord .rel .cl)
    ∧ decodeTableWord 16 0x1886 = some (.mov (.l 1) (.l 2)) ∧ decodeTableWord 32 0x48C82091 = some (.acas (.l 1) (.l 3) (.l 2) .d)
    ∧ decodeTableWord 32 0xD9C440A9 = some (.cvt (.l 3) (.l 1) .sat .s .e4) := by decide

/-! ## One thread at work -/

/-- The root thread of the machine that `State.seated1` loads: every register FULL and zero. -/
def thr : Thread := { Thread.blank 3 .root 0 2 1 0 0 0 0 with window := 0x444F, full := BitVec.allOnes 50 }

/-- An attempt of that thread, unguarded. -/
def pt : Port := ⟨3, Guard.always, none, false⟩

/-- The machine with that thread changed and about to attempt an instruction; its group has all of the scratchpad and TCM. -/
def one (f : Thread → Thread) : State :=
  { (State.reset.seated1.updGroup 2 fun g => { g with spadSize := 2097152, tcmSize := 131072 }).updThread 3 f with port := some pt }

/-- Integer, wide and extension registers: l1 and l2, w1 and w2, and the destination's old value in l0 and w0. -/
def regs (a b d : Word) (t : Thread) : Thread :=
  { t with ints := ((t.ints.set 0 d).set 1 a).set 2 b }

def wregs (a b d : Wide) (t : Thread) : Thread :=
  { t with wides := ((t.wides.set 0 d).set 1 a).set 2 b }

/-- What an instruction owes its destinations, its flags, and the state it leaves. -/
def owes (i : Instr) (f : Thread → Thread) : List (List (Operand × Wide) × FFlags) :=
  match exec i (one f) with
  | .next s => s.arrivals.map fun r => (r.writes, r.flags)
  | _ => []

/-- What an integer instruction owes l0, as a number. -/
def gives (i : Instr) (a b : Word) (d : Word := 0) : Option Nat :=
  match owes i (regs a b d) with
  | [([(.int (.l 0), v)], _)] => some v.toNat
  | _ => none

/-- The value and flags that a scalar floating-point instruction owes l0. -/
def givesF (i : Instr) (a b : Word) (f : Thread → Thread := id) : Option (Nat × FFlags) :=
  match owes i (fun t => f (regs a b 0 t)) with
  | [([(.int (.l 0), v)], fl)] => some (v.toNat, fl)
  | _ => none

/-- The lanes of `n` bits that a wide instruction owes w0. -/
def givesW (i : Instr) (n : Nat) (a b : Wide) (d : Wide := 0) : List Nat :=
  match owes i (wregs a b d) with
  | [([(.wide 0, v)], _)] => (List.range (256 / n)).map fun k => v.toNat / 2 ^ (n * k) % 2 ^ n
  | _ => []

/-- A wide value from lanes of `n` bits, lane 0 first. -/
def lanesOf (n : Nat) (xs : List Nat) : Wide := BitVec.ofNat 256 (xs.foldr (fun x acc => x + 2 ^ n * acc) 0)

/-- The state after an instruction. -/
def after (i : Instr) (f : Thread → Thread := id) : State :=
  match exec i (one f) with
  | .next s => s
  | _ => State.reset

/-! ## Values: integers (R55 to R63); the spec's ADDS and SUBSU examples among them -/

theorem test_values_alu :
    gives (.add (.l 0) (.l 1) (.l 2)) 0xFFFFFFFFFFFFFFFF 2 = some 1
    ∧ gives (.sub (.l 0) (.l 1) (.l 2)) 1 2 = some 0xFFFFFFFFFFFFFFFF
    ∧ gives (.andn (.l 0) (.l 1) (.l 2)) 0xFF 0x0F = some 0xF0
    ∧ gives (.orn (.l 0) (.l 1) (.l 2)) 0x1 0xFFFFFFFFFFFFFFF0 = some 0xF
    ∧ gives (.xnor (.l 0) (.l 1) (.l 2)) 0xFFFFFFFFFFFFFF00 0xFF = some 0
    ∧ gives (.sll (.l 0) (.l 1) (.l 2)) 3 65 = some 6
    ∧ gives (.srl (.l 0) (.l 1) (.l 2)) 0x8000000000000000 63 = some 1
    ∧ gives (.sra (.l 0) (.l 1) (.l 2)) 0x8000000000000000 63 = some 0xFFFFFFFFFFFFFFFF
    ∧ gives (.ror (.l 0) (.l 1) (.l 2)) 1 1 = some 0x8000000000000000
    ∧ gives (.min (.l 0) (.l 1) (.l 2)) 0xFFFFFFFFFFFFFFFF 1 = some 0xFFFFFFFFFFFFFFFF
    ∧ gives (.maxu (.l 0) (.l 1) (.l 2)) 0xFFFFFFFFFFFFFFFF 1 = some 0xFFFFFFFFFFFFFFFF
    ∧ gives (.minu (.l 0) (.l 1) (.l 2)) 0xFFFFFFFFFFFFFFFF 1 = some 1
    ∧ gives (.max (.l 0) (.l 1) (.l 2)) 0xFFFFFFFFFFFFFFFF 1 = some 1
    ∧ gives (.adds (.l 0) (.l 1) (.l 2)) 0x7FFFFFFFFFFFFFF0 0x20 = some 0x7FFFFFFFFFFFFFFF
    ∧ gives (.subs (.l 0) (.l 1) (.l 2)) 0x8000000000000000 1 = some 0x8000000000000000
    ∧ gives (.addsu (.l 0) (.l 1) (.l 2)) 0xFFFFFFFFFFFFFFFF 1 = some 0xFFFFFFFFFFFFFFFF
    ∧ gives (.subsu (.l 0) (.l 1) (.l 2)) 3 5 = some 0 := by decide +kernel

theorem test_values_immediate :
    gives (.addImm (.l 0) (.l 1) 0x3FF) 5 0 = some 4
    ∧ gives (.andImm (.l 0) (.l 1) 0x200) 0xFFFFFFFFFFFFFFFF 0 = some 0xFFFFFFFFFFFFFE00
    ∧ gives (.orImm (.l 0) (.l 1) 0x0F) 0xF0 0 = some 0xFF ∧ gives (.xorImm (.l 0) (.l 1) 0x3FF) 1 0 = some 0xFFFFFFFFFFFFFFFE
    ∧ gives (.sllImm (.l 0) (.l 1) 63) 1 0 = some 0x8000000000000000 ∧ gives (.srlImm (.l 0) (.l 1) 4) 0xF5 0 = some 0xF
    ∧ gives (.sraImm (.l 0) (.l 1) 4) 0x8000000000000000 0 = some 0xF800000000000000
    ∧ gives (.rorImm (.l 0) (.l 1) 4) 0xF 0 = some 0xF000000000000000
    ∧ gives (.mulImm (.l 0) (.l 1) 0x3FE) 7 0 = some 0xFFFFFFFFFFFFFFF2
    ∧ gives (.minImm (.l 0) (.l 1) 0x3FF) 5 0 = some 0xFFFFFFFFFFFFFFFF ∧ gives (.maxImm (.l 0) (.l 1) 0x3FF) 5 0 = some 5
    ∧ gives (.li (.l 0) 0x7FFF) 0 0 = some 0xFFFFFFFFFFFFFFFF ∧ gives (.lis (.l 0) 0x7FFF) 0 0 3 = some 0x1FFFF
    ∧ gives (.mov (.l 1) (.l 0)) 7 0 = some 7 ∧ gives (.movi 0x10 (.l 0)) 0 0 = some 0xFFFFFFFFFFFFFFF0 := by decide +kernel

theorem test_values_multiply_divide :
    gives (.mul (.l 0) (.l 1) (.l 2)) 0x100000000 0x100000001 = some 0x100000000
    ∧ gives (.mulh (.l 0) (.l 1) (.l 2)) 0xFFFFFFFFFFFFFFFF 1 = some 0xFFFFFFFFFFFFFFFF
    ∧ gives (.mulhu (.l 0) (.l 1) (.l 2)) 0xFFFFFFFFFFFFFFFF 2 = some 1
    ∧ gives (.mulhsu (.l 0) (.l 1) (.l 2)) 0xFFFFFFFFFFFFFFFF 0xFFFFFFFFFFFFFFFF = some 0xFFFFFFFFFFFFFFFF
    ∧ gives (.div (.l 0) (.l 1) (.l 2)) 0xFFFFFFFFFFFFFFF9 2 = some 0xFFFFFFFFFFFFFFFD
    ∧ gives (.div (.l 0) (.l 1) (.l 2)) 5 0 = some 0xFFFFFFFFFFFFFFFF
    ∧ gives (.rem (.l 0) (.l 1) (.l 2)) 0xFFFFFFFFFFFFFFF9 2 = some 0xFFFFFFFFFFFFFFFF
    ∧ gives (.rem (.l 0) (.l 1) (.l 2)) 0x8000000000000000 0xFFFFFFFFFFFFFFFF = some 0
    ∧ gives (.divu (.l 0) (.l 1) (.l 2)) 7 2 = some 3 ∧ gives (.remu (.l 0) (.l 1) (.l 2)) 7 0 = some 7 := by decide +kernel

theorem test_values_bits :
    gives (.clz (.l 0) (.l 1)) 1 0 = some 63 ∧ gives (.ctz (.l 0) (.l 1)) 0 0 = some 64 ∧ gives (.popc (.l 0) (.l 1)) 0xFF00F 0 = some 12
    ∧ gives (.brev (.l 0) (.l 1)) 1 0 = some 0x8000000000000000 ∧ gives (.bswap (.l 0) (.l 1)) 0x0102030405060708 0 = some 0x0807060504030201
    ∧ gives (.sxb (.l 0) (.l 1)) 0x180 0 = some 0xFFFFFFFFFFFFFF80 ∧ gives (.sxh (.l 0) (.l 1)) 0x18000 0 = some 0xFFFFFFFFFFFF8000
    ∧ gives (.sxw (.l 0) (.l 1)) 0x180000000 0 = some 0xFFFFFFFF80000000
    ∧ gives (.bfx (.l 0) (.l 1) (.l 2)) 0xF0 0x0404 = some 0xFFFFFFFFFFFFFFFF ∧ gives (.bfxu (.l 0) (.l 1) (.l 2)) 0xABCD 0x0804 = some 0xBC
    ∧ gives (.bfi (.l 0) (.l 1) (.l 2)) 0x5 0x0404 0xFFF = some 0xF5F := by decide +kernel

/-- The predicates that a compare owes p1 and p2. -/
def conds (i : Instr) (a b : Word) (f : Thread → Thread := id) : Option (Nat × Nat) :=
  match owes i (fun t => f (regs a b 0 t)) with
  | [([(.pred 1, x), (.pred 2, y)], _)] => some (x.toNat, y.toNat)
  | _ => none

theorem test_values_compare :
    conds (.cmp 1 2 (.l 1) (.l 2) .lt) 0xFFFFFFFFFFFFFFFF 0 = some (1, 0) ∧ conds (.cmp 1 2 (.l 1) (.l 2) .ltu) 0xFFFFFFFFFFFFFFFF 0 = some (0, 1)
    ∧ conds (.cmp 1 2 (.l 1) (.l 2) .tst) 6 4 = some (1, 0) ∧ conds (.cmpi 1 2 (.l 1) 0x1F .eq) 0xFFFFFFFFFFFFFFFF 0 = some (1, 0)
    ∧ conds (.plog 1 2 3 0 0x2) 0 0 = some (1, 0) := by decide +kernel

/-! ## Values: floating point (R130 to R136), from IEEE 754 and the tables of chapter 6 -/

theorem test_values_scalar_float :
    givesF (.fadd .d (.l 0) (.l 1) (.l 2)) 0x3FF0000000000000 0x4000000000000000 = some (0x4008000000000000, 0)
    ∧ givesF (.fsub .s (.l 0) (.l 1) (.l 2)) 0x3F800000 0x3F800000 = some (0, 0)
    ∧ givesF (.fmul .h (.l 0) (.l 1) (.l 2)) 0x7BFF 0x4000 = some (0x7C00, fOverflow ||| fInexact)
    ∧ givesF (.fdiv .bf (.l 0) (.l 1) (.l 2)) 0x3F80 0x8000 = some (0xFF80, fDivZero)
    ∧ givesF (.fsqrt .d (.l 0) (.l 1)) 0x4010000000000000 0 = some (0x4000000000000000, 0)
    ∧ givesF (.fmin .s (.l 0) (.l 1) (.l 2)) 0x7FC00000 0x3F800000 = some (0x3F800000, 0)
    ∧ givesF (.fmax .s (.l 0) (.l 1) (.l 2)) 0x80000000 0 = some (0, 0)
    ∧ givesF (.fabs .h (.l 0) (.l 1)) 0xFFFFBC00 0 = some (0x3C00, 0) ∧ givesF (.fneg .bf (.l 0) (.l 1)) 0x3F80 0 = some (0xBF80, 0)
    ∧ givesF (.fma .d (.l 0) (.l 1) (.l 2)) 0x4000000000000000 0x4008000000000000 = some (0x4018000000000000, 0)
    ∧ givesF (.fclass .s (.l 0) (.l 1)) 0x00000001 0 = some (0x20, 0) := by decide +kernel

/-- FP32 470 and -470 to E4M3 under the control word's modes and `.sat`, 0.001, and the FP16 example of R135. -/
theorem test_values_convert :
    givesF (.cvt (.l 0) (.l 1) .dyn .s .e4) 0x43EB0000 0 = some (0x7F, fOverflow ||| fInexact)
    ∧ givesF (.cvt (.l 0) (.l 1) .sat .s .e4) 0x43EB0000 0 = some (0x7E, fOverflow ||| fInexact)
    ∧ givesF (.cvt (.l 0) (.l 1) .dyn .s .e4) 0xC3EB0000 0 (fun t => { t with rm := 2 }) = some (0xFE, fInexact)
    ∧ givesF (.cvt (.l 0) (.l 1) .dyn .s .e4) 0x3A83126F 0 = some (0x01, fUnderflow ||| fInexact)
    ∧ givesF (.cvt (.l 0) (.l 1) .rtz .s .e4) 0x3A83126F 0 = some (0x00, fUnderflow ||| fInexact)
    ∧ givesF (.cvt (.l 0) (.l 1) .rtz .h .i32) 0xC6CA 0 = some (0xFFFFFFFFFFFFFFFA, fInexact) := by decide +kernel

theorem test_values_float_compare :
    conds (.fcmpS 1 2 (.l 1) (.l 2) .lt) 0x7FC00000 0 = some (0, 1) ∧ conds (.fcmpD 1 2 (.l 1) (.l 2) .eq) 0x8000000000000000 0 = some (1, 0)
    ∧ conds (.fcmpH 1 2 (.l 1) (.l 2) .un) 0x7E00 0 = some (1, 0) ∧ conds (.fcmpBf 1 2 (.l 1) (.l 2) .ge) 0x3F80 0xBF80 = some (1, 0) := by decide +kernel

theorem test_values_float_control :
    gives (.rdfp (.l 0)) 0 0 = some 0 ∧ ((after (.wrfp (.l 1)) (regs 0x3F7 0 0)).thread? 3).map (fun t => (t.flags, t.ftz, t.daz, t.rm)) = some (0x1F, true, false, 0)
    ∧ ((after .clrflg (fun t => { t with flags := 0x1F, rm := 3 })).thread? 3).map (fun t => (t.flags, t.rm)) = some (0, 3) := by decide +kernel

/-! ## Values: wide registers (R137 to R143) -/

/-- Lanes 0 to 7 with the values 0 to 7, and 8 to 15. -/
def iota : Wide := lanesOf 32 [0, 1, 2, 3, 4, 5, 6, 7]
def iota8 : Wide := lanesOf 32 [8, 9, 10, 11, 12, 13, 14, 15]

theorem test_values_wide_integer :
    givesW (.vadd 0 1 2 .i32) 32 iota (lanesOf 32 (List.replicate 8 0xFFFFFFFF)) = [0xFFFFFFFF, 0, 1, 2, 3, 4, 5, 6]
    ∧ givesW (.vsub 0 1 2 .n32) 32 iota (lanesOf 32 (List.replicate 8 1)) = [0xFFFFFFFF, 0, 1, 2, 3, 4, 5, 6]
    ∧ givesW (.vmul 0 1 2 .i32) 32 iota iota = [0, 1, 4, 9, 16, 25, 36, 49]
    ∧ givesW (.vfma 0 1 2 .i32) 32 iota iota iota = [0, 2, 6, 12, 20, 30, 42, 56]
    ∧ (givesW (.vadds 0 1 2 .i8) 8 0x7F 0x01).head? = some 0x7F ∧ (givesW (.vsubs 0 1 2 .n8) 8 0x03 0x05).head? = some 0
    ∧ (givesW (.vmulh 0 1 2 .i8) 8 0x80 0x80).head? = some 0x40 ∧ (givesW (.vsra 0 1 2 .i8) 8 0x80 0x09).head? = some 0xC0
    ∧ (givesW (.vsll 0 1 2 .n16) 16 1 0x11).head? = some 2 ∧ (givesW (.vsrl 0 1 2 .i8) 8 0x80 7).head? = some 1
    ∧ (givesW (.vdiv 0 1 2 .i8) 8 0x80 0xFF).head? = some 0x80 ∧ (givesW (.vdiv 0 1 2 .n8) 8 5 0).head? = some 0xFF
    ∧ (givesW (.vabs 0 1 .i8) 8 0x80 0).head? = some 0x80 ∧ (givesW (.vneg 0 1 .i8) 8 1 0).head? = some 0xFF
    ∧ (givesW (.vmin 0 1 2 .i8) 8 0xFF 1).head? = some 0xFF ∧ (givesW (.vmax 0 1 2 .n8) 8 0xFF 1).head? = some 0xFF
    ∧ givesW (.vand 0 1 2 .n64) 64 0xFF 0x0F = [0x0F, 0, 0, 0] ∧ givesW (.vxor 0 1 2 .n64) 64 0xFF 0x0F = [0xF0, 0, 0, 0] := by decide +kernel

theorem test_values_wide_float :
    givesW (.vadd 0 1 2 .d) 64 (lanesOf 64 [0x3FF0000000000000, 0, 0, 0]) (lanesOf 64 [0x3FF0000000000000, 0, 0, 0])
      = [0x4000000000000000, 0, 0, 0]
    ∧ (givesW (.vfma 0 1 2 .s) 32 0x40000000 0x40400000 0x3F800000).head? = some 0x40E00000
    ∧ (givesW (.vsqrt 0 1 .s) 32 0x40800000 0).head? = some 0x40000000
    ∧ (givesW (.vcmpLt 0 1 2 .s) 32 0 0x3F800000).head? = some 0xFFFFFFFF
    ∧ (givesW (.vcmpUn 0 1 2 .h) 16 0x7E00 0).head? = some 0xFFFF ∧ (givesW (.vcmpEq 0 1 2 .i8) 8 3 3).head? = some 0xFF
    ∧ (givesW (.vcmpNe 0 1 2 .bf) 16 0x8000 0).head? = some 0 ∧ (givesW (.vcmpLe 0 1 2 .n8) 8 0xFF 1).head? = some 0
    ∧ givesW (.vsel 0 1 2 .n64) 64 5 6 (lanesOf 64 [1, 0, 0, 0]) = [5, 0, 0, 0] := by decide +kernel

theorem test_values_shuffle :
    givesW (.vperm 0 1 2 .n32) 32 iota (lanesOf 32 [7, 8, 1, 0, 0, 0, 0, 2]) = [7, 0, 1, 0, 0, 0, 0, 2]
    ∧ givesW (.vzipl 0 1 2 .n32) 32 iota iota8 = [0, 8, 1, 9, 2, 10, 3, 11]
    ∧ givesW (.vziph 0 1 2 .n32) 32 iota iota8 = [4, 12, 5, 13, 6, 14, 7, 15]
    ∧ givesW (.vunzipl 0 1 2 .n32) 32 iota iota8 = [0, 2, 4, 6, 8, 10, 12, 14]
    ∧ givesW (.vunziph 0 1 2 .n32) 32 iota iota8 = [1, 3, 5, 7, 9, 11, 13, 15] := by decide +kernel

theorem test_values_reduce_scan :
    givesW (.vredadd 0 1 .i32) 32 iota 0 = [28, 0, 0, 0, 0, 0, 0, 0] ∧ givesW (.vredmax 0 1 .i32) 32 iota 0 = [7, 0, 0, 0, 0, 0, 0, 0]
    ∧ (givesW (.vredmin 0 1 .i8) 8 0xFF 0).head? = some 0xFF ∧ (givesW (.vredor 0 1 .n32) 32 iota 0).head? = some 7
    ∧ (givesW (.vredand 0 1 .n32) 32 iota 0).head? = some 0 ∧ (givesW (.vredxor 0 1 .n32) 32 iota 0).head? = some 0
    ∧ givesW (.vscanAddInc 0 1 2 .i32) 32 iota 0 = [0, 1, 3, 6, 10, 15, 21, 28]
    ∧ givesW (.vscanAddExc 0 1 2 .i32) 32 iota (lanesOf 32 [0, 0, 0, 1, 0, 0, 0, 0]) = [0, 0, 1, 0, 3, 7, 12, 18]
    ∧ givesW (.vscanMaxInc 0 1 2 .i32) 32 (lanesOf 32 [3, 1, 4, 1, 5, 0, 0, 0]) 0 = [3, 3, 4, 4, 5, 5, 5, 5]
    ∧ (givesW (.vscanMinExc 0 1 2 .i8) 8 5 0).take 2 = [0x7F, 5] ∧ (givesW (.vscanMaxExc 0 1 2 .i8) 8 5 0).take 2 = [0x80, 5]
    ∧ givesW (.vscanMinInc 0 1 2 .n32) 32 (lanesOf 32 [3, 1, 4, 1, 5, 0, 0, 0]) 0 = [3, 1, 1, 1, 1, 0, 0, 0] := by decide +kernel

theorem test_values_lane_moves :
    owes (.vget (.l 0) 1 (.l 1) .w) (fun t => wregs iota 0 0 (regs 11 0 0 t)) = [([(.int (.l 0), 3)], 0)]
    ∧ owes (.vput 0 (.l 1) (.l 2) .w) (fun t => wregs iota 0 iota (regs 0x100000005 1 0 t))
        = [([(.wide 0, lanesOf 32 [0, 5, 2, 3, 4, 5, 6, 7])], 0)]
    ∧ owes (.vbcast 0 (.l 1) .d) (regs 9 0 0) = [([(.wide 0, lanesOf 64 [9, 9, 9, 9])], 0)] := by decide +kernel

/-- FP16 1.0 in lane 8 widens to FP32 lane 0 under part 1; FP32 470 narrows to E4M3 lane 16 under part 2 (R142). -/
theorem test_values_wide_convert :
    givesW (.vcvt 0 1 1 .s .dyn .h) 32 (lanesOf 16 [0, 0, 0, 0, 0, 0, 0, 0, 0x3C00]) 0 = [0x3F800000, 0, 0, 0, 0, 0, 0, 0]
    ∧ ((givesW (.vcvt 0 1 2 .e4 .sat .s) 8 0x43EB0000 0 (BitVec.allOnes 256)).drop 15).take 10
        = [0xFF, 0x7E, 0, 0, 0, 0, 0, 0, 0, 0xFF] := by decide +kernel

/-! ## For each statement with hypotheses, a state and operands that meet them -/

/-- The thread of `one f` as it stands there. -/
def oneThr (f : Thread → Thread) : Thread := f thr

theorem test_hyp_IntegerAluResult :
    (∀ i ∈ [Instr.add .zero (.l 1) (.l 2), .sub (.l 14) (.l 1) (.l 2), .and (.s 0) (.d 3) (.g 3), .or (.l 0) (.l 1) (.l 2),
        .xor (.l 0) (.l 1) (.l 2), .andn (.l 0) (.l 1) (.l 2), .orn (.l 0) (.l 1) (.l 2), .xnor (.l 0) (.l 1) (.l 2),
        .sll (.l 0) (.l 1) (.l 2), .srl (.l 0) (.l 1) (.l 2), .sra (.l 0) (.l 1) (.l 2), .ror (.l 0) (.l 1) (.l 2),
        .min (.l 0) (.l 1) (.l 2), .max (.l 0) (.l 1) (.l 2), .minu (.l 0) (.l 1) (.l 2), .maxu (.l 0) (.l 1) (.l 2),
        .adds (.l 0) (.l 1) (.l 2), .subs (.l 0) (.l 1) (.l 2), .addsu (.l 0) (.l 1) (.l 2), .subsu (.l 0) (.l 1) (.l 2)],
      Issues (one id) thr pt i ∧ (table55 i).isSome)
    ∧ ∀ i ∈ [Instr.addImm .zero (.l 1) 0x3FF, .andImm (.l 0) (.l 1) 1, .orImm (.l 0) (.l 1) 1, .xorImm (.l 0) (.l 1) 1,
        .sllImm (.l 0) (.l 1) 63, .srlImm (.l 0) (.l 1) 0, .sraImm (.l 0) (.l 1) 1, .rorImm (.l 0) (.l 1) 1,
        .mulImm (.l 0) (.l 1) 1, .minImm (.l 0) (.l 1) 1, .maxImm (.l 0) (.l 1) 1],
      Issues (one id) thr pt i ∧ (table56 i).isSome := by decide +kernel

theorem test_hyp_ConstantsAndMoves :
    ∀ i ∈ [Instr.li .zero 0x4000, .lis (.l 0) 0x7FFF, .mov (.d 0) (.l 14), .movi 0x10 (.s 3), .rdk (.l 0) 3, .movk 0 (.g 3),
        .tix (.l 0), .rdpw (.l 0), .wrpw (.l 1), .nop], Issues (one id) thr pt i := by decide +kernel

theorem test_hyp_MultiplyDivideAndBitFieldResult :
    (∀ i ∈ [Instr.mul (.l 0) (.l 1) (.l 2), .mulh (.l 0) (.l 1) (.l 2), .mulhu (.l 0) (.l 1) (.l 2), .mulhsu (.l 0) (.l 1) (.l 2),
        .div (.l 0) (.l 1) .zero, .divu (.l 0) (.l 1) (.l 2), .rem (.l 0) (.l 1) (.l 2), .remu .zero (.l 1) (.l 2)],
      Issues (one (regs 0x8000000000000000 0xFFFFFFFFFFFFFFFF 0)) (oneThr (regs 0x8000000000000000 0xFFFFFFFFFFFFFFFF 0)) pt i
        ∧ (says58 i).isSome)
    ∧ ∀ i ∈ [Instr.clz (.l 0) .zero, .ctz (.l 0) (.l 1), .popc (.l 0) (.l 1), .brev (.l 0) (.l 1), .bswap (.l 0) (.l 1),
        .sxb (.l 0) (.l 1), .sxh (.l 0) (.l 1), .sxw (.l 0) (.l 1), .bfx (.l 0) (.l 1) (.l 2), .bfxu (.l 0) (.l 1) (.l 2),
        .bfi (.l 0) (.l 1) (.l 2)],
      Issues (one (regs 1 0x403F 0)) (oneThr (regs 1 0x403F 0)) pt i ∧ (says59 i).isSome := by decide +kernel

theorem test_hyp_ComparesAndPredicates :
    (∀ k ∈ [Cond.eq, .ne, .lt, .ge, .le, .gt, .ltu, .geu, .leu, .gtu, .tst, .tstz],
      Issues (one id) thr pt (.cmp 0 7 (.l 1) (.l 2) k) ∧ Issues (one id) thr pt (.cmpi 1 0 (.l 1) 0x10 k))
    ∧ Issues (one id) thr pt (.plog 0 0 1 0 0x9) := by and_intros <;> decide +kernel

theorem test_hyp_ControlTransfer :
    Issues (one id) thr pt (.b 0x80000) ∧ Issues (one id) thr pt (.bri (.l 1) 2) ∧ thr.pc < thr.int (.l 1) + 2 * (2 : BitVec 10).signExtend 64
    ∧ Issues (one id) thr pt (.bri (.l 1) 0) ∧ ¬ thr.pc < thr.int (.l 1) + 2 * (0 : BitVec 10).signExtend 64
    ∧ Issues (one id) thr pt (.call .zero 0x4000) ∧ Issues (one id) thr pt (.callr (.l 14) (.l 1) 0x200)
    ∧ Issues (one id) thr pt (.ret (.g 0)) := by and_intros <;> decide +kernel

/-- A slot body that is legal in FP64, and the three other formats. -/
theorem test_hyp_ScalarFloatResult :
    ∀ f ∈ [FFmt.d, .s, .h, .bf], ∀ i ∈ [Instr.fadd f .zero (.l 1) (.l 2), .fsub f (.l 0) (.l 1) (.l 2), .fmul f (.l 0) (.l 1) (.l 2),
        .fdiv f (.l 0) (.l 1) (.l 2), .fmin f (.l 0) (.l 1) (.l 2), .fmax f (.l 0) (.l 1) (.l 2), .fsqrt f (.l 0) (.l 1),
        .fabs f (.l 0) (.l 1), .fneg f (.l 0) (.l 1), .fma f (.l 0) (.l 1) (.l 2), .frcp .s (.l 0) (.l 1), .frsq .h (.l 0) (.l 1),
        .fexp2 .bf (.l 0) (.l 1), .flog2 .s (.l 0) (.l 1), .fsin .s (.l 0) (.l 1), .fcos .h (.l 0) (.l 1), .ftanh .bf (.l 0) (.l 1)],
      Issues (one id) thr pt i ∧ (table130 thr i).isSome := by decide +kernel

theorem test_hyp_FclassMask : ∀ f ∈ [FFmt.d, .s, .h, .bf], Issues (one id) thr pt (.fclass f .zero (.l 1)) := by decide +kernel

theorem test_hyp_FloatCompare :
    ∀ k ∈ [FCond.eq, .ne, .lt, .le, .gt, .ge, .un, .ord], ∀ i ∈ [Instr.fcmpD 1 2 (.l 1) (.l 2) k, .fcmpS 0 2 (.l 1) (.l 2) k,
        .fcmpH 1 0 (.l 1) (.l 2) k, .fcmpBf 0 0 (.l 1) (.l 2) k],
      Issues (one (regs 0x7FC07E00 0 0)) (oneThr (regs 0x7FC07E00 0 0)) pt i ∧ (table134 i).isSome := by decide +kernel

theorem test_hyp_ConversionAndFloatControl :
    Issues (one id) thr pt (.cvt (.l 0) (.l 1) .sr .d .s) ∧ Issues (one id) thr pt (.cvt .zero (.l 1) .rtz .h .i32)
    ∧ Issues (one id) thr pt (.rdfp (.l 0)) ∧ Issues (one (regs 0x3F7 0 0)) (oneThr (regs 0x3F7 0 0)) pt (.wrfp (.l 1))
    ∧ Issues (one id) thr pt .clrflg := by and_intros <;> decide +kernel

/-- The largest finite value of each format with a sign, and a NaN of each that has one. -/
theorem test_hyp_RoundingAndNanResults :
    (∀ x ∈ [(Fmt.d, 0x7FEFFFFFFFFFFFFF), (.s, 0x7F7FFFFF), (.h, 0x7BFF), (.bf, 0x7F7F), (.e5, 0x7B), (.e4, 0x7E), (.e2, 0x7)],
      x.2 < 2 ^ x.1.width ∧ FEnv.plain.ftz = false ∧ ∃ r : Bool × Nat × Int, unpack x.1 x.2 = .fin r.1 r.2.1 r.2.2)
    ∧ ∀ x ∈ [(Fmt.d, 0x7FF0000000000001), (.s, 0x7F800001), (.h, 0xFFFF), (.bf, 0x7FC0), (.e5, 0x7D), (.e4, 0xFF)],
        isNaN x.1 (daz x.1 FEnv.plain x.2) = true := by
  refine ⟨fun x hx => ?_, by decide +kernel⟩
  simp only [List.mem_cons, List.not_mem_nil, or_false] at hx
  rcases hx with rfl | rfl | rfl | rfl | rfl | rfl | rfl <;> exact ⟨by decide, rfl, ⟨(_, _, _), rfl⟩⟩

/-- Every lane function, with an operand that is also the destination. -/
theorem test_hyp_WideLaneResult :
    ∀ i ∈ [Instr.vadd 7 7 7 .bf, .vsub 0 1 2 .d, .vmul 0 1 2 .i64, .vfma 0 1 2 .s, .vmin 0 1 2 .n8, .vmax 0 1 2 .h, .vadds 0 1 2 .i8,
        .vsubs 0 1 2 .n64, .vand 0 1 2 .i8, .vor 0 1 2 .n64, .vxor 0 1 2 .i16, .vsll 0 1 2 .i32, .vsrl 0 1 2 .n32, .vsra 0 1 2 .i64,
        .vdiv 0 1 2 .i8, .vsqrt 0 1 .d, .vabs 0 1 .bf, .vneg 0 1 .n16, .vmulh 0 1 2 .i64, .vcmpEq 0 1 2 .s, .vcmpNe 0 1 2 .i8,
        .vcmpLt 0 1 2 .n64, .vcmpLe 0 1 2 .h, .vcmpUn 0 1 2 .bf, .vsel 0 1 2 .d],
      Issues (one id) thr pt i ∧ NoStream (one id) thr i ∧ (table137 thr.fenv i).isSome := by decide +kernel

theorem test_hyp_ShuffleLanes :
    ∀ f ∈ [Fmt.i8, .i64, .n8, .n64], ∀ i ∈ [Instr.vperm 0 1 2 f, .vzipl 0 1 2 f, .vziph 0 1 2 f, .vunzipl 0 1 2 f, .vunziph 7 7 7 f],
      Issues (one id) thr pt i ∧ NoStream (one id) thr i ∧ (table139 i).isSome := by decide +kernel

theorem test_hyp_ReductionAndScanLanes :
    (∀ i ∈ [Instr.vredadd 0 1 .s, .vredmin 0 1 .i8, .vredmax 7 7 .d, .vredand 0 1 .n8, .vredor 0 1 .i64, .vredxor 0 1 .n16],
      Issues (one id) thr pt i ∧ NoStream (one id) thr i ∧ (table140 thr.fenv i).isSome)
    ∧ ∀ i ∈ [Instr.vscanAddInc 0 1 2 .bf, .vscanMinInc 0 1 2 .i8, .vscanMaxInc 0 1 2 .d, .vscanAddExc 0 1 2 .n64,
        .vscanMinExc 0 1 2 .h, .vscanMaxExc 7 7 7 .i16],
      Issues (one id) thr pt i ∧ NoStream (one id) thr i ∧ (table141 thr.fenv i).isSome := by and_intros <;> decide +kernel

/-- Lane 0 and the last lane, and the narrowest and widest ratios of VCVT. -/
theorem test_hyp_LaneMovesAndWideConversion :
    ∀ i ∈ [Instr.vget (.l 0) 1 (.l 2) .b, .vget .zero 7 .zero .d, .vput 0 (.l 1) (.l 2) .h, .vput 7 .zero .zero .w, .vbcast 0 (.l 1) .b,
        .vbcast 7 (.l 1) .d, .vcvt 0 1 7 .i8 .dyn .d, .vcvt 0 1 1 .s .dyn .h, .vcvt 0 1 2 .e4 .sr .s, .vcvt 0 1 0 .x8 .rtz .s],
      Issues (one (regs 0 31 0)) (oneThr (regs 0 31 0)) pt i ∧ NoStream (one (regs 0 31 0)) (oneThr (regs 0 31 0)) i := by decide +kernel

/-! ### Accesses (R67, R201 to R231) -/

/-- An access of the thread, on its way. -/
def acc (id : Nat) (l : Loc) (n : Nat) (op : AccOp) (red : Bool := false) : Access :=
  { id := id, uid := some 3, fam := none, group := 2, ctx := 0, phys := 0, lcl := 0, core := 0, order := none, scope := .dev,
    blocking := true, red := red, loc := l, size := n, op := op, phase := .sent, agedAt := none, passedBy := 0, resent := false,
    granted := false, queue := 0, cancelled := false, push := none, peer := none, handle := 0, stamp := Stamp.zero }

/-- The machine with these accesses and this memory. -/
def withAccs (as : List Access) (m : List Host.Cell := []) : State :=
  { one id with accs := as, mem := m, fresh := 100, port := none }

/-- Core 0 of the machine changed, and owned by the thread. -/
def owned (f : CoreSt → CoreSt) (g : Thread → Thread := id) : State :=
  (one g).updCore 0 0 fun k => f { k with owner := some 3 }

/-- A unit that streams in from 0xE200_0000_0000_0000, bound to w0, with one element fetched. -/
def inStream : Stream := { Stream.fresh with cfg := some (0xE200000000000000, 4, 0, 0x20), bound := some 0, fifo := [5] }

/-- A unit that streams 4 elements out to 0xE200_0000_0000_0000, bound to w1, and the machine with it after some pushes. -/
def outCfg : Word × Word × Word × Word := (0xE200000000000000, 0x0001000001000004, 0x20, 0x100000000)
def outStream (n : Nat) : Stream := { Stream.fresh with cfg := some outCfg, bound := some 1, pos := n }
def outBound (n : Nat) : State := owned fun k => { k with streams := k.streams.set 2 (outStream n) }

theorem test_hyp_StreamOperandsAtIssue :
    NoStream (one id) thr (.vadd 0 1 2 .s)
    ∧ widesOf ((owned fun k => { k with streams := k.streams.set 3 inStream }).srcsOf thr (.vabs 1 0 .s)) = [0]
    ∧ (owned fun k => { k with streams := k.streams.set 3 inStream }).binding thr 0 = .input 3 inStream
    ∧ inStream.fifo = 5 :: []
    ∧ (∀ x ∈ widesOf (regsOf (.vabs 1 0 .s)).dsts,
        (owned fun k => { k with streams := k.streams.set 3 inStream }).binding thr x = .plain ∧ x ≠ 0)
    ∧ (∀ n ∈ [3, 4], widesOf ((outBound n).srcsOf thr (.vabs 1 0 .s)) = [0] ∧ (outBound n).binding thr 0 = .plain
        ∧ (outBound n).binding thr 1 = .output 2 (outStream n))
    ∧ widesOf (regsOf (.vabs 1 0 .s)).dsts = [1] ∧ streamTotal outCfg = 4
    ∧ ((outBound 3).resolve thr.issuer .plain (streamAddr outCfg 3) 32 true false false).1 = .ok (.spad 0 96) := by
  and_intros <;> decide +kernel

/-- A scratchpad address, which resolves, and a misaligned one, which does not, for every request. -/
theorem test_hyp_AccessIssues :
    (∀ i ∈ [Instr.ldBs (.l 0) (.l 1) 0x1FF, .ldBz (.l 0) (.l 1) 0, .ldHs (.l 0) (.l 1) 0, .ldHz .zero (.l 1) 0, .ldWs (.l 0) (.l 1) 0,
        .ldWz (.l 0) (.l 1) 0, .ldD (.s 0) (.l 1) 0, .ldw 7 (.l 1) 0, .ldk 3 (.l 1) 0, .stB (.l 0) (.l 1) 0, .stH (.l 0) (.l 1) 0,
        .stW (.l 0) (.l 1) 0, .stD .zero (.l 1) 0, .stw 0 (.l 1) 0, .ldfe (.l 0) (.l 1) .zero, .ldff (.l 0) (.l 1) .zero,
        .stfe (.l 0) (.l 1) .zero, .feinitE (.l 1) .zero, .feinitF (.l 1) .zero, .aadd (.l 0) (.l 1) (.l 2) .w,
        .aand (.l 0) (.l 1) (.l 2) .d, .aor (.l 0) (.l 1) (.l 2) .d, .axor (.l 0) (.l 1) (.l 2) .d, .amin (.l 0) (.l 1) (.l 2) .d,
        .amax (.l 0) (.l 1) (.l 2) .d, .aminu (.l 0) (.l 1) (.l 2) .d, .amaxu (.l 0) (.l 1) (.l 2) .d, .axchg (.l 0) (.l 1) (.l 2) .d,
        .acas (.l 0) (.l 1) (.l 2) .w, .afadd (.l 0) (.l 1) (.l 2) .w, .redAdd (.l 1) (.l 2) .d, .redAnd (.l 1) (.l 2) .d,
        .redOr (.l 1) (.l 2) .d, .redXor (.l 1) (.l 2) .d, .redMin (.l 1) (.l 2) .d, .redMax (.l 1) (.l 2) .d, .redMinu (.l 1) (.l 2) .d,
        .redMaxu (.l 1) (.l 2) .d, .redfadd (.l 1) (.l 2) .d, .await (.l 0) (.l 1) (.l 2) .eq .d, .sumon 1 2 (.l 1),
        .sumaddS (.l 1) (.l 2), .sumaddBf (.l 1) (.l 2), .sumaddH (.l 1) (.l 2), .sumoff (.l 0) (.l 1)],
      Issues (one (regs 0xE200000000000020 1 0)) (oneThr (regs 0xE200000000000020 1 0)) pt i
        ∧ NoStream (one (regs 0xE200000000000020 1 0)) (oneThr (regs 0xE200000000000020 1 0)) i
        ∧ (request (oneThr (regs 0xE200000000000020 1 0)) i).isSome)
    ∧ ((one (regs 0xE200000000000020 1 0)).resolve thr.issuer .plain 0xE200000000000020 8 false false false).1 = .ok (.spad 0 0x20)
    ∧ ((one (regs 0xE200000000000020 1 0)).resolve thr.issuer .plain 0xE200000000000021 8 false false false).1
        = .error ⟨0x04, 0xE200000000000021, 0, none, none, none⟩ := ⟨by decide +kernel, rfl, rfl⟩

theorem test_hyp_AddressChecksAndAllotments :
    (BitVec.toNat (0xE200000000000001 : Word)) % 8 ≠ 0 ∧ aperture 0x1200000000000000 = none
    ∧ aperture 0xE300000000000000 = some .tcm ∧ performs .tcm .atomic = false ∧ performs .tcm .granule = false
    ∧ bits (0xE000000000000000 : Word) 56 8 ≠ 0xE2 ∧ bits (0xE000000000000000 : Word) 56 8 ≠ 0xE1
    ∧ bits (0xE200000000000001 : Word) 56 8 = 0xE2
    ∧ (∃ g, (one id).group? thr.issuer.group = some g) ∧ thr.issuer.delegated = false ∧ thr.issuer.core < 8
    ∧ (2 ^ 21 - 8) % 8 = 0 ∧ 8 ∣ 0xE200000000000000 ∧ 8 ∣ 0xE300000000000000 :=
  ⟨by decide, by decide, by decide, by decide, by decide, by decide, by decide, by decide, ⟨_, rfl⟩, rfl, by decide, by decide,
    by decide, by decide⟩

/-- The four fences, with nothing and with a relaxed scratchpad store of the thread on its way; a prefix before a load, before an
illegal word, before an ADD, and at the end of `.text`. -/
theorem test_hyp_FencesAndPrefixedAccess :
    (∀ i ∈ [Instr.fenceCore, .fenceCl, .fenceDev, .fenceSys], Issues (one id) thr pt i)
    ∧ (∀ x ∈ [(Instr.fenceCore, Scope.core), (.fenceCl, .cl), (.fenceDev, .dev), (.fenceSys, .sys)],
        Issues { one id with accs := [{ acc 9 (.tcm 0 0 0) 8 (.store 1) with order := some .rlx, blocking := false }] } thr pt x.1
          ∧ (({ one id with accs := [{ acc 9 (.tcm 0 0 0) 8 (.store 1) with order := some .rlx, blocking := false }] }).issued thr pt x.1).accs.filter
              (fun (a : Access) => a.uid == some 3 && a.loc.inScope 0 x.2) ≠ [])
    ∧ ({ one id with mem := Mem.setLE [] (Loc.code 2).key 4 0x0048207D }).fetchWord thr.graph (thr.pc + 2) = .ok Guard.always (.ldD (.l 1) (.l 3) 1)
    ∧ request thr (.ldD (.l 1) (.l 3) 1) ≠ none
    ∧ ({ one id with mem := Mem.setLE [] (Loc.code 2).key 4 0x00C43009 }).fetchWord thr.graph (thr.pc + 2) = .ok Guard.always (.addImm (.l 2) (.l 1) 3)
    ∧ request thr (.addImm (.l 2) (.l 1) 3) = none
    ∧ (one id).fetchWord thr.graph (thr.pc + 2) = .illegal
    ∧ (one id).fetchWord thr.graph (262142 + 2) = .bad 262144 := by and_intros <;> decide +kernel

theorem test_hyp_LoadIsPerformed :
    ∀ x ∈ [(Loc.spad 0 0, 8, Ext.zx, Operand.wide 7), (.hbm 0xFFFFFFFFF8, 8, .sx, .int (.l 0)), (.tcm 0 7 1, 1, .sx, .int .zero), (.canopy 0, 32, .zx, .wide 0)],
      PerformsNow (withAccs [acc 9 x.1 x.2.1 (.load x.2.2.1 x.2.2.2)]) (acc 9 x.1 x.2.1 (.load x.2.2.1 x.2.2.2))
        ∧ (withAccs [acc 9 x.1 x.2.1 (.load x.2.2.1 x.2.2.2)]).poisoned x.1 x.2.1 = false := by decide +kernel

theorem test_hyp_StoreIsPerformed :
    ∀ x ∈ [(Loc.spad 0 0, 8, AccOp.store 1), (.hbm 1, 1, .store 0xFFF), (.tcm 0 7 0x1FFE0, 32, .store 5), (.spad 0 32, 32, .push 3 7)],
      PerformsNow (withAccs [acc 9 x.1 x.2.1 x.2.2] [(0, 5)]) (acc 9 x.1 x.2.1 x.2.2)
        ∧ Mem.wf (withAccs [acc 9 x.1 x.2.1 x.2.2] [(0, 5)]).mem = true
        ∧ SoundWatches (withAccs [acc 9 x.1 x.2.1 x.2.2] [(0, 5)]) (acc 9 x.1 x.2.1 x.2.2) := by
  decide +kernel

/-- AWAITs of the word at 8 that wait for 1 and for 2, and a store of 1 to it. -/
def waits (v : Word) : Access := { acc (10 + v.toNat) (.hbm 8) 8 (.await .eq v (.l 0)) with phase := .waiting }

theorem test_hyp_StoreIsPerformed_watched :
    ∀ op ∈ [AccOp.store 1, .push 3 1, .rmw 0 1 0 (some (.l 0)), .sumOff (.l 1)],
      let s := withAccs [acc 9 (.hbm 8) 8 op, waits 1, waits 2]
      PerformsNow s (acc 9 (.hbm 8) 8 op) ∧ SoundWatches s (acc 9 (.hbm 8) 8 op)
        ∧ ∀ w ∈ [waits 1, waits 2], Watching s (acc 9 (.hbm 8) 8 op) w := by
  decide +kernel

theorem test_hyp_AtomicIsPerformed :
    ∀ x ∈ [(Loc.spad 0 0, 8, AccOp.rmw 0 1 0 (some (.l 0)), false), (.hbm 4, 4, .rmw 9 1 0 (some .zero), false), (.hbm 8, 8, .rmw 10 1 0 none, true)],
      PerformsNow (withAccs [acc 9 x.1 x.2.1 x.2.2.1 x.2.2.2]) (acc 9 x.1 x.2.1 x.2.2.1 x.2.2.2)
        ∧ NoWatch (withAccs [acc 9 x.1 x.2.1 x.2.2.1 x.2.2.2]) x.1 x.2.1
        ∧ SoundWatches (withAccs [acc 9 x.1 x.2.1 x.2.2.1 x.2.2.2]) (acc 9 x.1 x.2.1 x.2.2.1 x.2.2.2)
        ∧ (withAccs [acc 9 x.1 x.2.1 x.2.2.1 x.2.2.2]).poisoned x.1 x.2.1 = false := by decide +kernel

/-- Each request at a granule that admits it and at one that does not. -/
theorem test_hyp_FullEmptyRequests :
    ∀ g ∈ [[], [granuleNo 0 24]], ∀ op ∈ [AccOp.ldfe true (.l 0), .ldfe false .zero, .stfe 5, .feinit true, .feinit false],
      PerformsNow { withAccs [acc 9 (.spad 0 24) 8 op] with granules := g } (acc 9 (.spad 0 24) 8 op)
        ∧ NoWaiter { withAccs [acc 9 (.spad 0 24) 8 op] with granules := g } (.spad 0 24)
        ∧ ({ withAccs [acc 9 (.spad 0 24) 8 op] with granules := g }).poisoned (.spad 0 24) 8 = false
        ∧ ({ withAccs [acc 9 (.spad 0 24) 8 op] with granules := g }).waitingAt (acc 9 (.spad 0 24) 8 op).listKey < 32
        ∧ ({ withAccs [acc 9 (.spad 0 24) 8 op] with granules := g }).granuleBad (.spad 0 24) = false
        ∧ listRoom (acc 9 (.spad 0 24) 8 op).listKey = 32 := by decide +kernel

/-- A request that waits at the granule at 24, and the one that lets it be served. -/
def waiting24 (op : AccOp) : Access := { acc 10 (.spad 0 24) 8 op with phase := .waiting }

theorem test_hyp_FullEmptyRequests_served :
    (let s := withAccs [acc 9 (.spad 0 24) 8 (.stfe 5), waiting24 (.ldfe true (.l 1))]
     PerformsNow s (acc 9 (.spad 0 24) 8 (.stfe 5)) ∧ s.granuleFull (.spad 0 24) = false
       ∧ OldestAdmitted s (.spad 0 24) true (waiting24 (.ldfe true (.l 1))) ∧ s.poisoned (.spad 0 24) 8 = false
       ∧ (acc 9 (.spad 0 24) 8 (.stfe 5)).op.admitted false = true)
    ∧ (let s := { withAccs [acc 9 (.spad 0 24) 8 (.ldfe true (.l 1)), waiting24 (.stfe 5)] with granules := [granuleNo 0 24] }
       PerformsNow s (acc 9 (.spad 0 24) 8 (.ldfe true (.l 1))) ∧ s.granuleFull (.spad 0 24) = true
         ∧ OldestAdmitted s (.spad 0 24) false (waiting24 (.stfe 5))) := by
  and_intros <;> decide +kernel

/-- A request held at its core for channel 0. -/
def heldAwait : Access := { acc 9 (.hbm 0) 8 (.await .eq 0 (.l 0)) with phase := .outbound }

theorem test_hyp_WatchesAndResends :
    (∀ x ∈ [(AwCond.eq, (0 : Word)), (.ne, 0), (.ge, 1), (.geu, 0)],
      let a := acc 9 (.hbm 8) 8 (.await x.1 x.2 (.l 0))
      PerformsNow (withAccs [a]) a ∧ (withAccs [a]).poisoned a.loc 8 = false ∧ (withAccs [a]).waitingAt a.listKey < listRoom a.listKey)
    ∧ ((withAccs [acc 9 (.spad 0 0) 8 (.store 1)]).accs.find? (fun x => x.id == 9) = some (acc 9 (.spad 0 0) 8 (.store 1))
        ∧ ∀ v, (acc 9 (.spad 0 0) 8 (.store 1)).op ≠ .mst v)
    ∧ (let a := { acc 9 (.hbm 0) 8 (.store 1) with passedBy := 64 }
       PerformsNow (withAccs [a, acc 10 (.hbm 0x100) 8 (.store 1)]) a ∧ 64 ≤ a.passedBy)
    ∧ UnitId.list (.channel 0) = some 0 ∧ (withAccs [heldAwait]).waitingAt 0 < listRoom 0
    ∧ ((withAccs [heldAwait]).accs.filter fun x => x.phase == .outbound && x.waiter && x.listKey == 0 && x.loc.present).find?
        (fun x => x.requester == heldAwait.requester) = some heldAwait
    ∧ roundRobin ((withAccs [heldAwait]).watchLast.lookup 0) ([heldAwait].map Access.requester) = some heldAwait.requester :=
  ⟨by decide +kernel, ⟨by decide +kernel, fun _ => by simp [acc]⟩, by decide +kernel, by decide, by decide +kernel, by decide +kernel,
    by decide +kernel⟩

/-- A slot with 1.0 in it, bound to the word at 64. -/
def slot1 : SumSlot := SumSlot.take ⟨0, 64, 0, false, false, false, 0, false⟩ .s 0x3F800000

theorem test_hyp_SumSlotAccesses :
    ∀ ss ∈ [[], [slot1]], ∀ x ∈ [(AccOp.sumOn 1 2, false), (.sumAdd .bf 0x3F80, true), (.sumOff (.l 0), false)],
      PerformsNow { withAccs [acc 9 (.hbm 64) 8 x.1 x.2] with sums := ss } (acc 9 (.hbm 64) 8 x.1 x.2)
        ∧ SoundWatches { withAccs [acc 9 (.hbm 64) 8 x.1 x.2] with sums := ss } (acc 9 (.hbm 64) 8 x.1 x.2)
        ∧ slot1.bad = false := by decide +kernel

/-- A result for a pending register of each kind, for one that is not pending, and for zero. -/
theorem test_hyp_ResultReachesItsRegister :
    ∀ o ∈ [Operand.int (.l 0), .int (.l 14), .int (.d 3), .wide 7, .ext 0, .pred 7, .int .zero],
      let t := oneThr fun t => { t with pend := if o = .int .zero then 0 else BitVec.allOnes 50 }
      let r : Arrival := { id := 9, uid := 3, writes := [(o, 5)], flags := 1, fp := true, red := false, prod := .alu, seqr := false, push := none, seq := 0, kind := 0, arriver := 0, stamp := Stamp.zero, after := [] }
      let s := { one fun _ => t with arrivals := [r] }
      s.arrivals.find? (fun x => x.id == r.id) = some r ∧ s.isSaved r.uid = false ∧ s.thread? r.uid = some t
        ∧ s.hosted? r.uid = none ∧ (∀ x ∈ s.threads, x.uid = t.uid → x = t) ∧ t.wait = none ∧ t.isPend o = decide (o ≠ .int .zero) := by decide +kernel

/-! ### Families, streams, the matrix unit, copies, tags and system registers -/

/-- k0 to k3. -/
def exts (a b c d : Word) (t : Thread) : Thread := { t with exts := #v[a, b, c, d] }

/-- A window of 6 locals, 1 shared and 2 globals, and a step of 1 (R69). -/
def k2ok : Word := 0x0116000000000001

/-- A family that the thread reserved, in an entry, with k1 members. -/
def fam (e : Nat) (k1 k3 : Word) : Family :=
  { uid := 50 + e, handle := handleOf 0 0 0 e 1, ctx := 0, group := 2, graph := 1, creator := 3, phys := 0, lcl := 0, core := 0,
    entry := some e, frame := none, runFrame := none, k0 := 0, k1 := k1, k2 := k2ok, k3 := k3, cseq := 0,
    dputs := Vector.replicate 4 0, gputs := Vector.replicate 8 0, started := false, body := 0, ftz := false, daz := false, rm := 0,
    fgo := 0, where_ := 3, hostPhys := 0, hostLcl := 0, spare := false, next := 0, last := 0, held := Vector.replicate 4 none,
    log := [], decided := none, killed := false, status := none, out := Vector.replicate 4 0, detached := false, probe := none,
    nameless := false, prior := 0, carry := [], after := [], stamp := Stamp.zero }

/-- The machine with these families, and identifiers above theirs. -/
def withFams (fs : List Family) (f : Thread → Thread := id) : State := { one f with families := fs, fresh := 100 }

/-- All 16 entries of the core in use, and all its frames. -/
def entriesFull : List Family := (List.range 16).map fun e => fam e 2 0
def framesFull : List Family := entriesFull ++ (List.range 256).map fun e => { fam 0 2 0 with uid := 300 + e, entry := none, frame := some e }

theorem test_hyp_FamilyReservation :
    Issues (one id) thr pt (.falloc .zero) ∧ familyOk (thr.ext 2) (thr.ext 3) = false
    ∧ Issues (one (exts 0 2 k2ok 0)) (oneThr (exts 0 2 k2ok 0)) pt (.falloc (.l 0)) ∧ familyOk k2ok 0 = true
    ∧ (one (exts 0 2 k2ok 0)).freeEntry thr = some 0
    ∧ (withFams entriesFull).freeEntry thr = none ∧ (withFams entriesFull).freeFrame thr ≠ none
    ∧ (withFams framesFull).freeEntry thr = none ∧ (withFams framesFull).freeFrame thr = none
    ∧ Issues (withFams framesFull (exts 0 2 k2ok 0)) (oneThr (exts 0 2 k2ok 0)) pt (.falloc (.l 0)) := by
  and_intros <;> decide +kernel

/-- FGO of an empty family and of one with members, at the default place and on the cluster; CREATE of both. -/
theorem test_hyp_FamilyStart :
    (∀ f ∈ [fam 3 0 0, fam 15 2 0, fam 0 1 1],
      let t := oneThr (regs (zext64 f.handle) 0 0)
      Issues (withFams [f] (regs (zext64 f.handle) 0 0)) t pt (.fgo (.l 1) 0x4000)
        ∧ Names (withFams [f] (regs (zext64 f.handle) 0 0)) t (zext64 f.handle) f
        ∧ (withFams [f] (regs (zext64 f.handle) 0 0)).family? f.uid = some f)
    ∧ ((fam 3 0 0).has 0 = false ∧ (fam 15 2 0).has 0 = true ∧ (fam 0 1 1).has 0 = true ∧ (fam 15 2 0).placeKind = 0 ∧ (fam 0 1 1).placeKind = 1)
    ∧ (0 < (withFams [fam 15 2 0]).room (fam 15 2 0) 0 ∧ ∃ c ∈ List.range 8, 0 < (withFams [fam 0 1 1]).room (fam 0 1 1) c)
    ∧ (let f := fam 3 2 4
       let s := withFams [f] (regs (zext64 f.handle) 0 0)
       let t := oneThr (regs (zext64 f.handle) 0 0)
       Issues s t pt (.fgo (.l 1) 2) ∧ Names s t (zext64 f.handle) f ∧ f.has 0 = true ∧ f.placeKind = 4 ∧ t.run = .running
         ∧ s.freeFrame t ≠ none ∧ t.uid < s.fresh)
    ∧ (∀ k ∈ [exts 0 0 k2ok 0, exts 0 2 k2ok 0, exts 0 2 k2ok 1],
        Issues (one k) (oneThr k) pt (.create (.l 0) 8) ∧ familyOk ((oneThr k).ext 2) ((oneThr k).ext 3) = true
          ∧ (∀ g ∈ (one k).families, g.uid < (one k).fresh)
          ∧ (((one k).issued (oneThr k) pt (.create (.l 0) 8)).reserve (oneThr k)).any
              (fun x => x.1.frame.isNone && decide (0 < x.2.room x.1 0)) = true) := by
  and_intros <;> decide +kernel

/-- The instructions that name a family, with l1 naming none, and with l1 naming one that is reserved, running and
terminated. -/
theorem test_hyp_FamilyHandles :
    (∀ i ∈ [Instr.fgo (.l 1) 2, .fsync (.l 0) (.l 1), .frel (.l 1), .fputD (.l 1) (.l 2) 0, .fputG (.l 1) (.l 2) 7, .fget (.l 0) (.l 1) 3,
        .fkill (.l 1), .fkillTree (.l 1), .fstat (.l 0) (.l 1), .detach (.l 1), .fplace (.l 1) (.l 2)],
      handleReg i = some (.l 1) ∧ Issues (one id) thr pt i)
    ∧ NamesNone (one id) thr 0
    ∧ ∀ f ∈ [fam 3 2 0, { fam 3 2 0 with started := true }, { fam 3 2 0 with started := true, status := some 1 }],
      let t := oneThr (regs (zext64 f.handle) 4 0)
      let s := withFams [f] (regs (zext64 f.handle) 4 0)
      Names s t (zext64 f.handle) f
        ∧ (∀ i ∈ [Instr.fputD (.l 1) (.l 2) 0, .fputD (.l 1) (.l 2) 1, .fputG (.l 1) (.l 2) 1, .fputG (.l 1) (.l 2) 2, .fplace (.l 1) (.l 2),
            .fsync .zero (.l 1), .fget (.l 0) (.l 1) 0, .frel (.l 1), .fkill (.l 1), .fkillTree (.l 1), .fstat (.l 0) (.l 1), .detach (.l 1)],
          Issues s t pt i) ∧ 0 < winShared f.window := by
  and_intros <;> decide +kernel

/-- A thread of the machine, as a member or a trap service thread. -/
def asKind (k : ThreadKind) (t : Thread) : Thread := { t with kind := k }

/-- The thread that a service thread serves. -/
def victim : Thread := { thr with uid := 4, slot := 5, run := .trapped .running, pc := 64 }

/-- The trap that it serves. -/
def trapRec : TrapRec := ⟨4, 0x13, false, none, none, 60, 0, 0, 0⟩

/-- The machine where the thread serves `victim`'s trap. -/
def serving : State :=
  let s := owned (fun k => { k with serving := some (trapRec, 3) }) (asKind (.service 4))
  { s with threads := s.threads ++ [victim], fresh := 100 }

theorem test_hyp_EndingAndYielding :
    Issues (one id) thr pt .exit ∧ Issues (one id) thr pt .brk ∧ Issues (one id) thr pt .yield
    ∧ thr.isService = false ∧ thr.member? = none ∧ (∀ x ∈ (one id).threads, x.uid = thr.uid → x = thr)
    ∧ Issues (withFams [fam 3 2 0] (asKind (.member 53 0))) (oneThr (asKind (.member 53 0))) pt .brk
    ∧ (oneThr (asKind (.member 53 0))).member? = some (53, 0) ∧ (withFams [fam 3 2 0]).family? 53 = some (fam 3 2 0)
    ∧ Issues serving (oneThr (asKind (.service 4))) pt .exit ∧ (oneThr (asKind (.service 4))).kind = .service 4
    ∧ serving.thread? 4 = some victim := by and_intros <;> decide +kernel

/-- Streams of the owner: unit 0 configured, unit 1 bound in, unit 2 bound out, unit 3 fresh. -/
def streams4 : Vector Stream 4 :=
  #v[{ inStream with bound := none, fifo := [] }, { inStream with bound := some 1 },
     { Stream.fresh with cfg := some (0xE200000000000000, 4, 0, 0x100000020), bound := some 2 }, Stream.fresh]

theorem test_hyp_OwnershipAndStreams :
    (∀ i ∈ [Instr.scfg 0, .scfg 3, .sunbind 0, .sunbind 3, .ssync 0, .ssync 3, .sbind 0 0, .sbind 3 3, .vloop (.l 1) 0, .vloop .zero 15,
        .vown (.l 0), .vdisown], Issues (one id) thr pt i)
    ∧ (one id).owns thr = false ∧ ((one id).coreAt 0 0).owner = none ∧ ((one id).coreAt 0 0).vownQ = [] ∧ (one id).pends = []
    ∧ Issues ((one id).updCore 0 0 fun k => { k with owner := some 4 }) thr pt (.vown (.l 0))
    ∧ Issues (owned id) thr pt (.vown .zero) ∧ (owned id).owns thr = true ∧ Issues (owned id) thr pt .vdisown
    ∧ (∀ u : Fin 4, ((owned id).coreAt 0 0).streams[u.val].bound = none)
    ∧ (∀ i ∈ [Instr.scfg 0, .scfg 1, .sbind 0 0, .sunbind 0, .sunbind 1, .sunbind 2, .ssync 0, .ssync 1, .ssync 2],
        Issues (owned fun k => { k with streams := streams4 }) thr pt i)
    ∧ ((owned fun k => { k with streams := streams4 }).boundOut thr 1 = false ∧ (owned fun k => { k with streams := streams4 }).boundOut thr 2 = true)
    ∧ streamCfgOk (0xE200000000000000, 0x0001000001000004, 0, 0x20) = true ∧ streamCfgOk (0, 0, 0, 0) = false
    ∧ (let s := { owned id with mem := Mem.setLE [] (Loc.code 4).key 4 0x000080C1 }
       Issues s thr pt (.vloop (.l 1) 0) ∧ (s.issued thr pt (.vloop (.l 1) 0)).bodyTrap thr (thr.pc + 4) = none) := by
  and_intros <;> decide +kernel

/-- An i8 by i8 format of depth 16, rows of 16 bytes of A and 32 of B (R160). -/
def fmt16 : Word := 0x0010002000100000

/-- An unfold descriptor of one 1 by 1 image of one channel at a scratchpad address (R162). -/
def unf1 : Word × Word × Word × Word := (0xE200000000000000, 0x0001000100010001, 0x0101010101010000, 0)

theorem test_hyp_MatrixInstructions :
    (∀ i ∈ [Instr.mfmt (.l 1), .munf, .mma 1 (.l 1) (.l 2), .mz 1, .mst 0 (.l 1) (.l 2), .mwait (.l 0)], Issues (one id) thr pt i)
    ∧ (one id).owns thr = false ∧ (owned id).owns thr = true
    ∧ Issues (owned id) thr pt (.mfmt (.l 1)) ∧ mfmtOk 0 = false ∧ mfmtOk fmt16 = true
    ∧ Issues (owned id (regs fmt16 0 0)) (oneThr (regs fmt16 0 0)) pt (.mfmt (.l 1))
    ∧ Issues (owned id) thr pt .munf ∧ munfOk (0, 0, 0, 0) = false ∧ Issues (owned id) thr pt (.mz 0)
    ∧ Issues (owned id) thr pt (.mma 0 (.l 1) (.l 2)) ∧ ((owned id).mmaArgs thr 0 (.l 1) (.l 2)).ok = false
    ∧ Issues (owned id) thr pt (.mwait .zero) ∧ ((owned id).coreAt 0 0).mq = []
    ∧ (let s := owned (fun k => { k with fmtCtx := some fmt16 }) (regs 0xE200000000000000 0xE200000000001000 0)
       let t := oneThr (regs 0xE200000000000000 0xE200000000001000 0)
       Issues s t pt (.mma 1 (.l 1) (.l 2)) ∧ (s.mmaArgs t 1 (.l 1) (.l 2)).ok = true
         ∧ passes ((s.issued t pt (.mma 1 (.l 1) (.l 2))).mmaPlan t.issuer (s.mmaArgs t 1 (.l 1) (.l 2))) = true)
    ∧ (let s := owned (fun k => { k with fmtCtx := some fmt16 }) (regs 0xE200000000000000 0x0000000000800002 0)
       let t := oneThr (regs 0xE200000000000000 0x0000000000800002 0)
       Issues s t pt (.mst 1 (.l 1) (.l 2)) ∧ passes ((s.issued t pt (.mst 1 (.l 1) (.l 2))).mstPlan t.issuer (some fmt16)
         0xE200000000000000 0x0000000000800002) = true) := by
  and_intros <;> decide +kernel

/-- The context may reach the first 64 KiB of its memory, far-table entry 0, and communicator 0 of two ranks. -/
def reach (s : State) : State :=
  { s.updCtx 0 fun c => { c with far := [(0, ⟨0, 0, 1000⟩)], comms := [⟨0, 2, 1, 0, 0, 0, 50, 0, [], []⟩] } with
    tlb := [⟨0, 0, 0, 65536, 0, true, true, false⟩] }

/-- One row of 16 bytes (R238). -/
def row16 (a b k3 : Word) (t : Thread) : Thread := exts 0x0001000100000010 0 0 k3 (regs a b 0 t)

/-- The instruction's checks pass. -/
def planPasses (s : State) (t : Thread) : Instr → Bool
  | .cpgIn _ a b => passes (s.cpgPlan t.issuer false (t.int a) (t.int b) (t.ext 0) (t.ext 1) (t.ext 2) (t.ext 3))
  | .cpgOut _ a b => passes (s.cpgPlan t.issuer true (t.int a) (t.int b) (t.ext 0) (t.ext 1) (t.ext 2) (t.ext 3))
  | .send _ a b => passes (s.sendPlan t.issuer (t.int a) (t.int b) (t.ext 0) (t.ext 1) (t.ext 2) (t.ext 3))
  | .cpfarIn _ a b => passes (s.cpfarPlan t.issuer false (t.int a) (t.int b) (t.ext 1))
  | .cpfarOut _ a b => passes (s.cpfarPlan t.issuer true (t.int a) (t.int b) (t.ext 1))
  | .coll _ a b => passes (s.collPlan t.issuer (t.int a) (t.int b) (t.ext 0) (t.ext 1))
  | _ => false

theorem test_hyp_CopyInstructions :
    (∀ x ∈ [(Instr.cpgIn 0 (.l 1) (.l 2), row16 0 0xE200000000000000 0), (.cpgOut 7 (.l 1) (.l 2), row16 0xFFF0 0xE200000000000000 0),
        (.send 3 (.l 1) (.l 2), row16 0xE200000000000000 0 0), (.cpfarIn 0 (.l 1) (.l 2), row16 0 0 0), (.cpfarOut 0 (.l 1) (.l 2), row16 0 1 0)],
      Issues (reach (one x.2)) (oneThr x.2) pt x.1 ∧ planPasses ((reach (one x.2)).issued (oneThr x.2) pt x.1) (oneThr x.2) x.1 = true)
    ∧ (∀ i ∈ [Instr.cpgIn 0 (.l 1) (.l 2), .cpgOut 7 (.l 1) (.l 2), .send 3 (.l 1) (.l 2), .cpfarIn 0 (.l 1) (.l 2), .cpfarOut 0 (.l 1) (.l 2)],
        Issues (one id) thr pt i ∧ planPasses ((one id).issued thr pt i) thr i = false ∧ thr.kept = none)
    ∧ (let f := fun t => exts 0x0000002000000001 0 0 0 (regs 0 0x100 0 t)
       Issues (reach (one f)) (oneThr f) pt (.coll 0 (.l 1) (.l 2)) ∧ planPasses ((reach (one f)).issued (oneThr f) pt (.coll 0 (.l 1) (.l 2))) (oneThr f) (.coll 0 (.l 1) (.l 2)) = true)
    ∧ Issues (one id) thr pt (.waitk 0xFF) ∧ (∀ k : Fin 8, thr.tokErr[k.val] = none)
    ∧ (let t := oneThr fun t => { t with tokErr := t.tokErr.set 7 (some ⟨4, 1⟩) }
       Issues (one fun _ => t) t pt (.waitk 0x80) ∧ t.tokErr[7] = some ⟨4, 1⟩) := by
  and_intros <;> decide +kernel

/-- A kernel that produces tensor 1, a range granted, and a RETAIN of the next group. -/
def tagged (f : Thread → Thread) : State :=
  let s := one f
  { s with graphs := s.graphs.map fun g => { g with kernels := g.kernels.map fun k => { k with outtags := [1] } }
           ranges := s.ranges.set 63 { s.ranges[63] with owner := some 0 } }

theorem test_hyp_TagAndRangeInstructions :
    (let f := regs 0x01000000 0 0
     Issues (tagged f) (oneThr f) pt (.tagpub (.l 1)) ∧ ((tagged f).issued (oneThr f) pt (.tagpub (.l 1))).produces 2 0x01000000 = true
       ∧ Issues (tagged f) (oneThr f) pt (.tagwait .zero (.l 1)) ∧ Issues (tagged f) (oneThr f) pt (.tagq (.l 0) (.l 1))
       ∧ (tagged f).tagOk (oneThr f) 0x01000000 = true)
    ∧ (Issues (one id) thr pt (.tagpub (.l 1)) ∧ (one id).produces 2 0 = false ∧ Issues (one id) thr pt (.tagq (.l 0) (.l 1)) ∧ (one id).tagOk thr 0 = false)
    ∧ Issues (one id) thr pt (.retain (.l 1) (.l 2))
    ∧ (let f := fun t => exts 0 8 0x00010001 0 (regs 63 0 0 t)
       Issues (tagged f) (oneThr f) pt (.take (.l 13) (.l 1)) ∧ (tagged f).ranges[63].owner = some 0
         ∧ Issues (tagged f) (oneThr f) pt (.takeArm (.l 1)))
    ∧ (Issues (one (regs 64 0 0)) (oneThr (regs 64 0 0)) pt (.take (.l 0) (.l 1)) ∧ ∀ n : Fin 64, (64 : Word) ≠ BitVec.ofNat 64 n.val)
    ∧ (∀ sel ∈ [GridSel.i, .j, .k, .lin, .nx, .ny, .nz, .kern, .seq, .lcl, .graph], Issues (one id) thr pt (.grid (.l 0) sel))
    ∧ (((one id).kernelOf? 2).isSome ∧ ((one id).replayOf? 2).isSome) ∧ Issues (one id) thr pt (.gridParam .zero (.l 1)) := by
  and_intros <;> decide +kernel

theorem test_hyp_SystemRegisters :
    (∃ c, (one id).ctx? thr.ctx = some c)
    ∧ (∀ n ∈ [SysReg.trapVec, .jobSeed, .stratusCtl, .contrailBase, .contrailCtl, .sumStatus, .fpCtl, .censusSel, .devTime, .ctxId,
        .tlbShoot, .censusCtl, .seqCount], Issues (one id) thr pt (.sysr (.l 0) n))
    ∧ (∀ n ∈ [SysReg.trapVec, .censusSel, .jobSeed, .devTime], Issues (one id) thr pt (.sysw (.l 1) n))
    ∧ (∀ i ∈ [Instr.syswSumStatus (.l 1), .syswTlbShoot (.l 1), .syswCensusCtl (.l 1), .syswSeqState (.l 1), .mark (.l 1), .rdcyc (.l 0),
        .cvtaCl .zero (.l 1), .cvtaSp (.l 0) (.l 1), .isap 1 0 (.l 1) .tcm], Issues (one id) thr pt i)
    ∧ Issues (one (regs 1 0 0)) (oneThr (regs 1 0 0)) pt (.syswCensusCtl (.l 1)) ∧ (one id).served thr = none
    ∧ (∀ r, (one id).replayOf? 2 = some r → r.ctrlCtl.getLsbD 8 = false)
    ∧ (∀ n ∈ [0, 18, 19, 30, 31, 66, 67, 68, 69, 70, 71], Issues serving (oneThr (asKind (.service 4))) pt (.syswFrameWindow n (.l 1))
        ∧ (serving.issued (oneThr (asKind (.service 4))) pt (.syswFrameWindow n (.l 1))).victim (oneThr (asKind (.service 4))) = some victim) :=
  ⟨⟨_, rfl⟩, by decide +kernel, by decide +kernel, by decide +kernel, by decide +kernel, by decide +kernel, fun r h => by cases h; rfl,
    by decide +kernel⟩

/-! ### Launch, tags, delegation -/

/-- A well-formed message from source 1, secured. -/
def hdr : Hdr := ⟨⟨1, false, true⟩, 0, 7, true⟩

/-- The loaded context with source 1 at every endpoint, a page table at 0, cluster 0, and a change. -/
def ctx1 (f : Context → Context := id) : Context :=
  f { Context.fresh 0 0 with cmdSrcs := [1], dbgSrcs := [1], winSrcs := [1], cmdPolicy := .required, ptRoot := some 0, allot := [0] }

/-- The loaded machine at rest with that context. -/
def host (f : Context → Context := id) : State := { State.reset.seated1 with ctxs := [ctx1 f], boot := .primary }

/-- A kick of the loaded graph. -/
def kick (g q : BitVec 32) (es : List KickPatch) (n : BitVec 16 := 0) : Kick := ⟨9, 3, ⟨g, q, n, 0, es⟩, 0, none⟩

/-- The loaded graph. -/
def g1 : Graph := ⟨1, 0, 0, 1, 0, 262144, [⟨0, 0x444F, 1, 1, 1, 504, 0, 0, 8, [], [], [], []⟩], [], [], some 0, [], none⟩

theorem test_hyp_KicksAndReplays :
    ((host).ctx? hdr.ctx = some (ctx1) ∧ ¬ Allowed (ctx1).cmdSrcs (ctx1).cmdPolicy { hdr.env with src := 2 }
        ∧ ¬ Allowed (ctx1).cmdSrcs (ctx1).cmdPolicy { hdr.env with roce := true } ∧ ForContext (host) hdr (ctx1) ∧ (ctx1).destroying = none)
    -- two kicks of the cycle from ports 3 and 9, and one from port 5 between them
    ∧ (let c := ctx1 fun c => { c with kicks := [kick 1 1 []] ++ [{ kick 1 2 [] with port := 9 }] }
       ForContext (host fun c => { c with kicks := [kick 1 1 []] ++ [{ kick 1 2 [] with port := 9 }] }) hdr c
         ∧ (∀ k ∈ [kick 1 1 []], k.at_ ≠ 0 ∨ k.port ≤ 5) ∧ ∀ k ∈ [{ kick 1 2 [] with port := 9 }], k.at_ = 0 ∧ 5 < k.port)
    ∧ (let s : State := { host (fun c => { c with kicks := List.replicate 64 (kick 1 1 []) }) with now := 5 }
       ForContext s hdr (ctx1 fun c => { c with kicks := List.replicate 64 (kick 1 1 []) }) ∧ ∀ k ∈ List.replicate 64 (kick 1 1 []), k.at_ ≠ s.now)
    ∧ (TakesKicks { host with now := 5 } (ctx1) ∧ (kick 1 1 []).at_ < 5)
    -- the loaded graph runs its one replay; none runs; a kick that has waited for a replay that is over, and one that still runs
    ∧ ((host).graph? 1 = some g1 ∧ NamedGraph (host) (ctx1) (kick 1 1 []).msg g1 ∧ g1.depth = 1
        ∧ ((host).replays.filter fun r => r.graph == 1).length = 1 ∧ g1.kernels ≠ [])
    ∧ ((host).replay? 77 = none ∧ (host).replay? 1 ≠ none ∧ ({ g1 with kernels := [] } : Graph).kernels = []) := by
  and_intros <;> decide +kernel

/-- The causes of R285, one at a time, and a kick with none. -/
theorem test_hyp_KicksAndReplays_causes :
    KickCause (host) (ctx1) (kick 2 1 []).msg 2 ∧ KickCause (host) (ctx1) (kick 1 5 []).msg 3 ∧ ¬ KickCause (host) (ctx1) (kick 1 5 []).msg 2
    ∧ KickCause (host) (ctx1) (kick 1 1 [⟨4, 0, 0⟩] 1).msg 4 ∧ KickCause (host) (ctx1) (kick 1 1 [] 1).msg 5
    ∧ ∀ n, ¬ KickCause (host) (ctx1) (kick 1 1 []).msg n := by
  refine ⟨.inr (by decide), ⟨g1, by decide, by decide⟩, ?_, ⟨g1, by decide, ⟨4, 0, 0⟩, by decide, by decide⟩, .inr (.inl (by decide)), ?_⟩
  · rintro (h | h)
    · revert h; decide
    · revert h; decide
  · intro n h
    match n, h with
    | 2, h =>
      rcases h with h | h
      · revert h; decide
      · revert h; decide
    | 3, ⟨g, hg, h⟩ => cases hg; exact h rfl
    | 4, ⟨g, hg, e, he, h⟩ => cases he
    | 5, h => revert h; simp only [KickCause]; decide

/-- The loaded machine with a replay of a graph of one kernel of `n` groups, none started, changed by `f`; the kernel by `k`. -/
def launching (n : Nat) (k : Kernel → Kernel := id) (f : State → State := id) : State :=
  let s := host
  f { s with graphs := s.graphs.map fun g => { g with kernels := g.kernels.map fun x => k { x with gx := n, slots := 8 } }
             replays := s.replays.map fun r => { r with kernels := r.kernels.map fun x => { x with started := [] } }
             groups := [], threads := [], clusters := [] }

/-- A copy of the thread. -/
def cp (k : CopyKind) (us : List (Loc × List Loc)) (sent : Bool) : Copy :=
  { id := 60, uid := 3, group := 2, ctx := 0, phys := 0, lcl := 0, kind := k, token := 7, slack := 0, issued := 0, plan := us, units := us,
    pages := [], got := [], sent := sent, burst := 0, agedAt := none, stamp := Stamp.zero }

/-- A placed group of that kernel. -/
def grp (lin : Nat) (st : GroupSt) : Group :=
  ⟨2, 0, 1, 0, lin, 0, 0, 0, 16384, Vector.replicate 8 0, 0, 8, st, true, none, [], 0, 16, 0, Stamp.zero⟩

/-- Its replay, as `launching` has it. -/
def rep1 : Replay := ⟨1, 0, 1, 0, 0, 0, [], [⟨[], [], none, [], [], none, []⟩], none, 0, 0, 0, 0, [], Stamp.zero⟩

theorem test_hyp_GroupsStartAndRetire :
    -- placement: level 0 serves context 0, and no level above it has work
    ((launching 4).levelOrder 0 = [] ++ [ctx1] ∧ (∀ m ∈ [1, 2, 3], (launching 4).levelOrder m = [])
        ∧ ((launching 4).nextGroup (ctx1)).isSome = true)
    -- dispatch
    ∧ (let s := launching 4 id fun s => { s with groups := [grp 0 .placed] }
       s.group? 2 = some (grp 0 .placed) ∧ s.replay? 1 = some rep1 ∧ (s.kernelOf? 2).isSome = true ∧ rep1.stratus = 0
         ∧ (s.clusterAt 0).corePt ≠ .gated ∧ s.rootSlot (grp 0 .placed) false = some (0, 0)
         ∧ ∀ x, s.ctx? 0 = some x → x.destroying = none)
    -- a window of waves
    ∧ (let s := launching 20000 fun k => { k with depvecs := [(1, 0, 0)] }
       s.replay? 1 = some rep1 ∧ (∃ g, s.graph? 1 = some g ∧ ∃ k, g.kernels[0]? = some k ∧ k.depvecs ≠ [] ∧ k.afters = [])
         ∧ s.waveUsed < 65536)
    -- RETAIN's record, free and taken
    ∧ (∀ st ∈ [[], [1]],
        let s := launching 4 id fun s => { s with groups := [{ grp 0 .running with retainMsg := [(0, 1)] }]
                                                  replays := [{ rep1 with kernels := [⟨st, [], none, [], [], none, []⟩] }] }
        s.group? 2 = some { grp 0 .running with retainMsg := [(0, 1)] } ∧ (s.replay? 1).isSome = true)
    -- retirement before and after the group's last access; freeing
    ∧ ((launching 1 id fun s => { s with groups := [grp 0 .running], accs := [acc 9 (.spad 0 0) 8 (.store 1)] }).mayRetire (grp 0 .running) = false
        ∧ (launching 1 id fun s => { s with groups := [grp 0 .running] }).mayRetire (grp 0 .running) = true
        ∧ (launching 1 id fun s => { s with groups := [grp 0 .freeing] }).group? 2 = some (grp 0 .freeing)
        ∧ (∀ c ∈ [cp .send [(.spad 0 0, [.spad 1 0])] false], c.writesInto (grp 0 .freeing) = false)
        ∧ (∀ a ∈ [acc 9 (.spad 0 16384) 8 (.store 1)], (grp 0 .freeing).spadHolds a.loc = false)
        ∧ (grp 0 .freeing).phys < 256 ∧ (grp 0 .freeing).spadBase % 16 = 0 ∧ (grp 0 .freeing).spadSize % 16 = 0)
    -- the last group of the one kernel of a replay
    ∧ (rep1.kernels.length = 1 ∧ 1 ≤ (KRun.retired ⟨[], [], none, [], [], none, []⟩).length + 1) :=
  ⟨by and_intros <;> decide +kernel,
    ⟨by decide +kernel, by decide +kernel, by decide +kernel, by decide, by decide +kernel, by decide +kernel, fun x h => by cases h; rfl⟩,
    ⟨by decide +kernel, ⟨_, rfl, _, rfl, by decide, rfl⟩, by decide +kernel⟩, by decide +kernel, by and_intros <;> decide +kernel, by decide⟩

/-- The loaded machine whose replay has generation 5, with these tag entries, publications and a TAGWAIT of the thread. -/
def tagState (es : List TagEntry) : State :=
  let s := host
  { s with tags := es, replays := s.replays.map fun r => { r with seq := 5 }
           pubs := [⟨70, 0, 2, 1, 0x01000000, some 3, none, false, Stamp.zero, 0⟩]
           pends := [⟨71, 3, .l 0, .tagwait 0x01000000 false⟩] }

def tagEntry (gen : BitVec 16) (pub : Bool) (ws : List Waiter) : TagEntry := ⟨0, 0x01000000, gen, pub, 1, ws, 0, Stamp.zero, 0⟩

/-- A publication and a TAGWAIT that meet no entry, and one of the same generation, an older and a newer one, at the ends of
their ranges; a waiting group's look; and the range unit's requests. -/
theorem test_hyp_TagTableAndRangeUnit :
    (∀ es ∈ [[], [tagEntry 5 true []], [tagEntry 5 false [.thread 71]], [tagEntry 4 true []], [tagEntry 6 true []],
        [tagEntry (5 + 32767) true []], [tagEntry (5 - 32767) false []]],
      let s := tagState es
      (s.pubs.find? (fun x => x.id == 70)).isSome = true ∧ (s.replay? 1).map (·.seq) = some 5
        ∧ s.tag? 0 0x01000000 = es.head? ∧ s.pends.find? (fun x => x.id == 71) = some ⟨71, 3, .l 0, .tagwait 0x01000000 false⟩
        ∧ (s.thread? 3).isSome = true ∧ (s.replayOf? 2).isSome = true
        ∧ s.producerFin (s.replays.head?.getD rep1) 0x01000000 = none ∧ s.tags.length < 65536)
    -- a look at a tensor in fallback
    ∧ (let r := { rep1 with fallback := [1] }
       r.fallback.contains (BitVec.toNat 0x01000000#32 / 2 ^ 24) = true ∧ (tagState []).producerFin r 0x01000000 = none)
    -- a revoke that no request waits for
    ∧ (let s : State := { host with ranges := (host).ranges.set 63 { (host).ranges[63] with revoking := some (hdr, [5]) } }
       s.ranges[63].revoking = some (hdr, [5]) ∧ (∀ p ∈ s.pends, p.id ∉ [5]) ∧ ∀ a ∈ s.arrivals, a.seq ∉ [5])
    ∧ (∀ es ∈ [[], [tagEntry 0 true []]],
        let s := launching 1 (fun k => { k with intags := [(1, 0, 0, 0, 0)] }) fun s => { s with tags := es }
        s.replay? 1 = some rep1 ∧ (∃ g ∈ s.graphs, ∃ k ∈ g.kernels, 0x01000000#32 ∈ k.inputTags 0 ∧ 0 < k.grid)
          ∧ s.tagRise rep1 ⟨[], [], none, [], [], none, []⟩ 0 0x01000000 = none
          ∧ 0 ∉ (KRun.started ⟨[], [], none, [], [], none, []⟩))
    ∧ (∀ q ∈ [(⟨72, 3, .l 13, .take 63⟩ : Pend), ⟨72, 3, .zero, .takeArm 63 0 8 1 1⟩],
        let s := { host with pends := [q] }
        s.pends.find? (fun x => x.id == 72) = some q ∧ ∀ x ∈ s.pends, x.uid = q.uid → x.op.rangeNo = some 63 → q.id ≤ x.id)
    ∧ (let r : Range := ⟨some 0, true, 0, 7, 1, 1, none⟩
       r.next < r.stop ∧ r.stop - r.next ≤ 2 * r.p * (4 : Nat) ∧ 2 * r.p * (4 : Nat) < r.stop - r.next + 2 * r.p) := by
  and_intros <;> decide +kernel

/-- A family that its creator delegates, at the stage of the probe that is given. -/
def delegated (p : Probe) : State :=
  let s := host fun c => { c with allot := [0, 1, 2, 3, 4, 5] }
  { s with families := [{ fam 0 4 0x0B with started := true, probe := some p }]
           threads := s.threads.map fun t => { t with run := .probing 50, pc := 64 }
           lmap := List.range 256, fresh := 100 }

/-- That machine with a free-slot summary taken 1 µs ago. -/
def summed (sum : List (Nat × Nat)) : State :=
  { delegated ⟨false, [], none, 0⟩ with summary := sum, summaryAt := some 0, now := 1000 }

theorem test_hyp_DelegationProbes :
    -- five clusters with room, and none; and the creator's frame
    (∀ sum ∈ [[(1, 4), (2, 9), (3, 9), (4, 1), (5, 2), (0, 50)], [(0, 50), (1, 0), (9, 3)]],
        (sum.map (·.1)).Nodup ∧ (summed sum).family? 50 = some { fam 0 4 0x0B with started := true, probe := some ⟨false, [], none, 0⟩ }
          ∧ ((summed sum).ctx? 0).isSome = true ∧ (summed sum).summaryAt = some 0 ∧ (summed sum).now ≤ 0 + 1000
          ∧ ((summed sum).thread? 3).map (·.run) = some (.probing 50)
          ∧ ((summed sum).thread? 3).any (fun t => ((summed sum).freeFrame t).isSome) = true)
    ∧ ((fam 0 4 0x0B).inPlace 5 = true ∧ (fam 0 4 0x0B).lcl = 0)
    -- no summary, and one that is too old
    ∧ ((delegated ⟨false, [], none, 0⟩).summaryAt = none ∧ ({ summed [] with now := 1001 } : State).summaryAt = some 0 ∧ 0 + 1000 < 1001)
    ∧ (∀ b ∈ [true, false], (delegated ⟨true, [1, 2], none, 0⟩).physOf 1 = some 1
        ∧ ((delegated ⟨true, [1, 2], some (1, b), 0⟩).family? 50).map (·.probe) = some (some ⟨true, [1, 2], some (1, b), 0⟩))
    ∧ (delegated ⟨true, [1, 2], none, 0⟩).mayHost 0 1 1 = true ∧ (fam 0 4 0x0B).killed = false
    ∧ ({ delegated ⟨true, [1, 2], none, 0⟩ with clusters := [{ Cluster.fresh 1 with fenced := true }] }).mayHost 0 1 1 = false := by
  and_intros <;> decide +kernel

theorem test_hyp_ForwardsKillsAndEnds :
    -- a forward to a started member, and to the lowest unstarted one
    (let w : Fwd := ⟨80, 50, 0, 0, 7, 3, 0, Stamp.zero⟩
     let f : Family := { fam 0 4 0 with started := true, next := 2 }
     let t : Thread := { thr with uid := 6, slot := 2, kind := .member 50 1 }
     let s : State := { host with fwds := [w], families := [f], threads := [t], fresh := 100 }
     s.fwds.find? (fun x => x.id == 80) = some w ∧ s.fwdHeld w = false ∧ s.family? 50 = some f ∧ f.hostPhys < 256
       ∧ s.threads.find? (fun x => x.member? == some (50, 1) && x.live) = some t
       ∧ (let s' : State := { s with threads := [], families := [{ f with next := 1 }] }
          s'.fwdHeld w = false ∧ (∀ x ∈ s'.threads, x.member? = some (50, 1) → x.live = false) ∧ ({ f with next := 1 } : Family).more = true))
    -- kills of a running and of a reserved family
    ∧ (∀ f ∈ [{ fam 0 4 0 with started := true }, fam 0 4 0],
        let s : State := { host with kills := [⟨81, 50, false⟩], families := [f] }
        s.kills.find? (fun x => x.id == 81) = some ⟨81, 50, false⟩ ∧ s.family? 50 = some f ∧ f.status = none
          ∧ ∀ x ∈ s.threads, ∀ y ∈ s.threads, x.uid = y.uid → x = y)
    -- a kill held for a saved cluster
    ∧ 256 ≤ ({ fam 0 4 0 with hostPhys := 256 } : Family).hostPhys
    -- a thread that has drained and one that has not; a root that may go, and a member whose s0 is not passed on yet
    ∧ (let t : Thread := { thr with run := .exiting }
       ({ host with threads := [t] }).thread? 3 = some t ∧ (host).fresh = 4 ∧ ({ host with threads := [t] }).drained t = true
         ∧ ({ host with threads := [t], accs := [acc 9 (.spad 0 0) 8 (.store 1)] }).drained t = false
         ∧ (({ host with threads := [t] }).pass t).thread? 3 = some { t with run := .passing, full := (({ host with threads := [t] }).pass t).thread? 3 |>.elim 0 (·.full), pend := (({ host with threads := [t] }).pass t).thread? 3 |>.elim 0 (·.pend) }
         ∧ ((({ host with threads := [t] }).pass t).thread? 3).any (fun x => (({ host with threads := [t] }).pass t).mayEnd x) = true)
    ∧ (let t : Thread := { thr with run := .exiting, kind := .member 50 0, full := 0 }
       let s : State := { host with threads := [t], families := [{ fam 0 4 0 with started := true, next := 1 }] }
       s.drained t = true ∧ ((s.pass t).thread? 3).any (fun x => !(s.pass t).mayEnd x) = true) := by
  and_intros <;> decide +kernel

/-! ### Translation, units, faults, saving and power -/

/-- Four tables that map virtual page 0 to the 64 KiB at 0x10000, writable and pinned (R327). -/
def tables : List Host.Cell :=
  Mem.setLE (Mem.setLE (Mem.setLE (Mem.setLE [] 0x1000 8 0x2001) 0x2000 8 0x3001) 0x3000 8 0x4001) 0x4000 8 0x10017

/-- The loaded context with those tables, and a window of the mapped page for context 6 of device 5. -/
def mapped (f : State → State := id) : State :=
  f { host (fun c => { c with ptRoot := some 0x1000, grants := [(0, 0x100000)], window := some ⟨0, 65536, [(5, 6)]⟩ }) with mem := tables }

def mctx : Context :=
  ctx1 fun c => { c with ptRoot := some 0x1000, grants := [(0, 0x100000)], window := some ⟨0, 65536, [(5, 6)]⟩ }

/-- A walk of page 0 that is about to read its entry of a level in the table at `t`. -/
def walking (level t : Nat) (f : State → State := id) : State := mapped fun s => f { s with walks := [⟨0, 0, 0, level, t⟩] }

theorem test_hyp_TranslationAndPeers :
    -- a TLB that holds the page, a miss with a table to start at, and an entry that goes on, ends in a leaf and ends in a fault
    ((mapped).ctx? 0 = some mctx ∧ (mapped fun s => { s with tlb := [⟨0, 256, 0, 65536, 65536, true, true, false⟩] }).tlbHit 256 0 0xFFFF ≠ none
        ∧ (mapped).tlbHit 0 0 0xFFFF = none ∧ (mapped).tlbHit 256 0 0xFFFF = none ∧ (mapped).walkFor 0 0 0xFFFF = none
        ∧ mctx.ptRoot = some 0x1000 ∧ covered mctx.grants 0x1000 4096 = true ∧ ((mapped).walksOn 0).length < 256)
    ∧ (∀ x ∈ [(0, 0x1000), (3, 0x4000), (3, 0x5000)], (walking x.1 x.2).walkFor 0 0 0xFFFF = some ⟨0, 0, 0, x.1, x.2⟩
        ∧ (walking x.1 x.2).homeBusy (.hbm x.2) 8 (none, 10, 0) = false ∧ (walking x.1 x.2).poisoned (.hbm x.2) 8 = false)
    ∧ (BitVec.getLsbD (0x2001 : Word) 1 = false ∧ BitVec.getLsbD (0x10017 : Word) 1 = true ∧ BitVec.getLsbD (0 : Word) 0 = false
        ∧ Mem.getLE (walking 0 0x1000).mem 0x1000 8 = 0x2001 ∧ Mem.getLE (walking 3 0x4000).mem 0x4000 8 = 0x10017
        ∧ Mem.getLE (walking 3 0x5000).mem 0x5000 8 = 0)
    -- a poisoned entry
    ∧ ((walking 3 0x4000 fun s => { s with poison := [0x4000 / 8] }).poisoned (.hbm 0x4000) 8 = true ∧ mctx.freeze = none)
    -- shootdowns of each kind
    ∧ (∀ f ∈ [SdFor.thread 3, .command hdr, .grants hdr [(0, 65536)] []],
        let d : Shootdown := ⟨90, 0, 0, 65536, false, f⟩
        let s := mapped fun s => { s with shoots := [d], tlb := [⟨0, 0, 0, 65536, 65536, true, true, false⟩, ⟨0, 0, 65536, 65536, 0, true, true, false⟩] }
        s.shoots.find? (fun x => x.id == 90) = some d ∧ s.rangeInUse d = false ∧ s.grantsBefore d = false)
    -- a peer that reads the last bytes of the window, one that goes beyond it, and one that is not in the source list
    ∧ (Allowed mctx.winSrcs mctx.winPolicy hdr.env ∧ mctx.window = some ⟨0, 65536, [(5, 6)]⟩ ∧ 65528 + 8 ≤ 65536 ∧ mctx.destroying = none
        ∧ ((mapped).windowPlace mctx ⟨0, 65536, [(5, 6)]⟩ 65528 (PeerOp.writes .load)).1 = some 0x1FFF8
        ∧ ((host fun c => { c with ptRoot := none, window := some ⟨0, 65536, [(5, 6)]⟩ }).windowPlace
            (ctx1 fun c => { c with ptRoot := none, window := some ⟨0, 65536, [(5, 6)]⟩ }) ⟨0, 65536, [(5, 6)]⟩ 0 true).1 = none
        ∧ (∀ w, mctx.window = some w → (5, 6) ∈ w.accept → w.length < 65529 + 8)
        ∧ ¬ Allowed mctx.winSrcs mctx.winPolicy { hdr.env with src := 2 })
    -- a lost peer
    ∧ (let a := acc 9 (.peer 511 0) 8 (.store 1)
       a ∈ ({ mapped with accs := [a] } : State).accs ∧ a.ctx = mctx.id ∧ a.loc.atPeer (mctx.peerId 511) = true) :=
  ⟨by and_intros <;> decide +kernel, by decide +kernel, by and_intros <;> decide +kernel, by and_intros <;> decide +kernel, by decide +kernel,
    ⟨by decide, rfl, by decide, rfl, by decide +kernel, by decide +kernel, fun w h _ => by cases h; decide, by decide⟩, by and_intros <;> decide⟩

/-- The loaded machine whose core 0 is changed and owned by the thread. -/
def coreIs (f : CoreSt → CoreSt) : State := { owned f with port := none }

/-- Unit 1 bound in to w1 at a base. -/
def fetching (base : Word) : State :=
  let u : Stream := { Stream.fresh with cfg := some (base, 0x0001000001000004, 0, 0x20), bound := some 1 }
  coreIs fun k => { k with streams := k.streams.set 1 u }

theorem both {α : Type} {p : α → Prop} {a b : α} (ha : p a) (hb : p b) : ∀ x ∈ [a, b], p x := by
  intro x h
  simp only [List.mem_cons, List.not_mem_nil, or_false] at h
  rcases h with rfl | rfl <;> assumption

/-- The error of a result. -/
def errorOf {α β : Type} (x : Except α β) : Option α := match x with | .error e => some e | .ok _ => none

theorem ok_of {α β : Type} {x : Except α β} {b : β} (h : x.toOption = some b) : x = .ok b := by
  cases x <;> simp_all [Except.toOption]

theorem error_of {α β : Type} {x : Except α β} {e : α} (h : errorOf x = some e) : x = .error e := by
  cases x <;> simp_all [errorOf]

/-- A run of one body instruction at address 4, with one pass left. -/
def run1 : SeqRun := ⟨3, 0, 0, 0, 1, false, false⟩

theorem test_hyp_StreamAndSequencerUnits :
    (∀ b ∈ [(0xE200000000000000 : Word), 0x1200000000000000],
      ((fetching b).coreAt 0 0).streams[1].nextFetch = some ((b, 0x0001000001000004, 0, 0x20), 0)
        ∧ ((fetching b).coreAt 0 0).owner = some 3 ∧ (fetching b).thread? 3 = some thr ∧ ((fetching b).clusterAt 0).stopped = false)
    ∧ ((fetching 0xE200000000000000).homeBusy (.spad 0 0) 32 (none, 0, 0) = false ∧ (fetching 0xE200000000000000).poisoned (.spad 0 0) 32 = false
        ∧ (Loc.spad 0 0).present = true
        ∧ ({ fetching 0xE200000000000000 with accs := [{ acc 9 (.spad 0 0) 8 (.store 1) with agedAt := some 0 }] } : State).homeBusy (.spad 0 0) 32 (none, 0, 0) = true)
    ∧ ((fetching 0xE200000000000000).resolve thr.issuer .plain (streamAddr (0xE200000000000000, 0x0001000001000004, 0, 0x20) 0) 32 false false false).1
        = .ok (.spad 0 0)
    ∧ ((fetching 0x1200000000000000).resolve thr.issuer .plain (streamAddr (0x1200000000000000, 0x0001000001000004, 0, 0x20) 0) 32 false false false).1
        = .error ⟨0x05, 0x1200000000000000, 0, none, none, none⟩
    ∧ (let s := { coreIs (fun k => { k with seqr := some run1 }) with mem := Mem.setLE [] (Loc.code 4).key 4 0x000080C1 }
       (s.coreAt 0 0).seqr = some run1 ∧ s.runReady (s.coreAt 0 0) run1 = true ∧ run1.addr = 4 ∧ (s.coreAt 0 0).wideBusy = false
         ∧ s.codeBad 0 4 4 = false ∧ ({ s with poison := [codeKey 0 0 / 8] } : State).codeBad 0 4 4 = true
         ∧ s.fetchWord 1 4 = .ok Guard.always (.vadd 0 1 0 .i8) ∧ (table137 thr.fenv (.vadd 0 1 0 .i8)).isSome = true
         ∧ (∀ x ∈ [Operand.wide 0, .wide 1], s.verdict thr ⟨3, Guard.always, none, true⟩ (.vadd 0 1 0 .i8) ≠ .wait (.operand x)))
    ∧ (coreIs fun k => { k with seqr := some run1 }).fetchWord 1 run1.addr = .illegal
    ∧ ((coreIs fun k => { k with seqr := some run1, wideBusy := true }).coreAt 0 0).wideBusy = true :=
  ⟨both (by decide +kernel) (by decide +kernel), by and_intros <;> decide +kernel, ok_of (by decide +kernel), error_of (by decide +kernel), by and_intros <;> decide +kernel, by decide +kernel, rfl⟩

/-- A matrix operation of the thread. -/
def mop (k : MKind) (got : List (Nat × BitVec 32) := []) (sent : Bool := false) : MOp :=
  ⟨9, 3, 0, k, fmt16, none, [], .ready, got, sent, Stamp.zero⟩

/-- The operation at the head of core 0's queue, and in the array or not. -/
def queued (m : MOp) (inArray : Bool) (f : State → State := id) : State :=
  f ((coreIs fun k => { k with mq := [m] }).updCluster 0 fun k => { k with array := if inArray then some (0, 9) else none })

/-- An integer MMA whose operands are all padding but one, which has been read. -/
def mmaOp : MOp := mop (.mma 1 (some (.spad 0 0) :: List.replicate 255 none) (List.replicate 512 none) [] []) [(0, 3)]

theorem test_hyp_MatrixUnitOperations :
    (let s := queued (mop (.mz 0)) false
     (s.coreAt 0 0).mq = [mop (.mz 0)] ∧ (mop (.mz 0)).staged = true ∧ (s.clusterAt 0).array = none ∧ (s.clusterAt 0).stopped = false
       ∧ (s.clusterAt 0).matPt ≠ .gated ∧ s.nextMatrixCore 0 = some 0)
    ∧ (∀ m ∈ [mop (.mz 0), mop (.mz 1), mmaOp, mop (.mst 0 [.spad 0 0] 0x00800002 []), mop (.mst 1 [.spad 0 0] 0x00800002 []) [] true],
        ((queued m true).clusterAt 0).array = some (0, 9) ∧ ((queued m true).coreAt 0 0).mq.find? (fun x => x.id == 9) = some m
          ∧ ((queued m true).thread? m.uid).isSome = true)
    ∧ (mclass (mfa mmaOp.fmt) (mfb mmaOp.fmt) = some .integer
        ∧ (∀ pos l w, mmaOp.operands[pos]? = some (some l, w) → mmaOp.got.lookup pos ≠ none) ∧ 256 = 16 * mdepth mmaOp.fmt ∧ 512 = 32 * mdepth mmaOp.fmt)
    ∧ (queued (mop (.mst 1 [.spad 0 0] 0x00800002 []) [] true) true).accs = [] := by
  refine ⟨by and_intros <;> decide +kernel, by decide +kernel, ⟨by decide +kernel, ?_, by decide +kernel, by decide +kernel⟩, rfl⟩
  intro pos l w h
  rcases pos with _ | p
  · decide +kernel
  · exfalso
    have : ∀ x ∈ mmaOp.operands.drop 1, x.1 = none := by decide +kernel
    have h' : (mmaOp.operands.drop 1)[p]? = some (some l, w) := by rw [List.getElem?_drop, Nat.add_comm]; exact h
    simpa using this _ (List.mem_of_getElem? h')

/-- The machine with that copy, communicator 0 of three ranks with a collective open, and a far-tier entry. -/
def copying (c : Copy) (open_ : List Coll := []) (now : Nat := 0) : State :=
  { (one fun t => { t with tokens := t.tokens.set 7 1 }).updCtx 0 fun c =>
      { c with far := [(1, ⟨0, 0, 1000⟩)], comms := [⟨0, 3, 1, 0, 0, 0, 50, open_.length, open_, []⟩] } with
    copies := [c], now := now, fresh := 100, port := none }

def coll1 (ring : Bool) (msgs : List CollMsg) : Coll := ⟨0, 60, 0, 2, 1, ring, [.hbm 0], [.hbm 256], msgs⟩

theorem test_hyp_CopyProgress :
    (let c := cp (.cpg true) [(.spad 0 0, [.hbm 64])] false
     hdr.ctx = c.ctx ∧ (copying c).copies.find? (fun x => x.id == 60) = some c ∧ (copying c).copyTurn c = true ∧ Mem.wf (copying c).mem = true
       ∧ NoWatch (copying c) (.hbm 64) 16 ∧ ((copying c).thread? 3).any (fun t => t.wait.isNone) = true
       ∧ ((copying c).takeBurst c 1).homeBusy (.spad 0 0) 16 (none, 8, 60) = false
       ∧ ((copying c).takeBurst c 1).homeBusy (.hbm 64) 16 (none, 8, 60) = false
       ∧ (copying c).poisoned (.spad 0 0) 16 = false ∧ (copying c).hosted? 3 = none)
    -- an endpoint of the far tier and one of a communicator that accept source 1, and source 2 at neither
    ∧ (∀ n ∈ [0, 1], acceptsAt [(n, [1], .required)] n hdr.env = true ∧ acceptsAt [(n, [1], .required)] n { hdr.env with src := 2 } = false)
    ∧ (∀ now ∈ [0, 999999, 1000000], let c := cp (.farOut 5 1 1) [(.hbm 0, [])] true
        (copying c [] now).copies.find? (fun x => x.id == 60) = some c ∧ c.sent = true ∧ (copying c [] now).farTimeout c = 1000000)
    ∧ (let c := cp (.farIn 5 1 none) [(.hbm 0, [.hbm 0])] true
       (copying c).copies.find? (fun x => x.id == 60) = some c ∧ c.got = [] ∧ (∀ u ∈ c.units, u.2 ≠ []) ∧ pageOfWire [] = none)
    -- a message that comes early, one of an open collective, one that completes it in disagreement, and a timeout
    ∧ (let c := cp (.coll 0 0 4) [(.hbm 0, [])] true
       let m0 : CollMsg := ⟨0, 0, 0, 2, 1, [5]⟩
       let m1 : CollMsg := ⟨1, 0, 0, 2, 1, [5]⟩
       (((copying c [coll1 true []]).commOf 0 0).any (fun m => decide (m.p = 3) && decide (m.issued ≤ 1) && m.early.isEmpty
           && m.open_.all fun y => y.k != 1) = true)
         ∧ ((copying c [coll1 true [m1]]).commOf 0 0).map (·.open_) = some [coll1 true [m1]]
         ∧ disagrees 3 ([m0, m1] ++ [⟨2, 0, 1, 2, 1, [5]⟩]) = some 2
         ∧ (∀ ring ∈ [true, false], (copying c [coll1 ring [m1]] 50000).collCopy 0 0 = some (c, 0))
         ∧ ((copying c []).commOf 0 0).any (fun m => (m.open_.find? fun y => y.k == 0).isNone) = true) := by
  and_intros <;> decide +kernel

/-- A page of zeros as the wire carries it: its length, version 1, 256 modes of 0 and no payload (R246). -/
theorem test_hyp_CopyProgress_page : (pageOfWire (leBytes 8 0 ++ leBytes 4 1296 ++ leBytes 2 1 ++ List.replicate 1282 0)).isSome = true := by
  decide +kernel

/-- A trap of `victim` at the head of its core's queue, with a service body at 64 in the loaded graph, or none. -/
def trapped (vec : Word) : State :=
  let s := (coreIs fun k => { k with trapQ := [trapRec] }).updCtx 0 fun c => { c with trapVec := vec }
  { s with threads := s.threads ++ [victim], fresh := 100 }

/-- A freeze of context 0 with one fault. -/
def frz (complete : Option Nat) (expires : Option Nat) : Freeze :=
  ⟨[⟨0x45, 0, 0, 0, 0, 0, 0, 0, 0, 0, 0⟩], 1, complete, expires, 1000, false⟩

theorem test_hyp_TrapServiceAndFreezes :
    (∀ vec ∈ [(0x0000000111100040 : Word), 0],
      ((trapped vec).coreAt 0 0).trapQ = [trapRec] ∧ ((trapped vec).coreAt 0 0).serving = none ∧ (trapped vec).thread? 4 = some victim
        ∧ victim.live = true ∧ ((trapped vec).clusterAt 0).stopped = false ∧ (trapped vec).writesArrived victim = true ∧ (trapped vec).accessesDone victim = true)
    ∧ (((trapped 0x0000000111100040).ctx? 0).any (fun x => ((trapped 0x0000000111100040).serviceGraph x).isSome) = true
        ∧ ((trapped 0).ctx? 0).any (fun x => ((trapped 0).serviceGraph x).isNone && x.freeze.isNone) = true)
    -- a freeze that is complete but for its drain, and one whose limit runs out
    ∧ (let s : State := { host (fun c => { c with freeze := some (frz none none) }) with clusters := [{ Cluster.fresh 0 with ctx := some 0, stopped := true }] }
       ∀ k ∈ s.clusters, k.ctx = some 0 → (s.clusterAt k.phys).stopped = true ∧ (s.clusterAt k.phys).saving = false
         ∧ s.clusterDrained k.phys = true)
    ∧ (∀ now ∈ [4, 5], let s : State := { host (fun c => { c with freeze := some (frz (some 0) (some 5)) }) with now := now, freezeOrder := [0] }
        ((s.ctx? 0).map (·.due now)) = some (decide (5 ≤ now)) ∧ ∀ i ∈ s.freezeOrder.takeWhile (· != 0), ∀ x, s.ctx? i = some x → x.due s.now = false)
    -- a release with a dump whose turn is not come, and one whose is
    ∧ (let c (i : Nat) : Context := ctx1 fun c => { c with id := i, freeze := some (frz (some 0) (some 5)), releaseReq := some (hdr, true) }
       (let s : State := { host with ctxs := [c 0, c 1], freezeOrder := [1, 0], now := 5 }
        ∃ i ∈ s.freezeOrder.takeWhile (· != 0), (s.ctx? i).any (·.due s.now) = true)
         ∧ ∀ i ∈ [0, 1].takeWhile (· != 0), (({ host with ctxs := [c 0, c 1] } : State).ctx? i).all (fun x => !x.due 5) = true)
    -- watchdogs: a ready thread's core, an idle core, and a group whose thread waits for a load
    ∧ ((host).workIn (.core 0 0) = [0] ∧ (host).workIn (.core 0 1) = [])
    ∧ (let t : Thread := { thr with full := thr.full.setWidth 50 &&& ~~~2, pend := 2 }
       let s : State := { one (fun _ => t) with mem := Mem.setLE [] (Loc.code 0).key 4 0x00C43009, accs := [acc 9 (.hbm 0) 8 (.load .zx (.int (.l 1)))] }
       s.group? 2 ≠ none ∧ s.threads.find? (fun y => y.group == 2 && (y.run == .running && s.owedWait y)) = some t
         ∧ (∀ y ∈ s.threads, y.run.isTrapped = false ∧ y.run ≠ .held)
         ∧ (s.clusterAt 0).stopped = false ∧ s.waking 0 = false)
    -- a record whose thread has ended
    ∧ (let s := coreIs fun k => { k with trapQ := [trapRec] }
       (s.coreAt 0 0).trapQ = [trapRec] ∧ (s.coreAt 0 0).serving = none ∧ s.thread? 4 = none) :=
  ⟨both (by decide +kernel) (by decide +kernel), by and_intros <;> decide +kernel, by decide +kernel,
    fun now h => by
      simp only [List.mem_cons, List.not_mem_nil, or_false] at h
      rcases h with rfl | rfl <;> exact ⟨by decide +kernel, fun i hi => by simp at hi⟩,
    by and_intros <;> decide +kernel, by and_intros <;> decide +kernel, by and_intros <;> decide +kernel,
    by and_intros <;> decide +kernel⟩

/-- The loaded machine on cluster 0, stopped, with a second context at the same level whose graph waits for the cluster. -/
def contested (stopped : Bool) (now : Nat) (waits : Bool) : State :=
  let s := host
  { s with now := now
           clusters := [{ Cluster.fresh 0 with ctx := some 0, lastCtx := some 0, stopped := stopped, saving := stopped, lcl := some 0 }]
           ctxs := [ctx1, { ctx1 with id := 1 }]
           graphs := s.graphs ++ s.graphs.map fun g => { g with id := 2, ctx := 1 }
           replays := if waits then s.replays ++ [{ rep1 with uid := 8, ctx := 1, graph := 2 }] else s.replays
           fresh := 100 }

theorem test_hyp_SavingAndRestoring :
    (∀ x ∈ [(99999, false), (100000000, true), (100000000, false)],
      let s := contested false x.1 x.2
      s.ctx? 0 = some ctx1 ∧ (s.clusterAt 0).ctx = some 0 ∧ (s.clusterAt 0).stopped = false ∧ (ctx1).freeze = none
        ∧ (∃ y ∈ s.ctxs, y.id ≠ 0 ∧ (ctx1).prio ≤ y.prio) ∧ ((s.ctxs.any fun y => y.id != 0 && s.wantsCluster y 0) = x.2)
        ∧ (s.clusterAt 0).lcl = some 0)
    ∧ (let s := contested true 0 false
       (s.clusterAt 0).stopped = true ∧ (s.clusterAt 0).saving = true ∧ s.clusterDrained 0 = true ∧ s.settledGroups 0 = true ∧ s.standingLcl 0 = some 0)
    ∧ ((contested true 0 false).freeRecord + recordSize ≤ 2 ^ 40 ∧ Mem.wf (contested true 0 false).mem = true)
    ∧ (let r : SaveRec := ⟨0, 0, 0, [thr], [], [], [], [], 0, false⟩
       let s : State := { host with saves := [r], threads := [], groups := [], clusters := [] }
       (ctx1).active = true ∧ s.saves.find? (fun y => y.ctx == 0 && y.lcl == 0) = some r ∧ s.restorePlace (ctx1) r = some 0) := by
  and_intros <;> decide +kernel

theorem test_hyp_IslandsErrorsAndPorts :
    -- words of each kind that exist, and ones that do not
    (∀ w ∈ [Stored.mem 0, .mem (Loc.spad 255 0x1FFFF8).key, .code 255 8, .frame 0 7 63 71, .granules 0 0, .tlb 257 [0], .tags [0], .save 0 0 0],
        Stored.exists_ w = true)
    ∧ (Stored.exists_ (.code 256 0) = false ∧ Stored.exists_ (.mem (2 ^ 64)) = false)
    ∧ (∀ w ∈ [Stored.mem 0, .tags [0], .code 256 0, .mem (2 ^ 64)], (host).wordOf w = w) ∧ (host).wordOf (.mem 71) = .mem 64
    ∧ (Stored.poison (.mem 64) = some 8 ∧ Stored.poison (.tags [0]) = none ∧ Stored.cluster (.mem (Loc.spad 255 0).key) = some 255)
    ∧ (let s : State := { host with tags := [⟨0, 0x01000000, 0, true, 1, [], 0, Stamp.zero, 0⟩] }
       0 ∈ s.holders (.tags [0]) ∧ (s.ctx? 0).map (·.freeze) = some none)
    -- 998 and 999 retries of a link; a port that is up and one that is not
    ∧ (∀ n ∈ [998, 999], let s : State := { host with linkRetries := List.replicate n (3, 0) }
      ((s.linkRetries.filter fun r => decide (s.now < r.2 + 1000000000)).filter fun r => r.1 == 3).length = n)
    ∧ ((host).ports.getLsbD 15 = true ∧ (host).ports.getLsbD 0 ≠ false)
    -- fencing: a cluster that is held, one held by a frozen context, and one that is empty
    ∧ (let s : State := { host with clusters := [{ Cluster.fresh 255 with fencing := true, ctx := some 0 }] }
       (s.clusterAt 255).fenced = false ∧ ((s.clusterAt 255).fencing || s.fenceDue 255) = true ∧ (s.clusterAt 255).ctx = some 0
         ∧ (s.ctx? 0).map (·.freeze) = some none)
    ∧ ((host fun c => { c with freeze := some (frz none none) }).ctx? 0).map (·.freeze) = some (some (frz none none))
    ∧ (let s : State := { host with clusters := [{ Cluster.fresh 255 with faults := [0, 0] }] }
       s.fenceDue 255 = true ∧ (s.clusterAt 255).ctx = none ∧ s.vacant 255 = true)
    -- islands: idle and at the full point, and gated with work
    ∧ ((host).clusterAt 1).matPt ≠ .gated ∧ ((host).clusterAt 1).matPt ≠ .low ∧ (host).matrixIdle 1 = true ∧ (host).coreIdle 1 = true
    ∧ (host).frozenOn 1 = false
    ∧ (let s : State := { host (fun c => { c with freeze := some (frz none none) }) with clusters := [{ Cluster.fresh 0 with ctx := some 0 }] }
       s.frozenOn 0 = true)
    ∧ (let s : State := { host with clusters := [{ Cluster.fresh 0 with corePt := .gated, matPt := .gated }], cores := [{ CoreSt.fresh 0 0 with mq := [mop (.mz 0)] }] }
       (s.clusterAt 0).corePt = .gated ∧ (∃ g ∈ s.groups, g.phys = 0) ∧ (s.clusterAt 0).matPt = .gated ∧ ∃ k ∈ s.cores, k.phys = 0 ∧ k.mq ≠ []) := by
  and_intros <;> decide +kernel

/-! ### Endpoints, loader, machine -/

/-- The loaded machine whose management endpoint takes secured messages of source 1. -/
def managed (f : Context → Context := id) : State :=
  let s := host f
  { s with cfg := { s.cfg with mgmtSrcs := [1], mgmtPolicy := .required } }

/-- The loaded context with a debugger attached. -/
def attachedCtx (f : Context → Context := id) : Context := ctx1 fun c => f { c with debugger := some 1 }

def debugged (f : Context → Context := id) : State := host fun c => f { c with debugger := some 1 }

theorem test_hyp_RequestsAtEndpoints :
    commandOp (.setJobSeed hdr 5) = some (hdr, 0x18) ∧ manageOp (.createContext ⟨hdr, 0⟩) = some (hdr, 1) ∧ debugOp (.debugDetach hdr) = some (hdr, 0x21)
    ∧ (∀ c, (host).ctx? 0 = some c → ¬ Allowed c.cmdSrcs c.cmdPolicy { hdr.env with src := 9 })
    ∧ (∀ c, (host).ctx? 0 = some c → ¬ Allowed c.cmdSrcs c.cmdPolicy { hdr.env with secured := false })
    ∧ (∀ c, (host).ctx? 0 = some c → ¬ Allowed c.dbgSrcs c.dbgPolicy { hdr.env with src := 9 })
    ∧ ForContext (host) hdr (ctx1) ∧ ForContext (host) { hdr with wellFormed := false } (ctx1)
    ∧ (managed).boot ≠ .off ∧ ForManagement (managed) hdr ∧ ¬ Allowed (managed).cfg.mgmtSrcs (managed).cfg.mgmtPolicy { hdr.env with roce := true }
    ∧ ForDebugger (host) hdr (ctx1) ∧ (ctx1).debugger ≠ some hdr.env.src ∧ ForDebugger (debugged) hdr (attachedCtx) ∧ (attachedCtx).debugger = some hdr.env.src
    ∧ hdr.wellFormed = true
    ∧ (ctx1).id = hdr.ctx ∧ (0 : BitVec 16) = 0 ∧ 0x0C < (0x0D : BitVec 16).toNat ∧ (0x0F : BitVec 16).toNat < 0x10 ∧ 0x1D < (0x1E : BitVec 16).toNat
    ∧ (0x1F : BitVec 16).toNat < 0x20 ∧ 0x29 < (0x2A : BitVec 16).toNat := by
  refine ⟨rfl, rfl, rfl, ?_, ?_, ?_, by and_intros <;> decide⟩ <;> (intro c h; cases h; decide)

/-- An object whose `.text` is one EXIT, the entry body of kernel "k", with one symbol; its header names format version `ver`. -/
def obj (ver : BitVec 32) : Vgo :=
  ⟨true, 1, 0xA960, 0x100 ||| ver, [0x42, 0x02], [], [], 0, [], 0, 0, [⟨"k", some (some .text), 0, true, .func, 2, 0⟩], [],
    [⟨"k", 0, 0x444F, 1, 1, 1, 1, 0, 0, 8, [], [], [], []⟩], [], [0x7F]⟩

/-- Nowhere in particular: the object has no such sections. -/
def nowhere : Placement := ⟨0, 0, 0, 0xE000000000000000⟩

/-- The machine without its graph, so that an upload has room. -/
def emptyHost : State := { host with graphs := [], replays := [], groups := [], threads := [] }

theorem test_hyp_GraphLoading :
    Asks emptyHost hdr (ctx1) ∧ [nowhere].length = [obj 1].length ∧ 1 ≤ (1 : BitVec 8).toNat ∧ (4 : BitVec 8).toNat ≤ 4
    ∧ 4 < (5 : BitVec 8).toNat ∧ 16 < (List.replicate 17 (obj 1)).length
    ∧ emptyHost.codeFit (textTotal [obj 1]) = some 0
    ∧ emptyHost.loadError 0 [obj 1] (emptyHost.layout 0 [obj 1] [nowhere] 0) = none
    ∧ emptyHost.apart 0 (([obj 1].zip [nowhere]).flatMap fun x => sectionClaims x.1 x.2) = true
    ∧ (∀ x ∈ [obj 1].zip [nowhere], emptyHost.placeable (ctx1) x.1 x.2 = true)
    ∧ (emptyHost.loadError 0 [obj 7] (emptyHost.layout 0 [obj 7] [nowhere] 0)).isSome = true
    -- code space that is free in the total and in no piece
    ∧ (let s : State := { emptyHost with graphs := [{ g1 with textBase := 100000, textSize := 100000 }] }
       s.codeFit 150000 = none ∧ 100000 + 150000 ≤ 262144)
    -- an upload that fits nowhere, and one that has waited and fits
    ∧ (let s : State := { emptyHost with graphs := [{ g1 with textSize := 131071 }, { g1 with textBase := 131072, textSize := 131071 }] }
       s.codeFit (textTotal [obj 1]) = none ∧ s.loadError 0 [obj 1] (s.layout 0 [obj 1] [nowhere] 0) = none)
    ∧ (let u : Upload := ⟨hdr, 1, 0, [obj 1], [nowhere]⟩
       let s : State := { emptyHost with uploads := [u] }
       s.uploads.find? (fun v => v.hdr == hdr) = some u ∧ (ctx1).destroying = none ∧ s.codeFit (textTotal [obj 1]) = some 0
         ∧ s.loadError 0 [obj 1] (s.layout 0 [obj 1] [nowhere] 0) = none
         ∧ s.apart 0 (([obj 1].zip [nowhere]).flatMap fun x => sectionClaims x.1 x.2) = true
         ∧ ∀ x ∈ [obj 1].zip [nowhere], s.placeable (ctx1) x.1 x.2 = true)
    ∧ (obj 1).rels = [] ∧ (obj 1).rodata = [] ∧ (obj 1).data = [] ∧ (obj 1).bss = 0 ∧ (obj 1).canopy = [] ∧ Mem.wf emptyHost.mem = true
    -- removals
    ∧ (host).graph? 2 = none ∧ (host).graph? 1 = some g1 ∧ g1.ctx = (ctx1).id ∧ g1.removing = none ∧ ({ g1 with removing := some hdr } : Graph).removing ≠ none
    ∧ ({ host with graphs := [{ g1 with removing := some hdr }] } : State).graph? 1 = some { g1 with removing := some hdr }
    ∧ (∃ x ∈ (host).replays, x.graph = 1)
    ∧ (∀ x ∈ emptyHost.replays, x.graph ≠ 1) ∧ (∀ x, emptyHost.ctx? 0 = some x → ∀ k ∈ x.kicks, k.msg.graph ≠ 1) := by
  and_intros <;> first | decide +kernel | (intro x h; cases h; decide)

/-- The mapped context with secured endpoints, attached or not. -/
theorem test_hyp_CommandRequests :
    Asks (mapped) hdr mctx ∧ (0x2000 : Word).toNat % 4096 = 0 ∧ covered mctx.grants 0x2000 4096 = true ∧ covered mctx.grants 0x100000 4096 = false
    ∧ (511 : BitVec 16).toNat < 512 ∧ 512 ≤ (512 : BitVec 16).toNat ∧ (63 : BitVec 8).toNat < 64 ∧ (15 : BitVec 8).toNat < 16
    ∧ (2 ≤ (512 : BitVec 16).toNat ∧ (512 : BitVec 16).toNat ≤ 512 ∧ (511 : BitVec 16).toNat < (512 : BitVec 16).toNat)
    ∧ (3600000 : BitVec 32).toNat ≤ 3600000 ∧ (∀ k ∈ (emptyHost).clusters, k.ctx ≠ some 1)
    ∧ (∃ k ∈ (contested false 0 false).clusters, k.ctx = some (ctx1).id) ∧ mctx.freeze = none
    ∧ (ctx1 fun c => { c with freeze := some (frz none none) }).freeze ≠ none ∧ (0x3 : Word).toNat % 4 = 3 ∧ (0x10002 : Word).toNat % 4 ≤ 2 := by
  and_intros <;> decide +kernel

/-- An entry that ends a walk in a leaf ends it at its own level. -/
theorem walkStep_level {g : List (Nat × Nat)} {va lv pa z l : Nat} {e : Word} {w p : Bool} (h : walkStep g va lv e = .inl (.leaf pa z w p l)) :
    l = lv := by
  unfold walkStep at h; dsimp only at h
  repeat' split at h
  all_goals first | (cases h; done) | (cases h; rfl)

/-- An entry does the same for every address of its page that stands at virtual 0. -/
theorem walkStep_page {g : List (Nat × Nat)} {a lv : Nat} {e : Word} (h : a < walkSize lv) :
    walkStep g a lv e = (match walkStep g 0 lv e with
      | .inl (.leaf pa z w p l) => .inl (.leaf (pa + a) z w p l)
      | x => x) := by
  unfold walkStep; dsimp only
  rw [Nat.mod_eq_of_lt h, Nat.zero_mod, Nat.add_zero]
  repeat' split
  all_goals first | simp_all; done | (simp_all; aesop)

/-- A leaf that a walk finds with `n` levels left is at one of those levels. -/
theorem walk_level (s : State) (g : List (Nat × Nat)) :
    ∀ n va t pa z w p l, n ≤ 4 → (walkFrom s g va n t).1 = .leaf pa z w p l → 4 - n ≤ l := by
  intro n
  induction n with
  | zero => intro va t pa z w p l _ h; rw [walkFrom] at h; cases h
  | succ n ih =>
    intro va t pa z w p l hn h
    rw [walkFrom] at h
    dsimp only at h
    split at h
    · rename_i e; dsimp only at h; subst h; have := walkStep_level e; omega
    · dsimp only at h; have := ih _ _ _ _ _ _ _ (by omega) h; omega

/-- A walk meets the same entries for every address of the leaf's page that stands at virtual 0. -/
theorem walk_page (s : State) (g : List (Nat × Nat)) (a l : Nat) (hl : l ≤ 3) (h : a < walkSize l) (h2 : a < 2 ^ (43 - 9 * l))
    (h3 : ∀ k ≤ l, a < walkSize k ∨ k = 0) :
    ∀ n t pa z w p, n ≤ 4 → (walkFrom s g 0 n t).1 = .leaf pa z w p l → (walkFrom s g a n t).1 = .leaf (pa + a) z w p l := by
  intro n
  induction n with
  | zero => intro t pa z w p _ h; rw [walkFrom] at h; cases h
  | succ n ih =>
    intro t pa z w p hn e
    have lv := walk_level s g _ _ _ _ _ _ _ _ hn e
    have hi : walkIndex a (3 - n) = walkIndex 0 (3 - n) := by
      have : 2 ^ (43 - 9 * l) ≤ 2 ^ (43 - 9 * (3 - n)) := Nat.pow_le_pow_right (by decide) (by omega)
      simp only [walkIndex, Nat.div_eq_of_lt (show a < 2 ^ (43 - 9 * (3 - n)) by omega), Nat.zero_div]
    have root (e : Word) : walkStep g a (3 - n) e = (match walkStep g 0 (3 - n) e with
        | .inl (.leaf pa z w p l) => .inl (.leaf (pa + a) z w p l)
        | x => x) := by
      rcases h3 (3 - n) (by omega) with h3 | h3
      · exact walkStep_page h3
      · rw [h3]; unfold walkStep; dsimp only; repeat' split
        all_goals simp_all
    rw [walkFrom] at e ⊢
    dsimp only at e ⊢
    rw [hi, root]
    split at e
    · rename_i x hx; dsimp only at e; subst e; rw [hx]
    · rename_i x hx; rw [hx]; exact ih _ _ _ _ _ (by omega) e

/-- A machine whose virtual 0 is a 32 MiB page, writable and pinned, at 0x200_0000. -/
def bigPage : State :=
  let s := host fun c => { c with ptRoot := some 0x1000, grants := [(0, 0x10000000)] }
  { s with mem := Mem.setLE (Mem.setLE (Mem.setLE [] 0x1000 8 0x2001) 0x2000 8 0x3001) 0x3000 8 0x2000017 }

/-- A buffer and a window that may be set, and a page that is mapped nowhere. -/
theorem test_hyp_CommandRequests_pinned :
    PinnedRange (mapped) 0 0 65536 true ∧ ¬ PinnedRange (mapped) 0 65536 65536 true ∧ ¬ ContrailBuffer (mapped) 0 0 8
    ∧ ContrailBuffer bigPage 0 0 8 := by
  have far : (mapped).walk 0 65536 = .fault 0 3 := by decide +kernel
  have near : (walkFrom (mapped) [(0, 0x100000)] 0 4 0x1000).1 = .leaf 0x10000 0x10000 true true 3 := by decide +kernel
  have big : (walkFrom bigPage [(0, 0x10000000)] 0 4 0x1000).1 = .leaf 0x2000000 0x2000000 true true 2 := by decide +kernel
  refine ⟨⟨by decide, fun a _ h => ⟨0x10000 + a, 0x10000, true, 3, ?_, fun _ => rfl⟩⟩, fun h => ?_, fun h => ?_,
    by decide, by decide, fun a _ h => ⟨0x2000000 + a, 0x2000000, true, 2, ?_, fun _ => rfl⟩⟩
  · exact walk_page _ _ _ _ (by decide) (by simpa [walkSize] using h) (by simpa using h)
      (fun k hk => by have h : a < 65536 := by simpa using h
                      interval_cases k <;> simp [walkSize] <;> omega) _ _ _ _ _ _ (by decide) near
  · obtain ⟨pa, size, w, l, e, _⟩ := h.2 65536 (by omega) (by omega)
    rw [far] at e; cases e
  · obtain ⟨pa, size, w, l, e, _⟩ := h.2.2 65536 (by decide) (by decide)
    rw [far] at e; cases e
  · have h' : a < 273 * 2 ^ 8 * 32 := h
    exact walk_page _ _ _ _ (by decide) (by simp only [walkSize]; omega) (by omega)
      (fun k hk => by interval_cases k <;> simp [walkSize] <;> omega) _ _ _ _ _ _ (by decide) big

/-- The public key and the signature of "sample" of RFC 6979, A.2.6 (P-384 with SHA-384). -/
def sampleKey : P384Pair := 0xEC3A4E415B4E19A4568618029F427FA5DA9A8BC4AE92E02E06AAE5286B300C64DEF8F0EA9055866064A254515480BC138015D9B72D7D57244EA8EF9AC0C621896708A59367F9DFB9F54CA84B3F1C9DB1288B231C3AE0D4FE7344FD2533264720
def sampleSig : P384Pair := 0x94EDBB92A5ECB8AAD4736E56C691916B3F88140666CE9FA73D64C4EA95AD133C81A648152E44ACF96E36DD1E80FABE4699EF4AEB15F178CEA1FE40DB2603138F130E740A19624526203B6351D0A3A94FA329C145786E679E7B82C71A38628AC8

/-- An image that the root key signs verifies against that key's digest, and against no other; with another byte it does not
(R338). -/
theorem test_imageOk :
    imageOk (sha384 (keyBytes sampleKey)) 0 ⟨[0x73, 0x61, 0x6D, 0x70, 0x6C, 0x65], sampleKey, .root, sampleSig, 2⟩ = true
    ∧ imageOk 0 0 ⟨[0x73, 0x61, 0x6D, 0x70, 0x6C, 0x65], sampleKey, .root, sampleSig, 2⟩ = false := by
  constructor <;> decide +kernel

theorem test_imageOk_changed :
    imageOk (sha384 (keyBytes sampleKey)) 0 ⟨[0x74, 0x61, 0x6D, 0x70, 0x6C, 0x65], sampleKey, .root, sampleSig, 2⟩ = false := by
  decide +kernel

theorem test_hyp_ManagementRequests :
    State.reset.boot = .off
    ∧ Manages (managed) hdr ∧ (managed).boot ≠ .failed ∧ (managed).ctx? 1 = none ∧ (∀ j < 1, (managed).ctx? j ≠ none) ∧ (managed).ctx? 63 = none
    ∧ (∀ j < 64, ({ managed with ctxs := (List.range 64).map fun n => { ctx1 with id := n } } : State).ctx? j ≠ none)
    ∧ (managed).ctx? (ctx1).id = some (ctx1) ∧ (ctx1).destroying = none ∧ ((managed).threads.map (·.uid)).Nodup
    ∧ (let g : GrantSet := ⟨[(0, 65536)], [(0, 65536)], [0, 255], 3, [1], .required, [1], .preferred, [1], .none, 7, [(0, [1], .none)], [(0, [1], .none)]⟩
       (managed).grantsOk g = true ∧ (managed).grantsPending 0 = false ∧ rangesWithin (ctx1).grants g.grants = true ∧ rangesWithin (ctx1).canopy g.canopy = true
         ∧ rangesWithin [(65536, 65536)] g.grants = false)
    ∧ (∃ c ∈ (managed fun c => { c with grants := [(0, 65536)] }).ctxs, ∃ g ∈ c.grants, g.1 < 65535 + 1 ∧ 65535 < g.1 + g.2)
    ∧ (managed).hbmOk 65536 65536 = true
    ∧ (∀ c ∈ (managed fun c => { c with grants := [(0, 65536)] }).ctxs, ∀ g ∈ c.grants, ¬ (g.1 < 65536 + 65536 ∧ 65536 < g.1 + g.2))
    ∧ ((managed).clusterAt 255).fenced = false
    ∧ (({ managed with clusters := [{ Cluster.fresh 255 with fenced := true }] } : State).clusterAt 255).fenced = true
    ∧ (63 : BitVec 8).toNat < 64 ∧ (managed).ranges[63].owner = none ∧ (managed).ranges[63].revoking = none
    ∧ ({ managed with ranges := (managed).ranges.set 63 ⟨some 0, false, 0, 0, 0, 0, none⟩ } : State).ranges[63].owner = some 0
    ∧ (∀ d ∈ [true, false], let s : State := { managed fun c => { c with destroying := some hdr } with accs := if d then [] else [acc 9 (.hbm 0) 8 (.store 1)] }
        (s.ctx? 0).map (·.destroying) = some (some hdr) ∧ s.destroyDrained 0 = d)
    ∧ (let s : State := { managed with scrubs := [(0, 65536, hdr)] }
       s.scrubs = (0, 65536, hdr) :: [] ∧ Mem.wf s.mem = true) := by
  and_intros <;> decide +kernel

/-- The debugged machine, frozen or not; cluster 0 stands as logical cluster 0. -/
def inFreeze (f : Option Freeze) : State :=
  let s := debugged fun c => { c with freeze := f }
  { s with clusters := [{ Cluster.fresh 0 with ctx := some 0, lastCtx := some 0, lcl := some 0 }] }

theorem test_hyp_DebugRequests :
    ForDebugger (host) hdr (ctx1) ∧ hdr.wellFormed = true ∧ (ctx1).attached = false ∧ (0 : BitVec 256) = (ctx1).credential
    ∧ Debugs (debugged) hdr (attachedCtx)
    ∧ (∀ f ∈ [none, some (frz none none), some (frz (some 0) (some 5))],
        Debugs (inFreeze f) hdr (attachedCtx fun c => { c with freeze := f }) ∧ (attachedCtx fun c => { c with freeze := f }).freeze = f
          ∧ (attachedCtx fun c => { c with freeze := f }).releaseReq = none ∧ (inFreeze f).writerBusy 0 = false)
    ∧ ({ inFreeze (some (frz (some 0) (some 5))) with ctxs := (inFreeze (some (frz (some 0) (some 5)))).ctxs ++
        [ctx1 fun c => { c with id := 1, freeze := some (frz (some 0) (some 0)) }], freezeOrder := [1, 0] } : State).writerBusy 0 = true
    ∧ ((inFreeze (some (frz (some 0) none))).framed (attachedCtx fun c => { c with freeze := some (frz (some 0) none) }) 0 0 0).isSome = true
    ∧ (inFreeze (some (frz (some 0) none))).frozenPhys (attachedCtx fun c => { c with freeze := some (frz (some 0) none) }) 0 = some 0
    ∧ 0x100 ≤ (0x147 : BitVec 32).toNat ∧ (∀ t ∈ (debugged).threads, t.ctx = (attachedCtx).id → t.run ≠ .held)
    ∧ (({ debugged with threads := [{ thr with run := .held }] } : State).threads.find? fun x =>
        x.ctx == (attachedCtx).id && x.lcl == (0 : BitVec 8).toNat && x.core == (0 : BitVec 8).toNat && x.slot == (0 : BitVec 8).toNat && x.run == .held)
        = some { thr with run := .held }
    ∧ 1 ≤ (65536 : BitVec 32).toNat ∧ (65536 : BitVec 32).toNat ≤ 65536 ∧ bits (0xE200000000000000 : Word) 56 8 ≠ 0xE0
    -- bytes that a request may name, one that it may not, and the 65536 bytes at most
    ∧ (∀ w ∈ [true, false], (((mapped fun s => s).debugPlaces mctx 0 w 2).1.toOption.any fun ls =>
        ls == [Loc.hbm 0x10000, .hbm 0x10001] && ls.all fun l => !((mapped).debugPlaces mctx 0 w 2).2.poisoned l 1) = true)
    ∧ (∀ w ∈ [true, false], errorOf ((mapped).debugPlaces mctx 0x10000 w 1).1 = some (Trap.translation 0x10000 0 3 false))
    -- a word that is poisoned
    ∧ (let r := (mapped fun s => { s with poison := [0x10000 / 8] }).debugPlaces mctx 0 false 2
       r.1.toOption = some [Loc.hbm 0x10000, .hbm 0x10001] ∧ r.2.poisoned (.hbm 0x10000) 1 = true ∧ (r.2.ctx? 0).map (·.freeze) = some none)
    ∧ (inFreeze (some (frz (some 0) none))).poison = []
    ∧ (∀ l ∈ [Loc.hbm 0x10000, .hbm 0x10001], OnDevice l) ∧ ([Loc.hbm 0x10000, .hbm 0x10001].map Loc.key).Nodup ∧ Mem.wf (debugged).mem = true
    ∧ (7 : BitVec 8).toNat < 8 ∧ (0 : BitVec 32).toNat + (65536 : BitVec 32).toNat ≤ 2 ^ 17 := by
  and_intros <;> first
    | decide +kernel
    | (intro l h
       simp only [List.mem_cons, List.not_mem_nil, or_false] at h
       rcases h with rfl | rfl <;> exact ⟨by decide, fun d o e => by cases e⟩)

/-- A breakpoint of an attached debugger at address 0, for every handle. -/
def broken (b : Bool) : Context :=
  ctx1 fun c => { c with debugger := if b then some 1 else none, bkpts := c.bkpts.set! 3 ⟨0, 0, 0, true⟩ }

def atBreak : State := { one id with ctxs := [broken true] }

theorem test_hyp_IssueChecksInOrder :
    ThreadInstr (.add (.l 0) (.l 1) (.l 2)) ∧ (∀ o c, Instr.add (.l 0) (.l 1) (.l 2) ≠ .ord o c) ∧ State.reset.port = none
    ∧ (one id).port = some pt ∧ (one id).thread? pt.uid = some thr
    ∧ illegalAt thr pt .bkpt = false ∧ illegalAt thr pt .eret = true
    ∧ (∃ o ∈ (one fun t => { t with window := 0 }).names { thr with window := 0 } (.add (.l 4) (.l 1) (.l 2)), inWindow 0 o = false)
    ∧ (∀ o ∈ (one id).names thr (.add (.l 4) (.l 1) (.l 2)), inWindow thr.window o = true)
    ∧ atBreak.breakpoint thr = some 3 ∧ pt.seqr = false ∧ thr.bpSkip ≠ some thr.pc
    ∧ ReachesGuard (one id) thr pt (.add (.l 0) (.l 1) (.l 2)) ∧ thr.isFull (.pred pt.guard.p) = true ∧ thr.pred pt.guard.p ≠ pt.guard.neg
    ∧ (let p : Port := ⟨3, ⟨false, 1⟩, none, false⟩
       ReachesGuard { one id with port := some p } thr p (.add (.l 0) (.l 1) (.l 2)) ∧ thr.pred p.guard.p = p.guard.neg)
    ∧ (let p : Port := ⟨3, ⟨false, 1⟩, none, false⟩
       let t : Thread := { thr with full := 0 }
       ReachesGuard { one (fun _ => t) with port := some p } t p (.add (.l 0) (.l 1) (.l 2)) ∧ t.isFull (.pred p.guard.p) = false)
    ∧ (let t : Thread := { thr with full := thr.full &&& ~~~1, pend := 1 }
       ReachesGuard (one fun _ => t) t pt (.add (.l 0) (.l 1) (.l 2)) ∧ ∃ o ∈ (regsOf (.add (.l 0) (.l 1) (.l 2))).dsts, (one fun _ => t).pending t o = true)
    ∧ (let t : Thread := { thr with full := thr.full &&& ~~~2 }
       ReachesGuard (one fun _ => t) t pt (.add (.l 0) (.l 1) (.l 2)) ∧ (∀ o ∈ (regsOf (.add (.l 0) (.l 1) (.l 2))).dsts, (one fun _ => t).pending t o = false)
         ∧ ∃ o ∈ (one fun _ => t).srcsOf t (.add (.l 0) (.l 1) (.l 2)), (one fun _ => t).empty t o = true) := by
  and_intros <;> first | decide +kernel | (intro o c h; cases h)

theorem test_hyp_IssueFrame :
    ThreadInstr (.stD (.l 0) (.l 1) 0) ∧ plainIssue (.stD (.l 0) (.l 1) 0) = true ∧ (one (regs 0xE200000000000020 1 0)).threads ≠ []
    ∧ ∃ s', exec (.stD (.l 0) (.l 1) 0) (one (regs 0xE200000000000020 1 0)) = .next s' :=
  ⟨by decide, rfl, by decide, ⟨_, rfl⟩⟩

theorem test_hyp_TrapIsTaken :
    (∀ x ∈ (one id).threads, x.uid = thr.uid → x = thr) ∧ (one id).thread? thr.uid = some thr ∧ thr.isService = false
    ∧ (∀ c, (one id).ctx? thr.ctx = some c → c.attached = false)
    ∧ (∀ c, atBreak.ctx? thr.ctx = some c → c.attached = true)
    ∧ (oneThr (asKind (.service 4))).isService = true ∧ ((one id).ctx? 0).map (·.freeze) = some none
    ∧ Issues (one id) thr pt (.trap 7) ∧ Issues (one id) thr pt .bkpt ∧ Issues (one id) thr pt .halt
    ∧ ((one id).coreAt 0 0).serving = none
    ∧ (match (one fun t => { t with pc := 1 }).fetch 1 1 with | .bad _ => True | _ => False)
    ∧ Issues serving (oneThr (asKind (.service 4))) pt .eret ∧ (serving.coreAt 0 0).serving = some (trapRec, 3) ∧ trapRec.uid ≠ 3
    ∧ serving.thread? trapRec.uid = some victim ∧ (∀ x ∈ serving.threads, x.uid = 3 → x = oneThr (asKind (.service 4))) := by
  and_intros <;> first | decide +kernel | (intro c h; cases h; decide) | trivial

/-- A core's turn, with a word at address 0, and then with that word at 0x3FFFC or 0x3FFFE, the end of `.text`. -/
def turn (w : Nat) (pc : Word := 0) : State :=
  let s := one fun t => { t with pc := pc }
  { s with port := none, turns := [.cycle 0 0], mem := Mem.setLE [] (Loc.code pc.toNat).key 4 w }

theorem test_hyp_StepRunsDecodedInstruction :
    (turn 0x00C43009).turns = .cycle 0 0 :: [] ∧ (({ turn 0x00C43009 with turns := [] } : State).prepared 0 0).2 = some thr
    ∧ (decode (Mem.bytes (turn 0x00C43009).mem (Loc.code 0).key 4)).toOption = some (Guard.always, .addImm (.l 2) (.l 1) 3, [])
    ∧ (turn 0x00C43009).inText 1 2 = true ∧ ((0 : Word) + 2).toNat = 2
    -- a prefix with a word behind it, and one that is the last halfword
    ∧ isPrefix (BitVec.ofNat 16 0x0182) = true
    ∧ (decode (Mem.bytes (turn 0x0182 0x3FFFE).mem (Loc.code 0x3FFFE).key 4)).toOption.isSome = true
    ∧ (match (turn 0x0182 0x3FFFE).fetchWord 1 (0x3FFFE + 2) with | .bad _ => True | _ => False)
    -- a word that decodes to nothing, and an instruction whose second half lies outside
    ∧ (decode (Mem.bytes (turn 0xFFFFFFFF).mem (Loc.code 0).key 4)).toOption = none ∧ isPrefix (BitVec.ofNat 16 0xFFFF) = false
    ∧ (turn 0x00C43009 0x3FFFE).inText 1 0x40000 = false
    -- code that is sound, and a poisoned word of the cluster's code store
    ∧ (turn 0x00C43009).codeBad 0 0 4 = false ∧ ({ turn 0x00C43009 with poison := [codeKey 0 0 / 8] } : State).codeBad 0 0 4 = true
    -- an event
    ∧ ({ one id with turns := [.event (.ptpSync 5)] } : State).turns = .event (.ptpSync 5) :: [] := by
  and_intros <;> first | decide +kernel | trivial

theorem test_hyp_MemoryFormKept : Mem.wf (turn 0x00C43009).mem = true ∧ ∃ s', step (turn 0x00C43009) = .next s' :=
  ⟨by decide +kernel, ⟨_, rfl⟩⟩

theorem test_hyp_EncodeDecodeRoundTrip :
    (⟨true, 7⟩ : Guard).ok = true ∧ (Instr.addImm (.l 14) (.g 3) 0x3FF).wf = true ∧ encode ⟨true, 7⟩ (.addImm (.l 14) (.g 3) 0x3FF) ≠ [] := by decide

/-! ### Further clauses of statements above -/

/-- A sum-slot request outside aperture 0x00, and a misaligned one in it. -/
theorem test_hyp_AddressChecks_sum :
    bits (0xE000000000000000 : Word) 56 8 ≠ 0x00 ∧ bits (1 : Word) 56 8 = 0x00 ∧ BitVec.toNat (1 : Word) % 8 ≠ 0 := by decide

/-- A core with a count, whose thread holds no handle. -/
theorem test_hyp_FamilyReservation_count :
    ((one id).heldBy thr).length ≤ 62 ∧ (∃ k ∈ (owned id).cores, k.phys = 0 ∧ k.core = 0)
      ∧ Issues (owned id (exts 0 1 k2ok 0)) (oneThr (exts 0 1 k2ok 0)) pt (.falloc (.l 0)) := by
  and_intros <;> decide +kernel

/-- Member 5 of a family, members 3, 7 and 9 beside it, and the family decided by none, by 5, 4 or 6. -/
def breaking (d : Option Nat) : State :=
  let s := withFams [{ fam 3 16 0 with decided := d }] (asKind (.member 53 5))
  { s with threads := s.threads ++ [3, 7, 9].map fun m => { thr with uid := 10 + m, slot := 10 + m, kind := .member 53 m } }

theorem test_hyp_EndingAndYielding_break :
    (∀ d ∈ [none, some 4, some 5, some 6], Issues (breaking d) (oneThr (asKind (.member 53 5))) pt .brk
      ∧ (oneThr (asKind (.member 53 5))).member? = some (53, 5) ∧ (oneThr (asKind (.member 53 5))).run = .running
      ∧ (breaking d).family? 53 = some { fam 3 16 0 with decided := d } ∧ ((breaking d).threads.map (·.uid)).Nodup)
    ∧ (∀ x ∈ (breaking none).threads, ∀ w ∈ (breaking none).fwds, w.from_ ≠ x.uid)
    ∧ (∀ core ∈ [0, 7], ((breaking none).coreAt 0 core).serving = none) := by
  and_intros <;> decide +kernel

/-- The end of a trap service whose victim's sequencer run goes on, and of one where none does. -/
theorem test_hyp_EndingAndYielding_service :
    (∀ q ∈ [none, some ({ run1 with uid := 4 } : SeqRun)],
      let s := serving.updCore 0 0 fun k => { k with seqr := q }
      Issues s (oneThr (asKind (.service 4))) pt .exit ∧ (s.coreAt 0 0).serving = some (trapRec, 3) ∧ s.thread? 4 = some victim
        ∧ (∀ x ∈ s.threads, x.uid = 4 → x = victim) ∧ (s.coreAt 0 0).seqr = q ∧ s.hosts 4 = false)
    ∧ victim.run = .trapped .running ∧ trapRec.seqr = false ∧ RunState.running.isTrapped = false
    ∧ victim.phys = thr.phys ∧ victim.core = thr.core := by
  and_intros <;> decide +kernel

/-- VOWNs of another thread, twice, behind the owner's VDISOWN. -/
theorem test_hyp_OwnershipAndStreams_grant :
    let q (n : Nat) : Pend := ⟨n, 4, .l 0, .vown⟩
    let s := { owned fun k => { k with vownQ := [70, 71] } with pends := [q 70, q 71] }
    let s := { s with threads := s.threads ++ [{ thr with uid := 4, slot := 5 }] }
    Issues s thr pt .vdisown ∧ s.owns thr = true ∧ (s.coreAt 0 0).vownQ = 70 :: [71]
      ∧ (∀ u : Fin 4, (s.coreAt 0 0).streams[u.val].bound = none) ∧ s.pends.find? (fun y => y.id == 70) = some (q 70)
      ∧ (s.thread? 4).isSome = true ∧ q 71 ∈ s.pends := by
  and_intros <;> decide +kernel

/-- A cancel of an AWAIT that a peer's core has waiting at a word of the window. -/
theorem test_hyp_TranslationAndPeers_cancel :
    let w : Access := { acc 9 (.hbm 0x10008) 8 (.await .eq 5 .zero) with
      uid := none, peer := some (5, 6), handle := 8, core := 0, phase := .waiting }
    let s := mapped fun s => { s with accs := [w] }
    (s.windowPlace mctx ⟨0, 65536, [(5, 6)]⟩ 8 false).1 = some 0x10008 ∧ w.phase = .waiting
      ∧ (s.windowPlace mctx ⟨0, 65536, [(5, 6)]⟩ 8 false).2.accs.find? (fun y => y.peer == some (5, 6) && y.handle == 8
        && y.requester == w.requester && y.loc == .hbm 0x10008 && y.size == 8 && y.op == .await .eq 5 .zero && !y.cancelled) = some w := by
  and_intros <;> decide +kernel

/-- A stream's fetch that waits behind an aged request. -/
theorem test_hyp_StreamAndSequencerUnits_busy :
    let s : State := { fetching 0xE200000000000000 with accs := [{ acc 9 (.spad 0 0) 8 (.store 1) with agedAt := some 0 }] }
    (s.coreAt 0 0).streams[1].nextFetch ≠ none ∧ s.homeBusy (.spad 0 0) 32 ((s.coreAt 0 0).streams[1].aged s.now, 0, 0) = true
      ∧ (Loc.spad 0 0).present = true := by
  and_intros <;> decide +kernel

/-- An MMA of a format whose operands are all padding but one, which has been read. -/
def mmaFmt (fmt : Word) (scales : Nat) : MOp :=
  ⟨9, 3, 0, .mma 1 (some (.spad 0 0) :: List.replicate (16 * mdepth fmt - 1) none) (List.replicate (32 * mdepth fmt) none)
    (List.replicate (16 * scales) none) (List.replicate scales none), fmt, none, [], .ready, [(0, 3)], false, Stamp.zero⟩

/-- FP16, E2M1, and E4M3 scaled, with their smallest depths (R160). -/
theorem test_hyp_MatrixUnitOperations_float :
    ∀ x ∈ [((0x00100020001000AA : Word), 0), (0x00100020001000EE, 0), (0x00800020001001DD, 1)],
      mfmtOk x.1 = true ∧ mclass (mfa x.1) (mfb x.1) ≠ some .integer ∧ (mmaFmt x.1 x.2).got.lookup 0 ≠ none
        ∧ (mscaled x.1 = true → 16 * x.2 = 16 * (mdepth x.1 / 128) ∧ x.2 = mdepth x.1 / 128) := by
  decide +kernel

theorem test_hyp_MatrixUnitOperations_float_queued (fmt : Word) (n : Nat) :
    ((queued (mmaFmt fmt n) true).clusterAt 0).array = some (0, 9)
      ∧ ((queued (mmaFmt fmt n) true).coreAt 0 0).mq.find? (fun y => y.id == 9) = some (mmaFmt fmt n)
      ∧ ∀ pos l w, (mmaFmt fmt n).operands[pos]? = some (some l, w) → (mmaFmt fmt n).got.lookup pos ≠ none := by
  refine ⟨rfl, rfl, fun pos l w h => ?_⟩
  rcases pos with _ | p
  · simp [mmaFmt]
  · exfalso
    have := List.mem_of_getElem? (show ((mmaFmt fmt n).operands.drop 1)[p]? = _ by rw [List.getElem?_drop, Nat.add_comm]; exact h)
    simp [mmaFmt, MOp.operands] at this

/-- A finding in an HBM word of a save record, which is marked. -/
theorem test_hyp_IslandsErrorsAndPorts_record :
    let r : SaveRec := ⟨0, 0, 0, [thr], [], [], [], [], 0x1000, false⟩
    let s : State := { host with saves := [r] }
    s.wordOf (.save 0 0 3) = .mem 0x1018 ∧ r.holds 0x1018 = true ∧ Stored.exists_ (.mem 0x1018) = true ∧ 0 ∈ s.holders (.mem 0x1018) := by
  and_intros <;> decide +kernel

/-! ## Steps -/

/-- The word 0x00C43009 (ADD_IMM l2, l1, 3) as the first instruction after reset: l2 is owed 3. -/
theorem test_step_first_instruction :
    (match step (State.reset.withFetchWord 32 0x00C43009) with
     | .next s => s.arrivals.map fun r => r.writes
     | _ => []) = [[(.int (.l 2), 3)]] := by decide +kernel

/-- A store of l0 to the scratchpad is performed by its home, and the bytes stand there, the lowest first (R67, R201). -/
theorem test_step_store_performs :
    (match exec (.stD (.l 0) (.l 1) 0) (one (regs 0xE200000000000020 0 0x1122334455667788)) with
     | .next s => (match s.accs with
        | [a] => (match step { s with turns := [.event (.accessPerform a.id PeerAnswer.none)] } with
          | .next u => Mem.bytes u.mem (Loc.spad 0 0x20).key 8
          | _ => [])
        | _ => [])
     | _ => []) = [0x88, 0x77, 0x66, 0x55, 0x44, 0x33, 0x22, 0x11] := by decide +kernel

/-- `withFetchWord` gives the next step exactly the word, whatever the machine did before (here: at rest after one instruction). -/
theorem test_step_again :
    (match step (State.reset.withFetchWord 32 0x00C43009) with
     | .next s => (match step (s.withFetchWord 16 0x1886) with
        | .next u => u.arrivals.map fun r => r.writes
        | _ => [])
     | _ => []) ≠ [] := by decide +kernel

end Sys2Proof.Tests
end

section
/-! SUPPORT. What each function of the model does to the memory, in the order of the model's files: most leave it as it was,
and those that write keep its canonical form (R2). -/

namespace Sys2Proof.Machine

/-! ## Functions that leave the memory as it was -/

/-- The state of a pair known by an equation has the memory of the pair's own. -/
theorem mem_of_pair {α : Type} {p : α × State} {a : α} {s' : State} (e : p = (a, s')) : s'.mem = p.2.mem := by rw [e]

/-- A fold whose every step keeps the memory keeps it. -/
@[simp] theorem foldl_mem {α : Type} {f : State → α → State} (h : ∀ s a, (f s a).mem = s.mem) (s : State) (xs : List α) :
    (xs.foldl f s).mem = s.mem := foldl_keeps State.mem f h s xs

section
variable (s : State)

/-! ### Lookup -/

@[simp] theorem countStream_mem (ctx lcore u c n) : (s.countStream ctx lcore u c n).mem = s.mem := rfl

@[simp] theorem clearStream_mem (ctx lcore u) : (s.clearStream ctx lcore u).mem = s.mem := rfl

/-! ### Charge -/

@[simp] theorem threadContextFault_mem (t code addr data info) :
    (s.threadContextFault t code addr data info).mem = s.mem := by
  simp [State.threadContextFault]

@[simp] theorem unitFault_mem (ctx rep code source) :
    (s.unitFault ctx rep code source).mem = s.mem := by simp [State.unitFault]

@[simp] theorem countFault_mem (phys) : (s.countFault phys).mem = s.mem := by simp [State.countFault]

/-! ### Address -/

@[simp] theorem windowPlace_mem (c w off wr) : (s.windowPlace c w off wr).2.mem = s.mem := by
  unfold State.windowPlace
  dsimp only
  split
  · next e =>
    rw [mem_of_pair e]; split <;> simp
  · next s1 e =>
    have h1 : s1.mem = s.mem := by rw [mem_of_pair e]; split <;> simp
    split <;> next e => simp [mem_of_pair e, h1]

@[simp] theorem windowAccess_mem (c dev ctx off n w) : (s.windowAccess c dev ctx off n w).2.mem = s.mem := by
  unfold State.windowAccess; (repeat' split) <;> simp

@[simp] theorem peerPlace_mem (i id off n w) : (s.peerPlace i id off n w).2.mem = s.mem := by
  unfold State.peerPlace; (repeat' split) <;> simp

@[simp] theorem resolve_mem (i k a n w af ph) : (s.resolve i k a n w af ph).2.mem = s.mem := by
  unfold State.resolve
  extract_lets kindBad
  split
  · rfl
  split
  · rfl
  split
  · rfl
  split
  · rfl
  · rfl
  · simp
  · split <;> next e => simp [mem_of_pair e]

/-! ### Ops -/

@[simp] theorem goto_mem (uid pc) : (s.goto uid pc).mem = s.mem := rfl

@[simp] theorem acknowledged_mem (id) : (s.acknowledged id).mem = s.mem := by
  unfold State.acknowledged; split <;> simp

@[simp] theorem acknowledge_mem (a) : (s.acknowledge a).mem = s.mem := by
  unfold State.acknowledge; dsimp only; split <;> simp

/-! ### Plan -/

@[simp] theorem planFrom_mem (i aps n w as ls ps) : (s.planFrom i aps n w as ls ps).2.mem = s.mem := by
  induction as generalizing s ls ps with
  | nil => rfl
  | cons a as ih =>
    unfold State.planFrom
    split
    · rfl
    · split
      · rfl
      · split <;> next e => simp [mem_of_pair e, ih]

@[simp] theorem planRuns_mem (i rs ps) : (s.planRuns i rs ps).2.mem = s.mem := by
  induction rs generalizing s ps with
  | nil => rfl
  | cons r rs ih =>
    unfold State.planRuns
    split
    · next e => simp [mem_of_pair e]
    · next e => split <;> next e' => simp [mem_of_pair e', ih, mem_of_pair e]

@[simp] theorem mmaPlaces_mem (i m l) : (s.mmaPlaces i m l).2.mem = s.mem := by
  unfold State.mmaPlaces; dsimp only
  split
  · rfl
  split
  · rfl
  split <;> next e => simp [mem_of_pair e, apply_ite Prod.snd]

@[simp] theorem mmaPlan_mem (i m) : (s.mmaPlan i m).2.mem = s.mem := by simp [State.mmaPlan]

@[simp] theorem mstPlan_mem (i f b d) : (s.mstPlan i f b d).2.mem = s.mem := by
  unfold State.mstPlan
  split
  · rfl
  split
  · rfl
  split
  · rfl
  split <;> next e => simp [mem_of_pair e]

@[simp] theorem cpgPlan_mem (i o ra rb k0 k1 k2 k3) : (s.cpgPlan i o ra rb k0 k1 k2 k3).2.mem = s.mem := by
  unfold State.cpgPlan; dsimp only
  split
  · rfl
  split
  · rfl
  split <;> next e => simp [mem_of_pair e, apply_ite Prod.snd]

@[simp] theorem sendPlan_mem (i ra rb k0 k1 k2 k3) : (s.sendPlan i ra rb k0 k1 k2 k3).2.mem = s.mem := by
  unfold State.sendPlan; dsimp only
  split
  · rfl
  split
  · rfl
  split <;> next e => simp [mem_of_pair e]

@[simp] theorem cpfarPlan_mem (i o ra rb k1) : (s.cpfarPlan i o ra rb k1).2.mem = s.mem := by
  unfold State.cpfarPlan
  extract_lets entry filled name rbOk
  split
  · rfl
  split
  · rfl
  split <;> next e => simp [mem_of_pair e]

@[simp] theorem collPlan_mem (i ra rb k0 k1) : (s.collPlan i ra rb k0 k1).2.mem = s.mem := by
  unfold State.collPlan; dsimp only
  split
  · rfl
  split
  · rfl
  split
  · rfl
  split <;> next e => simp [mem_of_pair e, apply_ite Prod.snd]

/-! ### Operands -/

@[simp] theorem keptPlan_mem (t i) : (s.keptPlan t i).2.mem = s.mem := by
  unfold State.keptPlan
  split
  · split
    · rfl
    · split <;> next e => simp [mem_of_pair e]
  · split
    · rfl
    · split <;> next e => simp [mem_of_pair e]
  · extract_lets copy
    have hcopy : ∀ r, r.2.mem = s.mem → (copy r).2.mem = s.mem := fun r hr => by
      unfold copy
      split
      · rfl
      · exact hr
      · exact hr
    split
    · exact hcopy _ (cpgPlan_mem ..)
    · exact hcopy _ (cpgPlan_mem ..)
    · exact hcopy _ (sendPlan_mem ..)
    · exact hcopy _ (cpfarPlan_mem ..)
    · exact hcopy _ (cpfarPlan_mem ..)
    · rfl

/-! ### Issue -/

@[simp] theorem chargeCode_mem (t) : (s.chargeCode t).mem = s.mem := by simp [State.chargeCode]

theorem popAll_mem {s s' : State} {t t' ws} (e : s.popAll t ws = .ok (s', t')) : s'.mem = s.mem := by
  induction ws generalizing s t with
  | nil =>
    unfold State.popAll at e; cases e; rfl
  | cons w ws ih =>
    unfold State.popAll at e
    split at e
    · exact ih e
    · cases e
    · split at e
      · simpa [State.countStream] using ih e
      · split at e <;> cases e

theorem pushAll_mem {s s' : State} {t p ws} (e : s.pushAll t p ws = .ok s') : s'.mem = s.mem := by
  induction ws generalizing s with
  | nil => unfold State.pushAll at e; cases e; rfl
  | cons w ws ih =>
    unfold State.pushAll at e
    split at e
    · exact ih e
    · cases e
    · split at e
      · cases e
      · split at e
        · cases e
        · split at e
          · cases e
          · next e' => simpa [State.countStream, mem_of_pair e'] using ih e

theorem begin_mem {s s' : State} {t t' p i} (e : s.begin t p i = .ok (s', t')) : s'.mem = s.mem := by
  unfold State.begin at e
  split at e
  · cases e
  · next e1 =>
    split at e
    · cases e
    · next e2 => cases e; simp [pushAll_mem e2, popAll_mem e1]

/-! ### Copies -/

@[simp] theorem startCopy_mem (t kind n slack units pages) : (s.startCopy t kind n slack units pages).mem = s.mem := rfl

@[simp] theorem joinColl_mem (t c m copy src dst) : (s.joinColl t c m copy src dst).mem = s.mem := rfl

/-! ### Float -/

@[simp] theorem takeDraws_mem (uid n) : (s.takeDraws uid n).mem = s.mem := rfl

/-! ### Frame -/

@[simp] theorem restoreFrame_mem (t fr) : (s.restoreFrame t fr).mem = s.mem := by
  unfold State.restoreFrame; split <;> simp

/-! ### Streams -/

@[simp] theorem answerOwner_mem (p c) : (s.answerOwner p c).mem = s.mem := by
  exact (foldl_mem (fun _ _ => State.deliver_mem ..) ..).trans (State.setCore_mem ..)

@[simp] theorem grantVown_mem (phys core) : (s.grantVown phys core).mem = s.mem := by
  unfold State.grantVown; dsimp only; split <;> simp

@[simp] theorem discard_mem (t u) : (s.discard t u).mem = s.mem := by simp [State.discard]

@[simp] theorem updStream_mem (t u f) : (s.updStream t u f).mem = s.mem := by simp [State.updStream]

@[simp] theorem unbind_mem (t u) : (s.unbind t u).mem = s.mem := by
  unfold State.unbind; dsimp only; split <;> simp

@[simp] theorem unbindAll_mem (t) : (s.unbindAll t).mem = s.mem := by simp [State.unbindAll]

@[simp] theorem disown_mem (t) : (s.disown t).mem = s.mem := by
  unfold State.disown; split <;> simp

@[simp] theorem endRun_mem (phys core) : (s.endRun phys core).mem = s.mem := by
  unfold State.endRun; dsimp only; (repeat' split) <;> simp

/-! ### Families -/

@[simp] theorem startNext_mem (f kind core slot stamp) : (s.startNext f kind core slot stamp).mem = s.mem := rfl

@[simp] theorem startMany_mem (fam c n) : (s.startMany fam c n).mem = s.mem := by
  induction n generalizing s with
  | zero => rfl
  | succ n ih => unfold State.startMany; (repeat' split) <;> simp [ih]

@[simp] theorem placeFrom_mem (fam n) : (s.placeFrom fam n).mem = s.mem := by
  induction n generalizing s with
  | zero => rfl
  | succ n ih => unfold State.placeFrom; dsimp only; (repeat' split) <;> simp [ih]

@[simp] theorem place_mem (fam) : (s.place_ fam).mem = s.mem := placeFrom_mem ..

@[simp] theorem offerSlot_mem (phys core slot own) : (s.offerSlot phys core slot own).mem = s.mem := by
  unfold State.offerSlot; dsimp only; (repeat' split) <;> simp

@[simp] theorem freeFamily_mem (fam) : (s.freeFamily fam).mem = s.mem := rfl

@[simp] theorem carrying_mem (deps) : (s.carrying deps).mem = s.mem := rfl

@[simp] theorem answerWaiters_mem (f st) : (s.answerWaiters f st).mem = s.mem := by
  unfold State.answerWaiters
  refine foldl_mem (fun s p => ?_) s _
  (repeat' split) <;> simp

@[simp] theorem forwardOn_mem (uid seq o v) : (s.forwardOn uid seq o v).mem = s.mem := by
  unfold State.forwardOn; dsimp only; (repeat' split) <;> simp

@[simp] theorem cancelWaiters_mem (uid all) : (s.cancelWaiters uid all).mem = s.mem := rfl

@[simp] theorem dropResults_mem (uid) : (s.dropResults uid).mem = s.mem := rfl

@[simp] theorem dropWaits_mem (uid) : (s.dropWaits uid).mem = s.mem := rfl

@[simp] theorem leaveTraps_mem (t) : (s.leaveTraps t).mem = s.mem := by
  unfold State.leaveTraps; dsimp only; (repeat' split) <;> simp

@[simp] theorem releaseFamilies_mem (uid) : (s.releaseFamilies uid).mem = s.mem := rfl

@[simp] theorem beginPassing_mem (t) : (s.beginPassing t).mem = s.mem := by simp [State.beginPassing]

@[simp] theorem releaseClusters_mem : s.releaseClusters.mem = s.mem := rfl

/-! ### Homes -/

@[simp] theorem accRead_mem (a peer) : (s.accRead a peer).2.mem = s.mem := by
  unfold State.accRead; split <;> simp

@[simp] theorem bankServed_mem (l n r) : (s.bankServed l n r).mem = s.mem := by
  unfold State.bankServed; split <;> simp

@[simp] theorem passBelow_mem (l id) : (s.passBelow l id).mem = s.mem := by
  unfold State.passBelow; split <;> simp

@[simp] theorem countPass_mem (a) : (s.countPass a).mem = s.mem := by simp [State.countPass]

@[simp] theorem passAll_mem (l) : (s.passAll l).mem = s.mem := by simp [State.passAll]

@[simp] theorem dropSum_mem (ctx pa) : (s.dropSum ctx pa).mem = s.mem := rfl

@[simp] theorem sumFlag_mem (ctx b) : (s.sumFlag ctx b).mem = s.mem := rfl

@[simp] theorem sumRead_mem (a x) : (s.sumRead a x).2.mem = s.mem := by
  unfold State.sumRead; dsimp only; split <;> simp

@[simp] theorem passGrant_mem (a) : (s.passGrant a).mem = s.mem := by
  unfold State.passGrant; split <;> simp

@[simp] theorem hold_mem (a full home) : (s.hold a full home).mem = s.mem := by
  unfold State.hold; dsimp only; (repeat' split) <;> simp

@[simp] theorem granuleRead_mem (a) : (s.granuleRead a).mem = s.mem := by
  unfold State.granuleRead; dsimp only; split <;> simp

@[simp] theorem peerWake_mem (a peer mark) : (s.peerWake a peer mark).mem = s.mem := by
  unfold State.peerWake; dsimp only; (repeat' split) <;> simp

@[simp] theorem valuePush_mem (t pid v) : (s.valuePush t pid v).mem = s.mem := by
  unfold State.valuePush; dsimp only; (repeat' split) <;> simp

@[simp] theorem deliverOne_mem (uid seq push o v) : (s.deliverOne uid seq push o v).mem = s.mem := by
  unfold State.deliverOne; (repeat' split) <;> simp

/-! ### Matrix -/

@[simp] theorem queueOp_mem (t kind fmt args pages) :
    (s.queueOp t kind fmt args pages).mem = s.mem := by simp [State.queueOp]

/-! ### MatrixUnit -/

@[simp] theorem readElement_mem (m pos l n) : (s.readElement m pos l n).2.mem = s.mem := by simp [State.readElement]

@[simp] theorem updOp_mem (phys c id f) : (s.updOp phys c id f).mem = s.mem := by simp [State.updOp]

@[simp] theorem readNow_mem (phys c q pos) : (s.readNow phys c q pos).mem = s.mem := by
  unfold State.readNow; dsimp only; (repeat' split) <;> simp

@[simp] theorem readRest_mem (m ls pos acc) : (s.readRest m ls pos acc).2.mem = s.mem := by
  induction ls generalizing s pos acc with
  | nil => rfl
  | cons l ls ih => unfold State.readRest; dsimp only; split <;> simp [ih]

@[simp] theorem opTrap_mem (t m tr) : (s.opTrap t m tr).mem = s.mem := by simp [State.opTrap]

@[simp] theorem restage_mem (p c) : (s.restage p c).mem = s.mem := by
  unfold State.restage
  split
  · rfl
  · extract_lets dropped
    have hd : dropped.mem = s.mem := by simp [dropped]
    split
    · exact hd
    split
    · rfl
    split
    · split
      · next e => simp [mem_of_pair e]
      · split
        · exact hd
        · simp
    · simp

@[simp] theorem answerMwaits_mem (id st l) : (s.answerMwaits id st l).mem = s.mem := by
  unfold State.answerMwaits
  refine foldl_mem (fun s p => ?_) s _
  (repeat' split) <;> simp

@[simp] theorem finishOp_mem (phys c m) : (s.finishOp phys c m).mem = s.mem := by
  unfold State.finishOp; dsimp only; split <;> simp

@[simp] theorem sendMst_mem (t m l v) : (s.sendMst t m l v).mem = s.mem := rfl

@[simp] theorem datapathFault_mem (phys c m) : (s.datapathFault phys c m).mem = s.mem := by
  unfold State.datapathFault; dsimp only; split <;> simp

/-! ### Launch -/

@[simp] theorem onCommand_mem {s : State} {h f} (hf : ∀ c, (f c).mem = s.mem) : (s.onCommand h f).mem = s.mem := by
  unfold State.onCommand; (repeat' split) <;> simp [hf]

@[simp] theorem complete_mem (ctx req graph seq status) : (s.complete ctx req graph seq status).mem = s.mem := rfl

@[simp] theorem endReplay_mem (r status) : (s.endReplay r status).mem = s.mem := rfl

@[simp] theorem startReplay_mem (c g k) : (s.startReplay c g k).mem = s.mem := by
  unfold State.startReplay; dsimp only; split <;> simp

@[simp] theorem acceptKick_mem (c g k rest) : (s.acceptKick c g k rest).mem = s.mem := by
  unfold State.acceptKick; dsimp only; (repeat' split) <;> simp

@[simp] theorem updKRun_mem (rep kern f) : (s.updKRun rep kern f).mem = s.mem := rfl

@[simp] theorem consume_mem (r names) : (s.consume r names).mem = s.mem := rfl

@[simp] theorem satisfyThread_mem (pend gen by_) : (s.satisfyThread pend gen by_).mem = s.mem := by
  unfold State.satisfyThread; split <;> simp

@[simp] theorem satisfy_mem (name gen by_ w) : (s.satisfy name gen by_ w).mem = s.mem := by
  unfold State.satisfy; split <;> simp

@[simp] theorem publishAll_mem (r k b) : (s.publishAll r k b).mem = s.mem := by simp [State.publishAll]

@[simp] theorem switchHost_mem (g) : (s.switchHost g).mem = s.mem := by
  unfold State.switchHost; dsimp only; (repeat' split) <;> simp

/-! ### TagTable -/

theorem tagRoom_mem {s s' : State} (e : s.tagRoom = some s') : s'.mem = s.mem := by
  unfold State.tagRoom at e
  split at e
  · cases e; rfl
  · split at e <;> cases e; rfl

@[simp] theorem putTag_mem (e) : (s.putTag e).mem = s.mem := rfl

@[simp] theorem fallBack_mem (rep tensor) : (s.fallBack rep tensor).mem = s.mem := rfl

@[simp] theorem staleWait_mem (ctx rep) : (s.staleWait ctx rep).mem = s.mem := by simp [State.staleWait]

@[simp] theorem dropWaiters_mem (e) : (s.dropWaiters e).mem = s.mem := by simp [State.dropWaiters]

@[simp] theorem publish_mem (p r b) : (s.publish p r b).mem = s.mem := by
  unfold State.publish; dsimp only
  split
  · split
    · rfl
    · split
      · next e => simp [tagRoom_mem e]
      · simp
  · (repeat' split) <;> simp

@[simp] theorem look_mem (r n w) : (s.look r n w).mem = s.mem := by
  unfold State.look
  extract_lets entry wait
  have hw : ∀ s, (wait s).mem = s.mem := fun s => by unfold wait; split <;> simp
  split
  · simp
  · split
    · split
      · exact hw _
      · split
        · next e => simp [hw, tagRoom_mem e]
        · simp [hw]
    · (repeat' split) <;> simp [hw]

@[simp] theorem deliverChunk_mem (p start len st) : (s.deliverChunk p start len st).mem = s.mem := rfl

/-! ### CopyEngine -/

@[simp] theorem updCopy_mem (id f) : (s.updCopy id f).mem = s.mem := rfl

@[simp] theorem readUnit_mem (c src n peer) : (s.readUnit c src n peer).2.mem = s.mem := by
  unfold State.readUnit; split <;> simp

@[simp] theorem loseUnits_mem (id lost) : (s.loseUnits id lost).mem = s.mem := by
  unfold State.loseUnits; dsimp only; split <;> simp

@[simp] theorem unitServed_mem (c ls) : (s.unitServed c ls).mem = s.mem := by simp [State.unitServed]

@[simp] theorem updComm_mem (ctx num f) : (s.updComm ctx num f).mem = s.mem := rfl

@[simp] theorem takeBurst_mem (c count) : (s.takeBurst c count).mem = s.mem := rfl

/-! ### Banks -/

@[simp] theorem servedFor_mem (a) : (s.servedFor a).mem = s.mem := by simp [State.servedFor]

@[simp] theorem resend_mem (a) : (s.resend a).mem = s.mem := rfl

/-! ### FamilyOps -/

@[simp] theorem goProbe_mem (fam) : (s.goProbe fam).mem = s.mem := rfl

@[simp] theorem holdCreator_mem (t fam) : (s.holdCreator t fam).mem = s.mem := rfl

/-! ### Delegation -/

@[simp] theorem undoCreate_mem (f) : (s.undoCreate f).mem = s.mem := by simp [State.undoCreate]

@[simp] theorem offerEnded_mem (t) : (s.offerEnded t).mem = s.mem := by
  unfold State.offerEnded; split <;> simp

/-! ### Preempt -/

@[simp] theorem moveCluster_mem (from_ to_) : (s.moveCluster from_ to_).mem = s.mem := rfl

@[simp] theorem suspendDone_mem (c) : (s.suspendDone c).mem = s.mem := by
  unfold State.suspendDone
  split
  · split
    · rfl
    · exact foldl_mem (fun _ _ => State.send_mem ..) ..
  · rfl

/-! ### StreamUnits -/

@[simp] theorem markLate_mem (t o) : (s.markLate t o).mem = s.mem := by
  unfold State.markLate; (repeat' split) <;> simp

@[simp] theorem takeWide_mem (phys c v) : (s.takeWide phys c v).mem = s.mem := by
  unfold State.takeWide; split <;> simp

/-! ### System -/

@[simp] theorem startShoot_mem (ctx v f) : (s.startShoot ctx v f).mem = s.mem := rfl

/-! ### Freeze -/

@[simp] theorem forgetThreads_mem (uids) : (s.forgetThreads uids).mem = s.mem := rfl

/-! ### Power -/

@[simp] theorem setReplaceMe_mem : s.setReplaceMe.mem = s.mem := by
  unfold State.setReplaceMe; dsimp only; split <;> simp

@[simp] theorem spoil_mem (w) : (s.spoil w).mem = s.mem := by
  unfold State.spoil; dsimp only; (repeat' split) <;> simp

@[simp] theorem fence_mem (phys) : (s.fence phys).mem = s.mem := by simp [State.fence]

@[simp] theorem reportPoint_mem (isl pt) : (s.reportPoint isl pt).mem = s.mem := by simp [State.reportPoint]

/-! ### Command -/

@[simp] theorem onRequest_mem {s : State} {h o k f} (hf : ∀ c, (f c).mem = s.mem) : (s.onRequest h o k f).mem = s.mem :=
  onCommand_mem fun c => by split <;> simp [hf]

@[simp] theorem answer_mem (h opcode done) : (s.answer h opcode done).mem = s.mem := rfl

@[simp] theorem change_mem (h opcode c ok f) : (s.change h opcode c ok f).mem = s.mem := by
  unfold State.change; split <;> simp

/-! ### Manage -/

@[simp] theorem loadImages_mem (n is) : (s.loadImages n is).2.mem = s.mem := by
  induction is generalizing s n with
  | nil => rfl
  | cons i is ih => unfold State.loadImages; dsimp only; split <;> simp [ih]

@[simp] theorem applyBlob_mem (b c) : (s.applyBlob b c).mem = s.mem := rfl

@[simp] theorem failBoot_mem : s.failBoot.mem = s.mem := rfl

@[simp] theorem answerRest_mem (c) : (s.answerRest c).mem = s.mem := by
  unfold State.answerRest
  refine (foldl_mem (fun s g => ?_) ..).trans
    ((foldl_mem (fun _ _ => State.send_mem ..) ..).trans (foldl_mem (fun _ _ => State.send_mem ..) ..))
  split <;> simp

@[simp] theorem deliverEvents_mem : s.deliverEvents.mem = s.mem := by
  unfold State.deliverEvents; dsimp only; (repeat' split) <;> simp

/-! ### Debug -/

@[simp] theorem onDebug_mem {s : State} {h f} (hf : ∀ c, (f c).mem = s.mem) : (s.onDebug h f).mem = s.mem := by
  unfold State.onDebug; (repeat' split) <;> simp [hf]

@[simp] theorem onDebugger_mem {s : State} {h o k f} (hf : ∀ c, (f c).mem = s.mem) : (s.onDebugger h o k f).mem = s.mem :=
  onDebug_mem fun c => by (repeat' split) <;> simp [hf]

@[simp] theorem putThread_mem (t) : (s.putThread t).mem = s.mem := rfl

@[simp] theorem debugPlaces_mem (c a w n) : (s.debugPlaces c a w n).2.mem = s.mem := by
  induction n with
  | zero => rfl
  | succ n ih =>
    unfold State.debugPlaces
    split
    · next e => simp [mem_of_pair e, ih]
    · next s1 e =>
      have h1 : s1.mem = s.mem := by rw [mem_of_pair e, ih]
      extract_lets a i ok
      split
      · exact h1
      · split <;> next e' => simp [mem_of_pair e', h1]

@[simp] theorem hostCensus_mem (h l k) : (s.hostCensus h l k).mem = s.mem :=
  onDebug_mem fun c => by split <;> rfl

/-! ### Translation -/

@[simp] theorem startWalk_mem (die ctx va) : (s.startWalk die ctx va).mem = s.mem := by
  unfold State.startWalk; (repeat' split) <;> simp

@[simp] theorem stepWalk_mem (x) : (s.stepWalk x).mem = s.mem := by
  unfold State.stepWalk; dsimp only; (repeat' split) <;> simp

@[simp] theorem cancelPeer_mem (a) : (s.cancelPeer a).mem = s.mem := by
  unfold State.cancelPeer; (repeat' split) <;> simp

/-! ### Schedule -/

@[simp] theorem keepPlan_mem (t) : (s.keepPlan t).mem = s.mem := by
  unfold State.keepPlan
  split
  · split
    · rfl
    · split <;> next e => simp [mem_of_pair e]
  · rfl

@[simp] theorem noteWaits_mem (ts) : (s.noteWaits ts).mem = s.mem := by
  unfold State.noteWaits
  refine foldl_mem (fun s t => ?_) s ts
  dsimp only; (repeat' split) <;> simp

@[simp] theorem count_mem (phys core classes) : (s.count phys core classes).mem = s.mem := by
  unfold State.count; dsimp only; (repeat' split) <;> simp

@[simp] theorem prepared_mem (p c) : (s.prepared p c).1.mem = s.mem := by
  unfold State.prepared; dsimp only; (repeat' split) <;> simp

end

/-! ## The canonical form of what an outcome leaves -/

/-- The state that an outcome gives next has its memory in canonical form. -/
def NextWf : Host.Outcome State Fault Refusal → Prop
  | .next s => Mem.wf s.mem = true
  | _ => True

/-- The state that a computation gives, where no trap stops it, has its memory in canonical form. -/
def OkWf : Except Trap State → Prop
  | .ok s => Mem.wf s.mem = true
  | .error _ => True

@[simp] theorem nextWf_next (s : State) : NextWf (.next s) ↔ Mem.wf s.mem = true := Iff.rfl

@[simp] theorem nextWf_fault (e : Fault) : NextWf (.fault e) := trivial

@[simp] theorem okWf_ok (s : State) : OkWf (.ok s) ↔ Mem.wf s.mem = true := Iff.rfl

@[simp] theorem okWf_error (e : Trap) : OkWf (.error e) := trivial

/-- A fold whose every step keeps the canonical form keeps it. -/
theorem wf_foldl {α : Type} {f : State → α → State} (hf : ∀ s a, Mem.wf s.mem = true → Mem.wf (f s a).mem = true) {s : State}
    (h : Mem.wf s.mem = true) (xs : List α) : Mem.wf (xs.foldl f s).mem = true := by
  induction xs generalizing s with
  | nil => exact h
  | cons x xs ih => exact ih (hf s x h)

/-- What raises a thread's count of reductions after an access writes nothing more. -/
theorem wf_map_raiseReds {r : Except Trap State} {uid} (h : OkWf r) : OkWf (r.map (·.raiseReds uid)) := by
  cases r with
  | error => trivial
  | ok s => exact h

/-! ## Functions that keep the canonical form -/

section
variable {s : State}

/-! ### Ops -/

@[simp] theorem wf_storeVa {ctx va bs agent} (h : Mem.wf s.mem = true) :
    Mem.wf (s.storeVa ctx va bs agent).mem = true := by
  unfold State.storeVa
  refine wf_foldl (fun s p h => ?_) h _
  split <;> next e => simp [mem_of_pair e, h, Mem.wf_setLE]

@[simp] theorem wf_storeAt {l bs agent} (h : Mem.wf s.mem = true) : Mem.wf (s.storeAt l bs agent).mem = true :=
  wf_foldl (fun _ _ h => wf_homeWrite h) h _

@[simp] theorem wf_storeCode {base bs} (h : Mem.wf s.mem = true) : Mem.wf (s.storeCode base bs).mem = true := by
  simp [State.storeCode, h, Mem.wf_setBytes]

/-! ### Issue -/

/-- An attempt keeps the canonical form where its operation does: a trap, a skip and a wait write nothing. -/
theorem wf_attemptAt {t : Thread} {p : Port} {i : Instr} {body : State → Thread → Port → Except Trap State}
    (h : Mem.wf s.mem = true) (hb : ∀ s t p, Mem.wf s.mem = true → OkWf (body s t p)) :
    Mem.wf (s.attemptAt t p i body).mem = true := by
  unfold State.attemptAt
  split
  · simpa using h
  · simpa using h
  · exact h
  · split
    · simpa using h
    · next s1 t1 e1 =>
      split
      · simpa using h
      · next s2 e2 =>
        have hs : OkWf (body s1 t1 p) := hb _ _ _ (by rwa [begin_mem e1])
        rwa [e2] at hs

/-- An instruction that acts through an attempt keeps the canonical form where its operation does. -/
theorem wf_attempt {i : Instr} {body : State → Thread → Port → Except Trap State}
    (h : Mem.wf s.mem = true) (hb : ∀ s t p, Mem.wf s.mem = true → OkWf (body s t p)) : NextWf (attempt i s body) := by
  unfold attempt
  split
  · trivial
  · split
    · trivial
    · exact wf_attemptAt h hb

/-! ### LoadStore -/

@[simp] theorem wf_access {t p k a n w af red push op} (h : Mem.wf s.mem = true) :
    OkWf (s.access t p k a n w af red push op) := by
  unfold State.access
  split
  · trivial
  · next e => simp [mem_of_pair e, h]

theorem wf_loadOp {i s d b o n x} (h : Mem.wf s.mem = true) : NextWf (loadOp i s d b o n x) :=
  wf_attempt h fun _ _ _ h => wf_access h

theorem wf_storeOp {i s v b o n} (h : Mem.wf s.mem = true) : NextWf (storeOp i s v b o n) :=
  wf_attempt h fun _ _ _ h => wf_access h

/-! ### Atomics -/

theorem wf_granuleOp {i s a b wr op} (h : Mem.wf s.mem = true) : NextWf (granuleOp i s a b wr op) :=
  wf_attempt h fun _ _ _ h => wf_access h

theorem wf_atomicOp {i s fn d a b aw} (h : Mem.wf s.mem = true) : NextWf (atomicOp i s fn d a b aw) :=
  wf_attempt h fun _ _ _ h => wf_access h

theorem wf_reductionOp {i s fn a b aw} (h : Mem.wf s.mem = true) : NextWf (reductionOp i s fn a b aw) :=
  wf_attempt h fun _ _ _ h => wf_map_raiseReds (wf_access h)

theorem wf_sumaddOp {i s f a b} (h : Mem.wf s.mem = true) : NextWf (sumaddOp i s f a b) :=
  wf_attempt h fun _ _ _ h => wf_map_raiseReds (wf_access h)

theorem wf_fenceOp {i s sc} (h : Mem.wf s.mem = true) : NextWf (fenceOp i s sc) :=
  wf_attempt h fun _ _ _ h => by dsimp only; split <;> exact h

/-- What stands after an `ORD` is a load, a store, an atomic, a reduction or another access, or an illegal instruction. -/
theorem wf_prefixed {i : Instr} (h : Mem.wf s.mem = true) : NextWf (prefixed i s) := by
  cases i
  case ldBs | ldBz | ldHs | ldHz | ldWs | ldWz | ldD | ldw | ldk => exact wf_loadOp h
  case stB | stH | stW | stD | stw => exact wf_storeOp h
  case ldfe | ldff | stfe | feinitE | feinitF => exact wf_granuleOp h
  case aadd | aand | aor | axor | amin | amax | aminu | amaxu | axchg | acas | afadd => exact wf_atomicOp h
  case redAdd | redAnd | redOr | redXor | redMin | redMax | redMinu | redMaxu | redfadd => exact wf_reductionOp h
  case sumaddS | sumaddBf | sumaddH => exact wf_sumaddOp h
  case await | sumon | sumoff => exact wf_attempt h fun _ _ _ h => wf_access h
  all_goals exact wf_attempt h fun _ _ _ _ => trivial

@[simp] theorem wf_execOrd {o sc} (h : Mem.wf s.mem = true) : NextWf (execOrd o sc s) := by
  unfold execOrd
  split
  · trivial
  split
  · trivial
  split
  · simpa using h
  · simpa using h
  · exact wf_prefixed h

/-! ### Copies -/

theorem wf_copyOp {i s n kind} (h : Mem.wf s.mem = true) : NextWf (copyOp i s n kind) :=
  wf_attempt h fun _ _ _ h => by
    split
    · trivial
    · next e => simp [mem_of_pair e, h]
    · trivial

@[simp] theorem wf_execColl {n a b} (h : Mem.wf s.mem = true) : NextWf (execColl n a b s) :=
  wf_attempt h fun s t p h => by
    dsimp only
    split
    · trivial
    · next e =>
      split
      · trivial
      · simp [mem_of_pair e, h]
    · trivial

/-! ### Frame -/

@[simp] theorem wf_writeBytes {l bs} (h : Mem.wf s.mem = true) : Mem.wf (s.writeBytes l bs).mem = true := by
  simp [State.writeBytes, h, Mem.wf_setBytes]

@[simp] theorem wf_keepFrame {uid} (h : Mem.wf s.mem = true) : Mem.wf (s.keepFrame uid).mem = true := by
  unfold State.keepFrame; (repeat' split) <;> simp [h]

/-! ### Streams -/

theorem wf_ownerOp {i s body} (h : Mem.wf s.mem = true) (hb : ∀ s t, Mem.wf s.mem = true → OkWf (body s t)) :
    NextWf (ownerOp i s body) :=
  wf_attempt h fun s t p h => by
    split
    · exact hb _ _ h
    · trivial

/-! ### Families -/

@[simp] theorem wf_keepRecord {fam} (h : Mem.wf s.mem = true) : Mem.wf (s.keepRecord fam).mem = true := by
  unfold State.keepRecord; (repeat' split) <;> simp [h]

theorem wf_reserve {s' : State} {t f} (h : Mem.wf s.mem = true) (e : s.reserve t = some (f, s')) : Mem.wf s'.mem = true := by
  unfold State.reserve at e
  dsimp only at e
  split at e
  · cases e; exact wf_keepRecord (by simpa using h)
  · split at e <;> cases e
    exact wf_keepRecord (by simpa using h)

@[simp] theorem wf_finishFamily {fam status stamp} (h : Mem.wf s.mem = true) :
    Mem.wf (s.finishFamily fam status stamp).mem = true := by
  unfold State.finishFamily; dsimp only; (repeat' split) <;> simp [h]

@[simp] theorem wf_tryFinish {fam stamp} (h : Mem.wf s.mem = true) : Mem.wf (s.tryFinish fam stamp).mem = true := by
  unfold State.tryFinish; (repeat' split) <;> simp [h]

@[simp] theorem wf_inlineNext {fam stamp} (h : Mem.wf s.mem = true) : Mem.wf (s.inlineNext fam stamp).mem = true := by
  unfold State.inlineNext; dsimp only; (repeat' split) <;> simp [h]

theorem wf_runInline {s' : State} {fam c} (h : Mem.wf s.mem = true) (e : s.runInline fam c = some s') :
    Mem.wf s'.mem = true := by
  unfold State.runInline at e
  split at e
  · cases e
  · split at e
    · cases e
    · cases e
      refine wf_inlineNext (wf_keepFrame ?_)
      split <;> simp [h]

@[simp] theorem wf_sendForward {fam m i v stamp} (h : Mem.wf s.mem = true) :
    Mem.wf (s.sendForward fam m i v stamp).mem = true := by
  unfold State.sendForward; dsimp only; (repeat' split) <;> simp [h, wf_endThreadWait]

@[simp] theorem wf_dropForwards {uid} (h : Mem.wf s.mem = true) : Mem.wf (s.dropForwards uid).mem = true :=
  wf_foldl (fun _ _ h => wf_sendForward h) (by exact h) _

@[simp] theorem wf_endMember {uid} (h : Mem.wf s.mem = true) : Mem.wf (s.endMember uid).mem = true := by
  unfold State.endMember; dsimp only; (repeat' split) <;> simp [h]

@[simp] theorem wf_breakAt {fam m} (h : Mem.wf s.mem = true) : Mem.wf (s.breakAt fam m).mem = true := by
  unfold State.breakAt; dsimp only
  split
  · exact h
  split
  · exact h
  · rw [foldl_mem fun s t => offerSlot_mem ..]
    exact wf_keepRecord (wf_foldl (fun _ _ h => wf_endMember h) (by exact h) _)

@[simp] theorem wf_killFamily {tree n fam} (h : Mem.wf s.mem = true) : Mem.wf (s.killFamily tree n fam).mem = true := by
  induction n generalizing s fam with
  | zero => exact h
  | succ n ih =>
    unfold State.killFamily
    split
    · exact h
    split
    · exact h
    split
    · exact wf_finishFamily h
    split
    · exact h
    split
    · exact h
    · extract_lets victims s1 s2 s3
      have h2 : Mem.wf s2.mem = true := wf_foldl (fun _ _ h => wf_endMember h) (by exact h) _
      refine wf_tryFinish ?_
      unfold s3
      split
      · exact wf_foldl (fun _ _ h => ih h) h2 _
      · exact h2

@[simp] theorem wf_passThrough {t fam m} (h : Mem.wf s.mem = true) : Mem.wf (s.passThrough t fam m).mem = true :=
  wf_foldl (fun _ _ h => wf_sendForward h) (by exact h) _

@[simp] theorem wf_finishThread {t} (h : Mem.wf s.mem = true) : Mem.wf (s.finishThread t).mem = true := by
  unfold State.finishThread; dsimp only; (repeat' split) <;> simp [h]

/-! ### Homes -/

@[simp] theorem wf_accWrite {a v} (h : Mem.wf s.mem = true) : Mem.wf (s.accWrite a v).mem = true := by
  unfold State.accWrite; split <;> simp [h, Mem.wf_setLE]

@[simp] theorem wf_sumAccess {a pa} (h : Mem.wf s.mem = true) : Mem.wf (s.sumAccess a pa).mem = true := by
  unfold State.sumAccess; dsimp only; (repeat' split) <;> simp [h, Mem.wf_setLE]

@[simp] theorem wf_admitted {a fill} (h : Mem.wf s.mem = true) : Mem.wf (s.admitted a fill).1.mem = true := by
  unfold State.admitted; dsimp only; (repeat' split) <;> simp [h, Mem.wf_setLE]

@[simp] theorem wf_serveFrom {l fill n} (h : Mem.wf s.mem = true) : Mem.wf (s.serveFrom l fill n).mem = true := by
  induction n generalizing s fill with
  | zero => exact h
  | succ n ih =>
    unfold State.serveFrom
    split
    · exact h
    · exact ih (wf_admitted h)

@[simp] theorem wf_serve {l fill} (h : Mem.wf s.mem = true) : Mem.wf (s.serve l fill).mem = true := wf_serveFrom h

@[simp] theorem wf_fillGranule {l v agent stamp} (h : Mem.wf s.mem = true) :
    Mem.wf (s.fillGranule l v agent stamp).mem = true := by
  simp [State.fillGranule, h, Mem.wf_setLE]

@[simp] theorem wf_arrive {a peer full home} (h : Mem.wf s.mem = true) :
    Mem.wf (s.arrive a peer full home).mem = true := by
  unfold State.arrive; dsimp only
  split
  · split <;> simp [h]
  · split
    · exact wf_serve (wf_admitted (by simp [h]))
    · simp [h]

@[simp] theorem wf_commit {a peer full mark} (h : Mem.wf s.mem = true) :
    Mem.wf (s.commit a peer full mark).mem = true := by
  unfold State.commit; dsimp only; (repeat' split) <;> simp [h]

@[simp] theorem wf_arriveWait {t r} (h : Mem.wf s.mem = true) : Mem.wf (s.arriveWait t r).mem = true := by
  unfold State.arriveWait; dsimp only; (repeat' split) <;> simp [h, wf_endThreadWait]

@[simp] theorem wf_land {r} (h : Mem.wf s.mem = true) : Mem.wf (s.land r).mem = true := by
  unfold State.land; dsimp only; split <;> simp [h]

@[simp] theorem wf_execResultArrival {arr} (h : Mem.wf s.mem = true) : NextWf (execResultArrival arr s) := by
  unfold execResultArrival; (repeat' split) <;> simp [h]

/-! ### Matrix -/

@[simp] theorem wf_execMma {n a b} (h : Mem.wf s.mem = true) : NextWf (execMma n a b s) :=
  wf_ownerOp h fun s t h => by
    dsimp only
    split
    · trivial
    · split
      · trivial
      · next e => simp [mem_of_pair e, h]
      · trivial

@[simp] theorem wf_execMst {n a b} (h : Mem.wf s.mem = true) : NextWf (execMst n a b s) :=
  wf_ownerOp h fun s t h => by
    dsimp only
    split
    · trivial
    · next e => simp [mem_of_pair e, h]

/-! ### MatrixUnit -/

@[simp] theorem wf_execMatrixOpStart {phys c reads} (h : Mem.wf s.mem = true) :
    NextWf (execMatrixOpStart phys c reads s) := by
  unfold execMatrixOpStart; dsimp only; (repeat' split) <;> simp [h]

@[simp] theorem wf_execMatrixOpComplete {phys upset} (h : Mem.wf s.mem = true) :
    NextWf (execMatrixOpComplete phys upset s) := by
  unfold execMatrixOpComplete
  change Mem.wf (State.mem _) = true
  split
  · exact h
  split
  · exact h
  split
  · split
    · exact h
    split
    · simp [h]
    · split
      next e => simp [mem_of_pair e, h]
  · simp [h]
  · split
    · split <;> simp [h]
    · split
      · simp [h]
      · simpa [foldl_mem fun s x => sendMst_mem ..] using h

/-! ### Launch -/

theorem wf_onCommand {r f} (h : Mem.wf s.mem = true) (hf : ∀ c, Mem.wf (f c).mem = true) :
    Mem.wf (s.onCommand r f).mem = true := by
  unfold State.onCommand; (repeat' split) <;> simp [h, hf]

@[simp] theorem wf_clearCluster {phys} (h : Mem.wf s.mem = true) : Mem.wf (s.clearCluster phys).mem = true := by
  simp [State.clearCluster, h, Mem.wf_clear]

@[simp] theorem wf_takeCluster {ctx phys lcl} (h : Mem.wf s.mem = true) :
    Mem.wf (s.takeCluster ctx phys lcl).mem = true := by
  unfold State.takeCluster; dsimp only; split <;> simp [h]

@[simp] theorem wf_execKick {r port msg} (h : Mem.wf s.mem = true) : NextWf (execKick r port msg s) :=
  wf_onCommand h fun c => by dsimp only; (repeat' split) <;> simp [h]

@[simp] theorem wf_execKickTake {ctx} (h : Mem.wf s.mem = true) : NextWf (execKickTake ctx s) := by
  unfold execKickTake; dsimp only; (repeat' split) <;> simp [h]

@[simp] theorem wf_putGroup {c r k kern lin p} (h : Mem.wf s.mem = true) :
    Mem.wf (s.putGroup c r k kern lin p).mem = true := by
  simp [State.putGroup, h]

@[simp] theorem wf_execGroupPlacement (h : Mem.wf s.mem = true) : NextWf (execGroupPlacement s) := by
  unfold execGroupPlacement; dsimp only; split <;> simp [h]

@[simp] theorem wf_execGroupDispatch {grp} (h : Mem.wf s.mem = true) : NextWf (execGroupDispatch grp s) := by
  unfold execGroupDispatch; dsimp only; (repeat' split) <;> simp [h, wf_endWait]

@[simp] theorem wf_execWaveCounterAllocation {replay kern} (h : Mem.wf s.mem = true) :
    NextWf (execWaveCounterAllocation replay kern s) := by
  unfold execWaveCounterAllocation; dsimp only; (repeat' split) <;> simp [h]

@[simp] theorem wf_clearTcm {g} (h : Mem.wf s.mem = true) : Mem.wf (s.clearTcm g).mem = true :=
  wf_foldl (fun _ _ h => Mem.wf_clear h) h _

@[simp] theorem wf_retire {g} (h : Mem.wf s.mem = true) : Mem.wf (s.retire g).mem = true := by
  unfold State.retire; dsimp only; (repeat' split) <;> simp [h]

@[simp] theorem wf_execGroupRetirement {grp} (h : Mem.wf s.mem = true) : NextWf (execGroupRetirement grp s) := by
  unfold execGroupRetirement; (repeat' split) <;> simp [h]

@[simp] theorem wf_clearSpad {phys base size} (h : Mem.wf s.mem = true) :
    Mem.wf (s.clearSpad phys base size).mem = true := by
  simp [State.clearSpad, h, Mem.wf_clear]

@[simp] theorem wf_execAllotmentFreeing {grp} (h : Mem.wf s.mem = true) : NextWf (execAllotmentFreeing grp s) := by
  unfold execAllotmentFreeing; dsimp only; (repeat' split) <;> simp [h]

@[simp] theorem wf_execRetainRecord {grp} (h : Mem.wf s.mem = true) : NextWf (execRetainRecord grp s) := by
  unfold execRetainRecord; dsimp only; (repeat' split) <;> simp [h]

/-! ### TagTable -/

@[simp] theorem wf_endWaitk {uid} (h : Mem.wf s.mem = true) : Mem.wf (s.endWaitk uid).mem = true := by
  unfold State.endWaitk; dsimp only; (repeat' split) <;> simp [h, wf_endThreadWait]

@[simp] theorem wf_finishCopy {c err} (h : Mem.wf s.mem = true) : Mem.wf (s.finishCopy c err).mem = true := by
  simp [State.finishCopy, h]

@[simp] theorem wf_execTagPublication {pub} (h : Mem.wf s.mem = true) : NextWf (execTagPublication pub s) := by
  unfold execTagPublication; dsimp only; (repeat' split) <;> simp [h]

@[simp] theorem wf_execTagLookup {look} (h : Mem.wf s.mem = true) : NextWf (execTagLookup look s) := by
  unfold execTagLookup; (repeat' split) <;> simp [h]

@[simp] theorem wf_execTakeService {pend} (h : Mem.wf s.mem = true) : NextWf (execTakeService pend s) := by
  unfold execTakeService; dsimp only; (repeat' split) <;> simp [h]

@[simp] theorem wf_execRangeRevokeComplete {range} (h : Mem.wf s.mem = true) :
    NextWf (execRangeRevokeComplete range s) := by
  unfold execRangeRevokeComplete; (repeat' split) <;> simp [h]

/-! ### CopyEngine -/

@[simp] theorem wf_writeUnit {c l n v} (h : Mem.wf s.mem = true) : Mem.wf (s.writeUnit c l n v).mem = true := by
  unfold State.writeUnit; dsimp only; split <;> simp [h, Mem.wf_setLE]

@[simp] theorem wf_moveUnit {id i part peer} (h : Mem.wf s.mem = true) :
    Mem.wf (s.moveUnit id i part peer).mem = true := by
  unfold State.moveUnit
  split
  · exact h
  split
  · exact h
  · extract_lets n r go left s1
    split
    · simp [h]
    split
    · exact h
    · have h1 : Mem.wf s1.mem = true := by simp only [s1, r, updCopy_mem]; split <;> simp [h]
      rw [unitServed_mem]
      exact wf_foldl (fun _ _ h => wf_writeUnit h) h1 _

@[simp] theorem wf_tryCollective {ctx num y} (h : Mem.wf s.mem = true) :
    Mem.wf (s.tryCollective ctx num y).mem = true := by
  unfold State.tryCollective; dsimp only; (repeat' split) <;> simp [h]

@[simp] theorem wf_afterBurst {id} (h : Mem.wf s.mem = true) : Mem.wf (s.afterBurst id).mem = true := by
  unfold State.afterBurst; dsimp only; (repeat' split) <;> simp [h]

@[simp] theorem wf_execCopyBurst {copy units part peer} (h : Mem.wf s.mem = true) :
    NextWf (execCopyBurst copy units part peer s) := by
  unfold execCopyBurst
  change Mem.wf (State.mem _) = true
  split
  · exact h
  split
  · exact h
  · extract_lets n move
    have hm : Mem.wf (move s).mem = true := wf_afterBurst (wf_foldl (fun _ _ h => wf_moveUnit h) (by simp [h]) _)
    split
    · split
      · exact hm
      · exact h
    · exact hm

theorem wf_onFar {r f} (h : Mem.wf s.mem = true) (hf : ∀ c, Mem.wf (f c).mem = true) :
    Mem.wf (s.onFar r f).mem = true := by
  unfold State.onFar; (repeat' split) <;> simp [h, hf]

@[simp] theorem wf_execFarTierAck {r} (h : Mem.wf s.mem = true) : NextWf (execFarTierAck r s) :=
  wf_onFar h fun c => by split <;> simp [h]

@[simp] theorem wf_execFarPageArrival {r page} (h : Mem.wf s.mem = true) : NextWf (execFarPageArrival r page s) :=
  wf_onFar h fun c => by (repeat' split) <;> simp [h]

@[simp] theorem wf_execFarTierTimeout {copy} (h : Mem.wf s.mem = true) : NextWf (execFarTierTimeout copy s) := by
  unfold execFarTierTimeout; (repeat' split) <;> simp [h]

@[simp] theorem wf_execFarServerRefusal {r} (h : Mem.wf s.mem = true) : NextWf (execFarServerRefusal r s) :=
  wf_onFar h fun c => by split <;> simp [h]

@[simp] theorem wf_execCollectiveMessage {r comm msg} (h : Mem.wf s.mem = true) :
    NextWf (execCollectiveMessage r comm msg s) := by
  unfold execCollectiveMessage; dsimp only; (repeat' split) <;> simp [h]

@[simp] theorem wf_execCollectiveTimeout {ctx comm k missing lost} (h : Mem.wf s.mem = true) :
    NextWf (execCollectiveTimeout ctx comm k missing lost s) := by
  unfold execCollectiveTimeout; (repeat' split) <;> simp [h]

/-! ### Banks -/

@[simp] theorem wf_perform {a peer} (h : Mem.wf s.mem = true) : Mem.wf (s.perform a peer).mem = true := by
  simp [State.perform, h]

@[simp] theorem wf_execAccessPerform {acc peer} (h : Mem.wf s.mem = true) : NextWf (execAccessPerform acc peer s) := by
  unfold execAccessPerform; (repeat' split) <;> simp [h]

@[simp] theorem wf_execRequestPassLimit {acc} (h : Mem.wf s.mem = true) : NextWf (execRequestPassLimit acc s) := by
  unfold execRequestPassLimit; (repeat' split) <;> simp [h]

@[simp] theorem wf_execRequestAged {acc} (h : Mem.wf s.mem = true) : NextWf (execRequestAged acc s) := h

@[simp] theorem wf_execOutboundResend {u} (h : Mem.wf s.mem = true) : NextWf (execOutboundResend u s) := by
  unfold execOutboundResend; dsimp only; (repeat' split) <;> simp [h]

/-! ### FamilyOps -/

theorem wf_goInline {s' : State} {t fam r} (h : Mem.wf s.mem = true) (e : s.goInline t fam = .ok (s', r)) :
    Mem.wf s'.mem = true := by
  unfold State.goInline at e
  split at e
  · next e' => cases e; exact wf_runInline h e'
  · cases e

theorem wf_goFamily {s' : State} {t fam body r} (h : Mem.wf s.mem = true) (e : s.goFamily t fam body = .ok (s', r)) :
    Mem.wf s'.mem = true := by
  unfold State.goFamily at e
  split at e
  · cases e
  · extract_lets deps src s1 wide inside delegate inlineOnly s2 at e
    have h1 : Mem.wf s1.mem = true := h
    have h2 : Mem.wf s2.mem = true := by simpa [s2] using h1
    clear_value s1 s2
    split at e
    · cases e; exact wf_finishFamily h1
    split at e
    · exact wf_goInline h1 e
    split at e
    · cases e; simpa using h1
    split at e
    · cases e; exact h2
    split at e
    · cases e; simpa using h2
    · exact wf_goInline h2 e

theorem wf_handleOp {i s a body} (h : Mem.wf s.mem = true) (hb : ∀ s t p f, Mem.wf s.mem = true → OkWf (body s t p f)) :
    NextWf (handleOp i s a body) :=
  wf_attempt h fun s t p h => by
    split
    · trivial
    · exact hb _ _ _ _ h

theorem wf_reservedOp {i s a body} (h : Mem.wf s.mem = true) (hb : ∀ s t p f, Mem.wf s.mem = true → OkWf (body s t p f)) :
    NextWf (reservedOp i s a body) :=
  wf_handleOp h fun s t p f h => by
    split
    · trivial
    · exact hb _ _ _ _ h

@[simp] theorem wf_execFalloc {d} (h : Mem.wf s.mem = true) : NextWf (execFalloc d s) :=
  wf_attempt h fun s t p h => by
    split
    · trivial
    split
    · trivial
    · next e => simpa using wf_reserve h e

@[simp] theorem wf_execFgo {a i} (h : Mem.wf s.mem = true) : NextWf (execFgo a i s) :=
  wf_reservedOp h fun s t p f h => by
    split
    · trivial
    · next e => simpa using wf_goFamily h e
    · next e => exact wf_goFamily h e

@[simp] theorem wf_fillHandle {uid d r} (h : Mem.wf s.mem = true) : Mem.wf (s.fillHandle uid d r).mem = true := by
  simp [State.fillHandle, h]

@[simp] theorem wf_execCreate {d i} (h : Mem.wf s.mem = true) : NextWf (execCreate d i s) :=
  wf_attempt h fun s t p h => by
    split
    · trivial
    split
    · trivial
    · next f s1 e =>
      have h1 : Mem.wf s1.mem = true := wf_reserve h e
      split
      · trivial
      · next e' => simpa using wf_goFamily (by exact h1) e'
      · next e' => exact wf_fillHandle (wf_goFamily (by exact h1) e')
      · next e' => simpa using wf_goFamily (by exact h1) e'

@[simp] theorem wf_execFputD {a b i} (h : Mem.wf s.mem = true) : NextWf (execFputD a b i s) :=
  wf_reservedOp h fun s t p f h => by split <;> simp [h]

@[simp] theorem wf_execFputG {a b i} (h : Mem.wf s.mem = true) : NextWf (execFputG a b i s) :=
  wf_reservedOp h fun s t p f h => by split <;> simp [h]

@[simp] theorem wf_execFplace {a b} (h : Mem.wf s.mem = true) : NextWf (execFplace a b s) :=
  wf_reservedOp h fun s t p f h => by split <;> simp [h]

@[simp] theorem wf_startExit {t brk} (h : Mem.wf s.mem = true) : Mem.wf (s.startExit t brk).mem = true := by
  unfold State.startExit; dsimp only; split <;> simp [h]

@[simp] theorem wf_exitServed {v brk} (h : Mem.wf s.mem = true) : Mem.wf (s.exitServed v brk).mem = true := by
  unfold State.exitServed; dsimp only; split <;> simp [h]

@[simp] theorem wf_exitOp {i brk} (h : Mem.wf s.mem = true) : NextWf (exitOp i s brk) :=
  wf_attempt h fun s t p h => by
    split
    · dsimp only
      split
      · exact wf_exitServed (by simp [h])
      · simp [h]
    · exact wf_startExit h

@[simp] theorem wf_execExit (h : Mem.wf s.mem = true) : NextWf (execExit s) := by simp [execExit, h]

@[simp] theorem wf_execBrk (h : Mem.wf s.mem = true) : NextWf (execBrk s) := by simp [execBrk, h]

/-! ### Delegation -/

@[simp] theorem wf_passStart {t f inline} (h : Mem.wf s.mem = true) : Mem.wf (s.passStart t f inline).mem = true := by
  unfold State.passStart; (repeat' split) <;> simp [h]

@[simp] theorem wf_probeFails {f} (h : Mem.wf s.mem = true) : Mem.wf (s.probeFails f).mem = true := by
  unfold State.probeFails; dsimp only
  split
  · simp [h]
  split
  · refine wf_tryFinish ?_
    split <;> simp [h]
  split
  · next e => split <;> simp [wf_runInline h e]
  split
  · simp [h]
  · rw [takeTrap_mem]
    split <;> simp [h]

@[simp] theorem wf_execDelegationCandidates {fam take} (h : Mem.wf s.mem = true) :
    NextWf (execDelegationCandidates fam take s) := by
  unfold execDelegationCandidates; dsimp only; (repeat' split) <;> simp [h]

@[simp] theorem wf_execDelegationProbe {fam} (h : Mem.wf s.mem = true) : NextWf (execDelegationProbe fam s) := by
  unfold execDelegationProbe; dsimp only; (repeat' split) <;> simp [h]

@[simp] theorem wf_execProbeReply {fam} (h : Mem.wf s.mem = true) : NextWf (execProbeReply fam s) := by
  unfold execProbeReply; dsimp only; (repeat' split) <;> simp [h]

/-! ### Members -/

@[simp] theorem wf_arriveForward {f} (h : Mem.wf s.mem = true) : Mem.wf (s.arriveForward f).mem = true := by
  simp [State.arriveForward, h]

@[simp] theorem wf_execForwardArrival {fwd} (h : Mem.wf s.mem = true) : NextWf (execForwardArrival fwd s) := by
  unfold execForwardArrival; (repeat' split) <;> simp [h]

@[simp] theorem wf_pass {t} (h : Mem.wf s.mem = true) : Mem.wf (s.pass t).mem = true := by
  unfold State.pass; (repeat' split) <;> simp [h]

@[simp] theorem wf_leave {t} (h : Mem.wf s.mem = true) : Mem.wf (s.leave t).mem = true := by
  unfold State.leave; (repeat' split) <;> simp [h]

@[simp] theorem wf_execThreadTermination {uid} (h : Mem.wf s.mem = true) : NextWf (execThreadTermination uid s) := by
  unfold execThreadTermination; dsimp only; (repeat' split) <;> simp [h]

@[simp] theorem wf_execFkillArrival {kill} (h : Mem.wf s.mem = true) : NextWf (execFkillArrival kill s) := by
  unfold execFkillArrival
  simp only [nextWf_next]
  split
  · exact h
  split
  · exact h
  · exact wf_killFamily h

/-! ### Traps -/

@[simp] theorem wf_execTrapServiceStart {phys c} (h : Mem.wf s.mem = true) : NextWf (execTrapServiceStart phys c s) := by
  unfold execTrapServiceStart; dsimp only; (repeat' split) <;> simp [h]

/-! ### Preempt -/

@[simp] theorem wf_writeRecord {phys base} (h : Mem.wf s.mem = true) : Mem.wf (s.writeRecord phys base).mem = true := by
  unfold State.writeRecord
  extract_lets area m1 m2 m3 m4 frames
  have ha : ∀ m k n a, Mem.wf m = true → Mem.wf (area m k n a) = true := fun m k n a hm => Mem.wf_setCells (Mem.wf_clear hm)
  have h4 : Mem.wf m4 = true := Mem.wf_setCells (Mem.wf_clear (Mem.wf_setCells (Mem.wf_clear (ha _ _ _ _ (ha _ _ _ _ h)))))
  exact List.foldlRecOn (motive := fun m => Mem.wf m = true) frames _ h4 fun m hm x _ => Mem.wf_setBytes hm

@[simp] theorem wf_saveCluster {ctx phys lcl} (h : Mem.wf s.mem = true) :
    Mem.wf (s.saveCluster ctx phys lcl).mem = true := by
  simp [State.saveCluster, h]

@[simp] theorem wf_execPreemptionSave {phys} (h : Mem.wf s.mem = true) : NextWf (execPreemptionSave phys s) := by
  unfold execPreemptionSave; dsimp only; (repeat' split) <;> simp [h]

@[simp] theorem wf_deliverHeld {phys} (h : Mem.wf s.mem = true) : Mem.wf (s.deliverHeld phys).mem = true :=
  wf_foldl (fun _ _ h => wf_arriveForward (by exact h)) (wf_foldl (fun _ _ h => wf_land (by simpa using h)) h _) _

@[simp] theorem wf_performHeld {ids} (h : Mem.wf s.mem = true) : Mem.wf (s.performHeld ids).mem = true :=
  wf_foldl (fun _ _ h => by (repeat' split) <;> simp [h]) h _

@[simp] theorem wf_writeHeld {phys} (h : Mem.wf s.mem = true) : Mem.wf (s.writeHeld phys).mem = true :=
  wf_foldl (fun _ _ h => by
    dsimp only
    split
    · exact h
    · exact wf_afterBurst (wf_foldl (fun _ _ h => wf_moveUnit h) h _)) h _

@[simp] theorem wf_applyKills {phys} (h : Mem.wf s.mem = true) : Mem.wf (s.applyKills phys).mem = true :=
  wf_foldl (fun _ _ h => wf_killFamily (by exact h)) h _

@[simp] theorem wf_restoreOn {c x phys} (h : Mem.wf s.mem = true) : Mem.wf (s.restoreOn c x phys).mem = true := by
  unfold State.restoreOn
  extract_lets from_ stratus away s1 s2 s3 s4 s5 s6 s7
  have h2 : Mem.wf s2.mem = true := by unfold s2; split <;> simp [s1, h]
  have h5 : Mem.wf s5.mem = true := by
    simp only [s5, s4, moveCluster_mem, State.updCluster_mem]
    exact wf_clearCluster (wf_takeCluster h2)
  have h6 : Mem.wf s6.mem = true := Mem.wf_setCells h5
  exact wf_foldl (fun _ _ h => wf_endWaitk h) (wf_applyKills (wf_writeHeld (wf_performHeld (wf_deliverHeld h6)))) _

@[simp] theorem wf_execRestore {ctx lcl} (h : Mem.wf s.mem = true) : NextWf (execRestore ctx lcl s) := by
  unfold execRestore; (repeat' split) <;> simp [h]

@[simp] theorem wf_execQuantumExpiry {phys} (h : Mem.wf s.mem = true) : NextWf (execQuantumExpiry phys s) := by
  unfold execQuantumExpiry; dsimp only; (repeat' split) <;> simp [h]

@[simp] theorem wf_execHostingSliceExpiry {phys} (h : Mem.wf s.mem = true) : NextWf (execHostingSliceExpiry phys s) := by
  unfold execHostingSliceExpiry; dsimp only; (repeat' split) <;> simp [h]

/-! ### Vector -/

@[simp] theorem wf_execVcvt {d a q dst m src} (h : Mem.wf s.mem = true) : NextWf (execVcvt d a q dst m src s) :=
  wf_attempt h fun _ _ _ h => by split <;> simp [h]

/-! ### StreamUnits -/

@[simp] theorem wf_elementArrives {t u v} (h : Mem.wf s.mem = true) : Mem.wf (s.elementArrives t u v).mem = true := by
  unfold State.elementArrives; dsimp only; split <;> simp [h, wf_endThreadWait]

@[simp] theorem wf_execStreamFetch {phys c u peer} (h : Mem.wf s.mem = true) :
    NextWf (execStreamFetch phys c u peer s) := by
  unfold execStreamFetch
  simp only [nextWf_next]
  split
  · split
    · exact h
    · split
      · next e => simp [mem_of_pair e, h]
      · next e => exact wf_elementArrives (by simp [mem_of_pair e, h])
      · next e => simp [mem_of_pair e, h]
      · next e =>
        split
        · exact h
        split
        · simpa using h
        · exact wf_elementArrives (by simp [mem_of_pair e, h])
  · exact h

/-- What the sequencer issues is a wide operation; anything else is trapped. -/
theorem wf_bodyMeaning {i : Instr} (h : Mem.wf s.mem = true) : NextWf (bodyMeaning i s) := by
  cases i
  case vadd | vsub | vmul | vfma | vmin | vmax | vadds | vsubs | vand | vor | vxor | vsll | vsrl | vsra | vdiv |
      vsqrt | vabs | vneg | vmulh | vcmpEq | vcmpNe | vcmpLt | vcmpLe | vcmpUn | vsel | vperm | vzipl | vziph |
      vunzipl | vunziph | vredadd | vredmin | vredmax | vredand | vredor | vredxor | vscanAddInc | vscanAddExc |
      vscanMinInc | vscanMinExc | vscanMaxInc | vscanMaxExc =>
    exact wf_attempt h fun _ _ _ h => h
  case vcvt => exact wf_execVcvt h
  all_goals unfold bodyMeaning; dsimp only; split <;> simp [h]

@[simp] theorem wf_execSequencerIssue {phys c} (h : Mem.wf s.mem = true) : NextWf (execSequencerIssue phys c s) := by
  unfold execSequencerIssue
  extract_lets k
  split
  · split
    · exact h
    split
    · simpa using h
    split
    · simpa using h
    · simpa using h
    · next t _ _ _ _ _ g i _ =>
      extract_lets p' p v s1
      clear_value v
      have h1 : Mem.wf s1.mem = true := by unfold s1; split <;> simpa using h
      have hb : NextWf (bodyMeaning i { s1 with port := some p }) := wf_bodyMeaning h1
      split
      · next u e =>
        rw [e] at hb
        simpa using wf_keepFrame hb
      · exact hb
  · exact h

/-! ### System -/

@[simp] theorem wf_execSyswFrameWindow {n a} (h : Mem.wf s.mem = true) : NextWf (execSyswFrameWindow n a s) :=
  wf_attempt h fun s t p h => by split <;> simp [h]

@[simp] theorem wf_execMark {a} (h : Mem.wf s.mem = true) : NextWf (execMark a s) :=
  wf_attempt h fun _ _ _ h => wf_endThreadWait h

@[simp] theorem wf_execEret (h : Mem.wf s.mem = true) : NextWf (execEret s) :=
  wf_attempt h fun _ _ _ h => wf_returnTrap h

/-! ### Freeze -/

@[simp] theorem wf_writeOut {ctx phys n va bs} (h : Mem.wf s.mem = true) :
    Mem.wf (s.writeOut ctx phys n va bs).mem = true := by
  induction n generalizing s va bs with
  | zero => exact h
  | succ n ih =>
    unfold State.writeOut
    split
    · exact h
    · exact ih (wf_writeVa h)

@[simp] theorem wf_writeDump {c z} (h : Mem.wf s.mem = true) : Mem.wf (s.writeDump c z).2.2.mem = true := by
  unfold State.writeDump; dsimp only
  split
  · exact h
  · exact wf_writeVa (wf_writeOut h)

@[simp] theorem wf_endContextWork {ctx st} (h : Mem.wf s.mem = true) : Mem.wf (s.endContextWork ctx st).mem = true := by
  unfold State.endContextWork; dsimp only
  rw [foldl_mem fun s r => endReplay_mem ..]
  refine wf_foldl (fun s p h => by simp [h]) ?_ _
  exact wf_foldl (fun _ _ h => wf_clearSpad h) (by simp [h]) _

@[simp] theorem wf_release {c z dump by_} (h : Mem.wf s.mem = true) : Mem.wf (s.release c z dump by_).mem = true := by
  unfold State.release
  extract_lets w code s1 s2 s3 s4
  have hw : Mem.wf w.2.2.mem = true := by
    unfold w
    split
    · exact wf_writeDump h
    · exact h
  have h1 : Mem.wf s1.mem = true := wf_endContextWork hw
  simpa [s4, s3, s2] using h1

@[simp] theorem wf_tryRelease {ctx} (h : Mem.wf s.mem = true) : Mem.wf (s.tryRelease ctx).mem = true := by
  unfold State.tryRelease; (repeat' split) <;> simp [h]

@[simp] theorem wf_execFreezeComplete {ctx} (h : Mem.wf s.mem = true) : NextWf (execFreezeComplete ctx s) := by
  unfold execFreezeComplete; dsimp only; (repeat' split) <;> simp [h]

@[simp] theorem wf_execFreezeLimitExpiry {ctx} (h : Mem.wf s.mem = true) : NextWf (execFreezeLimitExpiry ctx s) := by
  unfold execFreezeLimitExpiry; (repeat' split) <;> simp [h]

@[simp] theorem wf_execUnitWatchdog {u} (h : Mem.wf s.mem = true) : NextWf (execUnitWatchdog u s) := by
  unfold execUnitWatchdog; dsimp only; (repeat' split) <;> simp [h]

@[simp] theorem wf_execProgressWatchdog {grp} (h : Mem.wf s.mem = true) : NextWf (execProgressWatchdog grp s) := by
  unfold execProgressWatchdog; dsimp only; (repeat' split) <;> simp [h]

/-! ### Power -/

@[simp] theorem wf_execPatrolScrub {word bits} (h : Mem.wf s.mem = true) : NextWf (execPatrolScrub word bits s) := by
  unfold execPatrolScrub; dsimp only; (repeat' split) <;> simp [h]

@[simp] theorem wf_execLinkRetry {link} (h : Mem.wf s.mem = true) : NextWf (execLinkRetry link s) := by
  unfold execLinkRetry; dsimp only; split <;> simp [h]

@[simp] theorem wf_execPortStateChange {port up} (h : Mem.wf s.mem = true) : NextWf (execPortStateChange port up s) := by
  unfold execPortStateChange; split <;> simp [h]

@[simp] theorem wf_execClusterFencing {phys} (h : Mem.wf s.mem = true) : NextWf (execClusterFencing phys s) := by
  unfold execClusterFencing; dsimp only; (repeat' split) <;> simp [h]

@[simp] theorem wf_losePower {phys} (h : Mem.wf s.mem = true) : Mem.wf (s.losePower phys).mem = true := by
  simp [State.losePower, h, Mem.wf_clear]

@[simp] theorem wf_execOperatingPointChange {isl pt} (h : Mem.wf s.mem = true) :
    NextWf (execOperatingPointChange isl pt s) := by
  unfold execOperatingPointChange; dsimp only; (repeat' split) <;> simp [h]

@[simp] theorem wf_execMatrixIslandGate {phys} (h : Mem.wf s.mem = true) : NextWf (execMatrixIslandGate phys s) := by
  unfold execMatrixIslandGate; split <;> simp [h]

@[simp] theorem wf_execCoreIslandWake {phys} (h : Mem.wf s.mem = true) : NextWf (execCoreIslandWake phys s) := by
  unfold execCoreIslandWake; split <;> simp [h]

@[simp] theorem wf_execMatrixIslandWake {phys} (h : Mem.wf s.mem = true) : NextWf (execMatrixIslandWake phys s) := by
  unfold execMatrixIslandWake; split <;> simp [h]

/-! ### Loader -/

@[simp] theorem wf_layoutStore {l : Layout} {objs c x} (h : Mem.wf s.mem = true) :
    Mem.wf (l.store objs c s x).mem = true := by
  unfold Layout.store
  split
  · exact h
  · exact wf_storeAt (wf_storeVa (wf_storeVa (wf_storeVa (wf_storeCode h))))

theorem wf_placeUpload {s' : State} {c u} (h : Mem.wf s.mem = true) (e : s.placeUpload c u = some s') :
    Mem.wf s'.mem = true := by
  unfold State.placeUpload at e
  dsimp only at e
  split at e
  · cases e; exact h
  · split at e
    · cases e
    · cases e; exact wf_foldl (fun _ _ h => wf_layoutStore h) h _

@[simp] theorem wf_execUploadGraph {r depth place objs at_} (h : Mem.wf s.mem = true) :
    NextWf (execUploadGraph r depth place objs at_ s) :=
  wf_onCommand h fun c => by
    split
    · exact h
    · cases e : s.placeUpload c ⟨r, depth.toNat, place.toNat, objs, at_⟩ with
      | none => simpa [e] using h
      | some s' => simpa [e] using wf_placeUpload h e

@[simp] theorem wf_load {r at_} (h : Mem.wf s.mem = true) : Mem.wf (s.load r at_).mem = true := by
  unfold State.load
  split
  · next u c _ _ =>
    split
    · exact h
    · cases e : s.placeUpload c { u with at_ := at_ } with
      | none => simpa [e] using h
      | some s' => simpa [e] using wf_placeUpload h e
  · exact h

@[simp] theorem wf_execRemoveGraph {r graph} (h : Mem.wf s.mem = true) : NextWf (execRemoveGraph r graph s) :=
  wf_onCommand h fun c => by (repeat' split) <;> simp [h]

@[simp] theorem wf_execGraphRemovalComplete {graph} (h : Mem.wf s.mem = true) :
    NextWf (execGraphRemovalComplete graph s) := by
  unfold execGraphRemovalComplete; dsimp only; (repeat' split) <;> simp [h]

/-! ### Command -/

theorem wf_onRequest {r o k f} (h : Mem.wf s.mem = true) (hf : ∀ c, Mem.wf (f c).mem = true) :
    Mem.wf (s.onRequest r o k f).mem = true :=
  wf_onCommand h fun c => by split <;> simp [h, hf]

@[simp] theorem wf_execSetPtRoot {r pa} (h : Mem.wf s.mem = true) :
    NextWf (execSetPtRoot r pa s) := by simp [execSetPtRoot, h]

@[simp] theorem wf_execSetPeerTableEntry {r peer dev endpoint length} (h : Mem.wf s.mem = true) :
    NextWf (execSetPeerTableEntry r peer dev endpoint length s) := by
  simp [execSetPeerTableEntry, h]

@[simp] theorem wf_execSetExportedWindow {r base length accept} (h : Mem.wf s.mem = true) :
    NextWf (execSetExportedWindow r base length accept s) := by
  unfold execSetExportedWindow; dsimp only; split <;> simp [h]

@[simp] theorem wf_execSetFarTableEntry {r entry server port timeoutUs} (h : Mem.wf s.mem = true) :
    NextWf (execSetFarTableEntry r entry server port timeoutUs s) := by
  simp [execSetFarTableEntry, h]

@[simp] theorem wf_execSetCommunicator {r comm p rank prev next group timeoutUs} (h : Mem.wf s.mem = true) :
    NextWf (execSetCommunicator r comm p rank prev next group timeoutUs s) := by
  simp [execSetCommunicator, h]

@[simp] theorem wf_execSetFpCtl {r v} (h : Mem.wf s.mem = true) : NextWf (execSetFpCtl r v s) := by simp [execSetFpCtl, h]

@[simp] theorem wf_execSetJobSeed {r v} (h : Mem.wf s.mem = true) :
    NextWf (execSetJobSeed r v s) := by simp [execSetJobSeed, h]

@[simp] theorem wf_execSetStratusCtl {r v} (h : Mem.wf s.mem = true) : NextWf (execSetStratusCtl r v s) := by
  simp [execSetStratusCtl, h]

@[simp] theorem wf_execSetContrailBase {r v} (h : Mem.wf s.mem = true) : NextWf (execSetContrailBase r v s) := by
  simp [execSetContrailBase, h]

@[simp] theorem wf_execSetContrailCtl {r v} (h : Mem.wf s.mem = true) : NextWf (execSetContrailCtl r v s) := by
  simp [execSetContrailCtl, h]

@[simp] theorem wf_execSetFreezeAndDump {r limitMs base size} (h : Mem.wf s.mem = true) :
    NextWf (execSetFreezeAndDump r limitMs base size s) := by
  simp [execSetFreezeAndDump, h]

@[simp] theorem wf_execSuspendContext {r} (h : Mem.wf s.mem = true) : NextWf (execSuspendContext r s) := by
  simp [execSuspendContext, h]

@[simp] theorem wf_execResumeContext {r} (h : Mem.wf s.mem = true) : NextWf (execResumeContext r s) := by
  simp [execResumeContext, h]

@[simp] theorem wf_execContextQuote {r nonce} (h : Mem.wf s.mem = true) : NextWf (execContextQuote r nonce s) :=
  wf_onCommand h fun c => by split <;> simp [h]

@[simp] theorem wf_execShootdownCommand {r v} (h : Mem.wf s.mem = true) : NextWf (execShootdownCommand r v s) :=
  wf_onCommand h fun c => by split <;> simp [h]

/-! ### Control -/

@[simp] theorem wf_execIllegalInstruction (h : Mem.wf s.mem = true) : NextWf (execIllegalInstruction s) := by
  unfold execIllegalInstruction; (repeat' split) <;> simp [h]

@[simp] theorem wf_execInstructionAddressTrap (h : Mem.wf s.mem = true) : NextWf (execInstructionAddressTrap s) := by
  unfold execInstructionAddressTrap; dsimp only; (repeat' split) <;> simp [h]

/-! ### Manage -/

theorem wf_onManage {r o k f} (h : Mem.wf s.mem = true) (hf : Mem.wf f.mem = true) :
    Mem.wf (s.onManage r o k f).mem = true := by
  unfold State.onManage; (repeat' split) <;> simp [h, hf]

@[simp] theorem wf_execBoot {primary recovery cfg} (h : Mem.wf s.mem = true) :
    NextWf (execBoot primary recovery cfg s) := by
  unfold execBoot; dsimp only; (repeat' split) <;> simp [h]

@[simp] theorem wf_execPtpSync {t} (h : Mem.wf s.mem = true) : NextWf (execPtpSync t s) := by
  unfold execPtpSync; split <;> simp [h]

@[simp] theorem wf_execCreateContext {m} (h : Mem.wf s.mem = true) : NextWf (execCreateContext m s) :=
  wf_onManage h (by split <;> simp [h])

@[simp] theorem wf_stopThreads {ctx} (h : Mem.wf s.mem = true) : Mem.wf (s.stopThreads ctx).mem = true :=
  wf_foldl (fun _ _ h => wf_endMember h) (by exact h) _

@[simp] theorem wf_execDestroyContext {r ctx} (h : Mem.wf s.mem = true) : NextWf (execDestroyContext r ctx s) :=
  wf_onManage h (by
    split
    · exact h
    split
    · exact h
    · extract_lets s1 s2 s3 s4
      have h1 : Mem.wf s1.mem = true := by rw [foldl_mem fun s k => complete_mem ..]; exact h
      have h2 : Mem.wf s2.mem = true := by unfold s2; split <;> exact h1
      exact wf_stopThreads h2)

@[simp] theorem wf_clearHeld {ctx} (h : Mem.wf s.mem = true) : Mem.wf (s.clearHeld ctx).mem = true :=
  wf_foldl (fun _ _ h => by simp [h]) h _

@[simp] theorem wf_dropContext {ctx} (h : Mem.wf s.mem = true) : Mem.wf (s.dropContext ctx).mem = true := by
  unfold State.dropContext; dsimp only
  rw [foldl_mem fun s a => by split <;> simp]
  exact wf_clearHeld h

@[simp] theorem wf_execContextDestroyDrained {ctx} (h : Mem.wf s.mem = true) :
    NextWf (execContextDestroyDrained ctx s) := by
  unfold execContextDestroyDrained; (repeat' split) <;> simp [h]

@[simp] theorem wf_execSetGrants {r ctx gs} (h : Mem.wf s.mem = true) : NextWf (execSetGrants r ctx gs s) :=
  wf_onManage h (by dsimp only; (repeat' split) <;> simp [h])

@[simp] theorem wf_execScrubRange {r base len} (h : Mem.wf s.mem = true) : NextWf (execScrubRange r base len s) :=
  wf_onManage h (by split <;> simp [h])

@[simp] theorem wf_execScrubComplete (h : Mem.wf s.mem = true) : NextWf (execScrubComplete s) := by
  unfold execScrubComplete; split <;> simp [h, Mem.wf_clear]

@[simp] theorem wf_execQuote {r nonce} (h : Mem.wf s.mem = true) : NextWf (execQuote r nonce s) := wf_onManage h h

@[simp] theorem wf_execIdentityCertificate {r} (h : Mem.wf s.mem = true) : NextWf (execIdentityCertificate r s) :=
  wf_onManage h h

@[simp] theorem wf_execFenceCluster {r phys} (h : Mem.wf s.mem = true) : NextWf (execFenceCluster r phys s) :=
  wf_onManage h (by split <;> simp [h])

@[simp] theorem wf_execUnfenceCluster {r phys selfTest} (h : Mem.wf s.mem = true) :
    NextWf (execUnfenceCluster r phys selfTest s) :=
  wf_onManage h (by split <;> simp [h])

@[simp] theorem wf_execReadReplaceMeStatus {r} (h : Mem.wf s.mem = true) : NextWf (execReadReplaceMeStatus r s) :=
  wf_onManage h h

@[simp] theorem wf_execRegisterEventEndpoint {r endpoint} (h : Mem.wf s.mem = true) :
    NextWf (execRegisterEventEndpoint r endpoint s) :=
  wf_onManage h h

@[simp] theorem wf_execSetPowerLimit {r watts} (h : Mem.wf s.mem = true) : NextWf (execSetPowerLimit r watts s) :=
  wf_onManage h (by split <;> simp [h])

@[simp] theorem wf_execGrantRange {r ctx range} (h : Mem.wf s.mem = true) : NextWf (execGrantRange r ctx range s) :=
  wf_onManage h (by dsimp only; (repeat' split) <;> simp [h])

@[simp] theorem wf_execRevokeRange {r ctx range} (h : Mem.wf s.mem = true) : NextWf (execRevokeRange r ctx range s) :=
  wf_onManage h (by dsimp only; (repeat' split) <;> simp [h])

/-! ### Debug -/

theorem wf_onDebug {r f} (h : Mem.wf s.mem = true) (hf : ∀ c, Mem.wf (f c).mem = true) :
    Mem.wf (s.onDebug r f).mem = true := by
  unfold State.onDebug; (repeat' split) <;> simp [h, hf]

theorem wf_onDebugger {r o k f} (h : Mem.wf s.mem = true) (hf : ∀ c, Mem.wf (f c).mem = true) :
    Mem.wf (s.onDebugger r o k f).mem = true :=
  wf_onDebug h fun c => by (repeat' split) <;> simp [h, hf]

@[simp] theorem wf_execAttach {r cred} (h : Mem.wf s.mem = true) : NextWf (execAttach r cred s) :=
  wf_onDebug h fun c => by
    split
    · simp [h]
    split
    · simp [h]
    · dsimp only
      simpa using h

@[simp] theorem wf_execDebugDetach {r} (h : Mem.wf s.mem = true) :
    NextWf (execDebugDetach r s) := by simp [execDebugDetach, h]

@[simp] theorem wf_execReadFrame {r lcl c slot} (h : Mem.wf s.mem = true) : NextWf (execReadFrame r lcl c slot s) :=
  wf_onDebugger h fun c => by split <;> simp [h]

@[simp] theorem wf_execWriteFrameWord {r lcl c slot num v} (h : Mem.wf s.mem = true) :
    NextWf (execWriteFrameWord r lcl c slot num v s) :=
  wf_onDebugger h fun x => by split <;> simp [h]

@[simp] theorem wf_execReadClusterState {r lcl area c offset len} (h : Mem.wf s.mem = true) :
    NextWf (execReadClusterState r lcl area c offset len s) :=
  wf_onDebugger h fun c => by dsimp only; (repeat' split) <;> simp [h]

@[simp] theorem wf_execReadMemory {r addr len peer} (h : Mem.wf s.mem = true) :
    NextWf (execReadMemory r addr len peer s) :=
  wf_onDebugger h fun c => by
    split
    · next e => simp [mem_of_pair e, h]
    · next e => split <;> simp [mem_of_pair e, h]

@[simp] theorem wf_writePlaces {c addr ls data} (h : Mem.wf s.mem = true) :
    Mem.wf (s.writePlaces c addr ls data).mem = true :=
  wf_foldl (fun s p h => by
    split
    · exact h
    · rw [foldl_mem fun s b => State.send_mem ..]; exact h
    · exact wf_homeWrite h) h _

@[simp] theorem wf_execWriteMemory {r addr data} (h : Mem.wf s.mem = true) : NextWf (execWriteMemory r addr data s) :=
  wf_onDebugger h fun c => by
    split
    · next e => simp [mem_of_pair e, h]
    · next e => exact wf_writePlaces (by simp [mem_of_pair e, h])

@[simp] theorem wf_execSetBreakpointEntry {r entry enable handle mask addr} (h : Mem.wf s.mem = true) :
    NextWf (execSetBreakpointEntry r entry enable handle mask addr s) :=
  wf_onDebugger h fun _ => h

@[simp] theorem wf_execResumeHeldThread {r lcl c slot} (h : Mem.wf s.mem = true) :
    NextWf (execResumeHeldThread r lcl c slot s) :=
  wf_onDebugger h fun c => by split <;> simp [h]

@[simp] theorem wf_execReleaseFreeze {r dump} (h : Mem.wf s.mem = true) : NextWf (execReleaseFreeze r dump s) :=
  wf_onDebugger h fun c => by (repeat' split) <;> simp [h]

@[simp] theorem wf_execUnknownOpcodeRequest {r ep opcode} (h : Mem.wf s.mem = true) :
    NextWf (execUnknownOpcodeRequest r ep opcode s) := by
  unfold execUnknownOpcodeRequest
  change Mem.wf (State.mem _) = true
  split
  · exact wf_onRequest h fun _ => by simp [h]
  · (repeat' split) <;> simp [h]

/-! ### Translation -/

@[simp] theorem wf_execPageWalk {phys ctx va} (h : Mem.wf s.mem = true) : NextWf (execPageWalk phys ctx va s) := by
  unfold execPageWalk; dsimp only; (repeat' split) <;> simp [h]

@[simp] theorem wf_execShootdownComplete {sd} (h : Mem.wf s.mem = true) : NextWf (execShootdownComplete sd s) := by
  unfold execShootdownComplete; dsimp only; (repeat' split) <;> simp [h]

@[simp] theorem wf_execPeerAccessArrival {r mark ctx off n op} (h : Mem.wf s.mem = true) :
    NextWf (execPeerAccessArrival r mark ctx off n op s) := by
  unfold execPeerAccessArrival
  change Mem.wf (State.mem _) = true
  split
  · exact h
  split
  · exact h
  · split <;> next e => (repeat' split) <;> simp [mem_of_pair e, h]

@[simp] theorem wf_execPeerLoss {ctx peer} (h : Mem.wf s.mem = true) : NextWf (execPeerLoss ctx peer s) := by
  unfold execPeerLoss
  simp only [nextWf_next]
  split
  · exact h
  · rw [unitFault_mem]
    refine wf_foldl (fun s c h => wf_afterBurst (by simpa using h)) ?_ _
    rw [foldl_mem fun s a => State.settle_mem ..]
    exact h

/-! ### Dispatch -/

/-- Every instruction and every event keeps the canonical form: the thread instructions by the shape of what they do,
every other by the lemma about its own meaning. -/
theorem wf_exec {i : Instr} (h : Mem.wf s.mem = true) : NextWf (exec i s) := by
  cases i
  case add | sub | and | or | xor | andn | orn | xnor | sll | srl | sra | ror | min | max | minu | maxu | adds |
      subs | addsu | subsu | addImm | andImm | orImm | xorImm | sllImm | srlImm | sraImm | rorImm | mulImm | minImm |
      maxImm | li | lis | mul | mulh | mulhu | mulhsu | div | divu | rem | remu | clz | ctz | popc | brev | bswap |
      sxb | sxh | sxw | bfx | bfxu | bfi | movk | rdk | rdpw | wrpw | nop | mov | movi | cmp | cmpi | fcmpD | fcmpS |
      fcmpH | fcmpBf | isap | plog | b | call | callr | ret | tix | yield | cvtaCl | cvtaSp | fadd | fsub | fmul |
      fdiv | fmin | fmax | fsqrt | fabs | fneg | fma | fclass | frcp | frsq | fexp2 | flog2 | fsin | fcos | ftanh |
      rdfp | wrfp | clrflg | vadd | vsub | vmul | vfma | vmin | vmax | vadds | vsubs | vand | vor | vxor | vsll |
      vsrl | vsra | vdiv | vsqrt | vabs | vneg | vmulh | vcmpEq | vcmpNe | vcmpLt | vcmpLe | vcmpUn | vsel | vperm |
      vzipl | vziph | vunzipl | vunziph | vredadd | vredmin | vredmax | vredand | vredor | vredxor | vscanAddInc |
      vscanAddExc | vscanMinInc | vscanMinExc | vscanMaxInc | vscanMaxExc | vget | vput | vbcast | grid | gridParam |
      sysr | syswTlbShoot | syswSumStatus | rdcyc =>
    exact wf_attempt h fun _ _ _ h => h
  case bri | mwait | tagpub | takeArm | halt => exact wf_attempt h fun _ _ _ h => by dsimp only; (repeat' split) <;> simp [h]
  case fsync | frel | fget | detach => exact wf_handleOp h fun _ _ _ _ h => by (repeat' split) <;> simp [h]
  case fkill | fkillTree | fstat => exact wf_handleOp h fun _ _ _ _ h => h
  case ldBs | ldBz | ldHs | ldHz | ldWs | ldWz | ldD | ldw | ldk => exact wf_loadOp h
  case stB | stH | stW | stD | stw => exact wf_storeOp h
  case ldfe | ldff | stfe | feinitE | feinitF => exact wf_granuleOp h
  case fenceCore | fenceCl | fenceDev | fenceSys => exact wf_fenceOp h
  case aadd | aand | aor | axor | amin | amax | aminu | amaxu | axchg | acas | afadd => exact wf_atomicOp h
  case redAdd | redAnd | redOr | redXor | redMin | redMax | redMinu | redMaxu | redfadd => exact wf_reductionOp h
  case await | sumon | sumoff => exact wf_attempt h fun _ _ _ h => wf_access h
  case sumaddS | sumaddBf | sumaddH => exact wf_sumaddOp h
  case cvt | vcvt | vown | waitk | tagwait | tagq | retain | take | sysw | syswCensusCtl | syswSeqState =>
    exact wf_attempt h fun _ _ _ h => by (repeat' split) <;> simp [h]
  case scfg | sbind | ssync | munf => exact wf_ownerOp h fun _ _ h => by dsimp only; (repeat' split) <;> simp [h]
  case sunbind | mz => exact wf_ownerOp h fun _ _ h => by simp [h]
  case vdisown | bkpt | trap => exact wf_attempt h fun _ _ _ h => by simp [h]
  case vloop | mfmt => exact wf_ownerOp h fun _ _ h => by (repeat' split) <;> simp [h]
  case cpgIn | cpgOut | send | cpfarIn | cpfarOut => exact wf_copyOp h
  all_goals simp [exec, h]

/-! ### Schedule -/

theorem wf_issue {t} (h : Mem.wf s.mem = true) : NextWf (s.issue t) := by
  unfold State.issue; dsimp only
  split
  · exact wf_execInstructionAddressTrap h
  · split
    · simpa using h
    · exact wf_execIllegalInstruction h
  · split
    · simpa using h
    · exact wf_exec h

theorem wf_cycle {phys core} (h : Mem.wf s.mem = true) : NextWf (s.cycle phys core) := by
  have hp : Mem.wf (s.prepared phys core).1.mem = true := by simpa using h
  unfold State.cycle; dsimp only
  split
  · exact hp
  · exact wf_issue hp

end

/-! ## Steps -/

/-- Every event of the device itself keeps the canonical form. -/
theorem wf_dueEvents {s u : State} (h : Mem.wf u.mem = true) : ∀ e ∈ s.dueEvents, NextWf (e u) := by
  unfold State.dueEvents
  simp only [List.forall_mem_append, List.forall_mem_map, List.forall_mem_cons, List.forall_mem_flatMap]
  simp [h]

theorem wf_firstDue {s s' : State} {es} (hes : ∀ e ∈ es, NextWf (e s)) (e : s.firstDue es = some s') :
    Mem.wf s'.mem = true := by
  induction es with
  | nil => cases e
  | cons x xs ih =>
    obtain ⟨hx, hxs⟩ := List.forall_mem_cons.mp hes
    unfold State.firstDue at e
    split at e
    · next s1 e1 =>
      rw [e1] at hx
      split at e
      · exact ih hxs e
      · cases e; exact hx
    · exact ih hxs e

/-- Stated of the state that comes next, for `NextWf s.defaultTurn` would be evaluated where it is used. -/
theorem wf_defaultTurn {s s' : State} (h : Mem.wf s.mem = true) (e : s.defaultTurn = .next s') : Mem.wf s'.mem = true := by
  unfold State.defaultTurn at e
  split at e
  · next e1 => cases e; exact wf_firstDue (wf_dueEvents h) e1
  · extract_lets cores s1 at e
    have h1 : Mem.wf s1.mem = true := by simpa [s1] using h
    clear_value s1
    split at e
    · next c _ =>
      have hc : NextWf (s1.cycle c.1 c.2) := wf_cycle h1
      rwa [e] at hc
    · cases e; exact h1

theorem wf_take {s : State} {t : Turn} (h : Mem.wf s.mem = true) : NextWf (s.take t) := by
  unfold State.take
  split
  · exact wf_cycle h
  · next i => exact wf_exec (s := { s with port := none }) h
  · simpa using h
  · exact wf_load h
  · simpa using h

theorem wf_step {s s' : State} (h : Mem.wf s.mem = true) (e : step s = .next s') : Mem.wf s'.mem = true := by
  unfold step at e
  split at e
  · exact wf_defaultTurn h e
  · next t rest _ =>
    have ht : NextWf (({ s with turns := rest } : State).take t) := wf_take (by exact h)
    rwa [e] at ht

/-- Settles O58: what writes the memory does so through `Mem.set` and `Mem.clear`, which keep the canonical form; everything
else that a step does leaves the memory as it was. -/
theorem memoryFormKept : Obligations.MemoryFormKept := by
  unfold Obligations.MemoryFormKept
  exact fun s s' h e => wf_step h e

end Sys2Proof.Machine
end

section
/-! SUPPORT. The state that reset leaves (R21, R338, R379). -/

namespace Sys2Proof.Machine

/-- Settles O57: every field of the reset state is what its definition says, and an unlisted core or cluster is a fresh one. -/
theorem resetState : Obligations.ResetState := by
  unfold Obligations.ResetState
  refine ⟨rfl, rfl, rfl, rfl, rfl, rfl, rfl, rfl, rfl, fun _ => rfl, fun n h => ?_, fun _ _ => rfl, fun _ => ⟨rfl, rfl⟩,
    fun n h => ?_⟩
  · simp [State.reset]
  · simp [State.reset]

end Sys2Proof.Machine
end

section
/-! SUPPORT. A refutation of O51: DESTROY_CONTEXT stops a member whose forward is on its way, the forward is delivered (R77,
R276), and where the receiver's slot runs an inline index its frame in TCM is written (R266). -/

namespace Sys2Proof.Machine

/-- A family of context 0 on core 0 of cluster 0, started and not terminated, that holds the inline frame `frame`, where there is
one, for the run of its creator. -/
def startedFamily (uid creator : Nat) (frame : Option Nat) : Family :=
  { uid := uid, handle := 0, ctx := 0, group := 1, graph := 1, creator := creator, phys := 0, lcl := 0, core := 0, entry := none,
    frame := frame, runFrame := frame, k0 := 0, k1 := 2, k2 := 0x0010000000000001, k3 := 0, cseq := 0,
    dputs := Vector.replicate 4 0, gputs := Vector.replicate 8 0, started := true, body := 0, ftz := false, daz := false, rm := 0,
    fgo := 0, where_ := if frame.isSome then 2 else 0, hostPhys := 0, hostLcl := 0, spare := false, next := 2, last := 0,
    held := Vector.replicate 4 none, log := [], decided := none, killed := false, status := none, out := Vector.replicate 4 0,
    detached := false, probe := none, nameless := false, prior := 0, after := [], carry := [], stamp := Stamp.zero }

/-- A request that the management endpoint of `forwarding` accepts. -/
def acceptedHdr : Hdr := ⟨⟨1, false, true⟩, 0, 7, true⟩

/-- Members 0 and 1 of family 10, the second of them creator of family 11, which runs inline in its slot; a forward of the
first is on its way. -/
def forwarding : State :=
  { State.reset with
    boot := .primary
    cfg := { BlobCfg.default with mgmtSrcs := [1] }
    ctxs := [Context.fresh 0 0]
    threads := [Thread.blank 1 (.member 10 0) 0 1 1 0 0 0 0, { Thread.blank 2 (.member 10 1) 0 1 1 0 0 0 1 with run := .hosting 11 }]
    families := [startedFamily 10 0 none, startedFamily 11 2 (some 0)]
    fwds := [⟨20, 10, 0, 0, 5, 1, 0, Stamp.zero⟩]
    fresh := 21 }

/-- The receiver's frame is written: its register d0, FULL now, stands there. -/
theorem destroyContext_writes_frame {s' : State} (he : exec (.destroyContext acceptedHdr 0) forwarding = .next s') :
    s'.mem ≠ forwarding.mem := by
  have hw : (match exec (.destroyContext acceptedHdr 0) forwarding with
      | .next s => s.mem
      | _ => []) ≠ [] := by decide +kernel
  rwa [he] at hw

/-- Refutes O51: DESTROY_CONTEXT need not leave the memory as it was. -/
theorem not_managementRequests : ¬ Obligations.ManagementRequests := by
  unfold Obligations.ManagementRequests
  intro h
  obtain ⟨-, -, hmanage, -⟩ := h forwarding
  obtain ⟨-, -, -, hdestroy, -⟩ := hmanage acceptedHdr (by decide)
  obtain ⟨s', x, he, -, -, -, -, hmem, -⟩ := hdestroy (Context.fresh 0 0) rfl rfl (by decide)
  exact destroyContext_writes_frame he hmem

end Sys2Proof.Machine
end

section
/-! SUPPORT. A refutation of O49: the loader writes an upload's sections at their homes, which wakes the AWAITs that watch them
(R226), and where an AWAIT is a peer's its answer is a message that leaves before the reply (R337). -/

namespace Sys2Proof.Machine

/-- A context whose tables, at 0x1000 and 0x2000, map 16 GiB of its HBM onto themselves, writable. -/
def mappedCtx : Context :=
  { Context.fresh 0 0 with grants := [(0, 2 ^ 34)], ptRoot := some 0x1000, cmdSrcs := [1] }

/-- A peer's AWAIT that waits for the word at 0x10000 to be 1. -/
def peerWatch : Access :=
  { id := 5, uid := none, fam := none, group := 0, ctx := 0, phys := 0, lcl := 0, core := 0, order := none, scope := .sys,
    blocking := false, red := false, loc := .hbm 0x10000, size := 8, op := .await .eq 1 .zero, phase := .waiting, agedAt := none,
    passedBy := 0, resent := false, granted := false, queue := 0, cancelled := false, push := none, peer := some (2, 3),
    handle := 0, stamp := Stamp.zero }

/-- A booted module with that context, its tables and the peer's AWAIT. -/
def watched : State :=
  { State.reset with
    boot := .primary
    mem := [(0x1000, 0x01), (0x1001, 0x20), (0x2000, 0x17)]
    ctxs := [mappedCtx]
    accs := [peerWatch]
    fresh := 6 }

/-- A request that the command endpoint of `watched`'s context accepts. -/
def uploadHdr : Hdr := ⟨⟨1, false, true⟩, 0, 7, true⟩

/-- An object that holds one byte of `.data`, and no kernel. -/
def dataObj : Vgo :=
  { elfClass64Lsb := true, etype := 1, machine := 0xA960, flags := 0x0101, text := [], rodata := [], data := [1], bss := 0,
    canopy := [], spad := 0, tcm := 0, syms := [], rels := [], kernels := [], params := [], file := [] }

/-- Its `.data` stands at 0x10000. -/
def dataPlace : Placement := ⟨0, 0x10000, 0, 0xE000000000000000⟩

/-- The peer is answered before the upload is: two messages leave. -/
theorem uploadGraph_answers_peer {s' : State} (he : exec (.uploadGraph uploadHdr 1 0 [dataObj] [dataPlace]) watched = .next s') :
    s'.out.length = 2 := by
  have hw : (match exec (.uploadGraph uploadHdr 1 0 [dataObj] [dataPlace]) watched with
      | .next s => s.out.length
      | _ => 0) = 2 := by decide +kernel
  rwa [he] at hw

/-- No check of R282 refuses the upload. -/
theorem loadError_dataObj : watched.loadError 0 [dataObj] (watched.layout 0 [dataObj] [dataPlace] 0) = none :=
  Option.isNone_iff_eq_none.mp (by decide +kernel)

/-- Refutes O49: the reply of an upload that has been loaded need not be the one message that leaves. -/
theorem not_graphLoading : ¬ Obligations.GraphLoading := by
  unfold Obligations.GraphLoading
  intro h
  obtain ⟨hupload, -⟩ := h watched uploadHdr mappedCtx
  obtain ⟨-, hload⟩ := hupload 1 0 [dataObj] [dataPlace] ⟨⟨rfl, by decide⟩, rfl⟩ rfl
  obtain ⟨-, -, -, hplaced⟩ := hload (by decide) (by decide) (by decide) (by decide)
  obtain ⟨s', g, he, -, -, -, -, -, -, -, -, -, -, hout, -⟩ :=
    hplaced 0 _ (by decide +kernel) rfl loadError_dataObj (by decide +kernel) (by decide +kernel)
  have hlen := uploadGraph_answers_peer he
  rw [hout] at hlen
  exact absurd hlen (by decide)

end Sys2Proof.Machine
end

section
/-! SUPPORT. A refutation of O41: where a peer's loss ends a copy that a WAITK waited for, the wait's record is written through the
context's translations (R194, R236, R313, R316), and a leaf in a poisoned TLB word charges the context with 0x48 (R363) before
the peer loss does with 0x43. -/

namespace Sys2Proof.Machine

/-- A copy of 16 bytes from peer 1, with token 0 of thread 3. -/
def peerCopy : Copy :=
  { id := 60, uid := 3, group := 2, ctx := 0, phys := 0, lcl := 0, kind := .cpg false, token := 0, slack := 0, issued := 0,
    plan := [(.peer 1 0, [.spad 0 0])], units := [(.peer 1 0, [.spad 0 0])], pages := [], got := [], sent := false, burst := 0,
    agedAt := none, stamp := Stamp.zero }

/-- A load of thread 3 from peer 1, on its way there. -/
def peerLoad : Access :=
  { id := 61, uid := some 3, fam := none, group := 2, ctx := 0, phys := 0, lcl := 0, core := 0, order := none, scope := .sys,
    blocking := false, red := false, loc := .peer 1 64, size := 8, op := .load .zx (.int (.l 0)), phase := .sent, agedAt := none,
    passedBy := 0, resent := false, granted := false, queue := 0, cancelled := false, push := none, peer := none, handle := 0,
    stamp := Stamp.zero }

/-- The machine of `State.seated1`, its contrail enabled, whose thread waits at a WAITK of token 0 for the copy; the leaf of its
records' page stands in a poisoned word of the cluster's TLB. -/
def awaitingPeer : State :=
  let s := State.reset.seated1
  { s with
    mem := Mem.setLE [] (Loc.code 0).key 4 0x000200F3
    threads := s.threads.map fun t => { t with tokens := t.tokens.set 0 1, wait := some .token }
    replays := s.replays.map fun r => { r with ctrlCtl := 0x100 }
    tlb := [⟨0, 0, 0, 65536, 0, true, true, true⟩]
    accs := [peerLoad]
    copies := [peerCopy]
    fresh := 62 }

/-- Two faults stand in the context's record. -/
theorem peerLoss_faults_twice {s' : State} (he : exec (.peerLoss 0 1) awaitingPeer = .next s') :
    ((s'.ctx? 0).bind (·.freeze)).map (·.faults.length) = some 2 := by
  have hw : (match exec (.peerLoss 0 1) awaitingPeer with
      | .next s => ((s.ctx? 0).bind (·.freeze)).map (·.faults.length)
      | _ => none) = some 2 := by decide +kernel
  rwa [he] at hw

/-- A context frozen by one fault has one record. -/
theorem faults_length_of_frozenBy {s : State} {ctx code : Nat} (h : FrozenBy s ctx code) :
    ((s.ctx? ctx).bind (·.freeze)).map (·.faults.length) = some 1 := by
  obtain ⟨⟨c, z, f, hc, hz, hf, -⟩, -⟩ := h
  simp [hc, hz, hf]

/-- Refutes O41: the fault of a peer's loss need not be the context's only one. -/
theorem not_translationAndPeers : ¬ Obligations.TranslationAndPeers := by
  unfold Obligations.TranslationAndPeers
  intro h
  obtain ⟨-, -, -, -, -, hloss⟩ := h awaitingPeer (Context.fresh 0 0)
  obtain ⟨s', he, hfrozen, -⟩ := hloss 1 peerLoad (by decide) rfl (by decide) rfl rfl
  exact absurd ((faults_length_of_frozenBy hfrozen).symm.trans (peerLoss_faults_twice he)) (by decide)

end Sys2Proof.Machine
end

section
/-! SUPPORT. Kicks: what the checks of an endpoint and of R285 decide, where a kick joins its queue (R15), and what taking it
starts (R286, R287). -/

namespace Sys2Proof.Machine

/-! ## The kick message (R284) -/

theorem leNat_lt (bs : List Byte) : leNat bs < 256 ^ bs.length := by
  induction bs with
  | nil => simp [leNat]
  | cons b bs ih =>
    have hb := b.isLt
    simp only [leNat, List.length_cons, pow_succ]
    omega

theorem leNat_take_lt (bs : List Byte) (n : Nat) : leNat (bs.take n) < 256 ^ n :=
  (leNat_lt _).trans_le (Nat.pow_le_pow_right (by decide) (List.length_take_le n bs))

/-- A field of `8 * n` bits holds the whole number that `n` bytes give. -/
theorem toNat_ofNat_leNat_take (bs : List Byte) (n : Nat) : (BitVec.ofNat (8 * n) (leNat (bs.take n))).toNat = leNat (bs.take n) := by
  have h := leNat_take_lt bs n
  rw [BitVec.toNat_ofNat, Nat.mod_eq_of_lt]
  simpa only [Nat.pow_mul] using h

/-! ## Endpoints (R335) -/

theorem accepts_iff (srcs : List Nat) (p : Policy) (e : Envelope) : accepts srcs p e = true ↔ Allowed srcs p e := by
  cases p <;> simp [accepts, Allowed]

/-- A message that its endpoint accepts is acted on. -/
theorem onCommand_of_forContext {s : State} {h : Hdr} {c : Context} (hc : ForContext s h c) (f : Context → State) :
    s.onCommand h f = f c := by
  obtain ⟨hctx, hallowed⟩ := hc
  rw [State.onCommand, hctx]
  exact if_pos ((accepts_iff ..).mpr hallowed)

/-- A message that its endpoint does not accept is dropped. -/
theorem onCommand_of_not_allowed {s : State} {h : Hdr} {c : Context} (hctx : s.ctx? h.ctx = some c)
    (hallowed : ¬ Allowed c.cmdSrcs c.cmdPolicy h.env) (f : Context → State) : s.onCommand h f = s.drop := by
  rw [State.onCommand, hctx]
  exact if_neg (mt (accepts_iff ..).mp hallowed)

/-! ## The queue (R15) -/

/-- A kick passes those that came before it, and stands before those of its cycle from higher-numbered ports. -/
theorem enqueueKick_append (k : Kick) (pre post : List Kick) (hpre : ∀ x ∈ pre, x.at_ ≠ k.at_ ∨ x.port ≤ k.port)
    (hpost : ∀ x ∈ post, x.at_ = k.at_ ∧ k.port < x.port) : enqueueKick k (pre ++ post) = pre ++ k :: post := by
  induction pre with
  | nil =>
    cases post with
    | nil => rfl
    | cons y ys => simp [enqueueKick, hpost y]
  | cons x xs ih =>
    have hx : ¬ (x.at_ = k.at_ ∧ k.port < x.port) := by have := hpre x; simp at this; omega
    have ih := ih fun y hy => hpre y (by simp [hy])
    simp only [List.cons_append, enqueueKick, Bool.and_eq_true, decide_eq_true_eq, hx, ih, if_false]

/-- The kick that a message becomes when it arrives. -/
def State.arriving (s : State) (h : Hdr) (port : Nat) (msg : List Byte) : Kick := ⟨h.req, port % 16, readKick msg, s.now, none⟩

/-- A kick that finds room joins the queue. -/
theorem kick_of_room {s : State} {h : Hdr} {c : Context} {port : Nat} {msg : List Byte} (hc : ForContext s h c)
    (hdest : c.destroying = none) {q : List Kick} (hq : enqueueKick (s.arriving h port msg) c.kicks = q) (hlen : q.length ≤ 64) :
    exec (.kick h port msg) s = .next (s.updCtx c.id fun x => { x with kicks := q }) := by
  show execKick h port msg s = _
  have hdrop : q.drop 64 = [] := List.drop_eq_nil_of_le hlen
  rw [execKick, onCommand_of_forContext hc]
  simp only [hdest, Option.isSome_none, Bool.false_eq_true, if_false]
  unfold State.arriving at hq
  rw [hq, hdrop]

/-- A kick that finds 64 before it is refused. -/
theorem kick_of_full {s : State} {h : Hdr} {c : Context} {port : Nat} {msg : List Byte} (hc : ForContext s h c)
    (hdest : c.destroying = none) (hq : enqueueKick (s.arriving h port msg) c.kicks = c.kicks ++ [s.arriving h port msg])
    (hlen : c.kicks.length = 64) :
    exec (.kick h port msg) s = .next ((s.updCtx c.id fun x => { x with kicks := c.kicks }).complete c.id h.req
      (readKick msg).graph (readKick msg).seq 0x80000001) := by
  show execKick h port msg s = _
  have hdrop : (c.kicks ++ [s.arriving h port msg]).drop 64 = [s.arriving h port msg] := by
    rw [← hlen, List.drop_left]
  have htake : (c.kicks ++ [s.arriving h port msg]).take 64 = c.kicks := by rw [← hlen, List.take_left]
  rw [execKick, onCommand_of_forContext hc]
  simp only [hdest, Option.isSome_none, Bool.false_eq_true, if_false]
  unfold State.arriving at hq hdrop htake
  rw [hq, hdrop, htake]

/-! ## The checks of R285 -/

/-- A kick names one graph. -/
theorem exists_namedGraph {s : State} {c : Context} {m : KickMsg} {g : Graph} (hg : NamedGraph s c m g) (P : Graph → Prop) :
    (∃ g, NamedGraph s c m g ∧ P g) ↔ P g :=
  ⟨fun ⟨_, hx, hp⟩ => Option.some.inj (hx.symm.trans hg) ▸ hp, fun hp => ⟨g, hg, hp⟩⟩

/-- A graph found is one that the context owns: the kick has not the cause of status 2. -/
theorem not_kickCause_two {s : State} {c : Context} {m : KickMsg} {g : Graph} (hroot : c.ptRoot ≠ none)
    (hg : NamedGraph s c m g) : ¬ KickCause s c m 2 := by
  have hkey := List.find?_some hg
  simp only [Bool.and_eq_true, beq_iff_eq] at hkey
  rintro (h | h)
  · exact hroot h
  · exact h g (List.mem_of_find?_eq_some hg) hkey.1 hkey.2

/-- Either the kick has the cause of status 2, or it names a graph of a context with a root table. -/
theorem kickGraph_cases (s : State) (c : Context) (m : KickMsg) :
    KickCause s c m 2 ∧ s.kickError c m = some 0x80000002 ∨ ∃ g, c.ptRoot ≠ none ∧ NamedGraph s c m g := by
  by_cases hroot : c.ptRoot = none
  · exact .inl ⟨.inl hroot, by simp [State.kickError, hroot]⟩
  · cases hg : s.graphs.find? fun x => x.id == m.graph && x.ctx == c.id with
    | some g => exact .inr ⟨g, hroot, hg⟩
    | none =>
      refine .inl ⟨.inr fun g hmem hid hctx => ?_, by simp [State.kickError, hg]⟩
      have := List.find?_eq_none.mp hg g hmem
      simp [hid, hctx] at this

/-- The third check is that of the cause of status 4. -/
theorem undeclared_iff (g : Graph) (m : KickMsg) :
    ((usedEntries m).any fun e => (g.params.lookup e.slot.toNat).isNone) = true ↔
      ∃ e ∈ m.entries.take m.count.toNat, ∀ d ∈ g.params, d.1 ≠ e.slot.toNat := by
  simp only [usedEntries, List.any_eq_true, Option.isNone_iff_eq_none, List.lookup_eq_none_iff, bne_iff_ne, ne_comm]

/-- The fourth check is that of the cause of status 5. -/
theorem malformedEntries_iff (s : State) (c : Context) (m : KickMsg) :
    (4096 < m.count.toNat || m.entries.length < m.count.toNat || m.rsv != 0 || (usedEntries m).any fun e => e.rsv != 0) = true ↔
      KickCause s c m 5 := by
  simp [KickCause, usedEntries, or_assoc]

open scoped Classical in
/-- The checks of a kick that names a graph, in the order of R285's table. -/
theorem kickError_of_namedGraph {s : State} {c : Context} {m : KickMsg} {g : Graph} (hroot : c.ptRoot ≠ none)
    (hg : NamedGraph s c m g) : s.kickError c m =
      if KickCause s c m 3 then some 0x80000003 else if KickCause s c m 4 then some 0x80000004
      else if KickCause s c m 5 then some 0x80000005 else none := by
  have h3 : KickCause s c m 3 ↔ m.seq ≠ (match g.lastSeq with | some q => q + 1 | none => 0) := exists_namedGraph hg _
  have h4 : KickCause s c m 4 ↔ _ := (exists_namedGraph hg _).trans (undeclared_iff g m).symm
  have hsome : c.ptRoot.isNone = false := by simpa [Option.isSome_iff_ne_none] using hroot
  simp only [h3, h4, ← malformedEntries_iff s c m]
  simp only [State.kickError, hsome, Bool.false_eq_true, if_false, show s.graphs.find? _ = some g from hg]
    <;> congr

/-- The checks of R285 find the first cause that the kick has, and none where it has none. -/
theorem kickError_cases (s : State) (c : Context) (m : KickMsg) :
    s.kickError c m = none ∧ (∀ n, ¬ KickCause s c m n) ∨
      ∃ n, KickCause s c m n ∧ (∀ j < n, ¬ KickCause s c m j) ∧ s.kickError c m = some (0x80000000 + BitVec.ofNat 32 n) := by
  have h0 : ¬ KickCause s c m 0 := id
  have h1 : ¬ KickCause s c m 1 := id
  obtain ⟨h2, herr⟩ | ⟨g, hroot, hg⟩ := kickGraph_cases s c m
  · exact .inr ⟨2, h2, by intro j hj; interval_cases j <;> assumption, herr⟩
  have h2 := not_kickCause_two hroot hg
  have herr := kickError_of_namedGraph hroot hg
  by_cases h3 : KickCause s c m 3
  · exact .inr ⟨3, h3, by intro j hj; interval_cases j <;> assumption, herr.trans (if_pos h3)⟩
  by_cases h4 : KickCause s c m 4
  · exact .inr ⟨4, h4, by intro j hj; interval_cases j <;> assumption, by simp [herr, h3, h4]⟩
  by_cases h5 : KickCause s c m 5
  · exact .inr ⟨5, h5, by intro j hj; interval_cases j <;> assumption, by simp [herr, h3, h4, h5]⟩
  · refine .inl ⟨by simp [herr, h3, h4, h5], fun n => ?_⟩
    exact match n with
      | 0 => h0
      | 1 => h1
      | 2 => h2
      | 3 => h3
      | 4 => h4
      | 5 => h5
      | _ + 6 => id

theorem kickError_of_least {s : State} {c : Context} {m : KickMsg} {n : Nat} (hn : KickCause s c m n)
    (hleast : ∀ j < n, ¬ KickCause s c m j) : s.kickError c m = some (0x80000000 + BitVec.ofNat 32 n) := by
  obtain ⟨-, hnone⟩ | ⟨i, hi, hi', herr⟩ := kickError_cases s c m
  · exact absurd hn (hnone n)
  · have : i = n := Nat.le_antisymm (not_lt.mp fun h => hi' n h hn) (not_lt.mp fun h => hleast i h hi)
    rw [herr, this]

theorem kickError_of_no_cause {s : State} {c : Context} {m : KickMsg} (hnone : ∀ n, ¬ KickCause s c m n) :
    s.kickError c m = none := by
  obtain ⟨herr, -⟩ | ⟨n, hn, -⟩ := kickError_cases s c m
  · exact herr
  · exact absurd hn (hnone n)

/-! ## Taking a kick (R15, R286, R287) -/

/-- Nothing holds the context's first kick up. -/
theorem not_kickHeld {s : State} {c : Context} {k : Kick} (ht : TakesKicks s c) (hat : k.at_ < s.now) :
    ¬ (!c.active || s.isOut c.id || (s.hosts_ c).isEmpty || s.now ≤ k.at_) = true := by
  obtain ⟨-, hsusp, hfreeze, hdest, hout, hhosts⟩ := ht
  simp [Context.active, hsusp, hfreeze, hdest, hout, hhosts, hat]

section
variable {s : State} {c : Context} {k : Kick} {rest : List Kick} (ht : TakesKicks s c) (hk : c.kicks = k :: rest)
  (hat : k.at_ < s.now)
include ht hk hat

/-- A kick that a check of R285 refuses is answered. -/
theorem kickTake_refuses {e : BitVec 32} (he : s.kickError c k.msg = some e) : exec (.kickTake c.id) s =
    .next ((s.updCtx c.id fun c => { c.applyFreeze with kicks := rest }).complete c.id k.req k.msg.graph k.msg.seq e) := by
  show execKickTake c.id s = _
  simp only [execKickTake, ht.1, hk]
  rw [if_neg (not_kickHeld ht hat), he]

/-- Any other is accepted. -/
theorem kickTake_accepts {g : Graph} (he : s.kickError c k.msg = none) (hg : s.graph? k.msg.graph = some g) :
    exec (.kickTake c.id) s = .next (s.acceptKick c g k rest) := by
  show execKickTake c.id s = _
  simp only [execKickTake, ht.1, hk]
  rw [if_neg (not_kickHeld ht hat), he, hg]

end

@[simp] theorem Context.applyFreeze_id (c : Context) : c.applyFreeze.id = c.id := by
  unfold Context.applyFreeze; split <;> rfl

@[simp] theorem Context.applyFreeze_kicks (c : Context) : c.applyFreeze.kicks = c.kicks := by
  unfold Context.applyFreeze; split <;> rfl

/-- The later patch of a slot stands, and the default where none names it. -/
theorem foldl_patches (d : Nat) (v : Word) (ps : List KickPatch) :
    ps.foldl (fun v p => if p.slot.toNat = d then p.value else v) v =
      ((ps.filter fun e => e.slot.toNat == d).getLast?.map (·.value)).getD v := by
  induction ps using List.reverseRecOn with
  | nil => rfl
  | append_singleton ps p ih => by_cases h : p.slot.toNat = d <;> simp [h, ih]

/-- What a start leaves, whatever the graph. -/
theorem startReplay_frame (s : State) (c : Context) (g : Graph) (k : Kick) :
    (s.startReplay c g k).ctxs = (s.updCtx c.id Context.applyFreeze).ctxs ∧
      (s.startReplay c g k).graphs = s.graphs.map fun x => if x.id == g.id then { x with lastSeq := some k.msg.seq } else x := by
  unfold State.startReplay
  dsimp only
  split <;> exact ⟨rfl, rfl⟩

theorem startReplay_ctx? {s : State} {c x : Context} (g : Graph) (k : Kick) (hx : s.ctx? c.id = some x) :
    (s.startReplay c g k).ctx? c.id = some x.applyFreeze := by
  have hctxs := (startReplay_frame s c g k).1
  rw [State.ctx?, hctxs]
  exact ctx?_updCtx_same hx Context.applyFreeze_id

theorem startReplay_graph? {s : State} {g : Graph} (c : Context) (k : Kick) (hg : s.graph? g.id = some g) :
    (s.startReplay c g k).graph? g.id = some { g with lastSeq := some k.msg.seq } := by
  have hgraphs := (startReplay_frame s c g k).2
  rw [State.graph?, hgraphs,
    find?_map_key Graph.id g.id g.id (fun x => { x with lastSeq := some k.msg.seq }) s.graphs fun _ => rfl,
    show s.graphs.find? _ = some g from hg, Option.map_some, if_pos BEq.rfl]

/-- A replay of a graph without kernels completes at once. -/
theorem startReplay_of_no_kernels {s : State} {c : Context} {g : Graph} {k : Kick} (hg : g.kernels = [])
    (hfresh : ∀ r ∈ s.replays, r.uid ≠ s.fresh) : (s.startReplay c g k).replays = s.replays ∧
      (s.startReplay c g k).out = s.out ++ [.completion c.id k.req (completionBytes g.id k.msg.seq 0)] := by
  have hkeep : s.replays.filter (fun x => x.uid != s.fresh) = s.replays := by simpa [List.filter_eq_self] using hfresh
  simp [State.startReplay, hg, State.endReplay, State.complete, hkeep]

/-- A replay of a graph with kernels stands last among the replays. -/
theorem startReplay_of_kernels {s : State} {c : Context} {g : Graph} {k : Kick} (hg : g.kernels ≠ []) :
    ∃ r, (s.startReplay c g k).replays = s.replays ++ [r] ∧ r.ctx = c.id ∧ r.graph = g.id ∧ r.seq = k.msg.seq ∧
      r.req = k.req ∧ r.fault = none ∧ r.seed = c.jobSeed ∧ r.kernels.length = g.kernels.length ∧
      (∀ d v, (d, v) ∈ g.params → (d, (((k.msg.entries.take k.msg.count.toNat).filter
        fun e => e.slot.toNat == d).getLast?.map (·.value)).getD v) ∈ r.params) := by
  refine ⟨_, by simp [State.startReplay, hg]; rfl, rfl, rfl, rfl, rfl, rfl, rfl, by simp, fun d v hd => ?_⟩
  rw [← foldl_patches]
  exact List.mem_map.mpr ⟨(d, v), hd, rfl⟩

/-- A kick that has waited for a replay waits on until it has completed. -/
theorem acceptKick_of_waits {s : State} {c : Context} {g : Graph} {k : Kick} {rest : List Kick} {u : Nat}
    (hw : k.waits = some u) (hu : s.replay? u ≠ none) : s.acceptKick c g k rest = s := by
  have : (s.replay? u).isSome = true := Option.isSome_iff_ne_none.mpr hu
  simp [State.acceptKick, hw, this]

/-- A kick whose graph runs D replays waits for the oldest of them. -/
theorem acceptKick_of_full {s : State} {c : Context} {g : Graph} {k : Kick} {rest : List Kick} {r : Replay} {older : List Replay}
    (hw : k.waits = none) (hr : s.replays.filter (fun r => r.graph == g.id) = r :: older)
    (hd : g.depth ≤ (s.replays.filter fun r => r.graph == g.id).length) :
    s.acceptKick c g k rest = s.updCtx c.id fun x => { x with kicks := { k with waits := some r.uid } :: rest } := by
  have hfind : s.replays.find? (fun r => r.graph == g.id) = some r := by rw [← List.head?_filter, hr]; rfl
  have hrun : g.depth ≤ s.running g.id := hd
  simp [State.acceptKick, hw, hrun, hfind]

/-- Any other accepted kick starts. -/
theorem acceptKick_of_room {s : State} {c : Context} {g : Graph} {k : Kick} {rest : List Kick}
    (h : k.waits = none ∧ (s.replays.filter fun r => r.graph == g.id).length < g.depth ∨
      ∃ u, k.waits = some u ∧ s.replay? u = none) :
    s.acceptKick c g k rest = (s.updCtx c.id fun c => { c with kicks := rest }).startReplay c g k := by
  obtain ⟨hw, hd⟩ | ⟨u, hw, hu⟩ := h
  · have hrun : ¬ g.depth ≤ s.running g.id := not_le.mpr hd
    simp [State.acceptKick, hw, hrun]
  · simp [State.acceptKick, hw, hu]

/-- Settles O36: by where `enqueueKick` puts the kick, by `kickError_cases` for R285's table, and by the three cases of
`acceptKick`. -/
theorem kicksAndReplays : Obligations.KicksAndReplays := by
  unfold Obligations.KicksAndReplays
  refine ⟨fun m => ?_, fun s c => ⟨?_, ?_, ?_, ?_⟩⟩
  · refine ⟨toNat_ofNat_leNat_take _ 4, toNat_ofNat_leNat_take _ 4, toNat_ofNat_leNat_take _ 2, toNat_ofNat_leNat_take _ 6,
      by simp [readKick], fun e x hx => ?_⟩
    obtain ⟨_, he, rfl⟩ := Option.map_eq_some_iff.mp (List.getElem?_map.symm.trans hx)
    obtain ⟨-, rfl⟩ := List.getElem?_eq_some_iff.mp he
    rw [List.getElem_range]
    exact ⟨toNat_ofNat_leNat_take _ 2, toNat_ofNat_leNat_take _ 6, toNat_ofNat_leNat_take _ 8⟩
  · intro h port msg hctx hallowed
    show execKick h port msg s = _
    rw [execKick, onCommand_of_not_allowed hctx hallowed]
    rfl
  · intro h port msg pre post hc hdest hk hlen hpre hpost
    refine kick_of_room hc hdest ?_ ?_
    · rw [hk]; exact enqueueKick_append (s.arriving h port msg) pre post hpre hpost
    · rw [hk] at hlen; simp at hlen ⊢; omega
  · intro h port msg hc hdest hlen hat
    have hq := enqueueKick_append (s.arriving h port msg) c.kicks [] (fun k hk => .inl (hat k hk)) (by simp)
    rw [List.append_nil] at hq
    have hid : s.ctx? c.id = some c := by rw [ctx?_id hc.1]; exact hc.1
    exact ⟨_, kick_of_full hc hdest hq hlen, ctx?_updCtx_same hid fun _ => rfl, rfl⟩
  · intro k rest ht hk hat
    refine ⟨fun n hn hleast => ?_, fun g hg hgc hnone => ?_⟩
    · refine ⟨_, _, kickTake_refuses ht hk hat (kickError_of_least hn hleast), ctx?_updCtx_same ht.1 (by simp), rfl, rfl, rfl, rfl⟩
    · rw [kickTake_accepts ht hk hat (kickError_of_no_cause hnone) hg]
      refine ⟨fun r older hw hr hd => ?_, fun u hw hu => ?_, fun hroom => ?_⟩
      · exact congrArg _ (acceptKick_of_full hw hr hd)
      · exact congrArg _ (acceptKick_of_waits hw hu)
      · rw [acceptKick_of_room hroom]
        have hid : g.id = k.msg.graph := by simpa using List.find?_some hg
        have hown := ctx?_updCtx_same (f := fun c => { c with kicks := rest }) ht.1 fun _ => rfl
        refine ⟨_, _, rfl, startReplay_ctx? g k hown, Context.applyFreeze_kicks _, startReplay_graph? c k (hid ▸ hg),
          startReplay_mem .., fun hno hfresh => ?_, fun hsome => ?_⟩
        · exact startReplay_of_no_kernels hno hfresh
        · exact startReplay_of_kernels hsome

end Sys2Proof.Machine
end

section
/-! SUPPORT. What the reports, counts and charges of an error can change at all (R363, R366, R368): each is the state with new
values of a few fields. -/

namespace Sys2Proof.Machine

/-! ## Reports and counts -/

theorem report_shape (s : State) (src : BitVec 32) (kind : Nat) (ctx : BitVec 16) (detail : Word) :
    ∃ e q, s.report src kind ctx detail = { s with events := e, eventSeq := q } := by
  unfold State.report; dsimp only
  split <;> exact ⟨_, _, rfl⟩

theorem setReplaceMe_shape (s : State) : ∃ r e q, s.setReplaceMe = { s with replaceMe := r, events := e, eventSeq := q } := by
  unfold State.setReplaceMe; dsimp only
  split
  · exact ⟨_, _, _, rfl⟩
  · obtain ⟨e, q, h⟩ := report_shape { s with replaceMe := s.replaceStatus } moduleId 10 0xFFFF s.replaceStatus
    exact ⟨_, e, q, h⟩

theorem updCluster_shape (s : State) (p : Nat) (f : Cluster → Cluster) : ∃ k, s.updCluster p f = { s with clusters := k } := by
  unfold State.updCluster State.setCluster
  split <;> exact ⟨_, rfl⟩

/-- A cluster updated under its own number is the one read; every other is as it was. -/
theorem clusterAt_updCluster (s : State) (p q : Nat) {f : Cluster → Cluster} (hf : ∀ k, (f k).phys = k.phys) :
    (s.updCluster p f).clusterAt q = if p = q then f (s.clusterAt p) else s.clusterAt q := by
  have hp : (f (s.clusterAt p)).phys = p := by
    rw [hf, State.clusterAt]
    cases h : s.clusters.find? fun k => k.phys == p with
    | none => rfl
    | some k => simpa using List.find?_some h
  rw [State.updCluster, clusterAt_setCluster, hp]

/-- The update of a cluster's fields stands where the cluster stood. -/
theorem clusterAt_updCluster_same (s : State) (p : Nat) {f : Cluster → Cluster} (hf : ∀ k, (f k).phys = k.phys) :
    (s.updCluster p f).clusterAt p = f (s.clusterAt p) := by rw [clusterAt_updCluster s p p hf, if_pos rfl]

@[simp] theorem report_clusterAt (s : State) (src : BitVec 32) (kind : Nat) (ctx : BitVec 16) (detail : Word) (p : Nat) :
    (s.report src kind ctx detail).clusterAt p = s.clusterAt p := clusterAt_of_clusters (State.report_clusters ..) p

theorem countFault_clusterAt (s : State) (p q : Nat) : (s.countFault p).clusterAt q =
    if p = q then { s.clusterAt p with faults := (s.clusterAt p).faults ++ [s.now] } else s.clusterAt q :=
  clusterAt_updCluster s p q fun _ => rfl

/-! ## Context faults (R368) -/

@[simp] theorem Context.freezeWith_id (c : Context) (f : FaultRec) : (c.freezeWith f).id = c.id := by
  unfold Context.freezeWith; split <;> rfl

/-- The clusters of a context stop. -/
def stopHeld (ctx : Nat) (k : Cluster) : Cluster := if k.ctx == some ctx then { k with stopped := true } else k

@[simp] theorem stopHeld_phys (ctx : Nat) (k : Cluster) : (stopHeld ctx k).phys = k.phys := by unfold stopHeld; split <;> rfl
@[simp] theorem stopHeld_ctx (ctx : Nat) (k : Cluster) : (stopHeld ctx k).ctx = k.ctx := by unfold stopHeld; split <;> rfl
@[simp] theorem stopHeld_faults (ctx : Nat) (k : Cluster) : (stopHeld ctx k).faults = k.faults := by unfold stopHeld; split <;> rfl

/-- A fault of a context that exists: it freezes or its records grow, its clusters stop, and the fault is reported. -/
theorem contextFault_shape (s : State) (ctx : Nat) (rep : Option Nat) (f : FaultRec) :
    s.contextFault ctx rep f = s ∧ s.ctx? ctx = none ∨ ∃ o e q, s.contextFault ctx rep f =
      { s with replays := (s.faultReplay rep f.code).replays
               ctxs := (s.updCtx ctx (·.freezeWith f)).ctxs
               clusters := s.clusters.map (stopHeld ctx)
               freezeOrder := o, events := e, eventSeq := q } := by
  unfold State.contextFault
  split
  · next h => exact .inl ⟨rfl, by simpa using h⟩
  · right
    dsimp only
    obtain ⟨e, q, h⟩ := report_shape _ f.source 7 _ _
    rw [h]
    cases rep <;> split <;> exact ⟨_, _, _, rfl⟩

/-- A fault for no replay changes none. -/
theorem contextFault_none_shape (s : State) (ctx : Nat) (f : FaultRec) : ∃ c k o e q, s.contextFault ctx none f =
    { s with ctxs := c, clusters := k, freezeOrder := o, events := e, eventSeq := q } := by
  obtain ⟨h, -⟩ | ⟨o, e, q, h⟩ := contextFault_shape s ctx none f
  · exact ⟨_, _, _, _, _, h⟩
  · exact ⟨_, _, _, _, _, h⟩

theorem contextFault_ctx? (s : State) (i j : Nat) (rep : Option Nat) (f : FaultRec) :
    (s.contextFault i rep f).ctx? j = (s.ctx? j).map fun c => if c.id == i then c.freezeWith f else c := by
  obtain ⟨h, hnone⟩ | ⟨o, e, q, h⟩ := contextFault_shape s i rep f
  · rw [h]
    cases hj : s.ctx? j with
    | none => rfl
    | some c =>
      have hij : c.id ≠ i := fun hi => by rw [← hi, ctx?_id hj, hj] at hnone; cases hnone
      simp [hij]
  · rw [h]
    exact ctx?_updCtx s i j (·.freezeWith f) fun c => c.freezeWith_id f

/-- The cluster at a place after a fault: it has stopped if the context holds it. -/
theorem contextFault_clusterAt (s : State) (i p : Nat) (rep : Option Nat) (f : FaultRec) :
    (s.contextFault i rep f).clusterAt p = s.clusterAt p ∨ (s.contextFault i rep f).clusterAt p = stopHeld i (s.clusterAt p) := by
  obtain ⟨h, -⟩ | ⟨o, e, q, h⟩ := contextFault_shape s i rep f
  · exact .inl (congrArg (State.clusterAt · p) h)
  · rw [h]
    simp only [State.clusterAt, List.find?_map, Function.comp_def, stopHeld_phys]
    cases s.clusters.find? fun k => k.phys == p with
    | none => exact .inl rfl
    | some k => exact .inr rfl

@[simp] theorem contextFault_clusterAt_ctx (s : State) (i p : Nat) (rep : Option Nat) (f : FaultRec) :
    ((s.contextFault i rep f).clusterAt p).ctx = (s.clusterAt p).ctx := by
  obtain h | h := contextFault_clusterAt s i p rep f <;> simp [h]

@[simp] theorem contextFault_clusterAt_faults (s : State) (i p : Nat) (rep : Option Nat) (f : FaultRec) :
    ((s.contextFault i rep f).clusterAt p).faults = (s.clusterAt p).faults := by
  obtain h | h := contextFault_clusterAt s i p rep f <;> simp [h]

/-! ## A frozen context -/

/-- Whether a context is frozen, and by what, stands in the contexts and the clusters. -/
theorem FrozenBy.congr {s s' : State} {ctx code : Nat} (h : FrozenBy s ctx code) (hctxs : s'.ctxs = s.ctxs)
    (hclusters : s'.clusters = s.clusters) : FrozenBy s' ctx code := by
  unfold FrozenBy State.ctx? at *
  rwa [hctxs, hclusters]

/-- The first fault of a context freezes it. -/
theorem frozenBy_contextFault {s : State} {ctx : Nat} {c : Context} (rep : Option Nat) (f : FaultRec) (hc : s.ctx? ctx = some c)
    (hfree : c.freeze = none) : FrozenBy (s.contextFault ctx rep f) ctx f.code := by
  refine ⟨⟨c.freezeWith f, ⟨[f], 1, none, none, c.freezeLimit * 1000000, c.attached⟩, f, ?_, ?_, rfl, rfl⟩, ?_⟩
  · rw [contextFault_ctx?, hc]; simp [ctx?_id hc]
  · simp [Context.freezeWith, hfree]
  · obtain ⟨-, hnone⟩ | ⟨o, e, q, h⟩ := contextFault_shape s ctx rep f
    · rw [hc] at hnone; cases hnone
    · rw [h]
      intro k hk hctx
      obtain ⟨k, -, rfl⟩ := List.mem_map.mp hk
      rw [stopHeld_ctx] at hctx
      simp [stopHeld, hctx]

/-- A fault of another context leaves it frozen by its own. -/
theorem FrozenBy.contextFault {s : State} {ctx code i : Nat} (h : FrozenBy s ctx code) (hi : ctx ≠ i) (rep : Option Nat)
    (f : FaultRec) : FrozenBy (s.contextFault i rep f) ctx code := by
  obtain ⟨⟨c, z, g, hc, hz, hg, hcode⟩, hstop⟩ := h
  refine ⟨⟨c, z, g, ?_, hz, hg, hcode⟩, ?_⟩
  · rw [contextFault_ctx?, hc]; simp [ctx?_id hc, hi]
  · obtain ⟨h, -⟩ | ⟨o, e, q, h⟩ := contextFault_shape s i rep f
    · rwa [h]
    · rw [h]
      intro k hk hctx
      obtain ⟨k, hmem, rfl⟩ := List.mem_map.mp hk
      rw [stopHeld_ctx] at hctx
      have := hstop k hmem hctx
      unfold stopHeld
      split
      · rfl
      · exact this

/-- Each of the contexts that a unit's error is charged to, one after the other, is frozen by it. -/
theorem frozenBy_foldl_unitFault {s : State} {cs : List Nat} {code ctx : Nat} {c : Context} (src : BitVec 32) (hnodup : cs.Nodup)
    (hmem : ctx ∈ cs) (hc : s.ctx? ctx = some c) (hfree : c.freeze = none) :
    FrozenBy (cs.foldl (fun s i => s.unitFault i none code src) s) ctx code := by
  have keep : ∀ (cs : List Nat) (s : State), ctx ∉ cs → FrozenBy s ctx code →
      FrozenBy (cs.foldl (fun s i => s.unitFault i none code src) s) ctx code := by
    intro cs
    induction cs with
    | nil => exact fun s _ h => h
    | cons i cs ih =>
      intro s hn h
      simp only [List.mem_cons, not_or] at hn
      exact ih _ hn.2 (h.contextFault hn.1 none _)
  induction cs generalizing s with
  | nil => cases hmem
  | cons i cs ih =>
    rw [List.nodup_cons] at hnodup
    by_cases hi : ctx = i
    · subst hi
      exact keep cs _ hnodup.1 (frozenBy_contextFault none _ hc hfree)
    · refine ih hnodup.2 (by simpa [hi] using hmem) ?_
      show (s.contextFault i none _).ctx? ctx = _
      rw [contextFault_ctx?, hc]
      simp [ctx?_id hc, hi]

/-! ## Cleared memory (R20, R198) -/

/-- A place that no cell names reads as an unlisted byte does, whatever the form of the memory. -/
theorem get_of_forall_ne {m : List Host.Cell} {x : Nat} (h : ∀ c ∈ m, c.1 ≠ x) : Mem.get m x = unlisted := by
  induction m with
  | nil => rfl
  | cons c m ih =>
    obtain ⟨k, v⟩ := c
    have hk : k ≠ x := h (k, v) (by simp)
    simp only [Mem.get, hk, if_false, ih fun c hc => h c (by simp [hc])]
    split <;> rfl

theorem ne_of_mem_clear {m : List Host.Cell} {lo n x : Nat} (hlo : lo ≤ x) (hhi : x < lo + n) :
    ∀ c ∈ Mem.clear m lo n, c.1 ≠ x := by
  rintro c hc rfl
  simp [Mem.clear, hlo, hhi] at hc

theorem mem_of_mem_clear {m : List Host.Cell} {lo n : Nat} {c : Host.Cell} (hc : c ∈ Mem.clear m lo n) : c ∈ m :=
  List.mem_of_mem_filter hc

end Sys2Proof.Machine
end

section
/-! SUPPORT. Errors found by the patrol scrub, retries, ports, fencing and operating points (R18 to R20, R361 to R366). -/

namespace Sys2Proof.Machine

/-! ## Whom a word of unit state belongs to (R363) -/

/-- A walk reads the memory, the poisoned words and the free values alone. -/
theorem walkFrom_congr {s s' : State} (hmem : s'.mem = s.mem) (hpoison : s'.poison = s.poison) (hfree : s'.free = s.free)
    (grants : List (Nat × Nat)) (va : Nat) : ∀ n t, walkFrom s' grants va n t = walkFrom s grants va n t
  | 0, _ => rfl
  | n + 1, t => by
    have he (pa : Nat) : s'.entryAt pa = s.entryAt pa := by
      unfold State.entryAt State.poisoned State.read
      rw [hmem, hpoison, hfree]
    simp only [walkFrom, he, walkFrom_congr hmem hpoison hfree grants va n]

theorem walk_congr {s s' : State} (hmem : s'.mem = s.mem) (hpoison : s'.poison = s.poison) (hfree : s'.free = s.free)
    (hctxs : s'.ctxs = s.ctxs) (ctx va : Nat) : s'.walk ctx va = s.walk ctx va := by
  simp only [State.walk, State.walkOf, State.ctx?, hctxs, walkFrom_congr hmem hpoison hfree]

/-- Reports and counted faults leave every word with the contexts that it had. -/
theorem entryContexts_counted {s : State} {e : List Event} {q : List (BitVec 32 × BitVec 32)} {k : List Cluster}
    (hk : ∀ p, (({ s with events := e, eventSeq := q, clusters := k } : State).clusterAt p).ctx = (s.clusterAt p).ctx)
    (w : Stored) :
    ({ s with events := e, eventSeq := q, clusters := k } : State).entryContexts w = s.entryContexts w := by
  have hwalk := walk_congr (s := s) (s' := { s with events := e, eventSeq := q, clusters := k }) rfl rfl rfl rfl
  cases w with
  | mem key => simp only [State.entryContexts, State.inDump, hwalk]
  | queue u ns => cases u <;> simp only [State.entryContexts, hk, State.engineOf, State.ctx?]
  | _ => rfl

/-! ## PATROL_SCRUB (R361, R363) -/

/-- The error of several bits in a word, reported and counted against its cluster. -/
def State.scrubCounted (s : State) (w : Stored) : State :=
  match Stored.cluster w with
  | some p => (s.report (s.storedSource w) 2 0xFFFF (Stored.detail w)).countFault p
  | none => s.report (s.storedSource w) 2 0xFFFF (Stored.detail w)

/-- The contexts that a word belongs to, each charged once. -/
def State.scrubCharged (s : State) (w : Stored) (src : BitVec 32) : State :=
  (s.holders w).foldl (fun s c => s.unitFault c none 0x48 src) s

/-- An uncorrectable error of a word of HBM, counted against its stack. -/
def State.scrubStack (s : State) (w : Stored) : State :=
  match w with
  | .mem key => (match placeOfKey key with
    | some (.hbm pa) => { s with stackErrs := (channelOf pa / 32, s.now) :: s.stackErrs }.setReplaceMe
    | _ => s)
  | _ => s

theorem patrolScrub_missing {s : State} {v : Stored} (h : Stored.exists_ (s.wordOf v) = false) (b : Upset) :
    exec (.patrolScrub v b) s = .next s := by
  show execPatrolScrub v b s = _
  simp [execPatrolScrub, h]

theorem patrolScrub_single {s : State} {v : Stored} (h : Stored.exists_ (s.wordOf v) = true) :
    exec (.patrolScrub v .single) s = .next ({ s with corrected := (s.wordOf v, s.now) :: s.corrected }.report
      (s.storedSource (s.wordOf v)) 1 0xFFFF (Stored.detail (s.wordOf v))) := by
  show execPatrolScrub v .single s = _
  simp [execPatrolScrub, h]

theorem patrolScrub_multi {s : State} {v : Stored} (h : Stored.exists_ (s.wordOf v) = true) :
    exec (.patrolScrub v .multi) s = .next ((((s.scrubCounted (s.wordOf v)).scrubCharged (s.wordOf v)
      (s.storedSource (s.wordOf v))).spoil (s.wordOf v)).scrubStack (s.wordOf v)) := by
  show execPatrolScrub v .multi s = _
  simp only [execPatrolScrub, h, Bool.not_true, Bool.false_eq_true, if_false] <;> rfl

theorem scrubCounted_shape (s : State) (w : Stored) :
    ∃ e q k, s.scrubCounted w = { s with events := e, eventSeq := q, clusters := k } := by
  obtain ⟨e, q, h⟩ := report_shape s (s.storedSource w) 2 0xFFFF (Stored.detail w)
  unfold State.scrubCounted
  split
  · obtain ⟨k, hk⟩ := updCluster_shape { s with events := e, eventSeq := q } _ fun c => { c with faults := c.faults ++ [s.now] }
    exact ⟨e, q, k, by rw [h]; exact hk⟩
  · exact ⟨e, q, _, h⟩

theorem scrubCharged_shape (s : State) (w : Stored) (src : BitVec 32) : ∃ c k o e q, s.scrubCharged w src =
    { s with ctxs := c, clusters := k, freezeOrder := o, events := e, eventSeq := q } := by
  unfold State.scrubCharged
  generalize s.holders w = cs
  induction cs generalizing s with
  | nil => exact ⟨_, _, _, _, _, rfl⟩
  | cons i cs ih =>
    obtain ⟨c, k, o, e, q, h⟩ := contextFault_none_shape s i ⟨0x48, src, s.now, 0, 0, 0, 0, 0, 0, 0, 0⟩
    obtain ⟨c', k', o', e', q', h'⟩ := ih (s.unitFault i none 0x48 src)
    refine ⟨c', k', o', e', q', h'.trans ?_⟩
    rw [show s.unitFault i none 0x48 src = _ from h]

theorem spoil_shape (s : State) (w : Stored) :
    ∃ t m v p, s.spoil w = { s with tlb := t, sums := m, saves := v, poison := p } := by
  cases w <;> simp only [State.spoil, Stored.poison] <;> first | exact ⟨_, _, _, _, rfl⟩ | (split <;> exact ⟨_, _, _, _, rfl⟩)

theorem scrubStack_shape (s : State) (w : Stored) :
    ∃ z r e q, s.scrubStack w = { s with stackErrs := z, replaceMe := r, events := e, eventSeq := q } := by
  unfold State.scrubStack
  repeat' split
  · next pa _ =>
    obtain ⟨r, e, q, h⟩ := setReplaceMe_shape { s with stackErrs := (channelOf pa / 32, s.now) :: s.stackErrs }
    exact ⟨_, r, e, q, h⟩
  · exact ⟨_, _, _, _, rfl⟩
  · exact ⟨_, _, _, _, rfl⟩

/-- A charge keeps the faults counted against a cluster. -/
theorem scrubCharged_faults (s : State) (w : Stored) (src : BitVec 32) (p : Nat) :
    ((s.scrubCharged w src).clusterAt p).faults = (s.clusterAt p).faults :=
  foldl_keeps (fun s : State => (s.clusterAt p).faults) _ (fun _ _ => contextFault_clusterAt_faults ..) s _

theorem scrubCounted_clusterAt (s : State) (w : Stored) (p : Nat) : (s.scrubCounted w).clusterAt p =
    if Stored.cluster w = some p then { s.clusterAt p with faults := (s.clusterAt p).faults ++ [s.now] } else s.clusterAt p := by
  unfold State.scrubCounted
  split
  · next q hq =>
    rw [countFault_clusterAt, report_clusterAt, report_clusterAt, State.report_now, hq]
    by_cases h : q = p <;> simp [h]
  · next hq => rw [report_clusterAt, hq, if_neg (by simp)]

/-- Counting the error leaves the word with the contexts that it had. -/
theorem scrubCounted_holders (s : State) (w : Stored) : (s.scrubCounted w).holders w = s.holders w := by
  have hctx : ∀ p, ((s.scrubCounted w).clusterAt p).ctx = (s.clusterAt p).ctx := by
    intro p; rw [scrubCounted_clusterAt]; split <;> rfl
  obtain ⟨e, q, k, h⟩ := scrubCounted_shape s w
  rw [h] at hctx ⊢
  rw [State.holders, State.holders, entryContexts_counted hctx]

/-- A word that a later read finds poisoned joins the poisoned ones. -/
theorem spoil_poison (s : State) (w : Stored) : (s.spoil w).poison =
    (Stored.poison w).elim s.poison fun n => if s.poison.contains n then s.poison else n :: s.poison := by
  cases w with
  | mem | code | granules => simp only [State.spoil, Stored.poison, Option.elim_some]; split <;> rfl
  | _ => rfl

theorem mem_poison_spoil {s : State} {w : Stored} {n : Nat} (h : Stored.poison w = some n) : n ∈ (s.spoil w).poison := by
  rw [spoil_poison, h, Option.elim_some]
  split
  · next hc => simpa using hc
  · exact List.mem_cons_self

theorem poison_subset_spoil {s : State} {w : Stored} {n : Nat} (h : n ∈ s.poison) : n ∈ (s.spoil w).poison := by
  rw [spoil_poison]
  cases Stored.poison w with
  | none => exact h
  | some k =>
    rw [Option.elim_some]
    split
    · exact h
    · exact List.mem_cons_of_mem k h

/-- A save record that holds a spoilt word is marked (R364). -/
theorem upset_of_mem_spoil {s : State} {pa : Nat} {r : SaveRec} (hr : r ∈ (s.spoil (.mem pa)).saves) (hpa : r.holds pa = true) :
    r.upset = true := by
  have hsaves : (s.spoil (.mem pa)).saves = s.saves.map fun x => if x.holds pa then { x with upset := true } else x := by
    simp only [State.spoil]; split
    · split <;> rfl
    · rfl
  rw [hsaves] at hr
  obtain ⟨x, -, rfl⟩ := List.mem_map.mp hr
  by_cases hx : x.holds pa = true
  · rw [if_pos hx]
  · rw [if_neg hx] at hpa
    exact absurd hpa hx

@[simp] theorem spoil_ctxs (s : State) (w : Stored) : (s.spoil w).ctxs = s.ctxs := by
  obtain ⟨t, m, v, p, h⟩ := spoil_shape s w; rw [h]

@[simp] theorem spoil_clusters (s : State) (w : Stored) : (s.spoil w).clusters = s.clusters := by
  obtain ⟨t, m, v, p, h⟩ := spoil_shape s w; rw [h]

@[simp] theorem scrubStack_saves (s : State) (w : Stored) : (s.scrubStack w).saves = s.saves := by
  obtain ⟨z, r, e, q, h⟩ := scrubStack_shape s w; rw [h]

@[simp] theorem scrubStack_poison (s : State) (w : Stored) : (s.scrubStack w).poison = s.poison := by
  obtain ⟨z, r, e, q, h⟩ := scrubStack_shape s w; rw [h]

@[simp] theorem scrubStack_ctxs (s : State) (w : Stored) : (s.scrubStack w).ctxs = s.ctxs := by
  obtain ⟨z, r, e, q, h⟩ := scrubStack_shape s w; rw [h]

@[simp] theorem scrubStack_clusters (s : State) (w : Stored) : (s.scrubStack w).clusters = s.clusters := by
  obtain ⟨z, r, e, q, h⟩ := scrubStack_shape s w; rw [h]

theorem placeOfKey_hbm {pa : Nat} (h : pa < 2 ^ 40) : placeOfKey pa = some (.hbm pa) := if_pos h

theorem scrubStack_hbm {pa : Nat} (s : State) (h : pa < 2 ^ 40) :
    (s.scrubStack (.mem pa)).stackErrs = (channelOf pa / 32, s.now) :: s.stackErrs := by
  obtain ⟨r, e, q, hr⟩ := setReplaceMe_shape { s with stackErrs := (channelOf pa / 32, s.now) :: s.stackErrs }
  simp only [State.scrubStack, placeOfKey_hbm h, hr]

/-- The fields that the spoiling and the charges of an error leave as they were. -/
theorem scrub_frame (s : State) (w : Stored) (src : BitVec 32) : ∃ t m v p c k o e q,
    ((s.scrubCounted w).scrubCharged w src).spoil w = { s with
      tlb := t, sums := m, saves := v, poison := p, ctxs := c, clusters := k, freezeOrder := o, events := e, eventSeq := q } ∧
    ((s.scrubCounted w).scrubCharged w src).poison = s.poison := by
  obtain ⟨e, q, k, h1⟩ := scrubCounted_shape s w
  obtain ⟨c', k', o', e', q', h2⟩ := scrubCharged_shape (s.scrubCounted w) w src
  obtain ⟨t, m, v, p, h3⟩ := spoil_shape ((s.scrubCounted w).scrubCharged w src) w
  rw [h3, h2, h1]
  exact ⟨t, m, v, p, c', k', o', e', q', rfl, rfl⟩

/-- The place of a scratchpad's key. -/
theorem placeOfKey_spad {key p o : Nat} (hkey : key = 2 ^ 41 + p * 2 ^ 21 + o) (hp : p < 256) (ho : o < 2 ^ 21) :
    placeOfKey key = some (.spad p o) := by
  have hdiv : (key - 2 ^ 41) / 2 ^ 21 = p := by omega
  have hmod : key % 2 ^ 21 = o := by omega
  simp only [placeOfKey, hdiv, hmod, hp, if_true]
  rw [if_neg (by omega), if_neg (by omega), if_pos (by omega)]

/-- A scratchpad's bytes lie in their cluster. -/
theorem cluster_spad {p o : Nat} (hp : p < 256) (ho : o < 2 ^ 21) : Stored.cluster (.mem (Loc.spad p o).key) = some p := by
  rw [Stored.cluster, placeOfKey_spad (key := (Loc.spad p o).key) rfl hp ho]

/-- What a multi-bit error leaves and marks, and whom it freezes. -/
theorem patrolScrub_multi_effect {s : State} {v w : Stored} (hw : s.wordOf v = w) (hex : Stored.exists_ w = true) :
    ∃ s', exec (.patrolScrub v .multi) s = .next s' ∧ s'.mem = s.mem ∧ s'.corrected = s.corrected ∧
      (∀ n, Stored.poison w = some n → n ∈ s'.poison) ∧ (∀ n ∈ s.poison, n ∈ s'.poison) ∧
      (∀ p, Stored.cluster w = some p → (s'.clusterAt p).faults = (s.clusterAt p).faults ++ [s.now]) ∧
      (∀ pa, pa < 2 ^ 40 → w = .mem pa → s'.stackErrs = (channelOf pa / 32, s.now) :: s.stackErrs) ∧
      (∀ pa, pa < 2 ^ 40 → w = .mem pa → ∀ r ∈ s'.saves, r.holds pa = true → r.upset = true) ∧
      (∀ c x, c ∈ s.holders w → s.ctx? c = some x → x.freeze = none → FrozenBy s' c 0x48) := by
  subst hw
  refine ⟨_, patrolScrub_multi hex, ?_⟩
  generalize s.wordOf v = w at *
  generalize s.storedSource w = src
  obtain ⟨t, m, v, p, c, k, o, e, q, hframe, hpoison⟩ := scrub_frame s w src
  obtain ⟨z, r, e', q', hstack⟩ := scrubStack_shape (((s.scrubCounted w).scrubCharged w src).spoil w) w
  refine ⟨by rw [hstack, hframe], by rw [hstack, hframe], fun n hn => ?_, fun n hn => ?_, fun p hp => ?_, fun pa hpa hw => ?_,
    fun pa _ hw r hr hholds => ?_, fun c x hc hx hfree => ?_⟩
  · rw [scrubStack_poison]; exact mem_poison_spoil hn
  · rw [scrubStack_poison]; exact poison_subset_spoil (hpoison ▸ hn)
  · rw [clusterAt_of_clusters (scrubStack_clusters ..), clusterAt_of_clusters (spoil_clusters ..), scrubCharged_faults,
      scrubCounted_clusterAt, if_pos hp]
  · subst hw
    rw [scrubStack_hbm _ hpa, hframe]
  · subst hw
    exact upset_of_mem_spoil (by simpa using hr) hholds
  · refine FrozenBy.congr (s := (s.scrubCounted w).scrubCharged w src) ?_ (by simp) (by simp)
    refine frozenBy_foldl_unitFault src (List.nodup_dedup _) (scrubCounted_holders s w ▸ hc) ?_ hfree
    obtain ⟨e, q, k, h⟩ := scrubCounted_shape s w
    rw [h]; exact hx

/-! ## LINK_RETRY (R361) -/

/-- The retries of the last second. -/
def State.recentRetries (s : State) : List (Nat × Nat) := s.linkRetries.filter fun r => decide (s.now < r.2 + 1000000000)

theorem linkRetry_counts {s : State} {link : Nat} (h : (s.recentRetries.filter fun r => r.1 == link).length < 999) :
    exec (.linkRetry link) s = .next { s with linkRetries := (link, s.now) :: s.recentRetries } := by
  show execLinkRetry link s = _
  unfold State.recentRetries at h ⊢
  simp only [execLinkRetry, List.filter_cons, BEq.rfl, if_true, List.length_cons]
  rw [if_neg (by omega)]

/-- The 1,000th retry of a link within a second. -/
theorem linkRetry_reports {s : State} {link : Nat} (h : 999 ≤ (s.recentRetries.filter fun r => r.1 == link).length) :
    exec (.linkRetry link) s = .next ({ s with linkRetries := s.recentRetries.filter fun r => r.1 != link }.report
      moduleId 3 0xFFFF (BitVec.ofNat 64 link)) := by
  show execLinkRetry link s = _
  unfold State.recentRetries at h ⊢
  simp only [execLinkRetry, List.filter_cons, BEq.rfl, if_true, List.length_cons, bne_self_eq_false, Bool.false_eq_true, if_false]
  rw [if_pos (by omega)]

/-- A report that finds room stands last in the queue. -/
theorem report_events {s : State} (src : BitVec 32) (kind : Nat) (ctx : BitVec 16) (detail : Word) (h : s.events.length < 4096) :
    ∃ e, (s.report src kind ctx detail).events = s.events ++ [e] ∧ e.kind = kind ∧ e.detail = detail := by
  refine ⟨⟨src, ((s.eventSeq.find? fun e => e.1 == src).map (·.2)).getD 0, s.now, kind, ctx, detail⟩, ?_, rfl, rfl⟩
  simp only [State.report, h, if_true]

/-! ## PORT_STATE_CHANGE (R365) -/

theorem getLsbD_setBit {n i : Nat} (x : BitVec n) (j : Nat) (b : Bool) (hi : i < n) :
    (setBit x j b).getLsbD i = if i = j then b else x.getLsbD i := by
  have hone : (1#n <<< j).getLsbD i = decide (i = j) := by
    rw [BitVec.getLsbD_shiftLeft, BitVec.getLsbD_one]
    by_cases h : i = j
    · subst h; simp; omega
    · by_cases hlt : i < j
      · simp [hlt, h]
      · simp [h]; omega
  cases b with
  | true =>
    rw [setBit, if_pos rfl, BitVec.getLsbD_or, hone]
    by_cases h : i = j <;> simp [h]
  | false =>
    rw [setBit, if_neg (by decide), BitVec.getLsbD_and, BitVec.getLsbD_not, hone]
    by_cases h : i = j <;> simp [h, hi]

theorem portStateChange_same {s : State} {port : Fin 16} {up : Bool} (h : s.ports.getLsbD port.val = up) :
    exec (.portStateChange port up) s = .next s := by
  show execPortStateChange port up s = _
  rw [execPortStateChange, if_pos h]

theorem portStateChange_changes {s : State} {port : Fin 16} {up : Bool} (h : s.ports.getLsbD port.val ≠ up) :
    ∃ s', exec (.portStateChange port up) s = .next s' ∧ s'.ports = setBit s.ports port.val up := by
  show ∃ s', execPortStateChange port up s = .next s' ∧ _
  rw [execPortStateChange, if_neg h]
  refine ⟨_, rfl, ?_⟩
  obtain ⟨r, e, q, hr⟩ := setReplaceMe_shape ({ s with ports := setBit s.ports port.val up }.report (engineId 10 port.val) 4 0xFFFF
    (BitVec.ofNat 64 (port.val + if up then 65536 else 0)))
  rw [hr]
  exact State.report_ports ..

/-! ## CLUSTER_FENCING (R364) -/

/-- A cluster that becomes fenced stands fenced. -/
theorem fenced_updCluster (s : State) (phys : Nat) : ((s.updCluster phys fun k =>
    { k with fenced := true, fencing := false, stopped := false, saving := false, ctx := none }).clusterAt phys).fenced = true := by
  rw [clusterAt_updCluster_same]
  exact fun _ => rfl

theorem fence_effect (s : State) (phys : Nat) : ((s.fence phys).clusterAt phys).fenced = true ∧
    (s.fence phys).lmap = s.lmap.map fun p => if p = phys then 256 else p := by
  unfold State.fence
  dsimp only
  obtain ⟨r, e, q, hr⟩ := setReplaceMe_shape _
  rw [hr]
  refine ⟨?_, by simp⟩
  obtain ⟨e', q', he⟩ := report_shape _ (clusterId phys) 8 0xFFFF (BitVec.ofNat 64 phys)
  rw [he]
  exact fenced_updCluster s phys

section
variable {s : State} {phys : Nat} (hp : phys < 256) (hfenced : (s.clusterAt phys).fenced = false)
  (hdue : ((s.clusterAt phys).fencing || s.fenceDue phys) = true)
include hp hfenced hdue

/-- A cluster that is due is looked at. -/
theorem not_fencingIdle : ¬ (256 ≤ phys || (s.clusterAt phys).fenced || !((s.clusterAt phys).fencing || s.fenceDue phys)) = true := by
  simp only [hfenced, hdue]; simpa using hp

/-- One that a context holds waits while that is frozen, and else is saved first. -/
theorem clusterFencing_held {c : Nat} (hc : (s.clusterAt phys).ctx = some c) : exec (.clusterFencing phys) s = .next
    (if ((s.ctx? c).bind (·.freeze)).isSome then s.updCluster phys fun k => { k with fencing := true }
      else s.updCluster phys fun k => { k with fencing := true, stopped := true, saving := true }) := by
  show execClusterFencing phys s = _
  simp only [execClusterFencing]
  rw [if_neg (not_fencingIdle hp hfenced hdue), hc]

/-- An empty one is fenced. -/
theorem clusterFencing_empty (hc : (s.clusterAt phys).ctx = none) (hv : s.vacant phys = true) :
    exec (.clusterFencing phys) s = .next (s.fence phys) := by
  show execClusterFencing phys s = _
  simp only [execClusterFencing]
  rw [if_neg (not_fencingIdle hp hfenced hdue), hc]
  exact congrArg _ (if_pos hv)

end

/-! ## Operating points (R18 to R20) -/

/-- No frozen context holds an idle core island's cluster. -/
theorem frozenOn_of_coreIdle {s : State} {phys : Nat} (h : s.coreIdle phys = true) : s.frozenOn phys = false := by
  simp only [State.coreIdle, Bool.and_eq_true, Option.isNone_iff_eq_none] at h
  simp [State.frozenOn, h.2]

theorem reportPoint_shape (s : State) (isl : Island) (pt : OpPoint) :
    ∃ e q, s.reportPoint isl pt = { s with events := e, eventSeq := q } := report_shape ..

@[simp] theorem reportPoint_clusterAt (s : State) (isl : Island) (pt : OpPoint) (p : Nat) :
    (s.reportPoint isl pt).clusterAt p = s.clusterAt p := report_clusterAt ..

/-- A scratchpad that has lost its power reads as zero. -/
theorem losePower_spad (s : State) (phys o : Nat) (ho : o < 2 ^ 21) : (s.losePower phys).byteAt (.spad phys o) = 0 := by
  have hkey : (Loc.spad phys o).key = (Loc.spad phys 0).key + o := by simp [Loc.key]
  exact get_of_forall_ne fun c hc => ne_of_mem_clear (by omega) (by omega) c (mem_of_mem_clear hc)

section
variable {s : State} {phys : Nat}

/-- A point set at a matrix island. -/
theorem setMatPt_effect (pt : OpPoint) (isl : Island) :
    ((((s.updCluster phys fun k => { k with matPt := pt }).reportPoint isl pt).clusterAt phys).matPt = pt) := by
  rw [reportPoint_clusterAt, clusterAt_updCluster_same]
  exact fun _ => rfl

/-- A point set at a core island. -/
theorem setCorePt_effect (pt : OpPoint) (isl : Island) :
    ((((s.updCluster phys fun k => { k with corePt := pt }).reportPoint isl pt).clusterAt phys).corePt = pt) := by
  rw [reportPoint_clusterAt, clusterAt_updCluster_same]
  exact fun _ => rfl

/-- No island of a cluster that a frozen context holds is gated (R368). -/
theorem not_gated_of_frozenOn (h : s.frozenOn phys = true) (matrix : Bool) :
    exec (.operatingPointChange ⟨phys, matrix⟩ .gated) s = .next s := by
  show execOperatingPointChange ⟨phys, matrix⟩ .gated s = _
  simp [execOperatingPointChange, h]

theorem matrixIslandGate_of_frozenOn (h : s.frozenOn phys = true) : exec (.matrixIslandGate phys) s = .next s := by
  show execMatrixIslandGate phys s = _
  simp [execMatrixIslandGate, h]

/-- A matrix island takes a point that R18 allows. -/
theorem operatingPointChange_matrix {pt : OpPoint} (hp : phys < 256) (hgated : (s.clusterAt phys).matPt ≠ .gated)
    (hpt : (s.clusterAt phys).matPt ≠ pt) (hidle : pt = .gated → s.matrixIdle phys = true ∧ s.frozenOn phys = false) :
    exec (.operatingPointChange ⟨phys, true⟩ pt) s =
      .next ((s.updCluster phys fun k => { k with matPt := pt }).reportPoint ⟨phys, true⟩ pt) := by
  show execOperatingPointChange ⟨phys, true⟩ pt s = _
  have hp' : ¬ 256 ≤ phys := by omega
  by_cases hg : pt = .gated
  · obtain ⟨hm, hf⟩ := hidle hg
    simp [execOperatingPointChange, hp', hgated, hpt, hm, hf]
  · simp [execOperatingPointChange, hp', hgated, hpt, hg]

/-- A core island takes a point that R18 allows, and loses its contents where it is gated. -/
theorem operatingPointChange_core {pt : OpPoint} (hp : phys < 256) (hgated : (s.clusterAt phys).corePt ≠ .gated)
    (hpt : (s.clusterAt phys).corePt ≠ pt) (hidle : pt = .gated → s.coreIdle phys = true) :
    exec (.operatingPointChange ⟨phys, false⟩ pt) s = .next (if pt = .gated
      then ((s.updCluster phys fun k => { k with corePt := pt }).reportPoint ⟨phys, false⟩ pt).losePower phys
      else (s.updCluster phys fun k => { k with corePt := pt }).reportPoint ⟨phys, false⟩ pt) := by
  show execOperatingPointChange ⟨phys, false⟩ pt s = _
  have hp' : ¬ 256 ≤ phys := by omega
  by_cases hg : pt = .gated
  · have hi := hidle hg
    simp [execOperatingPointChange, hp', hgated, hpt, hi, frozenOn_of_coreIdle hi]
  · simp [execOperatingPointChange, hp', hgated, hpt, hg]

theorem matrixIslandGate_gates (hp : phys < 256) (hgated : (s.clusterAt phys).matPt ≠ .gated) (hidle : s.matrixIdle phys = true)
    (hf : s.frozenOn phys = false) : exec (.matrixIslandGate phys) s =
      .next ((s.updCluster phys fun k => { k with matPt := .gated }).reportPoint ⟨phys, true⟩ .gated) := by
  show execMatrixIslandGate phys s = _
  have hp' : ¬ 256 ≤ phys := by omega
  simp [execMatrixIslandGate, hp', hgated, hidle, hf]

theorem coreIslandWake_wakes (hgated : (s.clusterAt phys).corePt = .gated)
    (hwork : (∃ g ∈ s.groups, g.phys = phys) ∨ ∃ t ∈ s.threads, t.phys = phys) : exec (.coreIslandWake phys) s =
      .next ((s.updCluster phys fun k => { k with corePt := .full }).reportPoint ⟨phys, false⟩ .full) := by
  show execCoreIslandWake phys s = _
  have h : ((s.groups.any fun g => g.phys == phys) || s.threads.any fun t => t.phys == phys) = true := by simpa using hwork
  simp [execCoreIslandWake, hgated, h]

theorem matrixIslandWake_wakes (hgated : (s.clusterAt phys).matPt = .gated) (hwork : ∃ k ∈ s.cores, k.phys = phys ∧ k.mq ≠ []) :
    exec (.matrixIslandWake phys) s =
      .next ((s.updCluster phys fun k => { k with matPt := .full }).reportPoint ⟨phys, true⟩ .full) := by
  show execMatrixIslandWake phys s = _
  have h : s.cores.any (fun k => k.phys == phys && !k.mq.isEmpty) = true := by simpa using hwork
  simp [execMatrixIslandWake, hgated, h]

end

/-- Settles O47: each event is what the lemmas above say, the one charge per context by `frozenBy_foldl_unitFault`. -/
theorem islandsErrorsAndPorts : Obligations.IslandsErrorsAndPorts := by
  unfold Obligations.IslandsErrorsAndPorts
  refine fun s => ⟨fun v w hw => ⟨fun hex b => ?_, fun hex => ⟨?_, patrolScrub_multi_effect hw hex⟩⟩, fun _ _ _ => ⟨rfl, rfl⟩,
    fun _ _ hp ho => cluster_spad hp ho, fun link => ⟨linkRetry_counts, fun h => ?_⟩,
    fun port up => ⟨portStateChange_same, fun h => ?_⟩, fun phys hp hfenced hdue => ⟨?_, ?_, ?_⟩,
    fun phys pt hp => ⟨fun hf => ⟨not_gated_of_frozenOn hf _, not_gated_of_frozenOn hf _, matrixIslandGate_of_frozenOn hf⟩,
      fun hgated hpt hidle => ?_, fun hgated hpt hidle => ?_, fun hgated hidle hf => ?_, fun hgated hwork => ?_,
      fun hgated hwork => ?_⟩⟩
  · subst hw; exact patrolScrub_missing hex b
  · subst hw; exact ⟨_, patrolScrub_single hex, by simp, by simp, by simp⟩
  · refine ⟨_, linkRetry_reports h, fun r hr => ?_, fun hroom => ?_⟩
    · rw [State.report_linkRetries] at hr
      simpa using (List.mem_filter.mp hr).2
    · exact report_events moduleId 3 0xFFFF (BitVec.ofNat 64 link) hroom
  · obtain ⟨s', he, hports⟩ := portStateChange_changes h
    exact ⟨s', he, fun i hi => hports ▸ getLsbD_setBit s.ports port.val up hi⟩
  · intro c x hc hx hfree
    rw [clusterFencing_held hp hfenced hdue hc]
    simp [hx, hfree]
  · intro c x z hc hx hz
    rw [clusterFencing_held hp hfenced hdue hc]
    simp [hx, hz]
  · intro hc hvacant
    obtain ⟨hf, hl⟩ := fence_effect s phys
    refine ⟨s.fence phys, clusterFencing_empty hp hfenced hdue hc hvacant, hf, ?_, by rw [hl, List.length_map]⟩
    rw [hl, List.mem_map]
    rintro ⟨p, -, hp'⟩
    split at hp' <;> omega
  · exact ⟨_, operatingPointChange_matrix hp hgated hpt hidle, setMatPt_effect pt _, by simp⟩
  · refine ⟨_, operatingPointChange_core hp hgated hpt hidle, ?_, fun hg => ?_, fun hg o ho => ?_⟩
    · split
      · exact setCorePt_effect pt _
      · exact setCorePt_effect pt _
    · rw [if_neg hg]; simp
    · rw [if_pos hg]; exact losePower_spad _ phys o ho
  · refine ⟨_, matrixIslandGate_gates hp hgated hidle hf, setMatPt_effect _ _, ?_⟩
    obtain ⟨e, q, h⟩ := reportPoint_shape (s.updCluster phys fun k => { k with matPt := .gated }) ⟨phys, true⟩ .gated
    rw [h]; simp
  · exact ⟨_, coreIslandWake_wakes hgated hwork, setCorePt_effect _ _⟩
  · exact ⟨_, matrixIslandWake_wakes hgated hwork, setMatPt_effect _ _⟩

end Sys2Proof.Machine
end

section
/-! SUPPORT. What a translation, a read or write at a home, and the end of a wait never touch (R197, R313, R328, R363): threads,
groups, families, and the control words of the contexts. -/

namespace Sys2Proof.Machine

/-- Between two states no thread, group, family or context control word has changed, and no identifier has been given back. -/
structure Aside (s s' : State) : Prop where
  threads : s'.threads = s.threads
  groups : s'.groups = s.groups
  families : s'.families = s.families
  fpCtl : ∀ i, (s'.ctx? i).map (·.fpCtl) = (s.ctx? i).map (·.fpCtl)
  fresh : s.fresh ≤ s'.fresh

theorem Aside.refl (s : State) : Aside s s := ⟨rfl, rfl, rfl, fun _ => rfl, le_rfl⟩

theorem Aside.trans {s s' s'' : State} (h : Aside s s') (h' : Aside s' s'') : Aside s s'' :=
  ⟨h'.threads.trans h.threads, h'.groups.trans h.groups, h'.families.trans h.families, fun i => (h'.fpCtl i).trans (h.fpCtl i),
    h.fresh.trans h'.fresh⟩

theorem Aside.foldl {α : Type} {f : State → α → State} (h : ∀ s a, Aside s (f s a)) (xs : List α) (s : State) :
    Aside s (xs.foldl f s) := by
  induction xs generalizing s with
  | nil => exact .refl s
  | cons x xs ih => exact (h s x).trans (ih _)

/-- An update of a context that keeps its id and its control word. -/
theorem Aside.updCtx (s : State) (i : Nat) {f : Context → Context} (hid : ∀ c, (f c).id = c.id) (hctl : ∀ c, (f c).fpCtl = c.fpCtl) :
    Aside s (s.updCtx i f) := by
  refine ⟨rfl, rfl, rfl, fun j => ?_, le_rfl⟩
  rw [ctx?_updCtx s i j f hid]
  cases s.ctx? j with
  | none => rfl
  | some c => simp only [Option.map_some]; split <;> simp [hctl]

/-! ## Charges -/

theorem aside_contextFault (s : State) (i : Nat) (rep : Option Nat) (f : FaultRec) : Aside s (s.contextFault i rep f) := by
  obtain ⟨h, -⟩ | ⟨o, e, q, h⟩ := contextFault_shape s i rep f
  · rw [h]; exact .refl s
  · have hctl : ∀ c : Context, (c.freezeWith f).fpCtl = c.fpCtl := fun c => by unfold Context.freezeWith; split <;> rfl
    rw [h]
    exact ⟨rfl, rfl, rfl, (Aside.updCtx s i (fun c => c.freezeWith_id f) hctl).fpCtl, le_rfl⟩

theorem aside_chargeRead (s : State) (e : BitVec 32) (c : Nat) (g : Option Nat) (w : Option Thread) :
    Aside s (s.chargeRead e c g w) := aside_contextFault ..

theorem aside_newFree (s : State) : Aside s s.newFree.2 := ⟨rfl, rfl, rfl, fun _ => rfl, le_rfl⟩

theorem aside_homeRead (s : State) (l : Loc) (n c : Nat) (g : Option Nat) (w : Option Thread) :
    Aside s (s.homeRead l n c g w).2 := by
  unfold State.homeRead
  split
  · exact (aside_newFree s).trans (aside_chargeRead ..)
  · exact .refl s

/-! ## Walks and TLBs -/

theorem aside_chargeWalk (s : State) (c : Nat) (read : List Nat) : Aside s (s.chargeWalk c read) := by
  unfold State.chargeWalk
  split
  · exact .refl s
  · exact (aside_newFree s).trans (.foldl (fun s _ => aside_chargeRead ..) _ _)

theorem aside_tlbFill (s : State) (l : TlbLeaf) : Aside s (s.tlbFill l) := by
  unfold State.tlbFill; dsimp only
  split <;> exact ⟨rfl, rfl, rfl, fun _ => rfl, le_rfl⟩

theorem aside_tlb (s : State) (t : List TlbLeaf) : Aside s { s with tlb := t } := ⟨rfl, rfl, rfl, fun _ => rfl, le_rfl⟩

theorem aside_walks (s : State) (w : List PageWalk) : Aside s { s with walks := w } := ⟨rfl, rfl, rfl, fun _ => rfl, le_rfl⟩

theorem aside_endWalk (s : State) (x : PageWalk) (va : Nat) : Aside s (s.endWalk x va).2 := by
  have h (read : List Nat) := (aside_walks s (s.walks.erase x)).trans (aside_chargeWalk _ x.ctx read)
  unfold State.endWalk; dsimp only
  split
  · exact (h _).trans (aside_tlbFill ..)
  · exact h _

theorem aside_walkRoom (s : State) (die : Nat) : Aside s (s.walkRoom die) := by
  unfold State.walkRoom
  split
  · split
    · exact aside_endWalk ..
    · exact .refl s
  · exact .refl s

theorem aside_walkMiss (s : State) (die c va : Nat) : Aside s (s.walkMiss die c va).2 := by
  have h : Aside s ((s.walkRoom die).walkNow c va).2 := (aside_walkRoom s die).trans (aside_chargeWalk ..)
  unfold State.walkMiss
  split
  · exact aside_endWalk ..
  · split
    · next e => rw [e] at h; exact h.trans (aside_tlbFill ..)
    · exact h

theorem aside_tlbRead (s : State) (u c va : Nat) : Aside s (s.tlbRead u c va).2 := by
  unfold State.tlbRead
  split
  · exact .refl s
  · next l _ =>
    split
    · exact (aside_tlb s (s.tlb.erase l)).trans (aside_contextFault ..)
    · exact .refl s

theorem aside_leafOf (s : State) (c p va : Nat) : Aside s (s.leafOf c p va).2 := by
  have h1 := aside_tlbRead s p c va
  unfold State.leafOf; dsimp only
  split
  · next e => rw [e] at h1; exact h1
  · next s1 e =>
    rw [e] at h1
    have h2 := aside_tlbRead s1 (256 + p / 128) c va
    split
    · next e => rw [e] at h2; exact (h1.trans h2).trans (aside_tlbFill ..)
    · next s2 e =>
      rw [e] at h2
      have h3 := aside_walkMiss s2 (p / 128) c va
      split
      · next e => rw [e] at h3; exact (h1.trans h2).trans h3
      · next e => rw [e] at h3; exact ((h1.trans h2).trans h3).trans (aside_tlbFill ..)

theorem aside_translate (s : State) (c p va : Nat) (w ph : Bool) : Aside s (s.translate c p va w ph).2 := by
  have h := aside_leafOf s c p va
  unfold State.translate
  split
  · next e => rw [e] at h; exact h
  · next e =>
    rw [e] at h
    split
    · exact .refl s
    · exact h

/-! ## Writes and records -/

theorem aside_reply (s : State) (a : Access) (w : List (Operand × Wide)) (r : Prod) (k : Nat) (b : BitVec 32) (z : Stamp) :
    Aside s (s.reply a w r k b z) := by
  obtain h | ⟨o, h⟩ | ⟨x, h⟩ := reply_cases s a w r k b z <;> rw [h]
  · exact .refl s
  · exact ⟨rfl, rfl, rfl, fun _ => rfl, le_rfl⟩
  · exact ⟨rfl, rfl, rfl, fun _ => rfl, Nat.le_succ _⟩

theorem aside_settle (s : State) (id : Nat) : Aside s (s.settle id) := ⟨rfl, rfl, rfl, fun _ => rfl, le_rfl⟩

theorem aside_wake (s : State) (l : Loc) (n : Nat) (b : BitVec 32) (z : Stamp) : Aside s (s.wake l n b z) := by
  unfold State.wake
  refine .foldl (fun s a => ?_) _ s
  have h := aside_homeRead s a.loc a.size a.ctx (some a.group) (a.uid.bind s.thread?)
  dsimp only
  split
  · split
    · exact (h.trans (aside_settle _ a.id)).trans (aside_reply ..)
    · exact h
  · exact .refl s

theorem aside_poison (s : State) (p : List Nat) : Aside s { s with poison := p } := ⟨rfl, rfl, rfl, fun _ => rfl, le_rfl⟩

theorem aside_write (s : State) (l : Loc) (n v : Nat) : Aside s (s.write l n v) := ⟨rfl, rfl, rfl, fun _ => rfl, le_rfl⟩

theorem aside_homeWrite (s : State) (l : Loc) (n v : Nat) (b : BitVec 32) (z : Stamp) : Aside s (s.homeWrite l n v b z) := by
  have h (l : Loc) (p : List Nat) : Aside s { s.write l n v with poison := p } := (aside_write s l n v).trans (aside_poison ..)
  unfold State.homeWrite
  split
  · exact (h _ _).trans (aside_wake ..)
  · exact h _ _

theorem aside_writeVa (s : State) (c p va : Nat) (bs : List Byte) : Aside s (s.writeVa c p va bs) := by
  have h := aside_translate s c p va true false
  unfold State.writeVa
  split
  · next e => rw [e] at h; exact h.trans (aside_homeWrite ..)
  · next e => rw [e] at h; exact h

theorem aside_nextRec (s : State) (c z : Nat) : Aside s (s.nextRec c z).2 := Aside.updCtx s c (fun _ => rfl) fun _ => rfl

/-- The end of a wait writes its record and its context's next record number. -/
theorem aside_endWait (s : State) (r : Option Replay) (c p z : Nat) (w a : BitVec 32) (k : Nat) (st : Stamp) :
    Aside s (s.endWait r c p z w a k st).2 := by
  unfold State.endWait; dsimp only
  split
  · split
    · exact (aside_nextRec s c z).trans (aside_writeVa ..)
    · exact .refl s
  · exact .refl s

end Sys2Proof.Machine
end

section
/-! SUPPORT. Groups: their placement, dispatch, RETAIN, retirement and the freeing of their allotments, and the windows of waves
(R16, R17, R39, R198, R241, R288 to R290, R303, R305). -/

namespace Sys2Proof.Machine

/-! ## Placement (R290) -/

@[simp] theorem clearCluster_groups (s : State) (p : Nat) : (s.clearCluster p).groups = s.groups := State.setCluster_groups ..
@[simp] theorem clearCluster_threads (s : State) (p : Nat) : (s.clearCluster p).threads = s.threads := State.setCluster_threads ..

@[simp] theorem takeCluster_groups (s : State) (c p : Nat) (l : Option Nat) : (s.takeCluster c p l).groups = s.groups := by
  unfold State.takeCluster; dsimp only
  rw [State.updCluster_groups]
  split <;> simp

@[simp] theorem takeCluster_threads (s : State) (c p : Nat) (l : Option Nat) : (s.takeCluster c p l).threads = s.threads := by
  unfold State.takeCluster; dsimp only
  rw [State.updCluster_threads]
  split <;> simp

/-- The group that a placement puts on its cluster. -/
theorem putGroup_effect (s : State) (c : Context) (r : Replay) (k : Kernel) (kern lin : Nat) (p : Spot) :
    ∃ g : Group, (s.putGroup c r k kern lin p).groups = (s.groups.filter fun x => p.keep != some x.uid) ++ [g] ∧ g.ctx = c.id ∧
      g.replay = r.uid ∧ g.kern = kern ∧ g.lin = lin ∧ g.lcl = p.lcl ∧ g.phys = p.phys ∧ g.spadBase = p.base ∧
      g.spadSize = k.spad ∧ g.tcmSize = k.tcm ∧ g.slots = k.slots ∧ g.st = .placed := by
  refine ⟨_, takeCluster_groups .., rfl, rfl, rfl, rfl, rfl, rfl, rfl, rfl, rfl, rfl, rfl⟩

@[simp] theorem putGroup_threads (s : State) (c : Context) (r : Replay) (k : Kernel) (kern lin : Nat) (p : Spot) :
    (s.putGroup c r k kern lin p).threads = s.threads := takeCluster_threads ..

/-- A level's contexts before the first one with a group that fits give none. -/
theorem findSome?_of_first {α β : Type} {f : α → Option β} {xs pre post : List α} {a : α} {b : β} (hxs : xs = pre ++ a :: post)
    (hpre : ∀ x ∈ pre, f x = none) (ha : f a = some b) : xs.findSome? f = some b := by
  have : pre.findSome? f = none := List.findSome?_eq_none_iff.mpr hpre
  simp [hxs, this, ha]

/-- The launch unit takes the first context with a group that fits, from the highest level on. -/
theorem groupPlacement_places {s : State} {c : Context} {l : Nat} {pre post : List Context}
    {x : Replay × Kernel × Nat × Nat × Spot} (hl : l < 4) (hlevel : s.levelOrder l = pre ++ c :: post)
    (hpre : ∀ x ∈ pre, s.nextGroup x = none) (habove : ∀ m, l < m → m < 4 → ∀ x ∈ s.levelOrder m, s.nextGroup x = none)
    (hc : s.nextGroup c = some x) : exec .groupPlacement s =
      .next { s.putGroup c x.1 x.2.1 x.2.2.1 x.2.2.2.1 x.2.2.2.2 with
        launchLast := (s.putGroup c x.1 x.2.1 x.2.2.1 x.2.2.2.1 x.2.2.2.2).launchLast.set! l c.id } := by
  have hhere : (s.levelOrder l).findSome? (fun c => (s.nextGroup c).map fun x => (l, c, x)) = some (l, c, x) :=
    findSome?_of_first hlevel (fun y hy => by rw [hpre y hy]; rfl) (by rw [hc]; rfl)
  have hnone : ∀ m, l < m → m < 4 → (s.levelOrder m).findSome? (fun c => (s.nextGroup c).map fun x => (m, c, x)) = none :=
    fun m hm hm4 => List.findSome?_eq_none_iff.mpr fun y hy => by rw [habove m hm hm4 y hy]; rfl
  have hfind : [3, 2, 1, 0].findSome? (fun l => (s.levelOrder l).findSome? fun c => (s.nextGroup c).map fun x => (l, c, x))
      = some (l, c, x) := by
    interval_cases l <;> simp [hhere, hnone]
  show execGroupPlacement s = _
  rw [execGroupPlacement, hfind]

/-! ## A root thread's registers (R39) -/

/-- Every d and g register of a thread whose registers were EMPTY is FULL, and no other one. -/
theorem zeros_full {t : Thread} (h : t.full = 0) : t.zeros.full = 0x7FF80000 := by
  have hfold : t.zeros.full = [27, 28, 29, 30, 19, 20, 21, 22, 23, 24, 25, 26].foldl (fun x b => setBit x b true) t.full := rfl
  rw [hfold, h]
  decide

theorem zeros_pend {t : Thread} (h : t.pend = 0) : t.zeros.pend = 0 := by
  have hfold : t.zeros.pend = [27, 28, 29, 30, 19, 20, 21, 22, 23, 24, 25, 26].foldl (fun x b => setBit x b false) t.pend := rfl
  rw [hfold, h]
  decide

theorem zeros_ints {t : Thread} (h : t.ints = Vector.replicate 31 0) : t.zeros.ints = Vector.replicate 31 0 := by
  have hfold : t.zeros.ints = [27, 28, 29, 30, 19, 20, 21, 22, 23, 24, 25, 26].foldl (fun x (b : Fin 31) => x.set b.val 0) t.ints := rfl
  rw [hfold, h]
  decide

/-- A register is FULL at the start of a root exactly where R39 says so. -/
theorem isFull_zeros {t : Thread} (h : t.full = 0) (o : Operand) : t.zeros.isFull o = match o with
    | .int .zero | .int (.d _) | .int (.g _) => true
    | .pred q => q == 0
    | _ => false := by
  rw [Thread.isFull, zeros_full h]
  cases o with
  | int r => cases r with
    | zero => rfl
    | l i | s i | g i | d i => revert i; decide
  | wide i | pred i | ext i => revert i; decide

theorem isPend_zeros {t : Thread} (h : t.pend = 0) (o : Operand) : t.zeros.isPend o = false := by
  rw [Thread.isPend, zeros_pend h]
  cases o.bit <;> simp

theorem int_zeros {t : Thread} (h : t.ints = Vector.replicate 31 0) (x : IReg) : t.zeros.int x = 0 := by
  rw [Thread.int, zeros_ints h]
  cases IReg.entry x <;> simp

/-- The zeros change registers alone. -/
theorem zeros_keeps {γ : Type} (get : Thread → γ) (h : ∀ t o v, get (t.put o v) = get t) (t : Thread) : get t.zeros = get t :=
  (foldl_keeps get _ (fun _ _ => h ..) _ _).trans (foldl_keeps get _ (fun _ _ => h ..) _ _)

theorem zeros_frame (t : Thread) : t.zeros.kind = t.kind ∧ t.zeros.run = t.run ∧ t.zeros.ctx = t.ctx ∧ t.zeros.group = t.group ∧
    t.zeros.graph = t.graph ∧ t.zeros.phys = t.phys ∧ t.zeros.lcl = t.lcl ∧ t.zeros.core = t.core ∧ t.zeros.slot = t.slot ∧
    t.zeros.window = t.window ∧ t.zeros.pc = t.pc :=
  ⟨zeros_keeps _ Thread.put_kind t, zeros_keeps _ Thread.put_run t, zeros_keeps _ Thread.put_ctx t, zeros_keeps _ Thread.put_group t,
    zeros_keeps _ Thread.put_graph t, zeros_keeps _ Thread.put_phys t, zeros_keeps _ Thread.put_lcl t,
    zeros_keeps _ Thread.put_core t, zeros_keeps _ Thread.put_slot t, zeros_keeps _ Thread.put_window t,
    zeros_keeps _ Thread.put_pc t⟩

theorem zeros_control (t : Thread) : t.zeros.flags = t.flags ∧ t.zeros.ftz = t.ftz ∧ t.zeros.daz = t.daz ∧ t.zeros.rm = t.rm :=
  ⟨zeros_keeps _ Thread.put_flags t, zeros_keeps _ Thread.put_ftz t, zeros_keeps _ Thread.put_daz t,
    zeros_keeps _ Thread.put_rm t⟩

/-! ## GROUP_DISPATCH (R13, R39) -/

theorem setFpWord_flags (t : Thread) (v : BitVec 10) : (t.setFpWord v).flags.toNat = v.toNat / 32 := by
  have := v.isLt
  simp only [Thread.setFpWord, bits, BitVec.extractLsb'_toNat, Nat.shiftRight_eq_div_pow]
  omega

theorem setFpWord_rm (t : Thread) (v : BitVec 10) (h : t.rm = 0) :
    (t.setFpWord v).rm.toNat = if v.toNat % 8 ≤ 4 then v.toNat % 8 else 0 := by
  have hbits : (bits v 0 3).toNat = v.toNat % 8 := by simp [bits, BitVec.extractLsb'_toNat]
  simp only [Thread.setFpWord, BitVec.le_def, hbits, h]
  split <;> simp_all

/-- The thread of a group's root before its registers are set. -/
def bareRoot (uid : Nat) (g : Group) (r : Replay) (k : Kernel) (core slot : Nat) (ctl : BitVec 10) (stamp : Stamp) : Thread :=
  ({ Thread.blank uid .root g.ctx g.uid r.graph g.phys g.lcl core slot with
      window := k.window, pc := k.entry, handle := handleOf g.ctx g.lcl core 0 0,
      key := rootKey r.seed (BitVec.ofNat 64 (8 * g.lcl + core)) (BitVec.ofNat 64 g.lin), stamp := stamp } : Thread).setFpWord ctl

/-- The control word that a root starts with (R118, R136). -/
theorem bareRoot_control (uid : Nat) (g : Group) (r : Replay) (k : Kernel) (core slot : Nat) (ctl : BitVec 10) (stamp : Stamp) :
    let t := (bareRoot uid g r k core slot ctl stamp).zeros
    t.flags.toNat = ctl.toNat / 32 ∧ t.ftz = ctl.getLsbD 4 ∧ t.daz = ctl.getLsbD 3 ∧
      t.rm.toNat = (if ctl.toNat % 8 ≤ 4 then ctl.toNat % 8 else 0) := by
  obtain ⟨hflags, hftz, hdaz, hrm⟩ := zeros_control (bareRoot uid g r k core slot ctl stamp)
  exact ⟨(congrArg BitVec.toNat hflags).trans (setFpWord_flags _ ctl), hftz, hdaz,
    (congrArg BitVec.toNat hrm).trans (setFpWord_rm _ ctl rfl)⟩

/-- The control word that a context gives its roots (R118). -/
def State.rootCtl (s : State) (ctx : Nat) : BitVec 10 := ((s.ctx? ctx).map fun (c : Context) => c.fpCtl).getD 0

/-- A group's root starts, with the stamp of its group's wait. -/
def State.startRoot (s : State) (g : Group) (r : Replay) (k : Kernel) (core slot : Nat) (stamp : Stamp) : State :=
  { s with
    threads := s.threads ++ [(bareRoot s.fresh g r k core slot (s.rootCtl g.ctx) stamp).zeros]
    fresh := s.fresh + 1 }.updGroup g.uid fun g => { g with st := .running, stamp := stamp }

/-- The root joins the threads. -/
theorem startRoot_threads (s : State) (g : Group) (r : Replay) (k : Kernel) (core slot : Nat) (stamp : Stamp) :
    (s.startRoot g r k core slot stamp).threads = s.threads ++ [(bareRoot s.fresh g r k core slot (s.rootCtl g.ctx) stamp).zeros] := by
  rw [State.startRoot, State.updGroup_threads]

/-- The group runs. -/
theorem startRoot_group? {s : State} {g : Group} (r : Replay) (k : Kernel) (core slot : Nat) (stamp : Stamp)
    (hg : s.group? g.uid = some g) :
    (s.startRoot g r k core slot stamp).group? g.uid = some { g with st := .running, stamp := stamp } := by
  rw [State.startRoot, group?_updGroup]
  · refine (congrArg _ (show State.group? _ g.uid = some g from hg)).trans ?_
    rw [Option.map_some, if_pos BEq.rfl]
  · exact fun _ => rfl

section
variable {s : State} {g : Group} {r : Replay} {k : Kernel} {core slot : Nat} (hg : s.group? g.uid = some g)
  (hr : s.replay? g.replay = some r) (hk : s.kernelOf? g.uid = some k) (hst : g.st = .placed) (hstratus : r.stratus = 0)
  (hpt : (s.clusterAt g.phys).corePt ≠ .gated) (hslot : s.rootSlot g false = some (core, slot))
  (hdest : ∀ x, s.ctx? g.ctx = some x → x.destroying = none)
include hg hr hk hst hstratus hpt hslot hdest

/-- A dispatch message that its cluster takes starts the root, once the wait of the group has ended. -/
theorem groupDispatch_starts : ∃ stamp s1, Aside s s1 ∧
    exec (.groupDispatch g.uid) s = .next (s1.startRoot g r k core slot stamp) := by
  have hslot' : s.rootSlot g (r.stratus != 0) = some (core, slot) := by rw [hstratus]; exact hslot
  have hd : ((s.ctx? g.ctx).bind (·.destroying)).isSome = false := by
    cases hc : s.ctx? g.ctx with
    | none => rfl
    | some x => simp [hdest x hc]
  have hw := aside_endWait s (some r) g.ctx g.phys 272 (groupName g.kern g.lin) g.arriver g.kind g.stamp
  refine ⟨(s.endWait (some r) g.ctx g.phys 272 (groupName g.kern g.lin) g.arriver g.kind g.stamp).1, _, hw, ?_⟩
  show execGroupDispatch g.uid s = _
  simp only [execGroupDispatch, hg, hr, hk, hslot']
  rw [if_neg (by simp [hst, hstratus, hpt, hd])]
  rfl

/-- What the root starts with (R39, R118), and what becomes of its group. -/
theorem groupDispatch_effect : ∃ (s' : State) (t : Thread), exec (.groupDispatch g.uid) s = .next s' ∧ s'.threads = s.threads ++ [t] ∧
    t.kind = .root ∧ t.run = .running ∧ t.ctx = g.ctx ∧ t.group = g.uid ∧ t.graph = r.graph ∧ t.phys = g.phys ∧
    t.lcl = g.lcl ∧ t.core = core ∧ t.slot = slot ∧ t.window = k.window ∧ t.pc = k.entry ∧
    (∀ x, s.ctx? g.ctx = some x → t.flags.toNat = x.fpCtl.toNat / 32 ∧ t.ftz = x.fpCtl.getLsbD 4 ∧
      t.daz = x.fpCtl.getLsbD 3 ∧ t.rm.toNat = (if x.fpCtl.toNat % 8 ≤ 4 then x.fpCtl.toNat % 8 else 0)) ∧
    (∀ o, t.isFull o = match o with
      | .int .zero | .int (.d _) | .int (.g _) => true
      | .pred q => q == 0
      | _ => false) ∧ (∀ o, t.isPend o = false) ∧ (∀ x, t.int x = 0) ∧
    ∃ g', s'.group? g.uid = some g' ∧ g'.st = .running := by
  obtain ⟨stamp, s1, haside, he⟩ := groupDispatch_starts hg hr hk hst hstratus hpt hslot hdest
  obtain ⟨hkind, hrun, hctx, hgroup, hgraph, hphys, hlcl, hcore, hsl, hwin, hpc⟩ :=
    zeros_frame (bareRoot s1.fresh g r k core slot (s1.rootCtl g.ctx) stamp)
  have hg1 : s1.group? g.uid = some g := by unfold State.group? at hg ⊢; rw [haside.groups]; exact hg
  refine ⟨_, (bareRoot s1.fresh g r k core slot (s1.rootCtl g.ctx) stamp).zeros, he, haside.threads ▸ startRoot_threads .., hkind, hrun,
    hctx, hgroup, hgraph, hphys, hlcl, hcore, hsl, hwin, hpc, fun x hx => ?_, fun o => isFull_zeros rfl o,
    fun o => isPend_zeros rfl o, fun x => int_zeros rfl x, _, startRoot_group? r k core slot stamp hg1, rfl⟩
  have hctl : s1.rootCtl g.ctx = x.fpCtl := by rw [State.rootCtl, haside.fpCtl, hx]; rfl
  rw [hctl]
  exact bareRoot_control ..

end

/-! ## WAVE_COUNTER_ALLOCATION (R303) -/

/-- A kernel of a replay changes where it stands. -/
theorem replay?_updKRun {s : State} {r : Replay} (kern : Nat) (f : KRun → KRun) (hr : s.replay? r.uid = some r) :
    (s.updKRun r.uid kern f).replay? r.uid = some { r with kernels := r.kernels.modify kern f } := by
  rw [State.updKRun, replay?_updReplay, hr, Option.map_some, if_pos BEq.rfl]
  exact fun _ => rfl

/-- The groups that enter a window when none has retired, each with the number of its predecessors. -/
theorem enter_getElem? (k : Kernel) {n w : Nat} (h : n < w) : (k.enter [] 0 w)[n]? = some (n, (k.preds n).length) := by
  simp [Kernel.enter, h]

theorem enter_length (k : Kernel) (retired : List Nat) (lo hi : Nat) : (k.enter retired lo hi).length = hi - lo := by
  simp [Kernel.enter]

/-- A kernel with dependence vectors whose `after` kernels have retired obtains its window where counters are free. -/
theorem waveCounterAllocation_allots {s : State} {r : Replay} {g : Graph} {k : Kernel} {kr : KRun} {kern : Nat}
    (hr : s.replay? r.uid = some r) (hg : s.graph? r.graph = some g) (hk : g.kernels[kern]? = some k)
    (hkr : r.kernels[kern]? = some kr) (hvecs : k.depvecs ≠ []) (hwave : kr.wave = none) (hfin : kr.fin = none)
    (hafter : ∀ a ∈ k.afters, ∃ x y, r.kernels[a]? = some x ∧ x.fin = some y) (hroom : s.waveUsed < 65536) :
    exec (.waveCounterAllocation r.uid kern) s = .next (s.updKRun r.uid kern fun x =>
      { x with wave := some ⟨min 16384 (min k.grid (65536 - s.waveUsed)), 0,
        k.enter [] 0 (min 16384 (min k.grid (65536 - s.waveUsed)))⟩ }) := by
  have hready : (k.afters.all fun a => ((r.kernels[a]?).bind (·.fin)).isSome) = true := by
    rw [List.all_eq_true]
    intro a ha
    obtain ⟨x, y, hx, hy⟩ := hafter a ha
    simp [hx, hy]
  have hfree : (65536 - s.waveUsed == 0) = false := by simp; omega
  show execWaveCounterAllocation r.uid kern s = _
  simp only [execWaveCounterAllocation, hr, hg, hkr, Option.bind_some, hk]
  rw [if_neg (by simp [hvecs, hwave, hfin, hready, hfree])]

/-! ## RETAIN (R305) -/

/-- The oldest RETAIN of a group is taken from its messages, and names the successor unless that has started or another group
names it. -/
theorem retainRecord_effect {s : State} {g : Group} {r : Replay} {kr : KRun} {k l : Nat} {rest : List (Nat × Nat)}
    (hg : s.group? g.uid = some g) (hr : s.replay? g.replay = some r) (hmsg : g.retainMsg = (k, l) :: rest)
    (hst : g.st = .running ∨ g.st = .saved) (hkr : r.kernels[k]? = some kr) : ∃ s', exec (.retainRecord g.uid) s = .next s' ∧
      ((l ∈ kr.started ∨ ∃ y ∈ s.groups, y.uid ≠ g.uid ∧ y.replay = g.replay ∧ y.retain = some (k, l)) →
        s' = s.updGroup g.uid fun x => { x with retainMsg := rest }) ∧
      (¬ (l ∈ kr.started ∨ ∃ y ∈ s.groups, y.uid ≠ g.uid ∧ y.replay = g.replay ∧ y.retain = some (k, l)) →
        s' = s.updGroup g.uid fun x => { x with retainMsg := rest, retain := some (k, l) }) := by
  have hstate : (g.st != .running && g.st != .saved) = false := by rcases hst with h | h <;> simp [h]
  have hstands : (kr.started.contains l || s.groups.any fun x => x.uid != g.uid && x.replay == g.replay && x.retain == some (k, l))
      = true ↔ (l ∈ kr.started ∨ ∃ y ∈ s.groups, y.uid ≠ g.uid ∧ y.replay = g.replay ∧ y.retain = some (k, l)) := by
    simp [and_assoc]
  show ∃ s', execRetainRecord g.uid s = .next s' ∧ _
  simp only [execRetainRecord, hg, hmsg, hr, hkr, hstate, Option.map_some, Option.getD_some, Bool.false_eq_true, if_false]
  refine ⟨_, rfl, fun h => ?_, fun h => ?_⟩
  · simp only [hstands.mpr h, if_true]
  · simp only [mt hstands.mp h, Bool.false_eq_true, if_false]

/-! ## GROUP_RETIREMENT (R16, R17, R295) -/

/-- A key of the TCM range of a group on one core. -/
def Group.inTcmOf (g : Group) (c : Fin 8) (key : Nat) : Bool :=
  decide ((Loc.tcm g.phys c.val g.tcmBase[c.val]).key ≤ key) &&
    decide (key < (Loc.tcm g.phys c.val g.tcmBase[c.val]).key + g.tcmSize)

/-- A key of the TCM ranges of a group. -/
def Group.inTcm (g : Group) (key : Nat) : Bool := (List.finRange 8).any fun c => g.inTcmOf c key

theorem Group.inTcm_iff (g : Group) (key : Nat) : g.inTcm key = true ↔
    ∃ (c : Fin 8) (n : Nat), n < g.tcmSize ∧ key = (Loc.tcm g.phys c.val (g.tcmBase[c.val] + n)).key := by
  have hkey (c : Fin 8) (n : Nat) :
      (Loc.tcm g.phys c.val (g.tcmBase[c.val] + n)).key = (Loc.tcm g.phys c.val g.tcmBase[c.val]).key + n := by
    simp only [Loc.key]; omega
  simp only [Group.inTcm, Group.inTcmOf, List.any_eq_true, List.mem_finRange, true_and, Bool.and_eq_true, decide_eq_true_eq, hkey]
  constructor
  · rintro ⟨c, hlo, hhi⟩
    exact ⟨c, key - (Loc.tcm g.phys c.val g.tcmBase[c.val]).key, by omega, by omega⟩
  · rintro ⟨c, n, hn, rfl⟩
    exact ⟨c, by omega, by omega⟩

/-- The clearing of a group's TCM range on one core. -/
def State.clearTcmOf (s : State) (g : Group) (c : Fin 8) : State :=
  let lo := (Loc.tcm g.phys c.val g.tcmBase[c.val]).key
  { s with mem := Mem.clear s.mem lo g.tcmSize
           poison := s.poison.filter fun w => !(decide (lo ≤ 8 * w) && decide (8 * w + 8 ≤ lo + g.tcmSize)) }

theorem clearTcm_eq (s : State) (g : Group) : s.clearTcm g = (List.finRange 8).foldl (fun s c => s.clearTcmOf g c) s := rfl

/-- The clearing keeps the cells outside the group's TCM ranges. -/
theorem clearTcm_cells (s : State) (g : Group) : (s.clearTcm g).mem = s.mem.filter fun c => !g.inTcm c.1 := by
  have hone (s : State) (c : Fin 8) : (s.clearTcmOf g c).mem = s.mem.filter fun x => !g.inTcmOf c x.1 := rfl
  rw [clearTcm_eq]
  unfold Group.inTcm
  generalize List.finRange 8 = cs
  induction cs generalizing s with
  | nil => simp
  | cons c cs ih =>
    rw [List.foldl_cons, ih, hone, List.filter_filter]
    congr 1
    funext x
    rw [List.any_cons, Bool.not_or, Bool.and_comm]

theorem clearTcm_shape (s : State) (g : Group) : ∃ m p, s.clearTcm g = { s with mem := m, poison := p } := by
  rw [clearTcm_eq]
  generalize List.finRange 8 = cs
  induction cs generalizing s with
  | nil => exact ⟨_, _, rfl⟩
  | cons c cs ih =>
    obtain ⟨m, p, h⟩ := ih (s.clearTcmOf g c)
    exact ⟨m, p, h⟩

/-! ### What no step of a retirement does to the groups -/

theorem unitFault_groups (s : State) (c : Nat) (r : Option Nat) (k : Nat) (b : BitVec 32) :
    (s.unitFault c r k b).groups = s.groups := (aside_contextFault ..).groups

@[simp] theorem satisfy_groups (s : State) (name : BitVec 32) (gen : BitVec 16) (b : Rise) (w : Waiter) :
    (s.satisfy name gen b w).groups = s.groups := by
  cases w with
  | thread pend =>
    show (s.satisfyThread pend gen b).groups = _
    unfold State.satisfyThread
    split <;> rfl
  | group rep kern lin => rfl

@[simp] theorem publishAll_groups (s : State) (r : Replay) (k : Kernel) (b : Rise) : (s.publishAll r k b).groups = s.groups :=
  foldl_keeps State.groups _ (fun _ _ => foldl_keeps State.groups _ (fun _ _ => satisfy_groups ..) _ _) _ _

theorem switchHost_shape (s : State) (g : Group) : ∃ k, s.switchHost g = { s with clusters := k } := by
  unfold State.switchHost; dsimp only
  split
  · split
    · exact updCluster_shape ..
    · exact ⟨_, rfl⟩
  · exact ⟨_, rfl⟩

/-- The group after its retirement. -/
def Group.retiredAs (keep : Bool) (now : Nat) (g : Group) : Group :=
  { g with st := if keep then .retained else .freeing, retain := if keep then g.retain else none, retiredAt := now }

/-- A group that retires, its TCM ranges cleared. -/
def State.retireGroup (s : State) (g : Group) : State :=
  (s.clearTcm g).updGroup g.uid (Group.retiredAs (s.successorWaits g) (s.clearTcm g).now)

/-- A kernel of a replay that has counted a retired group: where that was its last, its tags are published. -/
def State.countRetired (s : State) (r : Replay) (k : Kernel) (kern : Nat) (kr : KRun) (bad : Bool) (by_ : Rise) : State :=
  let done := decide (k.grid ≤ kr.retired.length)
  let s := s.updKRun r.uid kern fun _ => if done then { kr with fin := some by_, wave := none } else kr
  let s := if bad then s.unitFault r.ctx (some r.uid) 0x42 launchId else s
  if done then s.publishAll r k by_ else s

/-- A replay whose kernels have all retired ends. -/
def State.endRetired (s : State) (uid : Nat) : State :=
  match s.replay? uid with
  | some r => if r.kernels.all fun k => k.fin.isSome then s.endReplay r r.status else s
  | none => s

@[simp] theorem retireGroup_replay? (s : State) (g : Group) (u : Nat) : (s.retireGroup g).replay? u = s.replay? u := by
  obtain ⟨m, p, h⟩ := clearTcm_shape s g
  rw [State.retireGroup, h]; rfl

@[simp] theorem retireGroup_graph? (s : State) (g : Group) (u : BitVec 32) : (s.retireGroup g).graph? u = s.graph? u := by
  obtain ⟨m, p, h⟩ := clearTcm_shape s g
  rw [State.retireGroup, h]; rfl

/-- What releases a group's counters and successors: its name, its last stamp and the time. -/
def State.riseOf (s : State) (g : Group) : Rise := ⟨groupName g.kern g.lin, g.stamp, s.now⟩

/-- A retirement in its parts. -/
theorem retire_cases (s : State) (g : Group) : s.retire g = (s.retireGroup g).releaseClusters ∧
      (∀ r k kr, s.replay? g.replay = some r → ((s.graph? r.graph).bind fun x => x.kernels[g.kern]?) = some k →
        r.kernels[g.kern]? ≠ some kr) ∨
    ∃ r k kr, s.replay? g.replay = some r ∧ ((s.graph? r.graph).bind fun x => x.kernels[g.kern]?) = some k ∧
      r.kernels[g.kern]? = some kr ∧
      s.retire g = (((s.retireGroup g).countRetired r k g.kern (kr.retire k g.lin (s.riseOf g)).1
        (kr.retire k g.lin (s.riseOf g)).2 (s.riseOf g)).endRetired r.uid).releaseClusters := by
  have hnow : (s.clearTcm g).now = s.now := by obtain ⟨m, p, h⟩ := clearTcm_shape s g; rw [h]
  unfold State.retire
  dsimp only
  split
  · next hr =>
    replace hr : s.replay? g.replay = none := (retireGroup_replay? s g _).symm.trans hr
    exact .inl ⟨rfl, fun r k kr h => by rw [hr] at h; cases h⟩
  · next r hr =>
    replace hr : s.replay? g.replay = some r := (retireGroup_replay? s g _).symm.trans hr
    split
    · next k kr hk hkr =>
      refine .inr ⟨r, k, kr, hr, retireGroup_graph? s g r.graph ▸ hk, hkr, ?_⟩
      rw [hnow]
      rfl
    · next hnone =>
      refine .inl ⟨rfl, fun r' k kr h hk hkr => ?_⟩
      obtain rfl := Option.some.inj (hr.symm.trans h)
      exact hnone k kr ((congrArg (Option.bind · _) (retireGroup_graph? s g r.graph)).trans hk) hkr

@[simp] theorem updKRun_groups (s : State) (rep kern : Nat) (f : KRun → KRun) : (s.updKRun rep kern f).groups = s.groups := rfl

@[simp] theorem countRetired_groups (s : State) (r : Replay) (k : Kernel) (kern : Nat) (kr : KRun) (bad : Bool) (b : Rise) :
    (s.countRetired r k kern kr bad b).groups = s.groups := by
  unfold State.countRetired
  dsimp only
  split <;> split <;> simp [unitFault_groups]

@[simp] theorem countRetired_mem (s : State) (r : Replay) (k : Kernel) (kern : Nat) (kr : KRun) (bad : Bool) (b : Rise) :
    (s.countRetired r k kern kr bad b).mem = s.mem := by
  unfold State.countRetired
  dsimp only
  split <;> split <;> simp

/-- The end of a replay changes neither the groups nor the memory. -/
theorem endRetired_frame (s : State) (u : Nat) : (s.endRetired u).groups = s.groups ∧ (s.endRetired u).mem = s.mem := by
  unfold State.endRetired
  split
  · split <;> exact ⟨rfl, rfl⟩
  · exact ⟨rfl, rfl⟩

theorem retire_groups (s : State) (g : Group) : (s.retire g).groups = (s.retireGroup g).groups := by
  obtain ⟨h, -⟩ | ⟨r, k, kr, -, -, -, h⟩ := retire_cases s g
  · rw [h]; rfl
  · rw [h]; exact (endRetired_frame ..).1.trans (countRetired_groups ..)

theorem retire_mem (s : State) (g : Group) : (s.retire g).mem = (s.clearTcm g).mem := by
  obtain ⟨h, -⟩ | ⟨r, k, kr, -, -, -, h⟩ := retire_cases s g
  · rw [h]; rfl
  · rw [h]; exact (endRetired_frame ..).2.trans (countRetired_mem ..)

/-! ### The end of a replay (R17) -/

/-- A replay whose kernels have ended as another's have. -/
structure SameEnds (r r' : Replay) : Prop where
  uid : r'.uid = r.uid
  ctx : r'.ctx = r.ctx
  graph : r'.graph = r.graph
  seq : r'.seq = r.seq
  req : r'.req = r.req
  fault : r'.fault = r.fault
  fins : r'.kernels.map (·.fin) = r.kernels.map (·.fin)

theorem SameEnds.refl (r : Replay) : SameEnds r r := ⟨rfl, rfl, rfl, rfl, rfl, rfl, rfl⟩

theorem SameEnds.trans {r r' r'' : Replay} (h : SameEnds r r') (h' : SameEnds r' r'') : SameEnds r r'' :=
  ⟨h'.uid.trans h.uid, h'.ctx.trans h.ctx, h'.graph.trans h.graph, h'.seq.trans h.seq, h'.req.trans h.req,
    h'.fault.trans h.fault, h'.fins.trans h.fins⟩

/-- No message leaves, and every replay's kernels stand where they stood. -/
structure NoEnd (s s' : State) : Prop where
  out : s'.out = s.out
  replay : ∀ u r, s.replay? u = some r → ∃ r', s'.replay? u = some r' ∧ SameEnds r r'

theorem NoEnd.refl (s : State) : NoEnd s s := ⟨rfl, fun _ r h => ⟨r, h, .refl r⟩⟩

theorem NoEnd.trans {s s' s'' : State} (h : NoEnd s s') (h' : NoEnd s' s'') : NoEnd s s'' := by
  refine ⟨h'.out.trans h.out, fun u r hr => ?_⟩
  obtain ⟨r', hr', hsame⟩ := h.replay u r hr
  obtain ⟨r'', hr'', hsame'⟩ := h'.replay u r' hr'
  exact ⟨r'', hr'', hsame.trans hsame'⟩

theorem NoEnd.foldl {α : Type} {f : State → α → State} (h : ∀ s a, NoEnd s (f s a)) (xs : List α) (s : State) :
    NoEnd s (xs.foldl f s) := by
  induction xs generalizing s with
  | nil => exact .refl s
  | cons x xs ih => exact (h s x).trans (ih _)

/-- A change of a kernel that keeps its end. -/
theorem noEnd_updKRun (s : State) (rep kern : Nat) {f : KRun → KRun} (hf : ∀ x, (f x).fin = x.fin) :
    NoEnd s (s.updKRun rep kern f) := by
  refine ⟨rfl, fun u r hr => ⟨_, by rw [State.updKRun, replay?_updReplay, hr]; exacts [rfl, fun _ => rfl], ?_⟩⟩
  dsimp only
  split
  · refine ⟨rfl, rfl, rfl, rfl, rfl, rfl, List.ext_getElem? fun n => ?_⟩
    simp only [List.getElem?_map, List.getElem?_modify]
    cases r.kernels[n]? with
    | none => rfl
    | some x => by_cases h : kern = n <;> simp [h, hf]
  · exact .refl r

theorem noEnd_satisfy (s : State) (name : BitVec 32) (gen : BitVec 16) (b : Rise) (w : Waiter) :
    NoEnd s (s.satisfy name gen b w) := by
  cases w with
  | thread pend =>
    show NoEnd s (s.satisfyThread pend gen b)
    unfold State.satisfyThread
    split
    · exact ⟨rfl, fun _ r h => ⟨r, h, .refl r⟩⟩
    · exact .refl s
  | group rep kern lin => exact noEnd_updKRun s rep kern fun _ => rfl

theorem noEnd_publishAll (s : State) (r : Replay) (k : Kernel) (b : Rise) : NoEnd s (s.publishAll r k b) := by
  unfold State.publishAll
  refine .trans ?_ (.foldl (fun s (e : TagEntry) => .foldl (fun s w => noEnd_satisfy ..) e.waiters s) _ _)
  exact ⟨rfl, fun _ r h => ⟨r, h, .refl r⟩⟩

/-- A replay that ends leaves with its one message. -/
theorem endRetired_of_all {s : State} {r : Replay} (hr : s.replay? r.uid = some r) (hall : ∀ x ∈ r.kernels, x.fin ≠ none) :
    (s.endRetired r.uid).out = s.out ++ [.completion r.ctx r.req (completionBytes r.graph r.seq r.status)] ∧
      (s.endRetired r.uid).replay? r.uid = none := by
  have hfin : (r.kernels.all fun k => k.fin.isSome) = true := by
    simpa [Option.isSome_iff_ne_none] using hall
  have hend : s.endRetired r.uid = s.endReplay r r.status := by
    unfold State.endRetired; rw [hr]; exact if_pos hfin
  rw [hend]
  refine ⟨rfl, List.find?_eq_none.mpr fun x hx => ?_⟩
  have := (List.mem_filter.mp hx).2
  simpa using this

/-- Where every other kernel has ended and the last group of this one retires, every kernel has. -/
theorem fin_modify {ks : List KRun} {kern : Nat} {b : Rise} (f : KRun → KRun) (hf : ∀ x, (f x).fin = some b)
    (hothers : ∀ j y, j ≠ kern → ks[j]? = some y → y.fin ≠ none) : ∀ x ∈ ks.modify kern f, x.fin ≠ none := by
  intro x hx
  obtain ⟨j, hj⟩ := List.mem_iff_getElem?.mp hx
  rw [List.getElem?_modify] at hj
  by_cases h : kern = j
  · obtain ⟨y, -, rfl⟩ := Option.map_eq_some_iff.mp hj
    simp [h, hf]
  · simp only [h, if_false] at hj
    exact hothers j x (Ne.symm h) (by simpa using hj)

/-- A kernel whose last group retires, its replay's other kernels having ended: no counter falls and nothing is faulted. -/
theorem countRetired_last {s : State} {r : Replay} {k : Kernel} {kern : Nat} {kr : KRun} {b : Rise}
    (hr : s.replay? r.uid = some r) (hgrid : k.grid ≤ kr.retired.length)
    (hothers : ∀ j y, j ≠ kern → r.kernels[j]? = some y → y.fin ≠ none) :
    (s.countRetired r k kern kr false b).out = s.out ∧ ∃ r', (s.countRetired r k kern kr false b).replay? r.uid = some r' ∧
      r'.uid = r.uid ∧ r'.ctx = r.ctx ∧ r'.graph = r.graph ∧ r'.seq = r.seq ∧ r'.req = r.req ∧ r'.fault = r.fault ∧
      ∀ x ∈ r'.kernels, x.fin ≠ none := by
  have hcount : s.countRetired r k kern kr false b =
      (s.updKRun r.uid kern fun _ => { kr with fin := some b, wave := none }).publishAll r k b := by
    simp [State.countRetired, hgrid]
  have hkeep := noEnd_publishAll (s.updKRun r.uid kern fun _ => { kr with fin := some b, wave := none }) r k b
  obtain ⟨r', hr', hsame⟩ := hkeep.replay _ _ (replay?_updKRun kern _ hr)
  rw [hcount]
  refine ⟨hkeep.out, r', hr', hsame.uid, hsame.ctx, hsame.graph, hsame.seq, hsame.req, hsame.fault, fun x hx => ?_⟩
  have hmem : x.fin ∈ r'.kernels.map (·.fin) := List.mem_map_of_mem hx
  rw [hsame.fins] at hmem
  obtain ⟨y, hy, hfin⟩ := List.mem_map.mp hmem
  exact hfin ▸ fin_modify _ (fun _ => rfl) hothers y hy

/-- The last group of a replay that retires ends it. -/
theorem retire_last {s : State} {g : Group} {r : Replay} {x : Graph} {k : Kernel} {kr : KRun} (hr : s.replay? g.replay = some r)
    (hx : s.graph? r.graph = some x) (hk : x.kernels[g.kern]? = some k) (hkr : r.kernels[g.kern]? = some kr)
    (hwave : kr.wave = none) (hgrid : k.grid ≤ kr.retired.length + 1)
    (hothers : ∀ j y, j ≠ g.kern → r.kernels[j]? = some y → y.fin ≠ none) :
    (s.retire g).out = s.out ++ [.completion r.ctx r.req (completionBytes r.graph r.seq r.status)] ∧
      (s.retire g).replay? r.uid = none := by
  obtain ⟨-, hno⟩ | ⟨r', k', kr', hr', hk', hkr', h⟩ := retire_cases s g
  · exact absurd hkr (hno r k kr hr (by rw [hx]; exact hk))
  obtain rfl := Option.some.inj (hr.symm.trans hr')
  obtain rfl : k = k' := Option.some.inj (hk.symm.trans (by simpa [hx] using hk'))
  obtain rfl := Option.some.inj (hkr.symm.trans hkr')
  have huid : r.uid = g.replay := by simpa using List.find?_some hr
  have hretire : kr.retire k g.lin (s.riseOf g) = ({ kr with retired := kr.retired ++ [g.lin] }, false) := by
    simp [KRun.retire, hwave]
  rw [h, hretire]
  obtain ⟨hout, r', hr', huid', hctx, hgraph, hseq, hreq, hfault, hall⟩ :=
    countRetired_last (s := s.retireGroup g) (k := k) (b := s.riseOf g) (kr := { kr with retired := kr.retired ++ [g.lin] })
      (by rw [retireGroup_replay?, huid]; exact hr) (by simpa using hgrid) hothers
  obtain ⟨hend, hgone⟩ := endRetired_of_all (r := r') (huid'.symm ▸ hr') hall
  have hbefore : (s.retireGroup g).out = s.out := by obtain ⟨m, p, h⟩ := clearTcm_shape s g; rw [State.retireGroup, h]; rfl
  rw [huid', hout, hbefore, hctx, hgraph, hseq, hreq, Replay.status, hfault] at hend
  exact ⟨hend, huid' ▸ hgone⟩

theorem groupRetirement_waits {s : State} {g : Group} (hg : s.group? g.uid = some g) (hmay : s.mayRetire g = false) :
    exec (.groupRetirement g.uid) s = .next s := by
  show execGroupRetirement g.uid s = _
  simp [execGroupRetirement, hg, hmay]

theorem groupRetirement_retires {s : State} {g : Group} (hg : s.group? g.uid = some g) (hmay : s.mayRetire g = true) :
    exec (.groupRetirement g.uid) s = .next ((s.retire g).switchHost g) := by
  show execGroupRetirement g.uid s = _
  simp [execGroupRetirement, hg, hmay]

/-- The group that has retired. -/
theorem retire_group? {s : State} {g : Group} (hg : s.group? g.uid = some g) :
    (s.retire g).group? g.uid = some (g.retiredAs (s.successorWaits g) (s.clearTcm g).now) := by
  have hclear : (s.clearTcm g).group? g.uid = some g := by
    obtain ⟨m, p, h⟩ := clearTcm_shape s g
    rw [h]; exact hg
  rw [State.group?, retire_groups]
  show (State.updGroup _ _ _).group? g.uid = _
  rw [group?_updGroup, hclear, Option.map_some, if_pos BEq.rfl]
  exact fun _ => rfl

/-- A byte of the group's TCM ranges reads as zero after its retirement. -/
theorem retire_tcm {s : State} {g : Group} {c : Fin 8} {n : Nat} (hn : n < g.tcmSize) :
    Mem.get (s.retire g).mem (Loc.tcm g.phys c.val (g.tcmBase[c.val] + n)).key = 0 := by
  have hin : g.inTcm (Loc.tcm g.phys c.val (g.tcmBase[c.val] + n)).key = true := (g.inTcm_iff _).mpr ⟨c, n, hn, rfl⟩
  rw [retire_mem, clearTcm_cells]
  refine get_of_forall_ne fun x hx hkey => ?_
  have := (List.mem_filter.mp hx).2
  rw [hkey, hin] at this
  cases this

/-- Every other byte is as it was. -/
theorem retire_other {s : State} {g : Group} {key : Nat} (hwf : Mem.wf s.mem = true)
    (hkey : ∀ (c : Fin 8) (n : Nat), n < g.tcmSize → key ≠ (Loc.tcm g.phys c.val (g.tcmBase[c.val] + n)).key) :
    Mem.get (s.retire g).mem key = Mem.get s.mem key := by
  have hout : g.inTcm key = false := by
    rw [Bool.eq_false_iff, Ne, g.inTcm_iff]
    rintro ⟨c, n, hn, h⟩
    exact hkey c n hn h
  rw [retire_mem, clearTcm_cells, Mem.get_filter (fun k => !g.inTcm k) 0 hwf, hout]
  rfl

/-! ## ALLOTMENT_FREEING (R198, R241) -/

theorem allotmentFreeing_frees {s : State} {g : Group} (hg : s.group? g.uid = some g) (hst : g.st = .freeing) (hp : g.phys < 256)
    (hcopies : ∀ c ∈ s.copies, c.writesInto g = false) (haccs : ∀ a ∈ s.accs, g.spadHolds a.loc = false) :
    exec (.allotmentFreeing g.uid) s = .next
      { s.clearSpad g.phys g.spadBase g.spadSize with groups := s.groups.filter fun x => x.uid != g.uid } := by
  have hc : (s.copies.any fun c => c.writesInto g) = false := by simpa using hcopies
  have ha : (s.accs.any fun a => g.spadHolds a.loc) = false := by simpa using haccs
  show execAllotmentFreeing g.uid s = _
  simp [execAllotmentFreeing, hg, hst, hc, ha, hp]

theorem spad_key (p base o : Nat) (h : base ≤ o) : (Loc.spad p o).key = (Loc.spad p base).key + (o - base) := by
  simp only [Loc.key]; omega

theorem clearSpad_byte {s : State} {p base size o : Nat} (hlo : base ≤ o) (hhi : o < base + size) :
    Mem.get (s.clearSpad p base size).mem (Loc.spad p o).key = 0 := by
  have hkey := spad_key p base o hlo
  exact get_of_forall_ne fun c hc => ne_of_mem_clear (by omega) (by omega) c hc

theorem clearSpad_granule {s : State} {p base size o : Nat} (hbase : base % 16 = 0) (hsize : size % 16 = 0) (hlo : base ≤ o)
    (hhi : o < base + size) : (s.clearSpad p base size).granules.contains (granuleNo p o) = false := by
  have h1 : granuleNo p base ≤ granuleNo p o := by simp only [granuleNo]; omega
  have h2 : granuleNo p o < granuleNo p base + size / 16 := by simp only [granuleNo]; omega
  simp only [State.clearSpad, List.contains_eq_mem, List.mem_filter, h1, h2]
  simp

/-- Settles O37: the launch unit's choice by `groupPlacement_places`, the root's registers by `zeros_full`, and the end of a
replay by `retire_last`. -/
theorem groupsStartAndRetire : Obligations.GroupsStartAndRetire := by
  unfold Obligations.GroupsStartAndRetire
  refine fun s => ⟨?_, ?_, ?_, ?_, fun g => groupRetirement_waits, ?_, ?_⟩
  · intro c l pre post r k kern lin pl hl hlevel hpre habove hc
    obtain ⟨g, hgroups, hg⟩ := putGroup_effect s c r k kern lin pl
    obtain ⟨h1, h2, h3, h4, h5, h6, h7, h8, h9, h10, h11⟩ := hg
    refine ⟨_, g, groupPlacement_places hl hlevel hpre habove hc, hgroups, h1, h2, h3, h4, h5, h6, h7, h8, h9, h10, h11,
      putGroup_threads .., ?_⟩
    simp [hl]
  · exact fun g r k core slot => groupDispatch_effect
  · intro r g k kr kern hr hg hk hkr hvecs hwave hfin hafter hroom
    refine ⟨_, _, _, _, waveCounterAllocation_allots hr hg hk hkr hvecs hwave hfin hafter hroom, replay?_updKRun _ _ hr,
      by rw [List.getElem?_modify_eq, hkr]; rfl, rfl, rfl, rfl, enter_length .., fun n hn => enter_getElem? k hn⟩
  · exact fun g r kr k l rest => retainRecord_effect
  · intro g hg hmay
    obtain ⟨k, hshape⟩ := switchHost_shape (s.retire g) g
    refine ⟨_, g.retiredAs (s.successorWaits g) (s.clearTcm g).now, groupRetirement_retires hg hmay, ?_, rfl, fun c n hn => ?_,
      fun hwf key hkey => ?_, fun r x k kr hr hx hk hkr hwave hgrid hothers => ?_⟩
    · rw [hshape]; exact retire_group? hg
    · rw [hshape]; exact retire_tcm hn
    · rw [hshape]; exact retire_other hwf hkey
    · rw [hshape]; exact retire_last hr hx hk hkr hwave hgrid hothers
  · intro g hg hst hp hcopies haccs
    refine ⟨_, allotmentFreeing_frees hg hst hp hcopies haccs, ?_, fun o => clearSpad_byte, fun hb hz o => clearSpad_granule hb hz,
      fun hwf key hkey => ?_⟩
    · exact List.find?_eq_none.mpr fun x hx => by simpa using (List.mem_filter.mp hx).2
    · exact (Mem.get_clear hwf key).trans (if_neg hkey)

end Sys2Proof.Machine
end

section
/-! SUPPORT. What the ends of members and families can do to the threads and families at all (R75 to R78, R260, R266, R276):
threads go on or are ended, none moves to another family, a killed family stays killed, and a thread that starts has an
identifier of its own. -/

namespace Sys2Proof.Machine

/-! ## Nothing starts -/

/-- Between two states no thread has started or gone, none has another uid or family, and one that runs otherwise than before has
been ended; no family is new, and none that was killed is not. -/
structure Settles (s s' : State) : Prop where
  threads : ∃ f : Thread → Thread, s'.threads = s.threads.map f ∧
    ∀ t, (f t).uid = t.uid ∧ (f t).kind = t.kind ∧ ((f t).run = t.run ∨ (f t).run = .ended)
  families : ∀ g' ∈ s'.families, ∃ g ∈ s.families, g'.uid = g.uid ∧ (g.killed = true → g'.killed = true)
  fresh : s.fresh ≤ s'.fresh

theorem Settles.of_eq {s s' : State} (hthreads : s'.threads = s.threads) (hfamilies : s'.families = s.families)
    (hfresh : s.fresh ≤ s'.fresh) : Settles s s' :=
  ⟨⟨id, by simpa using hthreads, fun _ => ⟨rfl, rfl, .inl rfl⟩⟩, fun g hg => ⟨g, hfamilies ▸ hg, rfl, id⟩, hfresh⟩

theorem Settles.refl (s : State) : Settles s s := .of_eq rfl rfl le_rfl

theorem Settles.trans {s s' s'' : State} (h : Settles s s') (h' : Settles s' s'') : Settles s s'' := by
  obtain ⟨f, hf, hkeep⟩ := h.threads
  obtain ⟨f', hf', hkeep'⟩ := h'.threads
  refine ⟨⟨f' ∘ f, by rw [hf', hf, List.map_map], fun t => ?_⟩, fun g'' hg'' => ?_, h.fresh.trans h'.fresh⟩
  · obtain ⟨hu, hk, hr⟩ := hkeep t
    obtain ⟨hu', hk', hr'⟩ := hkeep' (f t)
    refine ⟨hu'.trans hu, hk'.trans hk, hr'.elim (fun e => ?_) .inr⟩
    exact hr.imp e.trans e.trans
  · obtain ⟨g', hg', hu', hk'⟩ := h'.families g'' hg''
    obtain ⟨g, hg, hu, hk⟩ := h.families g' hg'
    exact ⟨g, hg, hu'.trans hu, hk' ∘ hk⟩

theorem Settles.foldl {α : Type} {f : State → α → State} (h : ∀ s a, Settles s (f s a)) (xs : List α) (s : State) :
    Settles s (xs.foldl f s) := by
  induction xs generalizing s with
  | nil => exact .refl s
  | cons x xs ih => exact (h s x).trans (ih _)

theorem Aside.settles {s s' : State} (h : Aside s s') : Settles s s' := .of_eq h.threads h.families h.fresh

/-- A change of a thread that keeps it where it is, or ends it. -/
theorem settles_updThread (s : State) (u : Nat) {f : Thread → Thread}
    (hf : ∀ t, (f t).uid = t.uid ∧ (f t).kind = t.kind ∧ ((f t).run = t.run ∨ (f t).run = .ended)) :
    Settles s (s.updThread u f) := by
  refine ⟨⟨fun t => if t.uid == u then f t else t, rfl, fun t => ?_⟩, fun g hg => ⟨g, hg, rfl, id⟩, le_rfl⟩
  dsimp only
  split
  · exact hf t
  · exact ⟨rfl, rfl, .inl rfl⟩

/-- A change of a family that keeps its uid and revives nothing. -/
theorem settles_updFamily (s : State) (u : Nat) {f : Family → Family}
    (hf : ∀ g, (f g).uid = g.uid ∧ (g.killed = true → (f g).killed = true)) : Settles s (s.updFamily u f) := by
  refine ⟨⟨id, (List.map_id _).symm, fun _ => ⟨rfl, rfl, .inl rfl⟩⟩, fun g' hg' => ?_, le_rfl⟩
  obtain ⟨g, hg, rfl⟩ := List.mem_map.mp hg'
  refine ⟨g, hg, ?_⟩
  split
  · exact hf g
  · exact ⟨rfl, id⟩

theorem settles_freeFamily (s : State) (u : Nat) : Settles s (s.freeFamily u) :=
  ⟨⟨id, (List.map_id _).symm, fun _ => ⟨rfl, rfl, .inl rfl⟩⟩, fun g hg => ⟨g, List.mem_of_mem_filter hg, rfl, id⟩, le_rfl⟩

theorem settles_releaseFamilies (s : State) (u : Nat) : Settles s (s.releaseFamilies u) :=
  ⟨⟨id, (List.map_id _).symm, fun _ => ⟨rfl, rfl, .inl rfl⟩⟩, fun g hg => ⟨g, List.mem_of_mem_filter hg, rfl, id⟩, le_rfl⟩

theorem settles_writeBytes (s : State) (l : Loc) (bs : List Byte) : Settles s (s.writeBytes l bs) := .of_eq rfl rfl le_rfl

theorem settles_setCore (s : State) (k : CoreSt) : Settles s (s.setCore k) :=
  .of_eq (State.setCore_threads ..) (State.setCore_families ..) (State.setCore_fresh ..).ge

theorem settles_deliver (s : State) (p : Pend) (v : Word) (r : Prod) (k : Nat) (a : BitVec 32) (z : Stamp) :
    Settles s (s.deliver p v r k a z) := .of_eq rfl rfl (Nat.le_succ _)

/-! ### Frames and records -/

theorem settles_keepFrame (s : State) (u : Nat) : Settles s (s.keepFrame u) := by
  unfold State.keepFrame
  split
  · split
    · exact .refl s
    · exact settles_writeBytes ..
  · exact .refl s

theorem settles_keepRecord (s : State) (fam : Nat) : Settles s (s.keepRecord fam) := by
  unfold State.keepRecord
  split
  · split
    · split
      · exact .refl s
      · exact settles_writeBytes ..
    · exact .refl s
  · exact .refl s

theorem settles_endThreadWait (s : State) (u : Nat) (a : BitVec 32) (k : Nat) (z : Stamp) : Settles s (s.endThreadWait u a k z) := by
  unfold State.endThreadWait
  split
  · exact .refl s
  · exact (aside_endWait ..).settles.trans (settles_updThread _ _ fun _ => ⟨rfl, rfl, .inl rfl⟩)

/-! ### Vector ownership -/

theorem settles_answerOwner (s : State) (p c : Nat) : Settles s (s.answerOwner p c) :=
  (settles_setCore ..).trans (.foldl (fun _ _ => settles_deliver ..) _ _)

theorem settles_grantVown (s : State) (p c : Nat) : Settles s (s.grantVown p c) := by
  unfold State.grantVown
  dsimp only
  split
  · exact .refl s
  · exact (settles_setCore ..).trans (settles_answerOwner ..)

theorem settles_discard (s : State) (t : Thread) (u : Fin 4) : Settles s (s.discard t u) :=
  (settles_setCore ..).trans (.of_eq rfl rfl le_rfl)

theorem settles_unbind (s : State) (t : Thread) (u : Fin 4) : Settles s (s.unbind t u) := by
  unfold State.unbind
  dsimp only
  split
  · exact .refl s
  · exact ((settles_discard s t u).trans (settles_setCore ..)).trans
      (settles_updThread _ _ fun t => ⟨Thread.put_uid .., Thread.put_kind .., .inl (Thread.put_run ..)⟩)

theorem settles_disown (s : State) (t : Thread) : Settles s (s.disown t) := by
  unfold State.disown
  split
  · exact ((Settles.foldl (fun s u => settles_unbind s t u) _ s).trans (settles_setCore ..)).trans (settles_grantVown ..)
  · exact .refl s

/-! ### Forwards and the end of a member -/

/-- A forward is among those of its family. -/
def Family.logged (m : Nat) (i : Fin 4) (v : Word) (f : Family) : Family := { f with log := f.log ++ [(m, i, v)] }

/-- A forward at the home entry. -/
def Family.holding (i : Fin 4) (v : Word) (deps : List Nat) (f : Family) : Family :=
  { f with held := f.held.set i.val (some v), after := f.after ++ deps }

/-- A member that a forward has reached. -/
def Thread.received (i : Fin 4) (v : Word) (deps : List Nat) (t : Thread) : Thread :=
  { t.put (.int (.d i)) (v.setWidth 256) with
    wait := if t.wait == some (.operand (.int (.d i))) then none else t.wait
    after := t.after ++ deps }

/-- A forward for a family that is there reaches the member above its sender, the home entry, or the log alone. -/
theorem sendForward_cases (s : State) (fam m : Nat) (i : Fin 4) (v : Word) (z : Stamp) :
    s.family? fam = none ∧ s.sendForward fam m i v z = s ∨
    ∃ f deps, s.family? fam = some f ∧
      ((∃ t, s.threads.find? (fun t => t.member? == some (fam, m + 1) && t.live) = some t ∧
        (s.sendForward fam m i v z =
            ((s.updFamily fam (Family.logged m i v)).updThread t.uid (Thread.received i v deps)).endThreadWait t.uid f.handle 1 z ∨
          s.sendForward fam m i v z =
            ((s.updFamily fam (Family.logged m i v)).updThread t.uid (Thread.received i v deps)).keepFrame t.uid)) ∨
      (s.threads.find? (fun t => t.member? == some (fam, m + 1) && t.live) = none ∧
        s.sendForward fam m i v z = if m + 1 = f.next && f.more
          then (s.updFamily fam (Family.logged m i v)).updFamily fam (Family.holding i v deps)
          else s.updFamily fam (Family.logged m i v))) := by
  unfold State.sendForward
  split
  · next h => exact .inl ⟨h, rfl⟩
  · next f h =>
    refine .inr ⟨f, ((s.threads.find? fun t => t.member? == some (fam, m)).map s.behind).getD [], h, ?_⟩
    dsimp only
    split
    · next t ht =>
      refine .inl ⟨t, ht, ?_⟩
      split
      · exact .inl rfl
      · exact .inr rfl
    · next ht => exact .inr ⟨ht, rfl⟩

theorem settles_sendForward (s : State) (fam m : Nat) (i : Fin 4) (v : Word) (z : Stamp) : Settles s (s.sendForward fam m i v z) := by
  have hlog := settles_updFamily s fam (f := Family.logged m i v) fun _ => ⟨rfl, id⟩
  have hput (t : Thread) (deps : List Nat) := hlog.trans (settles_updThread _ t.uid (f := Thread.received i v deps) fun t =>
    ⟨Thread.put_uid t _ _, Thread.put_kind t _ _, .inl (Thread.put_run t _ _)⟩)
  obtain ⟨-, h⟩ | ⟨f, deps, -, ⟨t, -, h | h⟩ | ⟨-, h⟩⟩ := sendForward_cases s fam m i v z <;> rw [h]
  · exact .refl s
  · exact (hput t deps).trans (settles_endThreadWait ..)
  · exact (hput t deps).trans (settles_keepFrame ..)
  · split
    · exact hlog.trans (settles_updFamily _ _ fun _ => ⟨rfl, id⟩)
    · exact hlog

theorem settles_dropForwards (s : State) (u : Nat) : Settles s (s.dropForwards u) :=
  .trans (s' := { s with fwds := s.fwds.filter fun f => f.from_ != u }) (.of_eq rfl rfl le_rfl)
    (.foldl (fun _ _ => settles_sendForward ..) _ _)

theorem settles_cancelWaiters (s : State) (u : Nat) (all : Bool) : Settles s (s.cancelWaiters u all) := .of_eq rfl rfl le_rfl
theorem settles_dropResults (s : State) (u : Nat) : Settles s (s.dropResults u) := .of_eq rfl rfl le_rfl
theorem settles_dropWaits (s : State) (u : Nat) : Settles s (s.dropWaits u) := .of_eq rfl rfl le_rfl

theorem settles_leaveTraps (s : State) (t : Thread) : Settles s (s.leaveTraps t) := by
  unfold State.leaveTraps
  dsimp only
  split
  · next svc _ =>
    split
    · have hend := (settles_setCore s { s.coreAt t.phys t.core with
          trapQ := (s.coreAt t.phys t.core).trapQ.filter (·.uid != t.uid), serving := none }).trans
        (settles_updThread _ svc (f := fun x => { x with run := .ended }) fun _ => ⟨rfl, rfl, .inr rfl⟩)
      exact (hend.trans (settles_cancelWaiters _ svc true)).trans (settles_dropResults _ svc)
    · exact settles_setCore ..
  · exact settles_setCore ..

/-- What a member's end comes to before it has ended. -/
theorem settles_endMember (s : State) (u : Nat) : Settles s (s.endMember u) := by
  unfold State.endMember
  split
  · exact .refl s
  · split
    · exact .refl s
    · exact (((((settles_dropForwards s u).trans (settles_cancelWaiters ..)).trans (settles_dropResults ..)).trans
        (settles_leaveTraps ..)).trans (settles_setCore ..)).trans (settles_updThread _ _ fun _ => ⟨rfl, rfl, .inr rfl⟩)

/-! ### The end of a family -/

theorem settles_carrying (s : State) (deps : List Nat) : Settles s (s.carrying deps) := .of_eq rfl rfl le_rfl
theorem settles_stampGroup (s : State) (g : Nat) (z : Stamp) : Settles s (s.stampGroup g z) := .of_eq rfl rfl le_rfl

theorem settles_answerWaiters (s : State) (f : Family) (status : Nat) : Settles s (s.answerWaiters f status) := by
  refine .foldl (fun s p => ?_) _ s
  split
  · split
    · exact (settles_deliver ..).trans (settles_carrying ..)
    · exact .refl s
  · split
    · exact (settles_deliver ..).trans (settles_carrying ..)
    · exact .refl s
  · exact .refl s

/-- A family takes another's place that has its uid and is killed where it was. -/
theorem settles_replaceFamily {s : State} {u : Nat} {f g : Family} (hf : s.family? u = some f) (hu : g.uid = f.uid)
    (hk : f.killed = true → g.killed = true) : Settles s (s.updFamily u fun _ => g) := by
  refine ⟨⟨id, (List.map_id _).symm, fun _ => ⟨rfl, rfl, .inl rfl⟩⟩, fun x hx => ?_, le_rfl⟩
  obtain ⟨y, hy, rfl⟩ := List.mem_map.mp hx
  split
  · exact ⟨f, List.mem_of_find?_eq_some hf, hu, hk⟩
  · exact ⟨y, hy, rfl, id⟩

/-- A family that has terminated (R77 to R79). -/
def Family.finished (f : Family) (status : Nat) (z : Option Stamp) : Family :=
  { f with status := some status
           stamp := z.getD f.stamp
           out := Vector.ofFn fun i => if i.val < f.shared then f.output i else 0 }

/-- A family that is there terminates, and goes where nobody can name it any more. -/
theorem finishFamily_cases {s : State} {fam : Nat} {f : Family} (status : Nat) (z : Option Stamp) (hf : s.family? fam = some f) :
    let s1 := (((s.updFamily fam fun _ => f.finished status z).answerWaiters (f.finished status z) status).stampGroup f.group
      (f.finished status z).stamp).keepRecord fam
    s.finishFamily fam status z = s1 ∨ s.finishFamily fam status z = s1.freeFamily fam := by
  unfold State.finishFamily
  rw [hf]
  dsimp only
  split
  · exact .inr rfl
  · exact .inl rfl

theorem settles_finishFamily (s : State) (fam status : Nat) (z : Option Stamp) : Settles s (s.finishFamily fam status z) := by
  cases hf : s.family? fam with
  | none => unfold State.finishFamily; rw [hf]; exact .refl s
  | some f =>
    have h := (((settles_replaceFamily (g := f.finished status z) hf rfl id).trans (settles_answerWaiters _ (f.finished status z) status)).trans
      (settles_stampGroup _ f.group (f.finished status z).stamp)).trans (settles_keepRecord _ fam)
    obtain e | e := finishFamily_cases status z hf <;> rw [e]
    · exact h
    · exact h.trans (settles_freeFamily ..)

theorem settles_tryFinish (s : State) (fam : Nat) (z : Option Stamp) : Settles s (s.tryFinish fam z) := by
  unfold State.tryFinish
  split
  · exact .refl s
  · split
    · exact settles_finishFamily ..
    · exact .refl s

/-- A family that was never started, as a kill leaves it before it terminates (R278). -/
def Family.neverStarted (f : Family) : Family := { f with killed := true, started := true, dputs := Vector.replicate 4 0 }

/-- A running family that a kill has met. -/
def Family.struck (f : Family) : Family := { f with killed := true, held := Vector.replicate 4 none }

/-- The members of a family that a kill ends, and the families they created. -/
def State.strike (s : State) (fam : Nat) : State :=
  ((s.membersOf fam).filter (·.live)).foldl (fun s t => s.endMember t.uid) (s.updFamily fam Family.struck)

theorem settles_strike (s : State) (fam : Nat) : Settles s (s.strike fam) :=
  (settles_updFamily s fam (f := Family.struck) fun _ => ⟨rfl, fun _ => rfl⟩).trans
    (.foldl (fun s (t : Thread) => settles_endMember s t.uid) _ _)

/-- What a kill of a family that is there can come to. -/
theorem killFamily_cases (s : State) (tree : Bool) (n fam : Nat) {f : Family} (hf : s.family? fam = some f)
    (hlive : (f.status.isSome || f.killed) = false) :
    f.started = false ∧ s.killFamily tree (n + 1) fam = (s.updFamily fam Family.neverStarted).finishFamily fam 2 none ∨
    f.started = true ∧ (256 ≤ f.hostPhys ∧ s.killFamily tree (n + 1) fam = s.sendKill fam tree ∨
      f.hostPhys < 256 ∧ (s.breakFixed f = true ∧ s.killFamily tree (n + 1) fam = s ∨
        s.breakFixed f = false ∧ ∃ gs : List Family, s.killFamily tree (n + 1) fam =
          (gs.foldl (fun s g => s.killFamily tree n g.uid) (s.strike fam)).tryFinish fam none)) := by
  rw [State.killFamily, hf]
  dsimp only
  rw [if_neg (by simp [hlive])]
  split
  · next h => exact .inl ⟨by simpa using h, rfl⟩
  · next h =>
    refine .inr ⟨by simpa using h, ?_⟩
    split
    · next h => exact .inl ⟨h, rfl⟩
    · next h =>
      refine .inr ⟨not_le.mp h, ?_⟩
      split
      · next h => exact .inl ⟨h, rfl⟩
      · next h =>
        refine .inr ⟨by simpa using h, ?_⟩
        split
        · exact ⟨_, rfl⟩
        · exact ⟨[], rfl⟩

theorem settles_killFamily (tree : Bool) : ∀ (n : Nat) (s : State) (fam : Nat), Settles s (s.killFamily tree n fam)
  | 0, s, _ => .refl s
  | n + 1, s, fam => by
    cases hf : s.family? fam with
    | none => unfold State.killFamily; rw [hf]; exact .refl s
    | some f =>
      by_cases hlive : (f.status.isSome || f.killed) = true
      · unfold State.killFamily; rw [hf]; dsimp only; rw [if_pos hlive]; exact .refl s
      · obtain ⟨-, h⟩ | ⟨-, ⟨-, h⟩ | ⟨-, ⟨-, h⟩ | ⟨-, gs, h⟩⟩⟩ :=
          killFamily_cases s tree n fam hf (by simpa using hlive) <;> rw [h]
        · exact (settles_updFamily s fam (f := Family.neverStarted) fun _ => ⟨rfl, fun _ => rfl⟩).trans (settles_finishFamily ..)
        · exact .of_eq rfl rfl (Nat.le_succ _)
        · exact .refl s
        · exact ((settles_strike s fam).trans (.foldl (fun s (g : Family) => settles_killFamily tree n s g.uid) gs _)).trans
            (settles_tryFinish ..)

/-! ## New identifiers -/

/-- Every thread of the later state stood in the earlier one or has an identifier that was not yet given then. -/
structure Later (s s' : State) : Prop where
  fresh : s.fresh ≤ s'.fresh
  threads : ∀ t' ∈ s'.threads, (∃ t ∈ s.threads, t.uid = t'.uid) ∨ s.fresh ≤ t'.uid

theorem Later.trans {s s' s'' : State} (h : Later s s') (h' : Later s' s'') : Later s s'' := by
  refine ⟨h.fresh.trans h'.fresh, fun t'' ht'' => ?_⟩
  obtain ⟨t', ht', hu⟩ | hnew := h'.threads t'' ht''
  · exact hu ▸ h.threads t' ht'
  · exact .inr (h.fresh.trans hnew)

theorem Later.foldl {α : Type} {f : State → α → State} (h : ∀ s a, Later s (f s a)) (xs : List α) (s : State) :
    Later s (xs.foldl f s) := by
  induction xs generalizing s with
  | nil => exact ⟨le_rfl, fun t ht => .inl ⟨t, ht, rfl⟩⟩
  | cons x xs ih => exact (h s x).trans (ih _)

theorem Settles.later {s s' : State} (h : Settles s s') : Later s s' := by
  obtain ⟨f, hf, hkeep⟩ := h.threads
  refine ⟨h.fresh, fun t' ht' => ?_⟩
  rw [hf] at ht'
  obtain ⟨t, ht, rfl⟩ := List.mem_map.mp ht'
  exact .inl ⟨t, ht, (hkeep t).1.symm⟩

theorem Later.refl (s : State) : Later s s := (Settles.refl s).later

theorem Later.of_eq {s s' : State} (hthreads : s'.threads = s.threads) (hfresh : s.fresh ≤ s'.fresh) : Later s s' :=
  ⟨hfresh, fun t ht => .inl ⟨t, hthreads ▸ ht, rfl⟩⟩

/-- A thread without a place in the earlier state, and with an identifier given before it, has none in the later one. -/
theorem Later.thread?_none {s s' : State} {u : Nat} (h : Later s s') (hno : ∀ t ∈ s.threads, t.uid ≠ u) (hu : u < s.fresh) :
    s'.thread? u = none := by
  refine List.find?_eq_none.mpr fun t' ht' he => ?_
  have he : t'.uid = u := by simpa using he
  obtain ⟨t, ht, hu'⟩ | hnew := h.threads t' ht'
  · exact hno t ht (hu'.trans he)
  · omega

theorem Later.ite {s a b : State} {c : Bool} (ha : Later s a) (hb : Later s b) : Later s (if c then a else b) := by
  cases c
  · exact hb
  · exact ha

theorem later_updThread (s : State) (u : Nat) {f : Thread → Thread} (hf : ∀ t, (f t).uid = t.uid) : Later s (s.updThread u f) := by
  refine ⟨le_rfl, fun t' ht' => ?_⟩
  obtain ⟨t, ht, rfl⟩ := List.mem_map.mp ht'
  refine .inl ⟨t, ht, ?_⟩
  split
  · exact (hf t).symm
  · rfl

theorem later_updFamily (s : State) (u : Nat) (f : Family → Family) : Later s (s.updFamily u f) := .of_eq rfl le_rfl

theorem later_dropThread (s : State) (u : Nat) : Later s (s.dropThread u) :=
  ⟨le_rfl, fun t ht => .inl ⟨t, List.mem_of_mem_filter ht, rfl⟩⟩

/-! ### Starts -/

theorem fill_uid (t : Thread) (d : List (Fin 4 × Word)) (g : List (Fin 8 × Word)) : (t.fill d g).uid = t.uid :=
  (foldl_keeps Thread.uid _ (fun _ _ => Thread.put_uid ..) _ _).trans (foldl_keeps Thread.uid _ (fun _ _ => Thread.put_uid ..) _ _)

theorem later_startNext (s : State) (f : Family) (kind : Nat → ThreadKind) (core slot : Nat) (z : Stamp) :
    Later s (s.startNext f kind core slot z) := by
  refine ⟨Nat.le_succ _, fun t ht => ?_⟩
  obtain h | h := List.mem_append.mp ht
  · exact .inl ⟨t, h, rfl⟩
  · rw [List.mem_singleton.mp h, fill_uid]
    exact .inr le_rfl

theorem later_startMany (fam core : Nat) : ∀ (n : Nat) (s : State), Later s (s.startMany fam core n)
  | 0, s => .refl s
  | n + 1, s => by
    unfold State.startMany
    split
    · split
      · exact (later_startNext ..).trans (later_startMany fam core n _)
      · exact .refl s
    · exact .refl s

theorem later_placeFrom (fam : Nat) : ∀ (n : Nat) (s : State), Later s (s.placeFrom fam n)
  | 0, s => .refl s
  | n + 1, s => by
    unfold State.placeFrom
    split
    · exact .refl s
    · split
      · exact .refl s
      · split
        · exact .refl s
        · exact ((later_startMany ..).trans (later_updFamily ..)).trans (later_placeFrom fam n _)

theorem later_offerSlot (s : State) (p c n : Nat) (own : Option Nat) : Later s (s.offerSlot p c n own) := by
  unfold State.offerSlot
  split
  · exact later_startNext ..
  · dsimp only
    split
    · exact .refl s
    · exact (later_updFamily ..).trans (later_placeFrom ..)

/-! ### Inline runs, exits and breaks -/

theorem later_restoreFrame (s : State) (t : Thread) (fr : Nat) : Later s (s.restoreFrame t fr) := by
  unfold State.restoreFrame
  split
  · exact .refl s
  · refine .foldl (fun s n => (aside_homeRead ..).settles.later.trans (later_updThread _ _ fun t => ?_)) _ s
    unfold Thread.loadWord
    repeat' split
    all_goals rfl

/-- A family whose inline run is over. -/
def Family.unframed (f : Family) : Family := { f with runFrame := none }

/-- The creator in whose slot the run is over. -/
def Thread.unhosted (fam : Nat) (t : Thread) : Thread :=
  { t with run := t.run.behind fun r => if r == .hosting fam then .running else r }

/-- The creator's frame, read back where its slot still is its own. -/
def State.leaveFrame (s : State) (c : Thread) (fr : Option Nat) : State :=
  match fr with
  | some fr => if c.live then s.restoreFrame c fr else s
  | none => s

theorem later_leaveFrame (s : State) (c : Thread) (fr : Option Nat) : Later s (s.leaveFrame c fr) := by
  unfold State.leaveFrame
  split
  · exact .ite (later_restoreFrame ..) (.refl s)
  · exact .refl s

theorem later_inlineNext (s : State) (fam : Nat) (z : Stamp) : Later s (s.inlineNext fam z) := by
  unfold State.inlineNext
  split
  · exact .refl s
  · split
    · exact (settles_tryFinish ..).later
    · next c _ =>
      split
      · exact (later_startNext ..).trans (settles_keepRecord ..).later
      · next f _ _ _ _ =>
        have hover := ((later_leaveFrame s c f.runFrame).trans (later_updFamily _ fam Family.unframed)).trans
          (later_updThread _ c.uid (f := Thread.unhosted fam) fun _ => rfl)
        exact (Later.ite hover (hover.trans (later_offerSlot _ c.phys c.core c.slot none))).trans (settles_tryFinish ..).later

theorem later_breakAt (s : State) (fam m : Nat) : Later s (s.breakAt fam m) := by
  unfold State.breakAt
  split
  · exact .refl s
  · split
    · exact .refl s
    · dsimp only
      exact (((later_updFamily s fam _).trans (.foldl (fun s (t : Thread) => (settles_endMember s t.uid).later) _ _)).trans
        (settles_keepRecord ..).later).trans (.foldl (fun s (t : Thread) => later_offerSlot s t.phys t.core t.slot none) _ _)

theorem later_startExit (s : State) (t : Thread) (brk : Bool) : Later s (s.startExit t brk) := by
  unfold State.startExit
  dsimp only
  have h := later_updThread s t.uid (f := fun t => { t with
    run := t.run.behind fun _ => if brk then .breaking else .exiting, wait := none }) fun _ => rfl
  split
  · exact h.trans (later_breakAt ..)
  · exact h

end Sys2Proof.Machine
end

section
/-! SUPPORT. Forwards, kills and the ends of threads (R38, R75, R76, R265, R276, R278). -/

namespace Sys2Proof.Machine

/-! ## FORWARD_ARRIVAL (R75, R265) -/

/-- A thread's view of its d register i: FULL, with the value. -/
def Thread.hasD (i : Fin 4) (v : Word) (t : Thread) : Prop := t.isFull (.int (.d i)) = true ∧ t.int (.d i) = v

theorem hasD_received (i : Fin 4) (v : Word) (deps : List Nat) (t : Thread) : (t.received i v deps).hasD i v := by
  have hbit : Operand.bit (.int (.d i)) = some ⟨27 + i.val, by omega⟩ := rfl
  refine ⟨?_, ?_⟩
  · show (setBit t.full (27 + i.val) true).getLsbD (27 + i.val) = true
    rw [getLsbD_setBit _ _ _ (by omega), if_pos rfl]
  · show (t.ints.set (27 + i.val) ((v.setWidth 256).setWidth 64))[27 + i.val] = v
    simp

/-- The end of a wait keeps what the threads hold in their d registers. -/
theorem mem_endThreadWait {s : State} {u k : Nat} {a : BitVec 32} {z : Stamp} {x : Thread} (hx : x ∈ (s.endThreadWait u a k z).threads) :
    ∃ y ∈ s.threads, x.uid = y.uid ∧ ∀ i v, y.hasD i v → x.hasD i v := by
  unfold State.endThreadWait at hx
  split at hx
  · exact ⟨x, hx, rfl, fun _ _ => id⟩
  · next t _ =>
    rw [State.updThread_threads, (aside_endWait ..).threads] at hx
    obtain ⟨y, hy, rfl⟩ := List.mem_map.mp hx
    refine ⟨y, hy, ?_⟩
    split
    · exact ⟨rfl, fun _ _ => id⟩
    · exact ⟨rfl, fun _ _ => id⟩

@[simp] theorem writeBytes_threads (s : State) (l : Loc) (bs : List Byte) : (s.writeBytes l bs).threads = s.threads := rfl

@[simp] theorem keepFrame_threads (s : State) (u : Nat) : (s.keepFrame u).threads = s.threads := by
  unfold State.keepFrame
  split
  · split
    · rfl
    · exact writeBytes_threads ..
  · rfl

/-- The started member above the sender finds the value in its d register. -/
theorem sendForward_receiver {s : State} {fam m : Nat} {i : Fin 4} {v : Word} {z : Stamp} {f : Family} {t : Thread}
    (hf : s.family? fam = some f) (ht : s.threads.find? (fun x => x.member? == some (fam, m + 1) && x.live) = some t) :
    ∀ x ∈ (s.sendForward fam m i v z).threads, x.uid = t.uid → x.hasD i v := by
  have hgot : ∀ deps, ∀ y ∈ ((s.updFamily fam (Family.logged m i v)).updThread t.uid (Thread.received i v deps)).threads,
      y.uid = t.uid → y.hasD i v := by
    intro deps y hy huid
    obtain ⟨x, -, rfl⟩ := List.mem_map.mp hy
    by_cases hx : (x.uid == t.uid) = true
    · rw [if_pos hx]; exact hasD_received ..
    · rw [if_neg hx] at huid
      exact absurd (by simpa using huid) hx
  intro x hx huid
  obtain ⟨hnone, -⟩ | ⟨g, deps, -, ⟨t', ht', h⟩ | ⟨hnone, -⟩⟩ := sendForward_cases s fam m i v z
  · rw [hf] at hnone; cases hnone
  · obtain rfl := Option.some.inj (ht.symm.trans ht')
    obtain h | h := h <;> rw [h] at hx
    · obtain ⟨y, hy, hu, hd⟩ := mem_endThreadWait hx
      exact hd i v (hgot deps y hy (hu.symm.trans huid))
    · rw [keepFrame_threads] at hx
      exact hgot deps x hx huid
  · rw [ht] at hnone; cases hnone

/-- The home entry holds the value for the lowest unstarted member. -/
theorem sendForward_home {s : State} {fam m : Nat} {i : Fin 4} {v : Word} {z : Stamp} {f : Family} (hf : s.family? fam = some f)
    (hnone : s.threads.find? (fun x => x.member? == some (fam, m + 1) && x.live) = none) (hm : m + 1 = f.next)
    (hmore : f.more = true) : ∃ f', (s.sendForward fam m i v z).family? fam = some f' ∧ f'.held[i.val] = some v := by
  obtain ⟨hno, -⟩ | ⟨g, deps, hg, ⟨t, ht, -⟩ | ⟨-, h⟩⟩ := sendForward_cases s fam m i v z
  · rw [hf] at hno; cases hno
  · rw [hnone] at ht; cases ht
  · obtain rfl := Option.some.inj (hf.symm.trans hg)
    have huid : f.uid = fam := by simpa using List.find?_some hf
    rw [h, if_pos (by simp [hm, hmore])]
    refine ⟨Family.holding i v deps (Family.logged m i v f), ?_, by simp [Family.holding]⟩
    rw [family?_updFamily, family?_updFamily, hf]
    · simp [Family.logged, huid]
    · exact fun _ => rfl
    · exact fun _ => rfl

/-- A forward that nothing holds reaches its family. -/
theorem forwardArrival_arrives {s : State} {w : Fwd} {f : Family} (hw : s.fwds.find? (fun x => x.id == w.id) = some w)
    (hheld : s.fwdHeld w = false) (hf : s.family? w.fam = some f) (hphys : f.hostPhys < 256) :
    exec (.forwardArrival w.id) s =
      .next (({ s with fwds := s.fwds.filter (·.id != w.id) } : State).sendForward w.fam w.m w.reg w.value w.stamp) := by
  show execForwardArrival w.id s = _
  simp [execForwardArrival, hw, hheld, hf, hphys, State.arriveForward]

/-! ## FKILL_ARRIVAL (R276 to R278) -/

theorem fkillArrival_held {s : State} {k : Kill} {f : Family} (hk : s.kills.find? (fun x => x.id == k.id) = some k)
    (hf : s.family? k.fam = some f) (hphys : 256 ≤ f.hostPhys) : exec (.fkillArrival k.id) s = .next s := by
  show execFkillArrival k.id s = _
  simp [execFkillArrival, hk, hf, hphys]

/-- A kill that no saved cluster holds takes effect. -/
theorem fkillArrival_kills {s : State} {k : Kill} {f : Family} (hk : s.kills.find? (fun x => x.id == k.id) = some k)
    (hf : s.family? k.fam = some f) (hphys : f.hostPhys < 256) : exec (.fkillArrival k.id) s =
      .next (({ s with kills := s.kills.filter (·.id != k.id) } : State).killFamily k.tree (s.families.length + 1) k.fam) := by
  show execFkillArrival k.id s = _
  simp [execFkillArrival, hk, hf, hphys]

/-- No two threads have one uid. -/
def State.UidsDiffer (s : State) : Prop := ∀ x ∈ s.threads, ∀ y ∈ s.threads, x.uid = y.uid → x = y

theorem Settles.uidsDiffer {s s' : State} (h : Settles s s') (hd : s.UidsDiffer) : s'.UidsDiffer := by
  obtain ⟨f, hf, hkeep⟩ := h.threads
  intro x' hx' y' hy' hu
  rw [hf] at hx' hy'
  obtain ⟨x, hx, rfl⟩ := List.mem_map.mp hx'
  obtain ⟨y, hy, rfl⟩ := List.mem_map.mp hy'
  rw [hd x hx y hy ((hkeep x).1.symm.trans (hu.trans (hkeep y).1))]

/-- The threads of a uid have ended. -/
def State.Ended (s : State) (u : Nat) : Prop := ∀ x ∈ s.threads, x.uid = u → x.run = .ended

/-- What has ended stays so. -/
theorem Settles.ended {s s' : State} {u : Nat} (h : Settles s s') (he : s.Ended u) : s'.Ended u := by
  obtain ⟨f, hf, hkeep⟩ := h.threads
  intro x' hx' hu
  rw [hf] at hx'
  obtain ⟨x, hx, rfl⟩ := List.mem_map.mp hx'
  obtain ⟨huid, -, hrun⟩ := hkeep x
  exact hrun.elim (·.trans (he x hx (huid.symm.trans hu))) id

/-- A member that is ended has ended. -/
theorem ended_endMember {s : State} {u : Nat} (hd : s.UidsDiffer) : (s.endMember u).Ended u := by
  unfold State.endMember
  split
  · next hnone =>
    intro x hx hu
    exact absurd hu (by simpa using List.find?_eq_none.mp hnone x hx)
  · next t ht =>
    split
    · next hlive =>
      intro x hx hu
      rw [hd x hx t (thread?_mem ht) (hu.trans (thread?_uid ht).symm)]
      simpa [Thread.live] using hlive
    · intro x hx hu
      obtain ⟨y, -, rfl⟩ := List.mem_map.mp hx
      by_cases hy : (y.uid == u) = true
      · rw [if_pos hy]
      · rw [if_neg hy] at hu
        exact absurd (by simpa using hu) hy

/-- Every member in the list has ended. -/
theorem ended_foldl_endMember {ts : List Thread} {s : State} {t : Thread} (hd : s.UidsDiffer) (ht : t ∈ ts) :
    (ts.foldl (fun s t => s.endMember t.uid) s).Ended t.uid := by
  induction ts generalizing s with
  | nil => cases ht
  | cons a ts ih =>
    have hstep := settles_endMember s a.uid
    obtain rfl | h := List.mem_cons.mp ht
    · exact (Settles.foldl (fun s (t : Thread) => settles_endMember s t.uid) ts _).ended (ended_endMember hd)
    · exact ih (hstep.uidsDiffer hd) h

/-- The members of a family have ended. -/
def State.MembersEnded (s : State) (fam : Nat) : Prop := ∀ x ∈ s.threads, x.fam? = some fam → x.run = .ended

theorem fam?_of_kind {t t' : Thread} (h : t'.kind = t.kind) : t'.fam? = t.fam? := by
  unfold Thread.fam? Thread.member?; rw [h]

theorem Settles.membersEnded {s s' : State} {fam : Nat} (h : Settles s s') (he : s.MembersEnded fam) : s'.MembersEnded fam := by
  obtain ⟨f, hf, hkeep⟩ := h.threads
  intro x' hx' hfam
  rw [hf] at hx'
  obtain ⟨x, hx, rfl⟩ := List.mem_map.mp hx'
  obtain ⟨-, hkind, hrun⟩ := hkeep x
  exact hrun.elim (·.trans (he x hx ((fam?_of_kind hkind).symm.trans hfam))) id

/-- A kill ends every listed member of its family at once. -/
theorem strike_membersEnded {s : State} {fam : Nat} (hd : s.UidsDiffer) : (s.strike fam).MembersEnded fam := by
  intro x hx hfam
  obtain ⟨f, hf, hkeep⟩ := (settles_strike s fam).threads
  rw [hf] at hx
  obtain ⟨y, hy, rfl⟩ := List.mem_map.mp hx
  obtain ⟨huid, hkind, hrun⟩ := hkeep y
  by_cases hlive : y.live = true
  · have hmem : y ∈ (s.membersOf fam).filter (·.live) := by
      refine List.mem_filter.mpr ⟨List.mem_filter.mpr ⟨hy, ?_⟩, hlive⟩
      rw [← fam?_of_kind hkind, hfam]; exact BEq.rfl
    exact ended_foldl_endMember (s := s.updFamily fam Family.struck) hd hmem _ (hf ▸ List.mem_map_of_mem hy) huid
  · have hended : y.run = .ended := by simpa [Thread.live] using hlive
    exact hrun.elim (·.trans hended) id

/-- Every family of a uid is killed. -/
def State.Killed (s : State) (fam : Nat) : Prop := ∀ g ∈ s.families, g.uid = fam → g.killed = true

theorem Settles.killed {s s' : State} {fam : Nat} (h : Settles s s') (hk : s.Killed fam) : s'.Killed fam := by
  intro g' hg' hu
  obtain ⟨g, hg, huid, hkeep⟩ := h.families g' hg'
  exact hkeep (hk g hg (huid.symm.trans hu))

theorem strike_killed (s : State) (fam : Nat) : (s.strike fam).Killed fam := by
  refine (Settles.foldl (fun s (t : Thread) => settles_endMember s t.uid) _ _).killed fun g hg hu => ?_
  obtain ⟨x, -, rfl⟩ := List.mem_map.mp hg
  by_cases hx : (x.uid == fam) = true
  · rw [if_pos hx]; rfl
  · rw [if_neg hx] at hu
    exact absurd (by simpa using hu) hx

@[simp] theorem answerWaiters_families (s : State) (f : Family) (status : Nat) : (s.answerWaiters f status).families = s.families := by
  refine foldl_keeps State.families _ (fun s p => ?_) s _
  split
  · split <;> rfl
  · split <;> rfl
  · rfl

@[simp] theorem writeBytes_families (s : State) (l : Loc) (bs : List Byte) : (s.writeBytes l bs).families = s.families := rfl

@[simp] theorem keepRecord_families (s : State) (fam : Nat) : (s.keepRecord fam).families = s.families := by
  unfold State.keepRecord
  split
  · split
    · split
      · rfl
      · exact writeBytes_families ..
    · rfl
  · rfl

/-- A family that terminates has its status, wherever it is still listed. -/
theorem finishFamily_status {s : State} {fam : Nat} {f : Family} (status : Nat) (z : Option Stamp) (hf : s.family? fam = some f) :
    ∀ g ∈ (s.finishFamily fam status z).families, g.uid = fam → g.status = some status := by
  have hreplaced : ∀ g ∈ (s.updFamily fam fun _ => f.finished status z).families, g.uid = fam → g.status = some status := by
    intro g hg hu
    obtain ⟨x, -, rfl⟩ := List.mem_map.mp hg
    by_cases hx : (x.uid == fam) = true
    · rw [if_pos hx]; rfl
    · rw [if_neg hx] at hu
      exact absurd (by simpa using hu) hx
  intro g hg hu
  obtain h | h := finishFamily_cases status z hf <;> rw [h] at hg
  · exact hreplaced g (by simpa using hg) hu
  · exact hreplaced g (by simpa using List.mem_of_mem_filter hg) hu

/-- What a kill comes to for a family that it may end (R276, R278). -/
theorem killFamily_effect {s : State} {fam n : Nat} {f : Family} (tree : Bool) (hf : s.family? fam = some f)
    (hphys : f.hostPhys < 256) (hst : f.status = none) (hkilled : f.killed = false) (hd : s.UidsDiffer) :
    (f.started = true → s.breakFixed f = false → (s.killFamily tree (n + 1) fam).MembersEnded fam ∧
      (s.killFamily tree (n + 1) fam).Killed fam) ∧
    (f.started = true → s.breakFixed f = true → s.killFamily tree (n + 1) fam = s) ∧
    (f.started = false → ∀ g ∈ (s.killFamily tree (n + 1) fam).families, g.uid = fam → g.status = some 2) := by
  obtain ⟨hs, h⟩ | ⟨hs, ⟨hp, -⟩ | ⟨-, ⟨hfix, h⟩ | ⟨hfix, gs, h⟩⟩⟩ :=
    killFamily_cases s tree n fam hf (by simp [hst, hkilled])
  · refine ⟨fun he => absurd (hs.symm.trans he) (by decide), fun he => absurd (hs.symm.trans he) (by decide), fun _ => ?_⟩
    have hf' : (s.updFamily fam Family.neverStarted).family? fam = some (Family.neverStarted f) := by
      rw [family?_updFamily, hf]
      · simp [show f.uid = fam by simpa using List.find?_some hf]
      · exact fun _ => rfl
    rw [h]
    exact finishFamily_status 2 none hf'
  · omega
  · exact ⟨fun _ he => absurd (hfix.symm.trans he) (by decide), fun _ _ => h, fun he => absurd (hs.symm.trans he) (by decide)⟩
  · refine ⟨fun _ _ => ?_, fun _ he => absurd (hfix.symm.trans he) (by decide), fun he => absurd (hs.symm.trans he) (by decide)⟩
    have hrest := (Settles.foldl (fun s (g : Family) => settles_killFamily tree n s g.uid) gs (s.strike fam)).trans
      (settles_tryFinish _ fam none)
    rw [h]
    exact ⟨hrest.membersEnded (strike_membersEnded hd), hrest.killed (strike_killed s fam)⟩

/-! ## THREAD_TERMINATION (R76) -/

/-- A thread takes the steps of R76 that it may, and goes if nothing holds it. -/
theorem threadTermination_passes {s : State} {t t1 : Thread} (ht : s.thread? t.uid = some t)
    (ht1 : (s.pass t).thread? t.uid = some t1) : exec (.threadTermination t.uid) s = .next ((s.pass t).leave t1) := by
  show execThreadTermination t.uid s = _
  simp only [execThreadTermination, ht, ht1]

/-- A thread that is neither ended nor on its way out stays. -/
theorem leave_of_not_mayEnd {s : State} {t : Thread} (h : s.mayEnd t = false) : s.leave t = s := by
  simp [State.leave, h]

theorem pass_of_exiting {s : State} {t : Thread} (h : t.run = .exiting ∨ t.run = .breaking) :
    s.pass t = if s.drained t then s.beginPassing t else s := by
  obtain h | h := h <;> simp [State.pass, h]

/-- A thread whose accesses have been performed goes on to pass its values. -/
theorem beginPassing_run (s : State) (t : Thread) : ∀ x ∈ (s.beginPassing t).threads, x.uid = t.uid → x.run = .passing := by
  intro x hx hu
  obtain ⟨y, -, rfl⟩ := List.mem_map.mp hx
  by_cases hy : (y.uid == t.uid) = true
  · rw [if_pos hy]
  · rw [if_neg hy] at hu
    exact absurd (by simpa using hu) hy

/-! ### What a thread's release of its core leaves on its way -/

@[simp] theorem answerOwner_accs (s : State) (p c : Nat) : (s.answerOwner p c).accs = s.accs :=
  (foldl_keeps State.accs _ (fun _ _ => State.deliver_accs ..) _ _).trans (State.setCore_accs ..)

@[simp] theorem grantVown_accs (s : State) (p c : Nat) : (s.grantVown p c).accs = s.accs := by
  unfold State.grantVown; dsimp only
  split
  · rfl
  · rw [answerOwner_accs, State.setCore_accs]

@[simp] theorem unbind_accs (s : State) (t : Thread) (u : Fin 4) : (s.unbind t u).accs = s.accs := by
  unfold State.unbind State.discard State.countStream State.updStream; dsimp only
  split
  · rfl
  · simp

@[simp] theorem disown_accs (s : State) (t : Thread) : (s.disown t).accs = s.accs := by
  unfold State.disown
  split
  · rw [grantVown_accs, State.updCore_accs]
    exact foldl_keeps State.accs _ (fun s u => unbind_accs s t u) s _
  · rfl

/-- The AWAITs of a thread that passes its values are cancelled (R76 step 4). -/
theorem beginPassing_awaits (s : State) (t : Thread) : ∀ a ∈ (s.beginPassing t).accs, a.uid = some t.uid →
    ∀ c v d, a.op = .await c v d → a.cancelled = true := by
  intro a ha hu c v d hop
  have haccs : (s.beginPassing t).accs = (s.cancelWaiters t.uid false).accs := disown_accs ..
  rw [haccs] at ha
  obtain ⟨b, -, rfl⟩ := List.mem_map.mp ha
  split
  · rfl
  · next hmine =>
    rw [if_neg hmine] at hu hop
    refine absurd ?_ hmine
    simp [hu, Access.waiter, hop]

/-! ### The end of a thread -/

theorem startNext_groups (s : State) (f : Family) (kind : Nat → ThreadKind) (core slot : Nat) (z : Stamp) :
    (s.startNext f kind core slot z).groups = s.groups := rfl

theorem startMany_groups (fam core : Nat) : ∀ (n : Nat) (s : State), (s.startMany fam core n).groups = s.groups
  | 0, _ => rfl
  | n + 1, s => by
    unfold State.startMany
    split
    · split
      · rw [startMany_groups fam core n, startNext_groups]
      · rfl
    · rfl

theorem placeFrom_groups (fam : Nat) : ∀ (n : Nat) (s : State), (s.placeFrom fam n).groups = s.groups
  | 0, _ => rfl
  | n + 1, s => by
    unfold State.placeFrom
    split
    · rfl
    · split
      · rfl
      · split
        · rfl
        · rw [placeFrom_groups fam n, State.updFamily_groups, startMany_groups]

theorem offerSlot_groups (s : State) (p c n : Nat) (own : Option Nat) : (s.offerSlot p c n own).groups = s.groups := by
  unfold State.offerSlot
  split
  · rfl
  · dsimp only
    split
    · rfl
    · exact placeFrom_groups ..

theorem later_pass (s : State) (t : Thread) : Later s (s.pass t) := by
  unfold State.pass
  split
  · split
    · exact .refl s
    · exact later_startExit ..
  · split
    · exact ((((settles_cancelWaiters s t.uid false).trans (settles_dropWaits ..)).trans (settles_disown ..)).later).trans
        (later_updThread _ _ fun _ => rfl)
    · exact .refl s

theorem later_releaseClusters (s : State) : Later s s.releaseClusters := .of_eq rfl le_rfl

theorem later_updGroup (s : State) (u : Nat) (f : Group → Group) : Later s (s.updGroup u f) := .of_eq rfl le_rfl

/-- The state in which a thread that goes has left its place. -/
def State.withoutThread (s : State) (t : Thread) : State :=
  ((((s.cancelWaiters t.uid false).dropResults t.uid).disown t).dropThread t.uid).releaseFamilies t.uid

theorem withoutThread_threads (s : State) (t : Thread) : ∀ x ∈ (s.withoutThread t).threads, x.uid ≠ t.uid := by
  intro x hx
  simpa using (List.mem_filter.mp hx).2

theorem withoutThread_fresh (s : State) (t : Thread) : s.fresh ≤ (s.withoutThread t).fresh :=
  (((settles_cancelWaiters s t.uid false).trans (settles_dropResults ..)).trans (settles_disown ..)).fresh

/-- After its thread has gone, a family or group starts whom it will. -/
theorem later_finishThread (s : State) (t : Thread) : Later (s.withoutThread t) (s.finishThread t) := by
  unfold State.finishThread
  dsimp only
  split
  · exact (later_updGroup ..).trans (later_offerSlot ..)
  · next fam _ _ =>
    have hleft := later_updFamily (s.withoutThread t) fam fun f => { f with carry := f.carry ++ s.behind t }
    have hdone := (hleft.trans (Later.ite (c := t.live) (later_offerSlot _ t.phys t.core t.slot (some fam)) (.refl _))).trans
      (settles_tryFinish _ fam (some t.stamp)).later
    exact .ite (hdone.trans (later_releaseClusters _)) hdone
  · exact (later_updFamily ..).trans (later_inlineNext ..)
  · exact .refl _

/-- A root's end is recorded with its group. -/
theorem finishThread_root {s : State} {t : Thread} (h : t.kind = .root) : ∀ g, (s.finishThread t).group? t.group = some g →
    g.rootDone = true := by
  have hgroups : (s.finishThread t).groups = ((s.withoutThread t).updGroup t.group fun g =>
      { g with rootDone := true, stamp := t.stamp }).groups := by
    simp only [State.finishThread, h, offerSlot_groups]
    rfl
  intro g hg
  have hmem := List.mem_of_find?_eq_some hg
  have huid : g.uid = t.group := by simpa using List.find?_some hg
  rw [hgroups] at hmem
  obtain ⟨x, -, rfl⟩ := List.mem_map.mp hmem
  by_cases hx : (x.uid == t.group) = true
  · rw [if_pos hx]
  · rw [if_neg hx] at huid
    exact absurd (by simpa using huid) hx

/-- A thread that may end goes once its values have been passed on. -/
theorem leave_cases {s : State} {t : Thread} (h : s.mayEnd t = true) : ∃ s1, Settles s s1 ∧ s.leave t = s1.finishThread t := by
  unfold State.leave
  rw [h]
  simp only [Bool.not_true, Bool.false_eq_true, if_false]
  split
  · exact ⟨s, .refl s, rfl⟩
  · exact ⟨s, .refl s, rfl⟩
  · exact ⟨_, .foldl (fun _ _ => settles_sendForward ..) _ s, rfl⟩

/-- A thread that may end is gone. -/
theorem leave_gone {s : State} {t : Thread} (h : s.mayEnd t = true) (hu : t.uid < s.fresh) : (s.leave t).thread? t.uid = none := by
  obtain ⟨s1, hsettles, he⟩ := leave_cases h
  rw [he]
  exact (later_finishThread s1 t).thread?_none (withoutThread_threads s1 t)
    (hu.trans_le (hsettles.fresh.trans (withoutThread_fresh s1 t)))

/-- Settles O40: a forward by `sendForward_cases`, a kill by `killFamily_cases` and what `Settles` keeps, and the end of a thread
by `Later`: who starts in its place has an identifier of its own. -/
theorem forwardsKillsAndEnds : Obligations.ForwardsKillsAndEnds := by
  unfold Obligations.ForwardsKillsAndEnds
  refine fun s => ⟨fun w f hw hheld hf hphys => ⟨_, forwardArrival_arrives hw hheld hf hphys, fun t ht => ?_, fun hnone hm hmore => ?_⟩,
    fun k f hk hf => ⟨fkillArrival_held hk hf, fun hphys hst hkilled hd => ?_⟩, fun t ht hu => ⟨fun hrun hdr => ?_, fun hrun hdr => ?_,
    fun t1 ht1 => ⟨fun hmay => ?_, fun hmay => ?_⟩⟩⟩
  · exact sendForward_receiver (s := { s with fwds := s.fwds.filter (·.id != w.id) }) hf ht
  · refine sendForward_home (s := { s with fwds := s.fwds.filter (·.id != w.id) }) hf ?_ hm hmore
    refine List.find?_eq_none.mpr fun x hx => ?_
    intro h
    simp only [Bool.and_eq_true, beq_iff_eq] at h
    exact absurd (hnone x hx h.1) (by simp [h.2])
  · exact ⟨_, fkillArrival_kills hk hf hphys,
      killFamily_effect (s := { s with kills := s.kills.filter (·.id != k.id) }) k.tree hf hphys hst hkilled hd⟩
  · have hpass : s.pass t = s := by rw [pass_of_exiting hrun, hdr]; rfl
    have hmay : s.mayEnd t = false := by obtain h | h := hrun <;> simp [State.mayEnd, h]
    rw [threadTermination_passes ht (by rw [hpass]; exact ht), hpass, leave_of_not_mayEnd hmay]
  · rw [pass_of_exiting hrun, hdr]
    exact ⟨beginPassing_run s t, beginPassing_awaits s t⟩
  · rw [threadTermination_passes ht ht1, leave_of_not_mayEnd hmay]
  · have huid := thread?_uid ht1
    have hfresh : t1.uid < (s.pass t).fresh := huid ▸ hu.trans_le (later_pass s t).fresh
    refine ⟨_, threadTermination_passes ht ht1, huid ▸ leave_gone hmay hfresh, fun hkind => ?_⟩
    obtain ⟨s1, -, he⟩ := leave_cases hmay
    rw [he]
    exact finishThread_root hkind

end Sys2Proof.Machine
end

section
/-! SUPPORT. Words of instructions: the fields of each layout, what `decode` answers on what `encode` writes, and the spec's own
worked words (R22 to R30, R33, R46 to R52). -/

namespace Sys2Proof

/-! ## Field codes -/

@[simp] theorem IReg.ofCode_code (r : IReg) : IReg.ofCode r.code = r := by
  cases r with
  | zero => rfl
  | l i => revert i; decide
  | s i => revert i; decide
  | d i => revert i; decide
  | g i => revert i; decide

@[simp] theorem fin1_code1 (x : Fin 2) : fin1 (code1 x) = x := by revert x; decide
@[simp] theorem fin2_code2 (x : Fin 4) : fin2 (code2 x) = x := by revert x; decide
@[simp] theorem fin3_code3 (x : Fin 8) : fin3 (code3 x) = x := by revert x; decide
@[simp] theorem fin4_code4 (x : Fin 16) : fin4 (code4 x) = x := by revert x; decide
@[simp] theorem Cond.ofCode_code (c : Cond) : Cond.ofCode c.code = some c := by cases c <;> rfl
@[simp] theorem FCond.ofCode_code (c : FCond) : FCond.ofCode c.code = some c := by cases c <;> rfl
@[simp] theorem ApClass.ofCode_code (c : ApClass) : ApClass.ofCode c.code = some c := by cases c <;> rfl
@[simp] theorem AwCond.ofCode_code (c : AwCond) : AwCond.ofCode c.code = c := by cases c <;> rfl
@[simp] theorem Order.ofCode_code (o : Order) : Order.ofCode o.code = o := by cases o <;> rfl
@[simp] theorem Scope.ofCode_code (c : Scope) : Scope.ofCode c.code = c := by cases c <;> rfl
@[simp] theorem Fmt.ofCode_code (f : Fmt) : Fmt.ofCode f.code = f := by cases f <;> rfl
@[simp] theorem GridSel.ofCode_code (s : GridSel) : GridSel.ofCode s.code = some s := by cases s <;> rfl
@[simp] theorem CvtMode.ofCode2_code2 (m : CvtMode) : CvtMode.ofCode2 m.code2 = m := by cases m <;> rfl
@[simp] theorem CvtMode.ofCode3_code3 (m : CvtMode) : CvtMode.ofCode3 m.code3 = some m := by cases m <;> rfl
theorem SysReg.ofCode_code (n : SysReg) : SysReg.ofCode n.code = some n := by
  cases n with
  | frame n => revert n; decide
  | _ => rfl

/-! ## Fields of a word (R25) -/

/-- A field that lies above the last `n` bits. -/
theorem bits_append_high {m n lo k : Nat} (x : BitVec m) (y : BitVec n) (h : n ≤ lo) :
    bits (no_index (x ++ y)) lo k = bits x (lo - n) k := BitVec.extractLsb'_append_eq_of_le h

/-- A field that lies within the last `n` bits. -/
theorem bits_append_low {m n lo k : Nat} (x : BitVec m) (y : BitVec n) (h : lo + k ≤ n) :
    bits (no_index (x ++ y)) lo k = bits y lo k := BitVec.extractLsb'_append_eq_of_add_le h

section
variable (g : Guard) (m : BitVec 7)

theorem packRRR_fields (func rb ra rd : BitVec 5) :
    bits (packRRR func rb ra rd g m) 27 5 = func ∧
    bits (packRRR func rb ra rd g m) 22 5 = rb ∧
    bits (packRRR func rb ra rd g m) 17 5 = ra ∧
    bits (packRRR func rb ra rd g m) 12 5 = rd ∧
    bits (packRRR func rb ra rd g m) 1 7 = m := by
  simp [packRRR, bits_append_high, bits_append_low]

theorem packRRI_fields (imm : BitVec 10) (ra rd : BitVec 5) :
    bits (packRRI imm ra rd g m) 22 10 = imm ∧
    bits (packRRI imm ra rd g m) 17 5 = ra ∧
    bits (packRRI imm ra rd g m) 12 5 = rd ∧
    bits (packRRI imm ra rd g m) 1 7 = m := by
  simp [packRRI, bits_append_high, bits_append_low]

theorem packRI_fields (imm : BitVec 15) (rd : BitVec 5) :
    bits (packRI imm rd g m) 17 15 = imm ∧
    bits (packRI imm rd g m) 12 5 = rd ∧
    bits (packRI imm rd g m) 1 7 = m := by
  simp [packRI, bits_append_high, bits_append_low]

theorem packBR_fields (off : BitVec 20) :
    bits (packBR off g m) 12 20 = off ∧
    bits (packBR off g m) 1 7 = m := by
  simp [packBR, bits_append_high, bits_append_low]

theorem packW_fields (func : BitVec 7) (fmt : BitVec 4) (wb wa wd : BitVec 3) :
    bits (packW func fmt wb wa wd g m) 25 7 = func ∧
    bits (packW func fmt wb wa wd g m) 21 4 = fmt ∧
    bits (packW func fmt wb wa wd g m) 18 3 = wb ∧
    bits (packW func fmt wb wa wd g m) 15 3 = wa ∧
    bits (packW func fmt wb wa wd g m) 12 3 = wd ∧
    bits (packW func fmt wb wa wd g m) 1 7 = m := by
  simp [packW, bits_append_high, bits_append_low]

theorem packPC_fields (cond : BitVec 4) (rb ra : BitVec 5) (pq pd : BitVec 3) :
    bits (packPC cond rb ra pq pd g m) 28 4 = cond ∧
    bits (packPC cond rb ra pq pd g m) 23 5 = rb ∧
    bits (packPC cond rb ra pq pd g m) 18 5 = ra ∧
    bits (packPC cond rb ra pq pd g m) 15 3 = pq ∧
    bits (packPC cond rb ra pq pd g m) 12 3 = pd ∧
    bits (packPC cond rb ra pq pd g m) 1 7 = m := by
  simp [packPC, bits_append_high, bits_append_low]

end

/-! ## The decoder of a major opcode, by layout (R25, R46) -/

/-- The decoders of the majors in layout RRR. -/
def rrrMajor (m : BitVec 7) : Option (BitVec 5 → BitVec 5 → BitVec 5 → BitVec 5 → Except Illegal Instr) :=
  match m.toNat with
  | 0x00 => some dec00 | 0x01 => some dec01 | 0x02 => some dec02 | 0x03 => some dec03 | 0x32 => some dec32
  | 0x33 => some dec33 | 0x46 => some dec46 | 0x48 => some dec48 | 0x49 => some dec49 | 0x4A => some dec4A
  | 0x4C => some dec4C | 0x4D => some dec4D | 0x50 => some (decFp .d) | 0x51 => some (decFp .s)
  | 0x52 => some (decFp .h) | 0x53 => some (decFp .bf) | 0x56 => some dec56 | 0x66 => some dec66 | 0x70 => some dec70
  | 0x74 => some dec74 | 0x78 => some dec78 | 0x7A => some dec7A | 0x7E => some dec7E | _ => none

theorem decode32Raw_packRRR {m : BitVec 7} {f : BitVec 5 → BitVec 5 → BitVec 5 → BitVec 5 → Except Illegal Instr}
    (h : rrrMajor m = some f) (g : Guard) (func rb ra rd : BitVec 5) :
    decode32Raw (packRRR func rb ra rd g m) = f func rb ra rd := by
  unfold rrrMajor at h
  split at h
  case h_24 => cases h
  all_goals
    cases h
    next hm => simp [decode32Raw, packRRR_fields, hm]

/-- The decoders of the majors in layout RRI and MEM. -/
def rriMajor (m : BitVec 7) : Option (BitVec 10 → BitVec 5 → BitVec 5 → Except Illegal Instr) :=
  match m.toNat with
  | 0x04 => some dec04 | 0x05 => some dec05 | 0x06 => some dec06 | 0x07 => some dec07 | 0x08 => some dec08
  | 0x09 => some dec09 | 0x0A => some dec0A | 0x0B => some dec0B | 0x0C => some dec0C | 0x0D => some dec0D
  | 0x0E => some dec0E | 0x1C => some dec1C | 0x2A => some dec2A | 0x2B => some dec2B | 0x2C => some dec2C
  | 0x38 => some dec38 | 0x39 => some dec39 | 0x3A => some dec3A | 0x3B => some dec3B | 0x3C => some dec3C
  | 0x3D => some dec3D | 0x3E => some dec3E | 0x3F => some dec3F | 0x40 => some dec40 | 0x41 => some dec41
  | 0x42 => some dec42 | 0x43 => some dec43 | 0x44 => some dec44 | 0x45 => some dec45 | 0x54 => some dec54
  | 0x7C => some dec7C | 0x7D => some dec7D | _ => none

theorem decode32Raw_packRRI {m : BitVec 7} {f : BitVec 10 → BitVec 5 → BitVec 5 → Except Illegal Instr}
    (h : rriMajor m = some f) (g : Guard) (imm : BitVec 10) (ra rd : BitVec 5) :
    decode32Raw (packRRI imm ra rd g m) = f imm ra rd := by
  unfold rriMajor at h
  split at h
  case h_33 => cases h
  all_goals
    cases h
    next hm => simp [decode32Raw, packRRI_fields, hm]

/-- The decoders of the majors in layout RI. -/
def riMajor (m : BitVec 7) : Option (BitVec 15 → BitVec 5 → Except Illegal Instr) :=
  match m.toNat with
  | 0x10 => some dec10 | 0x11 => some dec11 | 0x29 => some dec29 | 0x30 => some dec30 | 0x31 => some dec31
  | 0x71 => some dec71 | 0x79 => some dec79 | _ => none

theorem decode32Raw_packRI {m : BitVec 7} {f : BitVec 15 → BitVec 5 → Except Illegal Instr}
    (h : riMajor m = some f) (g : Guard) (imm : BitVec 15) (rd : BitVec 5) :
    decode32Raw (packRI imm rd g m) = f imm rd := by
  unfold riMajor at h
  split at h
  case h_8 => cases h
  all_goals
    cases h
    next hm => simp [decode32Raw, packRI_fields, hm]

/-- The decoders of the majors in layout W. -/
def wMajor (m : BitVec 7) : Option (BitVec 7 → BitVec 4 → BitVec 3 → BitVec 3 → BitVec 3 → Except Illegal Instr) :=
  match m.toNat with
  | 0x60 => some dec60 | 0x61 => some dec61 | 0x62 => some dec62 | 0x63 => some dec63 | 0x64 => some dec64
  | 0x65 => some dec65 | _ => none

theorem decode32Raw_packW {m : BitVec 7} {f : BitVec 7 → BitVec 4 → BitVec 3 → BitVec 3 → BitVec 3 → Except Illegal Instr}
    (h : wMajor m = some f) (g : Guard) (func : BitVec 7) (fmt : BitVec 4) (wb wa wd : BitVec 3) :
    decode32Raw (packW func fmt wb wa wd g m) = f func fmt wb wa wd := by
  unfold wMajor at h
  split at h
  case h_7 => cases h
  all_goals
    cases h
    next hm => simp [decode32Raw, packW_fields, hm]

/-- The decoders of the majors in layout PC. -/
def pcMajor (m : BitVec 7) : Option (BitVec 4 → BitVec 5 → BitVec 5 → BitVec 3 → BitVec 3 → Except Illegal Instr) :=
  match m.toNat with
  | 0x20 => some dec20 | 0x21 => some dec21 | 0x22 => some dec22 | 0x23 => some dec23 | 0x24 => some dec24
  | 0x25 => some dec25 | 0x26 => some dec26 | 0x27 => some dec27 | 0x4B => some dec4B | _ => none

theorem decode32Raw_packPC {m : BitVec 7} {f : BitVec 4 → BitVec 5 → BitVec 5 → BitVec 3 → BitVec 3 → Except Illegal Instr}
    (h : pcMajor m = some f) (g : Guard) (cond : BitVec 4) (rb ra : BitVec 5) (pq pd : BitVec 3) :
    decode32Raw (packPC cond rb ra pq pd g m) = f cond rb ra pq pd := by
  unfold pcMajor at h
  split at h
  case h_10 => cases h
  all_goals
    cases h
    next hm => simp [decode32Raw, packPC_fields, hm]

/-! ## The words of instructions (R25, R47) -/

theorem decode32Raw_encode32 {g : Guard} {i : Instr} {w : BitVec 32} (hi : i.wf = true) (h : encode32 g i = some w) :
    decode32Raw w = .ok i := by
  cases i
  -- RRR: three integer registers
  case add d a b | sub d a b | and d a b | or d a b | xor d a b | andn d a b | orn d a b | xnor d a b | sll d a b
    | srl d a b | sra d a b | ror d a b | min d a b | max d a b | minu d a b | maxu d a b | adds d a b | subs d a b
    | addsu d a b | subsu d a b | mul d a b | mulh d a b | mulhu d a b | mulhsu d a b | div d a b | divu d a b
    | rem d a b | remu d a b | bfx d a b | bfxu d a b | bfi d a b | ldfe d a b | ldff d a b | stfe d a b =>
    cases h
    rw [decode32Raw_packRRR rfl]
    simp [dec00, dec01, dec02, dec46]
  -- RRR with must-be-zero fields
  case clz d a | ctz d a | popc d a | brev d a | bswap d a | sxb d a | sxh d a | sxw d a | rdpw d | wrpw a | falloc d
    | fsync d a | frel a | tix d | fkill a | fkillTree a | fstat d a | detach a | fplace a b | exit | brk | yield
    | feinitE a b | feinitF a b | fenceCore | fenceCl | fenceDev | fenceSys | sumaddS a b | sumaddBf a b
    | sumaddH a b | sumoff d a | rdfp d | wrfp a | clrflg | vown d | vdisown | mfmt a | munf | mwait d | tagpub a
    | tagwait d a | tagq d a | retain a b | take d a | takeArm a | gridParam d a | eret | halt | bkpt | mark a
    | rdcyc d =>
    cases h
    rw [decode32Raw_packRRR rfl]
    simp [dec02, dec03, dec32, dec33, dec46, dec4C, dec4D, dec56, dec70, dec74, dec7A, dec7E, req]
  -- RRR with a field of fewer than five bits
  case movk k a | rdk d k | scfg n | sbind m n | sunbind n | ssync n | mma n a b | mz n | mst n a b | cpgIn n a b
    | cpgOut n a b | send n a b | cpfarIn n a b | cpfarOut n a b | coll n a b =>
    cases h
    rw [decode32Raw_packRRR rfl]
    simp [dec03, dec70, dec74, dec78, req, bits_append_high, bits_append_low]
  -- RRR whose major holds the format (R130)
  case fadd f d a b | fsub f d a b | fmul f d a b | fdiv f d a b | fmin f d a b | fmax f d a b | fsqrt f d a
    | fabs f d a | fneg f d a | fma f d a b | fclass f d a | frcp f d a | frsq f d a | fexp2 f d a | flog2 f d a
    | fsin f d a | fcos f d a | ftanh f d a =>
    cases f <;> cases h
    all_goals rw [decode32Raw_packRRR rfl]
    all_goals simp [decFp, req]
  -- RRR whose function holds the width
  case aadd d a b x | aand d a b x | aor d a b x | axor d a b x | amin d a b x | amax d a b x | aminu d a b x
    | amaxu d a b x | axchg d a b x | acas d a b x | afadd d a b x | redAdd a b x | redAnd a b x | redOr a b x
    | redXor a b x | redMin a b x | redMax a b x | redMinu a b x | redMaxu a b x | redfadd a b x =>
    cases x <;> cases h
    all_goals rw [decode32Raw_packRRR rfl]
    all_goals simp [dec48, dec49, req, AWidth.code]
  case await d a b c x =>
    cases c <;> cases x <;> cases h
    all_goals rw [decode32Raw_packRRR rfl]
    all_goals simp [dec4A, AWidth.code, AwCond.code]
  -- RRR whose function holds an index
  case fputD a b i | fputG a b i | fget d a i =>
    fin_cases i <;> cases h
    all_goals rw [decode32Raw_packRRR rfl]
    all_goals simp [dec32, req, code2, code3]
  case vget d a b s | vput d a b s | vbcast d a s =>
    cases s <;> cases h
    all_goals rw [decode32Raw_packRRR rfl]
    all_goals simp [dec66, req, LaneW.code, bits_append_high, bits_append_low]
  case grid d s =>
    cases s <;> cases h
    all_goals rw [decode32Raw_packRRR rfl]
    all_goals simp [dec7A, need, GridSel.code, GridSel.ofCode]
  -- RRI and MEM
  case addImm d a i | andImm d a i | orImm d a i | xorImm d a i | sllImm d a i | srlImm d a i | sraImm d a i
    | rorImm d a i | mulImm d a i | minImm d a i | maxImm d a i | bri a i | callr d a i | ret a | ldBs d b o
    | ldBz d b o | ldHs d b o | ldHz d b o | ldWs d b o | ldWz d b o | ldD d b o | ldw d b o | stB d b o | stH d b o
    | stW d b o | stD d b o | stw d b o | ldk k b o | cvtaCl d a | cvtaSp d a | cvt d a m f t | sysr d n =>
    cases h
    rw [decode32Raw_packRRI rfl]
    simp [dec04, dec05, dec06, dec07, dec08, dec09, dec0A, dec0B, dec0C, dec0D, dec0E, dec1C, dec2A,
      dec2B, dec2C, dec38, dec39, dec3A, dec3B, dec3C, dec3D, dec3E, dec3F, dec40, dec41, dec42, dec43, dec44,
      dec45, dec54, dec7C, req, need, SysReg.ofCode_code, bits_append_high, bits_append_low]
  case syswTlbShoot a | syswCensusCtl a | syswSeqState a | syswSumStatus a =>
    cases h
    rw [decode32Raw_packRRI rfl]
    simp [dec7D, req, need, SysReg.ofCode]
  case syswFrameWindow n a =>
    cases h
    rw [decode32Raw_packRRI rfl]
    simp [dec7D, req, need, SysReg.ofCode_code]
  case sysw a n =>
    cases h
    rw [decode32Raw_packRRI rfl]
    cases n <;> simp [dec7D, req, need, SysReg.ofCode_code, Instr.wf, Instr.check, Instr.own, Instr.dst?] at hi ⊢
  -- RI
  case li d i | lis d i | call d i | create d i | fgo a i | vloop a n | waitk m =>
    cases h
    rw [decode32Raw_packRI rfl]
    simp [dec10, dec11, dec29, dec30, dec31, dec71, dec79, req, bits_append_high, bits_append_low]
  -- W
  case vadd d a b t | vsub d a b t | vmul d a b t | vfma d a b t | vmin d a b t | vmax d a b t | vadds d a b t
    | vsubs d a b t | vand d a b t | vor d a b t | vxor d a b t | vsll d a b t | vsrl d a b t | vsra d a b t
    | vdiv d a b t | vsqrt d a t | vabs d a t | vneg d a t | vmulh d a b t | vcmpEq d a b t | vcmpNe d a b t
    | vcmpLt d a b t | vcmpLe d a b t | vcmpUn d a b t | vsel d a b t | vperm d a b t | vzipl d a b t | vziph d a b t
    | vunzipl d a b t | vunziph d a b t | vredadd d a t | vredmin d a t | vredmax d a t | vredand d a t
    | vredor d a t | vredxor d a t | vscanAddInc d a b t | vscanAddExc d a b t | vscanMinInc d a b t
    | vscanMinExc d a b t | vscanMaxInc d a b t | vscanMaxExc d a b t | vcvt d a q t m f =>
    cases h
    rw [decode32Raw_packW rfl]
    simp [dec60, dec61, dec62, dec63, dec64, dec65, req, need, bits_append_high, bits_append_low]
  -- PC
  case cmp p q a b c | cmpi p q a i c | fcmpD p q a b c | fcmpS p q a b c | fcmpH p q a b c | fcmpBf p q a b c
    | isap p q a c | plog p q a b f | sumon p q a =>
    cases h
    rw [decode32Raw_packPC rfl]
    simp [dec20, dec21, dec22, dec23, dec24, dec25, dec26, dec27, dec4B, req, need, bits_append_high,
      bits_append_low]
  -- BR
  case b o =>
    cases h
    simp [decode32Raw, packBR_fields, dec28]
  -- the rows that are no 32-bit word
  all_goals cases h

/-- A 32-bit instruction's word ends in its guard, its major opcode and the marker (R24, R25). -/
theorem encode32_tail {g : Guard} {i : Instr} {w : BitVec 32} (h : encode32 g i = some w) :
    ∃ (x : BitVec 20) (m : BitVec 7), w = x ++ g.code ++ m ++ 1#1 := by
  cases i <;> cases h <;> exact ⟨_, _, rfl⟩

theorem Guard.ofCode_code (g : Guard) : Guard.ofCode g.code = g := by
  obtain ⟨neg, p⟩ := g
  cases neg <;> simp [Guard.ofCode, Guard.code, bits_append_high, bits_append_low]

theorem guard32_encode32 {g : Guard} {i : Instr} {w : BitVec 32} (h : encode32 g i = some w) : guard32 w = g := by
  obtain ⟨x, m, rfl⟩ := encode32_tail h
  simp [guard32, bits_append_high, bits_append_low, Guard.ofCode_code]

theorem marker_encode32 {g : Guard} {i : Instr} {w : BitVec 32} (h : encode32 g i = some w) : bits w 0 1 = 1#1 := by
  obtain ⟨x, m, rfl⟩ := encode32_tail h
  exact bits_append_low (x ++ g.code ++ m) 1#1 (by decide)

/-- A compact instruction's halfword decodes to it, and its marker is 0 (R29, R49). -/
theorem decode16Raw_encode16 {i : Instr} {w : BitVec 16} (h : encode16 i = some w) :
    decode16Raw w = .ok i ∧ bits w 0 1 = 0#1 := by
  cases i
  case ord o c | mov a d | movi n d | trap c =>
    cases h
    constructor <;> simp [decode16Raw, req, bits_append_high, bits_append_low]
  case nop =>
    cases h
    decide
  all_goals cases h

theorem checked_ok {g : Guard} {i : Instr} (hg : g.ok = true) (hi : i.wf = true) : checked g (.ok i) = .ok i := by
  have hcheck : i.check = none := by simpa [Instr.wf] using hi
  simp [checked, hg, hcheck]

/-! ## Bytes (R2, R22) -/

theorem bits_join {w n m lo : Nat} (x : BitVec w) : bits x (lo + n) m ++ bits x lo n = bits x lo (m + n) := by
  ext i hi
  simp only [BitVec.getElem_append, BitVec.getElem_extractLsb']
  grind

theorem half_bytes16 (w : BitVec 16) : half (bits w 0 8) (bits w 8 8) = w :=
  (bits_join (lo := 0) (n := 8) (m := 8) w).trans BitVec.extractLsb'_eq_self

theorem half_bytes32 (w : BitVec 32) : half (bits w 16 8) (bits w 24 8) ++ half (bits w 0 8) (bits w 8 8) = w := by
  have hlo : half (bits w 0 8) (bits w 8 8) = bits w 0 16 := bits_join (lo := 0) (n := 8) (m := 8) w
  have hhi : half (bits w 16 8) (bits w 24 8) = bits w 16 16 := bits_join (lo := 16) (n := 8) (m := 8) w
  rw [hlo, hhi]
  exact (bits_join (lo := 0) (n := 16) (m := 16) w).trans BitVec.extractLsb'_eq_self

/-- The marker is bit 0 of the first byte. -/
theorem marker_firstByte {n : Nat} (w : BitVec n) : (bits w 0 8).getLsbD 0 = (bits w 0 1).getLsbD 0 := by simp

theorem decode_bytes32 {w : BitVec 32} {i : Instr} (hm : bits w 0 1 = 1#1) (hd : decode32 w = .ok i) (rest : List Byte) :
    decode (bytes32 w ++ rest) = .ok (guard32 w, i, rest) := by
  have hmark : (bits w 0 8).getLsbD 0 = true := by rw [marker_firstByte, hm]; rfl
  simp only [bytes32, List.cons_append, List.nil_append, decode, hmark, if_true, half_bytes32, hd]

theorem decode_bytes16 {w : BitVec 16} {i : Instr} (hm : bits w 0 1 = 0#1) (hd : decode16 w = .ok i) (rest : List Byte) :
    decode (bytes16 w ++ rest) = .ok (Guard.always, i, rest) := by
  have hmark : (bits w 0 8).getLsbD 0 = false := by rw [marker_firstByte, hm]; rfl
  simp only [bytes16, List.cons_append, List.nil_append, decode, hmark, half_bytes16, hd, Bool.false_eq_true, if_false]

/-- Settles O59: the word of an instruction has the fields that the decoder of its major reads (`decode32Raw_encode32`,
`decode16Raw_encode16`), ends in its guard and marker (`encode32_tail`), and its bytes join to it again. -/
theorem encodeDecodeRoundTrip : Obligations.EncodeDecodeRoundTrip := by
  intro g i rest hg hi he
  unfold encode at he ⊢
  cases h : encode32 g i with
  | some w =>
    have hd : decode32 w = .ok i := by
      rw [decode32, decode32Raw_encode32 hi h, guard32_encode32 h, checked_ok hg hi]
    simp only [decode_bytes32 (marker_encode32 h) hd, guard32_encode32 h]
  | none =>
    cases h' : encode16 i with
    | none => simp only [h, h', ne_eq, not_true_eq_false] at he
    | some w =>
      simp only [h, h'] at he ⊢
      split at he
      case isFalse => exact absurd rfl he
      case isTrue hg' =>
        obtain ⟨hraw, hm⟩ := decode16Raw_encode16 h'
        subst hg'
        have hd : decode16 w = .ok i := by rw [decode16, hraw, checked_ok hg hi]
        simp only [if_true, decode_bytes16 hm hd]

theorem decode_of_encode_always {i : Instr} {bs : List Byte} (hb : encode Guard.always i = bs) (hne : bs ≠ [])
    (hi : i.wf = true) : decode bs = .ok (Guard.always, i, []) := by
  subst hb
  simpa using encodeDecodeRoundTrip Guard.always i [] rfl hi hne

/-- Settles O60: each word is the one that `encode` writes for its instruction, which the round trip decodes. -/
theorem wordSamples : Obligations.WordSamples := by
  unfold Obligations.WordSamples
  and_intros
  all_goals exact decode_of_encode_always rfl (by decide) rfl

end Sys2Proof
end

section
/-! SUPPORT. The checks of R42: what the verdict is where one of them stops an instruction. -/

namespace Sys2Proof.Machine

section
variable {s : State} {t : Thread} {p : Port} {i : Instr}

/-- An instruction that a thread issues, at a port with a thread, is one attempt of it. -/
theorem exec_eq_attemptAt (hi : ThreadInstr i) (ho : ∀ o c, i ≠ .ord o c) (hp : s.port = some p)
    (ht : s.thread? p.uid = some t) : ∃ body, exec i s = .next (s.attemptAt t p i body) := by
  obtain ⟨body, he⟩ := exec_eq_attempt hi ho s
  exact ⟨body, by rw [he, attempt, hp]; dsimp only; rw [ht]⟩

theorem verdict_illegal (h : illegalAt t p i = true) : s.verdict t p i = .trap .illegal := by
  simp [State.verdict, h]

theorem verdict_window (hill : illegalAt t p i = false) (h : ∃ o ∈ s.names t i, inWindow t.window o = false) :
    s.verdict t p i = .trap .window := by
  have hall : (s.names t i).all (inWindow t.window) = false := by simpa using h
  simp [State.verdict, hill, hall]

theorem verdict_breakpoint {e : Nat} (hill : illegalAt t p i = false) (hw : ∀ o ∈ s.names t i, inWindow t.window o = true)
    (hseq : p.seqr = false) (hskip : t.bpSkip ≠ some t.pc) (hb : s.breakpoint t = some e) :
    s.verdict t p i = .trap ⟨0x12, 0, BitVec.ofNat 64 e, none, none, none⟩ := by
  have hall : (s.names t i).all (inWindow t.window) = true := List.all_eq_true.mpr hw
  simp [State.verdict, hill, hall, hseq, hskip, hb]

/-- Where the checks before the guard pass, the guard, the destinations and the sources decide in this order (R42). -/
theorem verdict_of_reachesGuard (h : ReachesGuard s t p i) :
    s.verdict t p i =
      if !t.isFull (.pred p.guard.p) then .wait (.operand (.pred p.guard.p))
      else if t.pred p.guard.p == p.guard.neg then .skip
      else
        match (regsOf i).dsts.find? (s.pending t) with
        | some o => .wait (.operand o)
        | none =>
          match (s.srcsOf t i).find? (s.empty t) with
          | some o => .wait (.operand o)
          | none =>
            match s.holdOf t p i with
            | some w => .wait w
            | none => if (regsOf i).dsts.any (s.pushFull t) then .wait .engine else .go := by
  obtain ⟨hill, hw, hbp, hheld⟩ := h
  have hall : (s.names t i).all (inWindow t.window) = true := List.all_eq_true.mpr hw
  have hno : (if p.seqr || t.bpSkip == some t.pc then none else s.breakpoint t) = none := by
    rcases hbp with h | h | h <;> simp [h]
  have hfree : (!p.seqr && (.pred p.guard.p :: s.names t i).any (s.isHeld t)) = false := by
    rcases hheld with h | h
    · simp [h]
    · simp only [Bool.and_eq_false_iff, List.any_eq_false]
      exact .inr fun o ho => by simp [h o ho]
  rw [State.verdict, hno, hill, hall, hfree]
  rfl

end

/-- A wait of the verdict: the attempt changes nothing. -/
theorem attemptAt_wait {s : State} {t : Thread} {p : Port} {i : Instr} {body : State → Thread → Port → Except Trap State}
    {w : WaitOn} (h : s.verdict t p i = .wait w) : s.attemptAt t p i body = s := by
  simp [State.attemptAt, h]

theorem attemptAt_trap {s : State} {t : Thread} {p : Port} {i : Instr} {body : State → Thread → Port → Except Trap State}
    {tr : Trap} (h : s.verdict t p i = .trap tr) : s.attemptAt t p i body = s.takeTrap t p tr := by
  simp [State.attemptAt, h]

theorem attemptAt_skip {s : State} {t : Thread} {p : Port} {i : Instr} {body : State → Thread → Port → Except Trap State}
    (h : s.verdict t p i = .skip) : s.attemptAt t p i body = s.advance t p i := by
  simp [State.attemptAt, h]

/-- Settles O53: the verdict of the first check that applies is the one that the attempt follows. -/
theorem issueChecksInOrder : Obligations.IssueChecksInOrder := by
  intro s i hi ho
  refine ⟨fun hp => ?_, fun t p hp ht => ?_⟩
  · obtain ⟨body, he⟩ := exec_eq_attempt hi ho s
    rw [he, attempt, hp]
  obtain ⟨body, he⟩ := exec_eq_attemptAt hi ho hp ht
  rw [he]
  refine ⟨fun hill => ?_, fun hill hw => ?_, fun e hill hw hseq hskip hb => ?_, fun hreach => ⟨fun hfull => ?_, fun hfull hg => ?_,
    fun hfull hg => ⟨fun ⟨o, hmem, hpend⟩ => ?_, fun hdst ⟨o, hmem, hempty⟩ => ?_⟩⟩⟩
  · rw [attemptAt_trap (verdict_illegal hill)]; rfl
  · rw [attemptAt_trap (verdict_window hill hw)]; rfl
  · rw [attemptAt_trap (verdict_breakpoint hill hw hseq hskip hb)]
  · rw [attemptAt_wait (w := .operand (.pred p.guard.p)) (by simp [verdict_of_reachesGuard hreach, hfull])]
  · rw [attemptAt_skip (by simp [verdict_of_reachesGuard hreach, hfull, hg])]
  · have hpends : ((regsOf i).dsts.find? (s.pending t)).isSome = true := by
      simpa using ⟨o, hmem, hpend⟩
    obtain ⟨o', ho'⟩ := Option.isSome_iff_exists.mp hpends
    rw [attemptAt_wait (w := .operand o') (by simp [verdict_of_reachesGuard hreach, hfull, hg, ho'])]
  · have hnone : (regsOf i).dsts.find? (s.pending t) = none := by simpa using hdst
    have hempties : ((s.srcsOf t i).find? (s.empty t)).isSome = true := by
      simpa using ⟨o, hmem, hempty⟩
    obtain ⟨o', ho'⟩ := Option.isSome_iff_exists.mp hempties
    rw [attemptAt_wait (w := .operand o') (by simp [verdict_of_reachesGuard hreach, hfull, hg, hnone, ho'])]

end Sys2Proof.Machine
end

section
/-! SUPPORT. What the address phase of an instruction that waits leaves as it was, and what a core's turn runs (R22, R23, R31,
R42, R159, R237, R255). -/

namespace Sys2Proof.Machine

/-! ## Address phases -/

theorem Aside.of_pair {α : Type} {s s' : State} {p : α × State} {a : α} (h : Aside s p.2) (e : p = (a, s')) : Aside s s' := by
  rw [e] at h; exact h

theorem aside_windowPlace (s : State) (c : Context) (w : Window) (off : Nat) (wr : Bool) :
    Aside s (s.windowPlace c w off wr).2 := by
  have h1 := aside_tlbRead s 256 c.id (w.base + off)
  have h2 := h1.trans (aside_tlbRead (s.tlbRead 256 c.id (w.base + off)).2 257 c.id (w.base + off))
  have hread {o : Option TlbLeaf} {s' : State}
      (e : (let r := s.tlbRead 256 c.id (w.base + off)
        match r.1 with
        | some l => (some l, r.2)
        | none => r.2.tlbRead 257 c.id (w.base + off)) = (o, s')) : Aside s s' := by
    dsimp only at e
    split at e
    · cases e; exact h1
    · exact h2.of_pair e
  unfold State.windowPlace
  dsimp only
  split
  · next e => exact hread e
  · next s1 e =>
    have h3 : Aside s (s1.walkNow c.id (w.base + off)).2 := (hread e).trans (aside_chargeWalk ..)
    split
    · next e => exact h3.of_pair e
    · next e => exact h3.of_pair e

theorem aside_windowAccess (s : State) (c : Context) (dev ctx off n : Nat) (w : Bool) :
    Aside s (s.windowAccess c dev ctx off n w).2 := by
  unfold State.windowAccess
  split
  · split
    · exact aside_windowPlace ..
    · exact .refl s
  · exact .refl s

theorem aside_peerPlace (s : State) (i : Issuer) (id off n : Nat) (w : Bool) : Aside s (s.peerPlace i id off n w).2 := by
  unfold State.peerPlace
  split
  · exact .refl s
  split
  · exact .refl s
  split
  · split
    · exact .refl s
    · exact aside_windowAccess ..
  · exact .refl s

/-- The checks and the translation of an address touch neither a thread nor a family. -/
theorem aside_resolve (s : State) (i : Issuer) (k : AKind) (a : Word) (n : Nat) (w af ph : Bool) :
    Aside s (s.resolve i k a n w af ph).2 := by
  unfold State.resolve
  extract_lets kindBad
  split
  · exact .refl s
  split
  · exact .refl s
  split
  · exact .refl s
  split
  · exact .refl s
  · exact .refl s
  · exact aside_peerPlace ..
  · next va _ =>
    have h := aside_translate s i.ctx i.phys va w ph
    split
    · next e => exact h.of_pair e
    · next e => exact h.of_pair e

theorem aside_planFrom (s : State) (i : Issuer) (aps : List Aperture) (n : Nat) (w : Bool) (as : List Word) (ls : List Loc)
    (ps : List (Nat × Nat)) : Aside s (s.planFrom i aps n w as ls ps).2 := by
  induction as generalizing s ls ps with
  | nil => exact .refl s
  | cons a as ih =>
    have h := aside_resolve s i .plain a n w false true
    unfold State.planFrom
    split
    · exact .refl s
    split
    · exact .refl s
    split
    · next e => exact h.of_pair e
    · next e => exact (h.of_pair e).trans (ih ..)

theorem aside_planRuns (s : State) (i : Issuer) (rs : List (List Aperture × Nat × Bool × List Word)) (ps : List (Nat × Nat)) :
    Aside s (s.planRuns i rs ps).2 := by
  induction rs generalizing s ps with
  | nil => exact .refl s
  | cons r rs ih =>
    obtain ⟨aps, n, w, as⟩ := r
    have h := aside_planFrom s i aps n w as [] ps
    unfold State.planRuns
    split
    · next e => exact h.of_pair e
    · next s1 e =>
      have h2 := fun qs => (h.of_pair e).trans (ih s1 qs)
      split
      · next e' => exact (h2 _).of_pair e'
      · next e' => exact (h2 _).of_pair e'

theorem aside_mmaPlan (s : State) (i : Issuer) (m : MmaArgs) : Aside s (s.mmaPlan i m).2 := by
  unfold State.mmaPlan State.mmaPlaces
  dsimp only
  split
  · exact .refl s
  split
  · exact .refl s
  have h := aside_planRuns s i
  split
  · next e => exact (h _ _).of_pair e
  · next e => split <;> exact (h _ _).of_pair e
  · next e => exact (h _ _).of_pair e

theorem aside_cpgPlan (s : State) (i : Issuer) (o : Bool) (ra rb k0 k1 k2 k3 : Word) :
    Aside s (s.cpgPlan i o ra rb k0 k1 k2 k3).2 := by
  have h := aside_planRuns s i
  unfold State.cpgPlan; dsimp only
  split
  · exact .refl s
  split
  · exact .refl s
  split
  · next e => exact (h _ _).of_pair e
  · next e => split <;> exact (h _ _).of_pair e
  · next e => exact (h _ _).of_pair e

theorem aside_sendPlan (s : State) (i : Issuer) (ra rb k0 k1 k2 k3 : Word) :
    Aside s (s.sendPlan i ra rb k0 k1 k2 k3).2 := by
  have h := aside_planRuns s i
  unfold State.sendPlan; dsimp only
  split
  · exact .refl s
  split
  · exact .refl s
  split <;> next e => exact (h _ _).of_pair e

theorem aside_cpfarPlan (s : State) (i : Issuer) (o : Bool) (ra rb k1 : Word) : Aside s (s.cpfarPlan i o ra rb k1).2 := by
  have h := aside_planFrom s i
  unfold State.cpfarPlan
  extract_lets entry filled name rbOk
  split
  · exact .refl s
  split
  · exact .refl s
  split <;> next e => exact (h _ _ _ _ _ _).of_pair e

theorem aside_collPlan (s : State) (i : Issuer) (ra rb k0 k1 : Word) : Aside s (s.collPlan i ra rb k0 k1).2 := by
  have h := aside_planRuns s i
  unfold State.collPlan; dsimp only
  split
  · exact .refl s
  split
  · exact .refl s
  split
  · exact .refl s
  split
  · next e => exact (h _ _).of_pair e
  · next e => split <;> exact (h _ _).of_pair e
  · next e => exact (h _ _).of_pair e

/-- The plan that an instruction keeps while it waits for room (R159, R237). -/
theorem aside_keptPlan (s : State) (t : Thread) (i : Instr) : Aside s (s.keptPlan t i).2 := by
  unfold State.keptPlan
  split
  · split
    · exact .refl s
    · split <;> next e => exact (aside_mmaPlan ..).of_pair e
  · split
    · exact .refl s
    · split <;> next e => exact (aside_collPlan ..).of_pair e
  · extract_lets copy
    have hcopy : ∀ r, Aside s r.2 → Aside s (copy r).2 := fun r hr => by
      unfold copy
      split
      · exact .refl s
      · exact hr
      · exact hr
    split
    · exact hcopy _ (aside_cpgPlan ..)
    · exact hcopy _ (aside_cpgPlan ..)
    · exact hcopy _ (aside_sendPlan ..)
    · exact hcopy _ (aside_cpfarPlan ..)
    · exact hcopy _ (aside_cpfarPlan ..)
    · exact .refl s

/-! ## Before the issue -/

/-- Every thread of the second state stands in the first with the same pc and register values. -/
def SameRegisters (s s' : State) : Prop := ∀ y ∈ s'.threads, ∃ x ∈ s.threads, x.uid = y.uid ∧ x.pc = y.pc ∧ x.sameValues y

theorem SameRegisters.of_threads {s s' : State} (h : s'.threads = s.threads) : SameRegisters s s' :=
  fun y hy => ⟨y, h ▸ hy, rfl, rfl, rfl, rfl, rfl, rfl⟩

theorem SameRegisters.trans {s s' s'' : State} (h : SameRegisters s s') (h' : SameRegisters s' s'') : SameRegisters s s'' := by
  intro z hz
  obtain ⟨y, hy, hu, hp, hi, hw, he, hq⟩ := h' z hz
  obtain ⟨x, hx, hu', hp', hi', hw', he', hq'⟩ := h y hy
  exact ⟨x, hx, hu'.trans hu, hp'.trans hp, hi'.trans hi, hw'.trans hw, he'.trans he, hq'.trans hq⟩

theorem SameRegisters.foldl {α : Type} {f : State → α → State} (h : ∀ s a, SameRegisters s (f s a)) (xs : List α) (s : State) :
    SameRegisters s (xs.foldl f s) := by
  induction xs generalizing s with
  | nil => exact .of_threads rfl
  | cons x xs ih => exact (h s x).trans (ih _)

/-- An update of a thread that keeps its number, pc and registers. -/
theorem SameRegisters.updThread (s : State) (u : Nat) {f : Thread → Thread}
    (h : ∀ x, x.uid = (f x).uid ∧ x.pc = (f x).pc ∧ x.sameValues (f x)) : SameRegisters s (s.updThread u f) := by
  intro y hy
  obtain ⟨x, hx, rfl⟩ := List.mem_map.mp hy
  refine ⟨x, hx, ?_⟩
  split
  · exact h x
  · exact ⟨rfl, rfl, rfl, rfl, rfl, rfl⟩

theorem sameRegisters_keepPlan (s : State) (t : Thread) : SameRegisters s (s.keepPlan t) := by
  unfold State.keepPlan
  split
  · next p i _ =>
    split
    · exact .of_threads rfl
    · split
      · next e =>
        have h := (aside_keptPlan s t i).of_pair e
        exact (SameRegisters.of_threads h.threads).trans (.updThread _ _ fun x => ⟨rfl, rfl, rfl, rfl, rfl, rfl⟩)
      · exact .of_threads rfl
  · exact .of_threads rfl

theorem markLate_threads (s : State) (t : Thread) (o : Operand) : (s.markLate t o).threads = s.threads := by
  unfold State.markLate
  split
  · split
    · split
      · rfl
      · simp [State.countStream, State.updStream]
    · rfl
  · rfl

theorem sameRegisters_noteWaits (s : State) (ts : List Thread) : SameRegisters s (s.noteWaits ts) := by
  have hnote (s : State) (u : Nat) (w : Option WaitOn) : SameRegisters s (s.updThread u fun t => { t with wait := w }) :=
    .updThread s u fun x => ⟨rfl, rfl, rfl, rfl, rfl, rfl⟩
  unfold State.noteWaits
  refine .foldl (fun s t => ?_) ts s
  dsimp only
  split
  · split
    · next w _ =>
      have hplan : SameRegisters s (if w = .engine && t.kept.isNone then s.keepPlan t else s) := by
        split
        · exact sameRegisters_keepPlan s t
        · exact .of_threads rfl
      split
      · exact (hplan.trans (hnote _ _ _)).trans (.of_threads (markLate_threads ..))
      · exact hplan.trans (hnote _ _ _)
    · exact hnote _ _ _
  · exact .of_threads rfl

theorem mem_of_pickAfter {last : Nat} {ts : List Thread} {t : Thread} (h : pickAfter last ts = some t) : t ∈ ts := by
  have fold : ∀ (xs : List Thread) (b : Option Thread), (xs.foldl (fun best t => match best with
      | none => some t
      | some b => if t.slot < b.slot then some t else some b) b) = some t → t ∈ xs ∨ b = some t := by
    intro xs
    induction xs with
    | nil => exact fun b h => .inr h
    | cons x xs ih =>
      intro b h
      obtain h | h := ih _ h
      · exact .inl (List.mem_cons_of_mem _ h)
      · cases b with
        | none => exact .inl (by cases h; exact List.mem_cons_self)
        | some b =>
          dsimp only at h
          split at h
          · exact .inl (by cases h; exact List.mem_cons_self)
          · exact .inr h
  unfold pickAfter at h
  obtain h | h := fold _ none h
  · split at h
    · exact h
    · exact List.mem_of_mem_filter h
  · cases h

/-- The barrel picks one of the threads (R255). -/
theorem mem_of_issuer {s : State} {phys core : Nat} {t : Thread} (h : s.issuer phys core = some t) : t ∈ s.threads := by
  have hready : t ∈ (s.seated phys core).filter s.ready := by
    have := List.mem_of_mem_filter (mem_of_pickAfter h)
    split at this
    · exact this
    · exact List.mem_of_mem_filter this
  exact List.mem_of_mem_filter (List.mem_of_mem_filter (List.mem_of_mem_filter hready))

/-- What a cycle does before its issue keeps the picked thread's pc and registers. -/
theorem prepared_picks {s s1 : State} {phys core : Nat} {t : Thread} (h : s.prepared phys core = (s1, some t)) :
    ∃ x ∈ s.threads, x.uid = t.uid ∧ x.pc = t.pc ∧ x.sameValues t := by
  unfold State.prepared at h
  dsimp only at h
  split at h
  · cases h
  · next hpick =>
    cases h
    exact sameRegisters_noteWaits s _ t (mem_of_issuer hpick)

/-! ## The fetch (R22, R23, R31) -/

section
variable {s : State} {g : BitVec 32} {a : Word}

/-- The address is even and each halfword of the word there lies in the graph's `.text`. -/
def Inside (s : State) (g : BitVec 32) (a : Word) : Prop :=
  a.getLsbD 0 = false ∧ s.inText g a.toNat = true ∧ ((s.codeHalf a.toNat).getLsbD 0 = true → s.inText g (a + 2).toNat = true)

theorem fetchWord_inside (h : Inside s g a) : s.fetchWord g a =
    match decode (Mem.bytes s.mem (Loc.code a.toNat).key 4) with
    | .ok (g, i, _) => .ok g i
    | .error _ => .illegal := by
  obtain ⟨heven, hin, hnext⟩ := h
  have h1 : (a.getLsbD 0 || !s.inText g a.toNat) = false := by rw [heven, hin]; rfl
  have h2 : ((s.codeHalf a.toNat).getLsbD 0 && !s.inText g (a + 2).toNat) = false := by
    cases hlong : (s.codeHalf a.toNat).getLsbD 0 with
    | false => rfl
    | true => rw [hnext hlong]; rfl
  rw [State.fetchWord, h1, h2]
  rfl

theorem fetchWord_outside (h : ¬ Inside s g a) : ∃ d, s.fetchWord g a = .bad d := by
  unfold State.fetchWord
  split
  · exact ⟨_, rfl⟩
  next h1 =>
  split
  · exact ⟨_, rfl⟩
  next h2 =>
  simp only [Bool.or_eq_true, Bool.not_eq_true', not_or, Bool.not_eq_true, Bool.not_eq_false] at h1
  simp only [Bool.and_eq_true, Bool.not_eq_true', not_and, Bool.not_eq_false] at h2
  exact absurd ⟨h1.1, h1.2, h2⟩ h

theorem fetch_bad {d : Word} (h : s.fetchWord g a = .bad d) : s.fetch g a = .bad d := by
  rw [State.fetch, h]

/-- Where an ORD stands alone, the fetch of the word after it fails for both (R31). -/
theorem fetch_bad_of_prefix {d : Word} (hp : isPrefix (s.codeHalf a.toNat) = true) (h : s.fetchWord g (a + 2) = .bad d) :
    ∃ d', s.fetch g a = .bad d' := by
  cases hw : s.fetchWord g a with
  | bad d' => exact ⟨d', fetch_bad hw⟩
  | illegal => exact ⟨d, by rw [State.fetch, hw]; simp only [hp, if_true, h]⟩
  | ok g i => exact ⟨d, by rw [State.fetch, hw]; simp only [hp, if_true, h]⟩

/-- Where the word, and the one after an ORD, can be fetched, the fetch is that of the word. -/
theorem fetch_eq_fetchWord (hw : isPrefix (s.codeHalf a.toNat) = true → ∀ d, s.fetchWord g (a + 2) ≠ .bad d) :
    s.fetch g a = s.fetchWord g a := by
  unfold State.fetch
  split
  · next h => exact h.symm
  · split
    · next hp =>
      split
      · next d h => exact absurd h (hw hp d)
      · rfl
    · rfl

end

theorem issue_illegal {s : State} {t : Thread} (h : s.fetch t.graph t.pc = .illegal)
    (hb : s.codeBad t.phys t.pc.toNat (s.fetchLength t.pc) = false) :
    s.issue t = exec .illegalInstruction { s with port := some ⟨t.uid, Guard.always, none, false⟩ } := by
  rw [State.issue, h, hb]; rfl

theorem issue_ok {s : State} {t : Thread} {g : Guard} {i : Instr} (h : s.fetch t.graph t.pc = .ok g i)
    (hb : s.codeBad t.phys t.pc.toNat (s.fetchLength t.pc) = false) :
    s.issue t = exec i { s with port := some ⟨t.uid, g, none, false⟩ } := by
  rw [State.issue, h, hb]; rfl

theorem issue_bad {s : State} {t : Thread} {d : Word} (h : s.fetch t.graph t.pc = .bad d) :
    s.issue t = exec .instructionAddressTrap { s with port := some ⟨t.uid, Guard.always, none, false⟩ } := by
  rw [State.issue, h]; rfl

/-- Settles O56: a cycle issues for the thread that `prepared` picks, and its fetch is the decoding of the bytes at its pc. -/
theorem stepRunsDecodedInstruction : Obligations.StepRunsDecodedInstruction := by
  refine ⟨fun s s1 phys core rest t hturns hprep => ?_, fun s i rest hturns => by rw [step, hturns]; rfl⟩
  have hstep : step s = s1.issue t := by
    rw [step, hturns]
    dsimp only [State.take, State.cycle]
    rw [hprep]
  have hmem : s1.mem = s.mem := by
    have := prepared_mem { s with turns := rest } phys core
    rwa [hprep] at this
  have hpick := prepared_picks hprep
  rw [hstep]
  intro port h inside bad whole
  refine ⟨hmem, hpick, ?_, ?_, ?_, ?_, ?_⟩
  · intro g i tail hdec hin hw hb
    exact issue_ok (by rw [fetch_eq_fetchWord hw, fetchWord_inside hin, hdec]) hb
  · intro e hdec hin hw hb
    exact issue_illegal (by rw [fetch_eq_fetchWord hw, fetchWord_inside hin, hdec]) hb
  · intro hin hw hb
    simp only [bad] at hb
    rw [State.issue, fetch_eq_fetchWord hw, fetchWord_inside hin]
    cases decode (Mem.bytes s1.mem (Loc.code t.pc.toNat).key 4) <;> simp [hb]
  · intro hin
    obtain ⟨d, hd⟩ := fetchWord_outside hin
    exact issue_bad (fetch_bad hd)
  · rintro hp ⟨d, hd⟩
    obtain ⟨d', hd'⟩ := fetch_bad_of_prefix hp hd
    exact issue_bad hd'

end Sys2Proof.Machine
end

section
/-! SUPPORT. A refutation of O15: the statement is for every state, and not only for those in which the next number to be given
is new; where an access already carries it, opening the push (R153) marks that access as waiting for its value too. -/

namespace Sys2Proof.Machine

/-- Unit 2 streams four elements out to the scratchpad and is bound to w1; three have been pushed. -/
def lastPush : Stream :=
  { Stream.fresh with cfg := some (0xE200000000000000, 0x0001000001000004, 0x20, 0x100000000), bound := some 1, pos := 3 }

/-- A load that is on its way under the number 100. -/
def numberedLoad : Access :=
  { id := 100, uid := some 3, fam := none, group := 2, ctx := 0, phys := 0, lcl := 0, core := 0, order := none, scope := .dev,
    blocking := true, red := false, loc := .spad 0 0, size := 8, op := .load .zx (.int (.l 0)), phase := .sent, agedAt := none,
    passedBy := 0, resent := false, granted := false, queue := 0, cancelled := false, push := none, peer := none, handle := 0,
    stamp := Stamp.zero }

/-- The machine of `State.seated1` with a scratchpad for its group, that unit on its thread's core and that load, in which the
next number to be given is again 100. -/
def numberedTwice : State :=
  let s := (State.reset.seated1.updGroup 2 fun g => { g with spadSize := 2097152 }).updCore 0 0 fun k =>
    { k with owner := some 3, streams := k.streams.set 2 lastPush }
  { s with accs := [numberedLoad], fresh := 100 }

/-- The thread of `State.seated1`, every register FULL. -/
def seatedThread : Thread :=
  { Thread.blank 3 .root 0 2 1 0 0 0 0 with window := 0x444F, full := BitVec.allOnes 50 }

/-- The issue port at that thread. -/
def seatedPort : Port := ⟨3, Guard.always, none, false⟩

/-- After the push has been opened, the load waits for a value. -/
theorem begin_changes_load {s' : State} {t' : Thread}
    (hb : numberedTwice.begin seatedThread seatedPort (.vabs 1 0 .s) = .ok (s', t')) :
    s'.accs.head?.map (·.phase) = some .unvalued := by
  have hw : (match numberedTwice.begin seatedThread seatedPort (.vabs 1 0 .s) with
      | .ok r => r.1.accs.head?.map (·.phase)
      | .error _ => none) = some .unvalued := by decide +kernel
  rwa [hb] at hw

/-- Where the element goes, and that finding it changes no access. -/
theorem resolve_lastPush : ∃ l s2,
    numberedTwice.resolve seatedThread.issuer .plain (streamAddr (0xE200000000000000, 0x0001000001000004, 0x20, 0x100000000) 3)
      32 true false false = (.ok l, s2) ∧ s2.accs = [numberedLoad] := ⟨_, _, rfl, rfl⟩

/-- Refutes O15: the push need not be the only access that changes. -/
theorem not_streamOperandsAtIssue : ¬ Obligations.StreamOperandsAtIssue := by
  unfold Obligations.StreamOperandsAtIssue
  intro h
  obtain ⟨-, -, hpush⟩ := h numberedTwice seatedThread seatedPort (.vabs 1 0 .s)
  obtain ⟨-, -, hopened⟩ := hpush 1 2 lastPush (0xE200000000000000, 0x0001000001000004, 0x20, 0x100000000) (by decide +kernel)
    (by decide +kernel) (by decide +kernel) rfl
  obtain ⟨l, s2, hres, haccs⟩ := resolve_lastPush
  obtain ⟨s', x, hb, hs', -⟩ := hopened l s2 (by decide) hres
  have hphase : some numberedLoad.phase = some .unvalued := by simpa [hs', haccs] using begin_changes_load hb
  exact absurd hphase (by decide)

end Sys2Proof.Machine
end

section
/-! SUPPORT. The fences and ORD (R215, R30, R31): what a fence leaves, and what ORD makes of the word after it. -/

namespace Sys2Proof.Machine

/-! ## Fences (R215) -/

/-- A fence with nothing to wait for only issues. -/
theorem fenceOp_done {s : State} {t : Thread} {p : Port} {i : Instr} {sc : Scope} (h : Issues s t p i) (hn : NoStream s t i)
    (ha : (s.issued t p i).fenceAccs t sc = []) (hm : (s.issued t p i).fenceOps t sc = []) :
    fenceOp i s sc = .next (s.issued t p i) :=
  attempt_ok h hn (by simp [ha, hm])

/-- A fence that has something to wait for leaves one wait for it. -/
theorem fenceOp_waits {s : State} {t : Thread} {p : Port} {i : Instr} {sc : Scope} (h : Issues s t p i) (hn : NoStream s t i)
    (hw : ¬ ((s.issued t p i).fenceAccs t sc = [] ∧ (s.issued t p i).fenceOps t sc = [])) :
    fenceOp i s sc = .next ((s.issued t p i).pend t .zero
      (.fence ((s.issued t p i).fenceAccs t sc) ((s.issued t p i).fenceOps t sc))) :=
  attempt_ok h hn (by simp [hw])

/-- While a wait that holds accesses stands, its thread issues none (R204). -/
theorem mayIssue_pend {s : State} {t u : Thread} {op : PendOp} (hop : op.holds = true) (hu : u.uid = t.uid) (dst : IReg)
    (x : Option (Order × Scope)) : (s.pend t dst op).mayIssue u x = false := by
  simp [State.mayIssue, State.unblocked, State.pend, hu, hop]

/-- A fence issues, and is the operation of its scope. -/
theorem exec_fence {i : Instr} {sc : Scope}
    (h : i = .fenceCore ∧ sc = .core ∨ i = .fenceCl ∧ sc = .cl ∨ i = .fenceDev ∧ sc = .dev ∨ i = .fenceSys ∧ sc = .sys)
    (s : State) : exec i s = fenceOp i s sc := by
  rcases h with ⟨rfl, rfl⟩ | ⟨rfl, rfl⟩ | ⟨rfl, rfl⟩ | ⟨rfl, rfl⟩ <;> rfl

/-- A fence names no wide register. -/
theorem noStream_fence {i : Instr} {sc : Scope}
    (h : i = .fenceCore ∧ sc = .core ∨ i = .fenceCl ∧ sc = .cl ∨ i = .fenceDev ∧ sc = .dev ∨ i = .fenceSys ∧ sc = .sys)
    (s : State) (t : Thread) : NoStream s t i := by
  rcases h with ⟨rfl, rfl⟩ | ⟨rfl, rfl⟩ | ⟨rfl, rfl⟩ | ⟨rfl, rfl⟩ <;> exact noStream_of_noWide rfl rfl

/-! ## ORD (R30, R31) -/

/-- The instructions that ask something of a home are those that ORD may precede (R50). -/
theorem prefixable_eq_isSome_request (t : Thread) (i : Instr) : prefixable i = (request t i).isSome := by
  cases i <;> rfl

/-- ORD leaves the meaning of an instruction that it may precede to the instruction. -/
theorem prefixed_of_request {t : Thread} {i : Instr} (h : request t i ≠ none) (s : State) : prefixed i s = exec i s := by
  revert h
  fun_cases request t i
  case case46 => exact fun h => absurd rfl h
  all_goals exact fun _ => rfl

/-- The word after ORD is one attempt. -/
theorem prefixed_eq_attempt (i : Instr) (s : State) : ∃ body, prefixed i s = attempt i s body := by
  cases i <;> exact ⟨_, rfl⟩

/-- At a port with a thread, the word after ORD is one attempt by that thread. -/
theorem prefixed_eq_attemptAt {s : State} {t : Thread} {p : Port} (i : Instr) (hp : s.port = some p)
    (ht : s.thread? p.uid = some t) : ∃ body, prefixed i s = .next (s.attemptAt t p i body) := by
  obtain ⟨body, he⟩ := prefixed_eq_attempt i s
  exact ⟨body, by rw [he, attempt, hp]; dsimp only; rw [ht]⟩

/-- An instruction that ORD may not precede is illegal behind it. -/
theorem illegalAt_of_request_none {t : Thread} {p : Port} {i : Instr} (h : request t i = none) (hp : p.pfx.isSome = true) :
    illegalAt t p i = true := by
  simp [illegalAt, hp, prefixable_eq_isSome_request t, h]

section
variable {s : State} {t : Thread} {p : Port} (o : Order) (c : Scope) (hp : s.port = some p) (ht : s.thread? p.uid = some t)
include hp ht

/-! What ORD at a port with a thread does is decided by the word behind it. -/

theorem execOrd_bad {d : Word} (hf : s.fetchWord t.graph (t.pc + 2) = .bad d) :
    exec (.ord o c) s = .next (s.takeTrap t p (.plain 0x01 d)) := by
  change execOrd o c s = _
  simp only [execOrd, hp, ht, hf]

theorem execOrd_illegal (hf : s.fetchWord t.graph (t.pc + 2) = .illegal) :
    exec (.ord o c) s = .next (s.takeTrap t p .illegal) := by
  change execOrd o c s = _
  simp only [execOrd, hp, ht, hf]

theorem execOrd_ok {g : Guard} {i : Instr} (hf : s.fetchWord t.graph (t.pc + 2) = .ok g i) :
    exec (.ord o c) s = prefixed i { s with port := some { p with guard := g, pfx := some (o, c) } } := by
  change execOrd o c s = _
  simp only [execOrd, hp, ht, hf]

end

/-- Settles O18: a fence is one attempt whose operation leaves a wait that holds accesses, and ORD hands its port to the
word behind it. -/
theorem fencesAndPrefixedAccess : Obligations.FencesAndPrefixedAccess := by
  refine ⟨fun s t p i sc hi h => ⟨fun ⟨ha, hm⟩ => ?_, fun hw => ?_⟩, fun s t p o c hp ht => ⟨fun d hf => ?_, fun hf => ?_,
    fun g i hf => ⟨fun hr => ?_, fun hr => ?_⟩⟩⟩
  · rw [exec_fence hi]
    exact fenceOp_done h (noStream_fence hi s t) ha hm
  · rw [exec_fence hi]
    exact ⟨_, fenceOp_waits h (noStream_fence hi s t) hw, rfl, fun u x hu => mayIssue_pend rfl hu .zero x⟩
  · exact execOrd_bad o c hp ht hf
  · exact execOrd_illegal o c hp ht hf
  · rw [execOrd_ok o c hp ht hf, prefixed_of_request hr]
    obtain ⟨body, he⟩ := prefixed_eq_attemptAt (s := { s with port := some { p with guard := g, pfx := some (o, c) } }) i rfl ht
    rw [prefixed_of_request hr] at he
    exact ⟨_, he, he⟩
  · rw [execOrd_ok o c hp ht hf]
    obtain ⟨body, he⟩ := prefixed_eq_attemptAt (s := { s with port := some { p with guard := g, pfx := some (o, c) } }) i rfl ht
    rw [attemptAt_trap (verdict_illegal (illegalAt_of_request_none hr rfl))] at he
    exact ⟨_, _, he, rfl, rfl⟩

end Sys2Proof.Machine
end

section
/-! SUPPORT. A result's arrival: what a register shows once a value has been put in another one or in it (R34, R37), and what
landing leaves unchanged. -/

namespace Sys2Proof.Machine

/-! ## Registers (R33, R34, R37) -/

/-- The register that a bit of the full and pending words stands for (R44). -/
def registerAt (b : Nat) : Operand :=
  if b < 15 then .int (.l (Fin.ofNat 15 b)) else if b < 19 then .int (.s (Fin.ofNat 4 (b - 15)))
  else if b < 27 then .int (.g (Fin.ofNat 8 (b - 19))) else if b < 31 then .int (.d (Fin.ofNat 4 (b - 27)))
  else if b < 39 then .wide (Fin.ofNat 8 (b - 31)) else if b < 46 then .pred (Fin.ofNat 8 (b - 38)) else .ext (Fin.ofNat 4 (b - 46))

theorem registerAt_of_bit {o : Operand} {b : Fin 50} (h : o.bit = some b) : registerAt b.val = o := by
  cases o with
  | int r => cases r with
    | zero => cases h
    | l i | s i | g i | d i => cases h; revert i; decide
  | wide i | ext i => cases h; revert i; decide
  | pred i => revert b i; decide

/-- Two registers never share a bit of the full and pending words. -/
theorem bit_ne_of_ne {x o : Operand} {b c : Fin 50} (h : x ≠ o) (hx : x.bit = some b) (ho : o.bit = some c) : b.val ≠ c.val := by
  intro hbc
  rw [← registerAt_of_bit hx, ← registerAt_of_bit ho, hbc] at h
  exact h rfl

section
variable {t : Thread} {x o : Operand} {v : Wide}

/-- Every register but the one that a result is put in keeps its states. -/
theorem states_put_other (h : x ≠ o) : (t.put o v).isFull x = t.isFull x ∧ (t.put o v).isPend x = t.isPend x := by
  simp only [Thread.put, Thread.isFull, Thread.isPend]
  cases hx : x.bit with
  | none => exact ⟨rfl, rfl⟩
  | some b => cases ho : o.bit with
    | none => simp only [Thread.setVal_full, Thread.setVal_pend, and_self]
    | some c =>
      have hbc := bit_ne_of_ne h hx ho
      simp only [getLsbD_setBit _ _ _ b.isLt, hbc, if_false, Thread.setVal_full, Thread.setVal_pend, and_self]

/-- The register that a result is put in is FULL and not pending. -/
theorem states_put_same : (t.put o v).isFull o = true ∧ (t.put o v).isPend o = false := by
  simp only [Thread.put, Thread.isFull, Thread.isPend]
  cases ho : o.bit with
  | none => exact ⟨rfl, rfl⟩
  | some c => simp only [getLsbD_setBit _ _ _ c.isLt, if_true, and_self]

/-- A pending register has a bit: it is neither `zero` nor p0. -/
theorem bit_isSome_of_isPend (h : t.isPend o = true) : o.bit.isSome = true := by
  cases ho : o.bit with
  | none => simp [Thread.isPend, ho] at h
  | some c => rfl

/-- Putting a result stores its value. -/
theorem put_values : (t.put o v).ints = (t.setVal o v).ints ∧ (t.put o v).wides = (t.setVal o v).wides ∧
    (t.put o v).exts = (t.setVal o v).exts ∧ (t.put o v).preds = (t.setVal o v).preds := by
  simp only [Thread.put]
  cases o.bit <;> exact ⟨rfl, rfl, rfl, rfl⟩

/-! ### Values -/

theorem setVal_int (r : IReg) : t.setVal (.int r) v = { t with ints := match IReg.entry r with
    | some e => t.ints.set e.val (v.setWidth 64)
    | none => t.ints } := by
  simp only [Thread.setVal]
  cases IReg.entry r <;> rfl

theorem int_put_other {x : IReg} (h : .int x ≠ o) : (t.put o v).int x = t.int x := by
  rw [Thread.int, Thread.int, put_values.1]
  cases hx : IReg.entry x with
  | none => rfl
  | some e => cases o with
    | int r =>
      rw [setVal_int]
      cases hr : IReg.entry r with
      | none => rfl
      | some c =>
        have hne : c.val ≠ e.val := fun hc => bit_ne_of_ne h (b := ⟨e.val, by omega⟩) (c := ⟨c.val, by omega⟩)
          (by simp [Operand.bit, hx]) (by simp [Operand.bit, hr]) hc.symm
        exact Vector.getElem_set_ne (by omega) (by omega) hne
    | wide _ | ext _ => rfl
    | pred q => simp only [Thread.setVal]; split <;> rfl

theorem wide_put_other {x : WReg} (h : .wide x ≠ o) : (t.put o v).wide x = t.wide x := by
  rw [Thread.wide, Thread.wide, put_values.2.1]
  cases o with
  | int r => rw [setVal_int]
  | wide w =>
    have hne : w.val ≠ x.val := fun hc => h (by rw [Fin.ext hc])
    exact Vector.getElem_set_ne (by omega) (by omega) hne
  | ext _ => rfl
  | pred q => simp only [Thread.setVal]; split <;> rfl

theorem ext_put_other {x : KReg} (h : .ext x ≠ o) : (t.put o v).ext x = t.ext x := by
  rw [Thread.ext, Thread.ext, put_values.2.2.1]
  cases o with
  | int r => rw [setVal_int]
  | ext w =>
    have hne : w.val ≠ x.val := fun hc => h (by rw [Fin.ext hc])
    exact Vector.getElem_set_ne (by omega) (by omega) hne
  | wide _ => rfl
  | pred q => simp only [Thread.setVal]; split <;> rfl

theorem pred_put_other {x : PReg} (h : .pred x ≠ o) : (t.put o v).pred x = t.pred x := by
  rw [Thread.pred, Thread.pred, put_values.2.2.2]
  split
  · rfl
  cases o with
  | int r => simp only [Thread.setVal]; split <;> rfl
  | wide _ | ext _ => rfl
  | pred q =>
    have hne : q.val ≠ x.val := fun hc => h (by rw [Fin.ext hc])
    simp only [Thread.setVal]
    split
    · rfl
    · rw [getLsbD_setBit _ _ _ (by omega), if_neg (by omega)]

/-- The value that a register of a bit holds once a result has been put in it: as many low bits as it has. -/
theorem value_put_same : o.bit.isSome = true → match o with
    | .int x => (t.put o v).int x = v.setWidth 64
    | .wide x => (t.put o v).wide x = v
    | .ext x => (t.put o v).ext x = v.setWidth 64
    | .pred x => (t.put o v).pred x = v.getLsbD 0 := by
  intro h
  cases o with
  | int r =>
    dsimp only
    rw [Thread.int, put_values.1]
    cases hr : IReg.entry r with
    | none => simp [Operand.bit, hr] at h
    | some e => simp only [Thread.setVal, hr, Vector.getElem_set_self]
  | wide w =>
    dsimp only
    rw [Thread.wide, put_values.2.1]
    exact Vector.getElem_set_self ..
  | ext k =>
    dsimp only
    rw [Thread.ext, put_values.2.2.1]
    exact Vector.getElem_set_self ..
  | pred q =>
    have hq : q.val ≠ 0 := fun hq => by simp [Operand.bit, hq] at h
    dsimp only
    rw [Thread.pred, put_values.2.2.2, if_neg hq]
    simp only [Thread.setVal, hq, if_false]
    rw [getLsbD_setBit _ _ _ (by omega), if_pos rfl]

end

/-! ## Landing (R37, R75, R147, R266) -/

/-- The end of a sequencer run changes the core alone. -/
theorem endRun_cases (s : State) (phys core : Nat) : s.endRun phys core = s ∨ ∃ k, s.endRun phys core = s.setCore k := by
  unfold State.endRun
  dsimp only
  split
  · split
    · exact .inr ⟨_, rfl⟩
    · exact .inl rfl
  · exact .inl rfl

@[simp] theorem endRun_threads (s : State) (phys core : Nat) : (s.endRun phys core).threads = s.threads := by
  rcases endRun_cases s phys core with h | ⟨k, h⟩ <;> simp [h]

@[simp] theorem endRun_accs (s : State) (phys core : Nat) : (s.endRun phys core).accs = s.accs := by
  rcases endRun_cases s phys core with h | ⟨k, h⟩ <;> simp [h]

@[simp] theorem endRun_arrivals (s : State) (phys core : Nat) : (s.endRun phys core).arrivals = s.arrivals := by
  rcases endRun_cases s phys core with h | ⟨k, h⟩ <;> simp [h]

/-- Only a shared register's value goes on to the member above (R38). -/
theorem forwardOn_of_not_shared {o : Operand} (h : ∀ i, o ≠ .int (.s i)) (s : State) (u q : Nat) (v : Wide) :
    s.forwardOn u q o v = s := by
  unfold State.forwardOn
  split
  · exact absurd rfl (h _)
  · rfl

/-- A value that no push takes is put in its register where it is pending. -/
theorem deliverOne_register {s : State} {u : Nat} {t : Thread} {o : Operand} (ht : s.thread? u = some t)
    (h : ∀ i, o ≠ .int (.s i)) (q : Nat) (v : Wide) :
    s.deliverOne u q none o v = if t.isPend o then s.updThread u fun x => x.put o v else s := by
  unfold State.deliverOne
  rw [ht]
  dsimp only
  rw [forwardOn_of_not_shared h]

/-- A thread that waits for nothing has no wait for a result to end. -/
theorem arriveWait_of_no_wait {s : State} {t : Thread} (h : t.wait = none) (r : Arrival) : s.arriveWait t r = s := by
  simp [State.arriveWait, h]

/-- Nor has a result without a value. -/
theorem arriveWait_of_no_writes {t : Thread} {r : Arrival} (h : r.writes = []) (s : State) : s.arriveWait t r = s := by
  unfold State.arriveWait
  split <;> simp [h]

/-- The frame of a thread whose slot runs no inline index is left alone (R266). -/
theorem keepFrame_of_not_hosted {s : State} {u : Nat} (h : s.hosted? u = none) : s.keepFrame u = s := by
  unfold State.keepFrame
  rw [h]
  cases s.thread? u <;> rfl

@[simp] theorem writeBytes_accs (s : State) (l : Loc) (bs : List Byte) : (s.writeBytes l bs).accs = s.accs := rfl

@[simp] theorem keepFrame_accs (s : State) (u : Nat) : (s.keepFrame u).accs = s.accs := by
  unfold State.keepFrame
  (repeat' split) <;> simp only [writeBytes_accs]

/-- What a result that is taken does to its thread beside its register: it joins the sticky flags and counts a reduction. -/
def Thread.joined (t : Thread) (r : Arrival) : Thread :=
  { t with flags := t.flags ||| r.flags, reds := if r.red then t.reds - 1 else t.reds, after := t.after ++ r.after }

/-- Two changes of one thread are one. -/
theorem updThread_updThread (s : State) (u : Nat) {f : Thread → Thread} (g : Thread → Thread) (hf : ∀ x, (f x).uid = x.uid) :
    (s.updThread u f).updThread u g = s.updThread u fun x => g (f x) := by
  have hmap : (s.threads.map fun x => if x.uid == u then f x else x).map (fun x => if x.uid == u then g x else x) =
      s.threads.map fun x => if x.uid == u then g (f x) else x := by
    rw [List.map_map]
    refine List.map_congr_left fun x _ => ?_
    by_cases hx : x.uid = u <;> simp [hx, hf]
  simp only [State.updThread, hmap]

/-- The other threads stand as they stood. -/
theorem mem_updThread_other {s : State} {u : Nat} {f : Thread → Thread} {x : Thread} (hf : ∀ y, (f y).uid = y.uid)
    (hx : x.uid ≠ u) : x ∈ (s.updThread u f).threads ↔ x ∈ s.threads := by
  rw [State.updThread_threads, List.mem_map]
  constructor
  · rintro ⟨y, hy, rfl⟩
    by_cases hu : y.uid = u
    · exact absurd (by simp [hu, hf]) hx
    · simpa [hu] using hy
  · exact fun h => ⟨x, h, by simp [hx]⟩

/-- A result of one register lands. -/
theorem land_register {s : State} {r : Arrival} {t : Thread} {o : Operand} {v : Wide} (ht : s.thread? r.uid = some t)
    (hhost : s.hosted? r.uid = none) (hw : r.writes = [(o, v)]) (hpush : r.push = none) (ho : ∀ i, o ≠ .int (.s i))
    (hwait : t.wait = none) :
    s.land r = (s.updThread r.uid fun x => if t.isPend o && !(t.onItsWay && r.prod.memory) then (x.joined r).put o v
      else x.joined r).endRun t.phys t.core := by
  have hu : t.uid = r.uid := thread?_uid ht
  have hj : (s.updThread r.uid fun x => x.joined r).thread? r.uid = some (t.joined r) := thread?_updThread_same ht fun _ => rfl
  unfold State.land
  rw [ht]
  dsimp only
  rw [arriveWait_of_no_wait hwait, hu]
  by_cases hout : (t.onItsWay && r.prod.memory) = true
  · have htaking : t.taking r = { r with writes := [] } := by simp [Thread.taking, hout, hpush]
    rw [htaking]
    simp only [hout, Bool.not_true, Bool.and_false, Bool.false_eq_true, if_false, List.foldl_nil]
    exact congrArg (State.endRun · _ _) (keepFrame_of_not_hosted hhost)
  · have htaking : t.taking r = r := by simp [Thread.taking, hout]
    rw [htaking]
    simp only [hout, hw, hpush, List.foldl_cons, List.foldl_nil, Bool.not_false, Bool.and_true]
    have hone : (s.updThread r.uid fun x => x.joined r).deliverOne r.uid r.seq none o v =
        s.updThread r.uid fun x => if t.isPend o then (x.joined r).put o v else x.joined r := by
      rw [deliverOne_register hj ho, updThread_updThread s r.uid (f := fun x => x.joined r) (fun x => x.put o v) fun _ => rfl]
      have hpend : (t.joined r).isPend o = t.isPend o := rfl
      cases ho : t.isPend o <;> simp [hpend, ho]
    exact congrArg (State.endRun · _ _)
      ((congrArg (State.keepFrame · r.uid) hone).trans (keepFrame_of_not_hosted hhost))

/-- A result without a value changes no access. -/
theorem land_accs {s : State} {r : Arrival} (hw : r.writes = []) : (s.land r).accs = s.accs := by
  have htaking (t : Thread) : (t.taking r).writes = [] := by
    unfold Thread.taking
    split <;> simp [hw]
  unfold State.land
  split
  · rfl
  · simp [arriveWait_of_no_writes (htaking _), htaking]

/-! ## RESULT_ARRIVAL -/

/-- A result that no save record holds back is acknowledged and lands. -/
theorem exec_resultArrival {s : State} {r : Arrival} (hr : s.arrivals.find? (fun x => x.id == r.id) = some r)
    (hsaved : s.isSaved r.uid = false) : exec (.resultArrival r.id) s =
      .next (({ s with arrivals := s.arrivals.filter fun x => x.id != r.id }.acknowledged r.seq).land r) := by
  change execResultArrival r.id s = _
  simp only [execResultArrival, hr, hsaved, Bool.false_eq_true, if_false]

/-- What an acknowledgement leaves as it was. -/
theorem acknowledged_frame (s : State) (id : Nat) : (s.acknowledged id).threads = s.threads ∧
    (s.acknowledged id).families = s.families ∧ (s.acknowledged id).arrivals = s.arrivals := by
  unfold State.acknowledged
  split <;> exact ⟨rfl, rfl, rfl⟩

/-- What becomes of a thread where a result of one register lands (R37, R76). -/
def Thread.landed (t : Thread) (r : Arrival) (o : Operand) (v : Wide) : Thread :=
  if t.isPend o && !(t.onItsWay && r.prod.memory) then (t.joined r).put o v else t.joined r

theorem landed_cases (t : Thread) (r : Arrival) (o : Operand) (v : Wide) :
    t.landed r o v = (t.joined r).put o v ∨ t.landed r o v = t.joined r := by
  unfold Thread.landed
  split
  · exact .inl rfl
  · exact .inr rfl

section
variable (t : Thread) (r : Arrival) {o : Operand} (v : Wide)

/-- What stands beside the registers once a result has landed. -/
theorem landed_frame : (t.landed r o v).flags = t.flags ||| r.flags ∧
    (t.landed r o v).reds = (if r.red then t.reds - 1 else t.reds) ∧ (t.landed r o v).pc = t.pc ∧
    (t.landed r o v).run = t.run := by
  rcases landed_cases t r o v with h | h <;> rw [h]
  · exact ⟨Thread.put_flags .., Thread.put_reds .., Thread.put_pc .., Thread.put_run ..⟩
  · exact ⟨rfl, rfl, rfl, rfl⟩

/-- Landing shows in its own register alone. -/
theorem landed_other_states (x : Operand) (h : x ≠ o) :
    (t.landed r o v).isFull x = t.isFull x ∧ (t.landed r o v).isPend x = t.isPend x := by
  rcases landed_cases t r o v with hl | hl <;> rw [hl]
  · exact states_put_other h
  · exact ⟨rfl, rfl⟩

theorem landed_other_values : (∀ x : IReg, .int x ≠ o → (t.landed r o v).int x = t.int x) ∧
    (∀ x : WReg, .wide x ≠ o → (t.landed r o v).wide x = t.wide x) ∧
    (∀ x : KReg, .ext x ≠ o → (t.landed r o v).ext x = t.ext x) ∧
    (∀ x : PReg, .pred x ≠ o → (t.landed r o v).pred x = t.pred x) := by
  rcases landed_cases t r o v with hl | hl <;> rw [hl]
  · exact ⟨fun x => int_put_other, fun x => wide_put_other, fun x => ext_put_other, fun x => pred_put_other⟩
  · exact ⟨fun _ _ => rfl, fun _ _ => rfl, fun _ _ => rfl, fun _ _ => rfl⟩

end

/-- A result that is not taken changes no register. -/
theorem landed_not_taken {t : Thread} {r : Arrival} {o : Operand} {v : Wide}
    (h : t.isPend o = false ∨ t.onItsWay = true ∧ r.prod.memory = true) : t.landed r o v = t.joined r := by
  rcases h with h | ⟨h, hm⟩
  · simp [Thread.landed, h]
  · simp [Thread.landed, h, hm]

theorem landed_taken {t : Thread} {r : Arrival} {o : Operand} {v : Wide} (hp : t.isPend o = true)
    (h : (t.onItsWay && r.prod.memory) = false) : t.landed r o v = (t.joined r).put o v := by
  simp [Thread.landed, hp, h]

/-- Settles O26: a result's landing changes its thread alone, as `Thread.landed` says. -/
theorem resultReachesItsRegister : Obligations.ResultReachesItsRegister := by
  refine ⟨fun s r hr hsaved hw ⟨a, ha, hid, hdone⟩ => ⟨_, exec_resultArrival hr hsaved, ?_⟩,
    fun s r t o v hr hsaved ht _ hhost hw hpush ho hwait => ?_⟩
  · rw [land_accs hw, State.acknowledged, if_pos (List.any_eq_true.mpr ⟨a, ha, by simp [hid, hdone]⟩)]
    rfl
  obtain ⟨hthreads, hfamilies, harrivals⟩ :=
    acknowledged_frame { s with arrivals := s.arrivals.filter fun x => x.id != r.id } r.seq
  have hmem := acknowledged_mem { s with arrivals := s.arrivals.filter fun x => x.id != r.id } r.seq
  have hexec := exec_resultArrival hr hsaved
  generalize { s with arrivals := s.arrivals.filter fun x => x.id != r.id }.acknowledged r.seq = s1
    at hthreads hfamilies harrivals hmem hexec
  have ht1 : s1.thread? r.uid = some t := by rw [State.thread?, hthreads]; exact ht
  have hhost1 : s1.hosted? r.uid = none := by rw [State.hosted?, hfamilies]; exact hhost
  rw [land_register ht1 hhost1 hw hpush ho hwait] at hexec
  obtain ⟨hflags, hreds, hpc, hrun⟩ := landed_frame t r (o := o) v
  obtain ⟨hint, hwide, hext, hpred⟩ := landed_other_values t r (o := o) v
  refine ⟨_, t.landed r o v, hexec, ?_, ?_, ?_, fun x hx => ?_, hflags, hreds, hpc, hrun, landed_other_states t r v, hint, hwide,
    hext, hpred, fun hnot => ?_, fun hp hin => ?_⟩
  · rw [State.thread?, endRun_threads]
    exact thread?_updThread_same ht1 fun x => by split <;> simp [Thread.joined]
  · simpa using hmem
  · simpa using harrivals
  · rw [endRun_threads, mem_updThread_other (fun x => by split <;> simp [Thread.joined]) hx, hthreads]
  · rw [landed_not_taken hnot]
    exact ⟨⟨rfl, rfl, rfl, rfl⟩, rfl⟩
  · rw [landed_taken hp hin]
    exact ⟨states_put_same.1, states_put_same.2, value_put_same (bit_isSome_of_isPend hp)⟩

end Sys2Proof.Machine
end

section
/-! SUPPORT. What a charge, a walk and a record can change at all (R197, R313, R328, R363): the fields that `State.beside` leaves
out, and of a replay the first fault that is recorded for it (R17). -/

namespace Sys2Proof.Machine

/-- A state without what a charge, a walk, a read or write at a home and the end of a wait change. -/
def State.beside (s : State) : State :=
  { s with mem := [], poison := [], accs := [], arrivals := [], pends := [], clusters := [], replays := [], ctxs := [], tlb := [],
           walks := [], freezeOrder := [], events := [], eventSeq := [], out := [], fresh := 0, free := 0 }

/-- The replay is the same, and keeps its fault once it has one. -/
def Replay.goesOn (r r' : Replay) : Prop :=
  r'.uid = r.uid ∧ r'.ctx = r.ctx ∧ r'.graph = r.graph ∧ r'.seq = r.seq ∧ r'.req = r.req ∧ ∀ n, r.fault = some n → r'.fault = some n

theorem Replay.goesOn_refl (r : Replay) : r.goesOn r := ⟨rfl, rfl, rfl, rfl, rfl, fun _ h => h⟩

theorem Replay.goesOn_trans {r r' r'' : Replay} (h : r.goesOn r') (h' : r'.goesOn r'') : r.goesOn r'' := by
  obtain ⟨hu, hc, hg, hs, hq, hf⟩ := h
  obtain ⟨hu', hc', hg', hs', hq', hf'⟩ := h'
  exact ⟨hu'.trans hu, hc'.trans hc, hg'.trans hg, hs'.trans hs, hq'.trans hq, fun n hn => hf' n (hf n hn)⟩

/-- Between two states nothing but what a charge, a walk or a record changes has changed. -/
structure Records (s s' : State) : Prop where
  beside : s'.beside = s.beside
  replays : ∃ f : Replay → Replay, s'.replays = s.replays.map f ∧ ∀ r : Replay, r.goesOn (f r)

theorem Records.of_eq {s s' : State} (hb : s'.beside = s.beside) (hr : s'.replays = s.replays) : Records s s' :=
  ⟨hb, id, by simpa using hr, Replay.goesOn_refl⟩

theorem Records.refl (s : State) : Records s s := .of_eq rfl rfl

theorem Records.trans {s s' s'' : State} (h : Records s s') (h' : Records s' s'') : Records s s'' := by
  obtain ⟨hb, f, hf, hgo⟩ := h
  obtain ⟨hb', f', hf', hgo'⟩ := h'
  exact ⟨hb'.trans hb, f' ∘ f, by rw [hf', hf, List.map_map], fun r => Replay.goesOn_trans (hgo r) (hgo' (f r))⟩

theorem Records.foldl {α : Type} {f : State → α → State} (h : ∀ s a, Records s (f s a)) (xs : List α) (s : State) :
    Records s (xs.foldl f s) := by
  induction xs generalizing s with
  | nil => exact .refl s
  | cons x xs ih => exact (h s x).trans (ih _)

theorem Records.of_pair {α : Type} {s s' : State} {p : α × State} {a : α} (h : Records s p.2) (e : p = (a, s')) : Records s s' := by
  rw [e] at h; exact h

theorem Records.threads {s s' : State} (h : Records s s') : s'.threads = s.threads :=
  show s'.beside.threads = s.beside.threads by rw [h.beside]
theorem Records.cores {s s' : State} (h : Records s s') : s'.cores = s.cores :=
  show s'.beside.cores = s.beside.cores by rw [h.beside]

/-! ## Charges -/

theorem faultReplay_replays (s : State) (rep : Option Nat) (code : Nat) :
    ∃ f : Replay → Replay, (s.faultReplay rep code).replays = s.replays.map f ∧ ∀ r : Replay, r.goesOn (f r) := by
  cases rep with
  | none => exact ⟨id, (List.map_id _).symm, Replay.goesOn_refl⟩
  | some u =>
    refine ⟨fun x => if x.uid == u then { x with fault := some (x.fault.getD code) } else x, rfl, fun r => ?_⟩
    dsimp only
    split
    · exact ⟨rfl, rfl, rfl, rfl, rfl, fun n hn => by simp [hn]⟩
    · exact r.goesOn_refl

theorem records_contextFault (s : State) (i : Nat) (rep : Option Nat) (f : FaultRec) : Records s (s.contextFault i rep f) := by
  obtain ⟨h, -⟩ | ⟨o, e, q, h⟩ := contextFault_shape s i rep f
  · rw [h]; exact .refl s
  · rw [h]; exact ⟨rfl, faultReplay_replays s rep f.code⟩

theorem records_chargeRead (s : State) (e : BitVec 32) (c : Nat) (g : Option Nat) (w : Option Thread) :
    Records s (s.chargeRead e c g w) := records_contextFault ..

theorem records_newFree (s : State) : Records s s.newFree.2 := .of_eq rfl rfl

theorem records_homeRead (s : State) (l : Loc) (n c : Nat) (g : Option Nat) (w : Option Thread) :
    Records s (s.homeRead l n c g w).2 := by
  unfold State.homeRead
  split
  · exact (records_newFree s).trans (records_chargeRead ..)
  · exact .refl s

/-! ## Walks and TLBs -/

theorem records_chargeWalk (s : State) (c : Nat) (read : List Nat) : Records s (s.chargeWalk c read) := by
  unfold State.chargeWalk
  split
  · exact .refl s
  · exact (records_newFree s).trans (.foldl (fun s _ => records_chargeRead ..) _ _)

theorem records_tlbFill (s : State) (l : TlbLeaf) : Records s (s.tlbFill l) := by
  unfold State.tlbFill; dsimp only
  split <;> exact .of_eq rfl rfl

theorem records_tlb (s : State) (t : List TlbLeaf) : Records s { s with tlb := t } := .of_eq rfl rfl

theorem records_walks (s : State) (w : List PageWalk) : Records s { s with walks := w } := .of_eq rfl rfl

theorem records_endWalk (s : State) (x : PageWalk) (va : Nat) : Records s (s.endWalk x va).2 := by
  have h (read : List Nat) := (records_walks s (s.walks.erase x)).trans (records_chargeWalk _ x.ctx read)
  unfold State.endWalk; dsimp only
  split
  · exact (h _).trans (records_tlbFill ..)
  · exact h _

theorem records_walkRoom (s : State) (die : Nat) : Records s (s.walkRoom die) := by
  unfold State.walkRoom
  split
  · split
    · exact records_endWalk ..
    · exact .refl s
  · exact .refl s

theorem records_walkMiss (s : State) (die c va : Nat) : Records s (s.walkMiss die c va).2 := by
  have h : Records s ((s.walkRoom die).walkNow c va).2 := (records_walkRoom s die).trans (records_chargeWalk ..)
  unfold State.walkMiss
  split
  · exact records_endWalk ..
  · split
    · next e => exact (h.of_pair e).trans (records_tlbFill ..)
    · exact h

theorem records_tlbRead (s : State) (u c va : Nat) : Records s (s.tlbRead u c va).2 := by
  unfold State.tlbRead
  split
  · exact .refl s
  · next l _ =>
    split
    · exact (records_tlb s (s.tlb.erase l)).trans (records_contextFault ..)
    · exact .refl s

theorem records_leafOf (s : State) (c p va : Nat) : Records s (s.leafOf c p va).2 := by
  have h1 := records_tlbRead s p c va
  unfold State.leafOf; dsimp only
  split
  · next e => exact h1.of_pair e
  · next s1 e =>
    have h2 := (h1.of_pair e).trans (records_tlbRead s1 (256 + p / 128) c va)
    split
    · next e => exact (h2.of_pair e).trans (records_tlbFill ..)
    · next s2 e =>
      have h3 := (h2.of_pair e).trans (records_walkMiss s2 (p / 128) c va)
      split
      · next e => exact h3.of_pair e
      · next e => exact (h3.of_pair e).trans (records_tlbFill ..)

theorem records_translate (s : State) (c p va : Nat) (w ph : Bool) : Records s (s.translate c p va w ph).2 := by
  have h := records_leafOf s c p va
  unfold State.translate
  split
  · next e => exact h.of_pair e
  · next e =>
    split
    · exact .refl s
    · exact h.of_pair e

/-! ## Writes and records -/

theorem records_reply (s : State) (a : Access) (w : List (Operand × Wide)) (r : Prod) (k : Nat) (b : BitVec 32) (z : Stamp) :
    Records s (s.reply a w r k b z) := by
  obtain h | ⟨o, h⟩ | ⟨x, h⟩ := reply_cases s a w r k b z <;> rw [h]
  · exact .refl s
  · exact .of_eq rfl rfl
  · exact .of_eq rfl rfl

theorem records_settle (s : State) (id : Nat) : Records s (s.settle id) := .of_eq rfl rfl

theorem records_wake (s : State) (l : Loc) (n : Nat) (b : BitVec 32) (z : Stamp) : Records s (s.wake l n b z) := by
  unfold State.wake
  refine .foldl (fun s a => ?_) _ s
  have h := records_homeRead s a.loc a.size a.ctx (some a.group) (a.uid.bind s.thread?)
  dsimp only
  split
  · split
    · exact (h.trans (records_settle _ a.id)).trans (records_reply ..)
    · exact h
  · exact .refl s

theorem records_write (s : State) (l : Loc) (n v : Nat) (p : List Nat) : Records s { s.write l n v with poison := p } :=
  .of_eq rfl rfl

theorem records_homeWrite (s : State) (l : Loc) (n v : Nat) (b : BitVec 32) (z : Stamp) : Records s (s.homeWrite l n v b z) := by
  unfold State.homeWrite
  split
  · exact (records_write s _ n v _).trans (records_wake ..)
  · exact records_write s _ n v _

theorem records_writeVa (s : State) (c p va : Nat) (bs : List Byte) : Records s (s.writeVa c p va bs) := by
  have h := records_translate s c p va true false
  unfold State.writeVa
  split
  · next e => exact (h.of_pair e).trans (records_homeWrite ..)
  · next e => exact h.of_pair e

theorem records_nextRec (s : State) (c z : Nat) : Records s (s.nextRec c z).2 := .of_eq rfl rfl

/-- The end of a wait writes its record and its context's next record number. -/
theorem records_endWait (s : State) (r : Option Replay) (c p z : Nat) (w a : BitVec 32) (k : Nat) (st : Stamp) :
    Records s (s.endWait r c p z w a k st).2 := by
  unfold State.endWait; dsimp only
  split
  · split
    · exact (records_nextRec s c z).trans (records_writeVa ..)
    · exact .refl s
  · exact .refl s

/-- The end of a thread's wait gives it a stamp, beside what the record changes. -/
theorem endThreadWait_shape {s : State} {u : Nat} {t : Thread} (ht : s.thread? u = some t) (a : BitVec 32) (k : Nat) (st : Stamp) :
    ∃ s1 z, s.endThreadWait u a k st = s1.updThread u (fun x => { x with stamp := z }) ∧ Records s s1 := by
  unfold State.endThreadWait
  rw [ht]
  exact ⟨_, _, rfl, records_endWait ..⟩

end Sys2Proof.Machine
end

section
/-! SUPPORT. Traps: what taking one leaves of its thread, its core and the rest (R341 to R344, R353), and the return from one
(R351). -/

namespace Sys2Proof.Machine

/-! ## TRAP_WORD (R53) -/

theorem getLE_lt (m : List Host.Cell) (a n : Nat) : Mem.getLE m a n < 256 ^ n := by
  induction n generalizing a with
  | zero => simp [Mem.getLE]
  | succ n ih =>
    have hb := (Mem.get m a).isLt
    have hrest := ih (a + 1)
    simp only [Mem.getLE, pow_succ]
    omega

/-- The four bytes of an instruction word are those of its two halfwords. -/
theorem toNat_codeAt {s : State} {a : Nat} (h : (s.codeHalf a).getLsbD 0 = true) : (s.codeAt a).toNat = s.read (.code a) 4 := by
  have hlo : Mem.getLE s.mem (Loc.code a).key 2 < 65536 := getLE_lt ..
  have hhi : Mem.getLE s.mem (Loc.code (a + 2)).key 2 < 65536 := getLE_lt ..
  have hsum : Mem.getLE s.mem (Loc.code a).key 4 =
      Mem.getLE s.mem (Loc.code a).key 2 + 65536 * Mem.getLE s.mem (Loc.code (a + 2)).key 2 := by
    simp only [Mem.getLE, Loc.key, Nat.add_assoc, Nat.reduceAdd]
    omega
  rw [State.codeAt, if_pos h]
  simp only [State.codeHalf, State.read, hsum, BitVec.toNat_add, BitVec.toNat_shiftLeft, BitVec.toNat_setWidth, BitVec.toNat_ofNat,
    Nat.shiftLeft_eq]
  omega

/-- A word of four bytes is no ORD. -/
theorem isPrefix_of_long {h : BitVec 16} (hlong : h.getLsbD 0 = true) : isPrefix h = false := by
  rw [isPrefix, beq_eq_false_iff_ne]
  intro htwo
  have hbit := congrArg (BitVec.getLsbD · 0) htwo
  simp only [bits, BitVec.getLsbD_extractLsb', hlong] at hbit
  cases hbit

/-- TRAP_WORD of an illegal word of four bytes is the word. -/
theorem trapWord_illegal {s : State} {a : Nat} (h : (s.codeHalf a).getLsbD 0 = true) :
    (s.trapWord 2 a).1.toNat = s.read (.code a) 4 := by
  simp [State.trapWord, isPrefix_of_long h, toNat_codeAt h]

theorem trapWord_state (s : State) (code a : Nat) : ∃ n, (s.trapWord code a).2 = { s with free := n } := by
  unfold State.trapWord
  split
  · exact ⟨_, rfl⟩
  · split
    · exact ⟨_, rfl⟩
    · exact ⟨_, rfl⟩

/-! ## Taking a trap -/

/-- The address at which a trap stands: the thread's, or that of its sequencer run (R148). -/
def State.trapAddr (s : State) (t : Thread) (p : Port) : Word :=
  if p.seqr then ((s.coreAt t.phys t.core).seqr.map SeqRun.addr).getD t.pc else t.pc

/-- The record that joins the trap queue. -/
def State.trapRecord (s : State) (t : Thread) (p : Port) (tr : Trap) : TrapRec :=
  ⟨t.uid, tr.code, p.seqr, none, tr.deferred, s.trapAddr t p, (s.trapWord tr.code (s.trapAddr t p).toNat).1, tr.data, tr.info⟩

/-- What the trapped thread becomes. -/
def Thread.trappedBy (x : Thread) (p : Port) (pc : Word) (skip : Option Word) (errs : Vector (Option CopyErr) 8) : Thread :=
  { x with run := .trapped (if p.seqr then x.run else x.run.behind fun _ => .running), pc := pc, bpSkip := skip, tokErr := errs,
           wait := none, kept := none }

/-- The core whose queue a record joins; a sequencer run that has trapped stops. -/
def CoreSt.joinedBy (k : CoreSt) (r : TrapRec) : CoreSt :=
  { k with trapQ := k.trapQ ++ [r]
           seqr := if r.seqr then k.seqr.map fun q => { q with stopped := true } else k.seqr }

theorem CoreSt.joinedBy_names (r : TrapRec) (k : CoreSt) : (k.joinedBy r).phys = k.phys ∧ (k.joinedBy r).core = k.core := ⟨rfl, rfl⟩

/-- A thread outside trap service that no debugger holds joins its core's queue. -/
theorem takeTrap_queued {s : State} {t : Thread} {p : Port} {tr : Trap} (hserv : t.isService = false)
    (hheld : (decide (tr.code = 0x12) && ((s.ctx? t.ctx).map (·.attached)).getD false) = false) :
    ∃ n skip errs, s.takeTrap t p tr = (State.updThread { s with free := n } t.uid
      (Thread.trappedBy · p (if p.seqr then t.pc else tr.resume.getD t.pc) skip errs)).updCore t.phys t.core
        (CoreSt.joinedBy · (s.trapRecord t p tr)) := by
  obtain ⟨n, hn⟩ := trapWord_state s tr.code (s.trapAddr t p).toNat
  refine ⟨n, if tr.code == 0x12 && !tr.info.getLsbD 3 then some (s.trapAddr t p) else t.bpSkip, match tr.token with
    | some k => t.tokErr.set k.val none
    | none => t.tokErr, ?_⟩
  unfold State.takeTrap
  simp only [hserv, hheld, Bool.false_eq_true, if_false]
  rw [← hn]
  rfl

/-- What a thread becomes that a debugger holds. -/
def Thread.heldAt (x : Thread) (pc : Word) (skip : Option Word) : Thread :=
  { x with run := .held, pc := pc, bpSkip := skip, wait := none }

/-- A breakpoint of a context with a debugger holds its thread (R353). -/
theorem takeTrap_held {s : State} {t : Thread} {p : Port} {tr : Trap} (hserv : t.isService = false)
    (hheld : (decide (tr.code = 0x12) && ((s.ctx? t.ctx).map (·.attached)).getD false) = true) :
    ∃ skip, s.takeTrap t p tr = (s.updThread t.uid
      (Thread.heldAt · (if p.seqr then t.pc else tr.resume.getD t.pc) skip)).notify t (s.trapAddr t p) tr.info := by
  unfold State.takeTrap
  simp only [hserv, hheld, Bool.false_eq_true, if_false, if_true]
  exact ⟨_, rfl⟩

/-- A trap in trap service is a double trap. -/
theorem takeTrap_double {s : State} {t : Thread} {c : Context} (hserv : t.isService = true) (hc : s.ctx? t.ctx = some c)
    (hfree : c.freeze = none) (p : Port) (tr : Trap) : FrozenBy (s.takeTrap t p tr) t.ctx 0x45 := by
  unfold State.takeTrap
  simp only [hserv, if_true]
  exact frozenBy_contextFault _ _ hc hfree

/-! ## Instructions that trap (R352, R353) -/

/-- An instruction that only traps takes its trap where R42 lets it issue, and charges nothing (R363). -/
theorem attempt_error {s : State} {t : Thread} {p : Port} {i : Instr} {tr : Trap}
    {body : State → Thread → Port → Except Trap State} (h : Issues s t p i) (hn : NoStream s t i) (hcode : tr.code ≠ 0x06)
    (hb : body (s.issued t p i) t p = .error tr) : attempt i s body = .next (s.takeTrap t p tr) := by
  rw [attempt_trap h hn hb, chargeTrap_of_code hcode]

@[simp] theorem issued_ctxs (s : State) (t : Thread) (p : Port) (i : Instr) : (s.issued t p i).ctxs = s.ctxs := by
  simp [State.issued]

@[simp] theorem issued_mem (s : State) (t : Thread) (p : Port) (i : Instr) : (s.issued t p i).mem = s.mem := by
  simp [State.issued]

theorem serving_updCore {s : State} {f : CoreSt → CoreSt} (p c a b : Nat)
    (hf : ∀ k, ((f k).phys = k.phys ∧ (f k).core = k.core) ∧ (f k).serving = k.serving) :
    ((s.updCore p c f).coreAt a b).serving = (s.coreAt a b).serving := by
  rw [coreAt_updCore _ _ _ _ _ _ fun k => (hf k).1]
  split
  · next h => obtain ⟨rfl, rfl⟩ := h; exact (hf _).2
  · rfl

/-- An issue leaves what a core serves. -/
theorem issued_serving (s : State) (t : Thread) (p : Port) (i : Instr) (a b : Nat) :
    ((s.issued t p i).coreAt a b).serving = (s.coreAt a b).serving := by
  unfold State.issued State.advance
  split
  · refine serving_updCore _ _ _ _ fun k => ?_
    exact ⟨⟨rfl, rfl⟩, rfl⟩
  · rfl

/-- An issue leaves the other threads. -/
theorem issued_thread?_other {s : State} {t : Thread} {u : Nat} (h : u ≠ t.uid) (p : Port) (i : Instr) :
    (s.issued t p i).thread? u = s.thread? u := by
  have howe : (s.updThread t.uid fun x => x.oweAll (regsOf i).dsts).thread? u = s.thread? u :=
    thread?_updThread_other (fun x => Thread.oweAll_uid ..) h
  unfold State.issued State.advance
  split
  · rw [State.thread?, State.updCore_threads]; exact howe
  · refine (thread?_updThread_other (fun _ => ?_) h).trans howe
    rfl

/-- HALT outside trap service is a fatal fault of its context (R353). -/
theorem execHalt_freezes {s : State} {t : Thread} {p : Port} {c : Context} (h : Issues s t p .halt)
    (hserving : ∀ r, (s.coreAt t.phys t.core).serving ≠ some (r, t.uid)) (hc : s.ctx? t.ctx = some c) (hfree : c.freeze = none) :
    ∃ s', exec .halt s = .next s' ∧ FrozenBy s' t.ctx 0x44 ∧ s'.mem = s.mem := by
  have hs1 : (((s.issued t p .halt).goto t.uid t.pc).coreAt t.phys t.core).serving = (s.coreAt t.phys t.core).serving :=
    issued_serving ..
  have hc1 : ((s.issued t p .halt).goto t.uid t.pc).ctx? t.ctx = some c := by
    rw [State.ctx?, State.goto, State.updThread_ctxs, issued_ctxs]; exact hc
  refine ⟨((s.issued t p .halt).goto t.uid t.pc).threadContextFault t 0x44 t.pc 0 0, ?_, frozenBy_contextFault _ _ hc1 hfree, ?_⟩
  · refine attempt_ok h (noStream_of_noWide rfl rfl) ?_
    dsimp only
    cases hk : (((s.issued t p .halt).goto t.uid t.pc).coreAt t.phys t.core).serving with
    | none => rfl
    | some x =>
      have hne : x.2 ≠ t.uid := fun hx => hserving x.1 (by rw [← hs1, hk, ← hx])
      dsimp only
      rw [if_neg hne]
  · simp [State.threadContextFault, State.goto]

/-! ## The return from a trap (R351) -/

theorem thread?_dropThread_same (s : State) (u : Nat) : (s.dropThread u).thread? u = none := by
  simp [State.thread?, State.dropThread]

theorem thread?_dropThread_other {s : State} {u w : Nat} (h : w ≠ u) : (s.dropThread u).thread? w = s.thread? w := by
  rw [State.thread?, State.dropThread, List.find?_filter]
  refine List.find?_congr fun x _ => ?_
  by_cases hx : x.uid = w <;> simp [hx, h]

/-- The core once its trap slot is free again: what its sequencer run, its matrix queue and its streams do then (R148, R152,
R174). -/
def CoreSt.returned (k : CoreSt) (r : TrapRec) : CoreSt :=
  { k with serving := none
           seqr := (match k.seqr with
             | some q => if r.seqr then (if q.abandoned then none else some { q with stopped := false }) else some q
             | none => none)
           mq := k.mq.map fun m => if r.mop = some m.id && m.stage = .stuck then { m with stage := .stale } else m
           streams := (match r.deferred with
             | some u => k.streams.set u.val k.streams[u.val].refetch
             | none => k.streams) }

/-- The state of a return before the record of its wait's end: the service thread is gone and the trap slot free. -/
def State.returned (s : State) (phys c svc : Nat) (r : TrapRec) : State :=
  ((s.dropThread svc).setCore ((s.coreAt phys c).returned r)).updThread r.uid fun t => { t with run := t.run.served }

theorem returnTrap_of_serving {s : State} {phys c svc : Nat} {r : TrapRec} (h : (s.coreAt phys c).serving = some (r, svc)) :
    s.returnTrap phys c = (s.returned phys c svc r).endThreadWait r.uid
      (engineId 9 (((s.thread? svc).map Thread.lcore).getD 0)) 12 (((s.thread? svc).map (·.stamp)).getD Stamp.zero) := by
  unfold State.returnTrap
  dsimp only
  rw [h]
  rfl

theorem returned_thread?_served {s : State} {phys c svc : Nat} {r : TrapRec} {v : Thread} (hv : s.thread? r.uid = some v)
    (hne : r.uid ≠ svc) : (s.returned phys c svc r).thread? r.uid = some { v with run := v.run.served } := by
  refine thread?_updThread_same (f := fun t => { t with run := t.run.served }) ?_ fun _ => rfl
  rw [State.thread?, State.setCore_threads]
  exact (thread?_dropThread_other hne).trans hv

theorem returned_thread?_service {s : State} {phys c svc : Nat} {r : TrapRec} (hne : r.uid ≠ svc) :
    (s.returned phys c svc r).thread? svc = none := by
  refine (thread?_updThread_other (fun _ => ?_) hne.symm).trans ?_
  · rfl
  · rw [State.thread?, State.setCore_threads]
    exact thread?_dropThread_same s svc

theorem returned_serving (s : State) (phys c svc : Nat) (r : TrapRec) :
    ((s.returned phys c svc r).coreAt phys c).serving = none := by
  show (((s.dropThread svc).setCore ((s.coreAt phys c).returned r)).coreAt phys c).serving = none
  have hnames : ((s.coreAt phys c).returned r).phys = phys ∧ ((s.coreAt phys c).returned r).core = c := coreAt_names s phys c
  rw [coreAt_setCore, if_pos hnames]
  rfl

/-- The return ends the service thread, and the thread that it served goes on. -/
theorem returnTrap_shape {s : State} {phys c svc : Nat} {r : TrapRec} {v : Thread}
    (hserving : (s.coreAt phys c).serving = some (r, svc)) (hv : s.thread? r.uid = some v) (hne : r.uid ≠ svc) :
    ∃ z, (s.returnTrap phys c).thread? r.uid = some { v with run := v.run.served, stamp := z } ∧
      ((s.returnTrap phys c).coreAt phys c).serving = none ∧ (s.returnTrap phys c).thread? svc = none := by
  have hserved := returned_thread?_served (phys := phys) (c := c) hv hne
  obtain ⟨s1, z, hshape, hrec⟩ := endThreadWait_shape hserved (engineId 9 (((s.thread? svc).map Thread.lcore).getD 0)) 12
    (((s.thread? svc).map (·.stamp)).getD Stamp.zero)
  rw [returnTrap_of_serving hserving, hshape]
  have hthread (u : Nat) : s1.thread? u = (s.returned phys c svc r).thread? u := by
    rw [State.thread?, hrec.threads]; rfl
  refine ⟨z, ?_, ?_, ?_⟩
  · exact thread?_updThread_same (f := fun x => { x with stamp := z }) ((hthread _).trans hserved) fun _ => rfl
  · show (s1.coreAt phys c).serving = none
    rw [coreAt_of_cores hrec.cores]
    exact returned_serving s phys c svc r
  · refine (thread?_updThread_other (fun _ => ?_) hne.symm).trans ((hthread svc).trans (returned_thread?_service hne))
    rfl

/-! ## The clauses of R343, R344 and R353 -/

/-- What stands once a thread outside trap service has taken a trap. -/
theorem takeTrap_saves {s : State} {t : Thread} {p : Port} {tr : Trap} (ht : s.thread? t.uid = some t) (hserv : t.isService = false)
    (hheld : (decide (tr.code = 0x12) && ((s.ctx? t.ctx).map (·.attached)).getD false) = false) :
    ∃ skip errs, (s.takeTrap t p tr).thread? t.uid =
        some (t.trappedBy p (if p.seqr then t.pc else tr.resume.getD t.pc) skip errs) ∧
      ((s.takeTrap t p tr).coreAt t.phys t.core).trapQ = (s.coreAt t.phys t.core).trapQ ++ [s.trapRecord t p tr] ∧
      (s.takeTrap t p tr).accs = s.accs ∧ (s.takeTrap t p tr).arrivals = s.arrivals ∧
      ∀ y ∈ s.threads, y.uid ≠ t.uid → y ∈ (s.takeTrap t p tr).threads := by
  obtain ⟨n, skip, errs, h⟩ := takeTrap_queued (p := p) hserv hheld
  refine ⟨skip, errs, ?_⟩
  rw [h]
  refine ⟨?_, ?_, ?_, ?_, fun y hy hne => ?_⟩
  · rw [State.thread?, State.updCore_threads]
    exact thread?_updThread_same (s := { s with free := n }) ht fun _ => rfl
  · rw [coreAt_updCore _ _ _ _ _ (CoreSt.joinedBy · (s.trapRecord t p tr)) (CoreSt.joinedBy_names _), if_pos ⟨rfl, rfl⟩]
    rfl
  · rw [State.updCore_accs]; rfl
  · rw [State.updCore_arrivals]; rfl
  · rw [State.updCore_threads]
    exact (mem_updThread_other (s := { s with free := n }) (fun _ => by rfl) hne).mpr hy

/-- Settles O55: each clause is the rule of the operation that takes or ends the trap. -/
theorem trapIsTaken : Obligations.TrapIsTaken := by
  intro s t p _ ht
  refine ⟨fun tr => ⟨fun hserv hatt => ?_, fun hserv hcode c hc hatt => ?_, fun hserv c hc hfree =>
    ⟨takeTrap_double hserv hc hfree p tr, takeTrap_mem ..⟩⟩, fun c h => ?_, fun h => ?_, fun hp hu => ⟨?_, fun d hd => ?_⟩,
    fun c h _ hserving hc hfree => execHalt_freezes h hserving hc hfree, fun r v h hserving hne hv => ?_⟩
  · have hheld : (decide (tr.code = 0x12) && ((s.ctx? t.ctx).map (·.attached)).getD false) = false := by
      cases hc : s.ctx? t.ctx with
      | none => simp
      | some c => simpa using fun hcode => hatt hcode c hc
    obtain ⟨skip, errs, hthread, hqueue, haccs, harrivals, hothers⟩ := takeTrap_saves (p := p) ht hserv hheld
    refine ⟨_, _, hthread, rfl, ⟨rfl, rfl, rfl, rfl⟩, rfl, rfl, fun hseq => ?_, fun hseq => ?_, hqueue, rfl, rfl, rfl, rfl, rfl,
      fun hcode => ?_, fun hcode hseq hlong => ?_, takeTrap_mem .., haccs, harrivals, hothers⟩
    · simp [Thread.trappedBy, State.trapRecord, State.trapAddr, hseq]
    · simp [Thread.trappedBy, hseq]
    · simp [State.trapRecord, State.trapWord, hcode]
    · simp only [State.trapRecord, State.trapAddr, hseq, hcode, Bool.false_eq_true, if_false]
      exact trapWord_illegal hlong
  · obtain ⟨skip, h⟩ := takeTrap_held (s := s) (p := p) (tr := tr) hserv (by simp [hcode, hc, hatt])
    have hthread := thread?_updThread_same (f := (Thread.heldAt · (if p.seqr then t.pc else tr.resume.getD t.pc) skip)) ht
      fun _ => rfl
    rw [h]
    exact ⟨_, hthread, rfl, ⟨rfl, rfl, rfl, rfl⟩, rfl, rfl, fun hseq => by simp [Thread.heldAt, hseq], rfl, rfl, rfl⟩
  · exact attempt_error (i := .trap c) h (noStream_of_noWide rfl rfl) (by simp) rfl
  · exact attempt_error (i := .bkpt) h (noStream_of_noWide rfl rfl) (by simp) rfl
  · change execIllegalInstruction s = _
    rw [execIllegalInstruction, hp]
    dsimp only
    rw [hu, ht]
    rfl
  · change execInstructionAddressTrap s = _
    rw [execInstructionAddressTrap, hp]
    dsimp only
    rw [hu, ht]
    dsimp only
    rw [hd]
    rfl
  · have hexec : exec .eret s = .next ((s.issued t p .eret).returnTrap t.phys t.core) :=
      attempt_ok (i := .eret) h (noStream_of_noWide rfl rfl) rfl
    obtain ⟨z, hserved, hfree, hgone⟩ := returnTrap_shape (s := s.issued t p .eret)
      ((issued_serving ..).trans hserving) ((issued_thread?_other hne ..).trans hv) hne
    exact ⟨_, _, hexec, hserved, rfl, rfl, ⟨rfl, rfl, rfl, rfl⟩, rfl, hfree, hgone⟩

end Sys2Proof.Machine
end

section
/-! SUPPORT. Frozen contexts: what the dump, the end of a context's work and the release leave (R368, R369, R371), and the faults
of the watchdogs (R362). -/

namespace Sys2Proof.Machine

/-! ## The dump (R371) -/

theorem aside_writeOut (s : State) (ctx phys n va : Nat) (bs : List Byte) : Aside s (s.writeOut ctx phys n va bs) := by
  induction n generalizing s va bs with
  | zero => exact .refl s
  | succ n ih =>
    unfold State.writeOut
    split
    · exact .refl s
    · exact (aside_writeVa ..).trans (ih ..)

theorem records_writeOut (s : State) (ctx phys n va : Nat) (bs : List Byte) : Records s (s.writeOut ctx phys n va bs) := by
  induction n generalizing s va bs with
  | zero => exact .refl s
  | succ n ih =>
    unfold State.writeOut
    split
    · exact .refl s
    · exact (records_writeVa ..).trans (ih ..)

theorem aside_writeDump (s : State) (c : Context) (z : Freeze) : Aside s (s.writeDump c z).2.2 := by
  unfold State.writeDump
  split
  · exact .refl s
  · exact (aside_writeOut ..).trans (aside_writeVa ..)

theorem records_writeDump (s : State) (c : Context) (z : Freeze) : Records s (s.writeDump c z).2.2 := by
  unfold State.writeDump
  split
  · exact .refl s
  · exact (records_writeOut ..).trans (records_writeVa ..)

/-! ## The end of a context's work (R369) -/

section
variable (st : Replay → BitVec 32) (rs : List Replay) (s : State)

/-- Replays that end one after the other leave one completion each (R17). -/
theorem endReplays_out : (rs.foldl (fun s r => s.endReplay r (st r)) s).out =
    s.out ++ rs.map fun r => .completion r.ctx r.req (completionBytes r.graph r.seq (st r)) := by
  induction rs generalizing s with
  | nil => simp
  | cons r rs ih =>
    rw [List.foldl_cons, ih]
    simp [State.endReplay, State.complete, State.send]

theorem mem_endReplays {x : Replay} (hx : x ∈ (rs.foldl (fun s r => s.endReplay r (st r)) s).replays) :
    x ∈ s.replays ∧ ∀ r ∈ rs, x.uid ≠ r.uid := by
  induction rs generalizing s with
  | nil => exact ⟨hx, by simp⟩
  | cons r rs ih =>
    obtain ⟨hmem, hne⟩ := ih _ hx
    obtain ⟨hs, hr⟩ : x ∈ s.replays ∧ x.uid ≠ r.uid := by
      simpa [State.endReplay, State.complete, State.send] using hmem
    exact ⟨hs, by simpa using ⟨hr, hne⟩⟩

theorem endReplays_keeps {γ : Type} (get : State → γ) (h : ∀ s o p, get { s with out := o, replays := p } = get s) :
    get (rs.foldl (fun s r => s.endReplay r (st r)) s) = get s :=
  foldl_keeps get _ (fun _ _ => h ..) s rs

end

/-- The clusters of a context, cleared and free. -/
def State.freeClusters (s : State) (held : List Nat) : State :=
  held.foldl (fun s p => (s.clearCluster p).updCluster p fun k => { k with ctx := none, stopped := false, saving := false }) s

/-- Clearing clusters changes nothing of the contexts' work but memory and what the clusters hold. -/
theorem freeClusters_frame (s : State) (held : List Nat) : (s.freeClusters held).threads = s.threads ∧
    (s.freeClusters held).groups = s.groups ∧ (s.freeClusters held).replays = s.replays ∧ (s.freeClusters held).ctxs = s.ctxs := by
  refine ⟨foldl_keeps (·.threads) _ (fun s p => ?_) s held, foldl_keeps (·.groups) _ (fun s p => ?_) s held,
    foldl_keeps (·.replays) _ (fun s p => ?_) s held, foldl_keeps (·.ctxs) _ (fun s p => ?_) s held⟩
  all_goals simp [State.clearCluster]

/-- Before its replays end, a context whose work ends has no thread and no group left. -/
theorem endContextWork_shape (s : State) (ctx : Nat) (st : Replay → BitVec 32) : ∃ s1 : State,
    s.endContextWork ctx st = (s.replays.filter fun r => r.ctx == ctx).foldl (fun s r => s.endReplay r (st r)) s1 ∧
      s1.ctxs = s.ctxs ∧ s1.replays = s.replays ∧ (∀ x ∈ s1.threads, x.ctx ≠ ctx) ∧ ∀ x ∈ s1.groups, x.ctx ≠ ctx := by
  refine ⟨State.freeClusters _ _, rfl, ?_⟩
  have hspads {γ : Type} (get : State → γ) (h : ∀ (s : State) (g : Group), get (s.clearSpad g.phys g.spadBase g.spadSize) = get s)
      (s : State) (gs : List Group) : get (gs.foldl (fun s g => s.clearSpad g.phys g.spadBase g.spadSize) s) = get s :=
    foldl_keeps get _ h s gs
  obtain ⟨hthreads, hgroups, hreplays, hctxs⟩ := freeClusters_frame _ _
  refine ⟨hctxs.trans ?_, hreplays.trans ?_, fun x hx => ?_, fun x hx => ?_⟩
  · exact hspads (·.ctxs) (fun _ _ => rfl) ..
  · exact hspads (·.replays) (fun _ _ => rfl) ..
  · rw [hthreads] at hx
    have hforget := (List.mem_filter.mp ((hspads (·.threads) (fun _ _ => rfl) _ _) ▸ hx : x ∈ (s.forgetThreads _).threads))
    rintro rfl
    refine absurd hforget.2 ?_
    simpa using fun h => absurd rfl (h x hforget.1 rfl)
  · rw [hgroups] at hx
    simpa using (List.mem_filter.mp hx).2

/-! ## The release (R369) -/

/-- A frozen context has been released: it is frozen no more, no work of its is left, and each of its replays has ended with one
completion, a replay's own fault before any other. -/
structure Released (s s' : State) (i : Nat) : Prop where
  ctx : ∃ c, s'.ctx? i = some c ∧ c.freeze = none
  threads : ∀ x ∈ s'.threads, x.ctx ≠ i
  groups : ∀ x ∈ s'.groups, x.ctx ≠ i
  replays : ∀ x ∈ s'.replays, x.ctx ≠ i
  done : ∀ r ∈ s.replays, r.ctx = i → ∃ st, Out.completion i r.req (completionBytes r.graph r.seq st) ∈ s'.out ∧
    ∀ n, r.fault = some n → st = BitVec.ofNat 32 n

/-- The end of a context's work, but for the freeze itself. -/
theorem endContextWork_ends (s : State) (ctx code : Nat) {s' : State}
    (h : s' = s.endContextWork ctx fun r => BitVec.ofNat 32 (r.fault.getD code)) :
    s'.ctxs = s.ctxs ∧ (∀ x ∈ s'.threads, x.ctx ≠ ctx) ∧ (∀ x ∈ s'.groups, x.ctx ≠ ctx) ∧
      (∀ x ∈ s'.replays, x.ctx ≠ ctx) ∧
      ∀ r ∈ s.replays, r.ctx = ctx →
        Out.completion ctx r.req (completionBytes r.graph r.seq (BitVec.ofNat 32 (r.fault.getD code))) ∈ s'.out := by
  obtain ⟨s1, heq, hctxs, hreplays, hthreads, hgroups⟩ := endContextWork_shape s ctx fun r => BitVec.ofNat 32 (r.fault.getD code)
  rw [heq] at h
  subst h
  refine ⟨(endReplays_keeps _ _ s1 (·.ctxs) fun _ _ _ => rfl).trans hctxs, fun x hx => ?_, fun x hx => ?_, fun x hx hctx => ?_,
    fun r hr hctx => ?_⟩
  · exact hthreads x ((endReplays_keeps _ _ s1 (·.threads) fun _ _ _ => rfl) ▸ hx)
  · exact hgroups x ((endReplays_keeps _ _ s1 (·.groups) fun _ _ _ => rfl) ▸ hx)
  · obtain ⟨hmem, hne⟩ := mem_endReplays _ _ s1 hx
    exact hne x (by simpa [hctx] using hreplays ▸ hmem) rfl
  · rw [endReplays_out]
    refine List.mem_append_right _ (List.mem_map.mpr ⟨r, by simpa [hctx] using hr, ?_⟩)
    rw [hctx]

theorem foldl_send {α : Type} (f : α → Out) (xs : List α) (s : State) :
    xs.foldl (fun s x => s.send (f x)) s = { s with out := s.out ++ xs.map f } := by
  induction xs generalizing s with
  | nil => simp
  | cons x xs ih =>
    rw [List.foldl_cons, ih]
    simp [State.send]

/-- What answering a suspend request leaves: the work of every context, and which contexts are frozen. -/
theorem suspendDone_frame (s : State) (i : Nat) : (s.suspendDone i).threads = s.threads ∧ (s.suspendDone i).groups = s.groups ∧
    (s.suspendDone i).replays = s.replays ∧ (∀ o ∈ s.out, o ∈ (s.suspendDone i).out) ∧
    ∀ j c, s.ctx? j = some c → ∃ c', (s.suspendDone i).ctx? j = some c' ∧ c'.freeze = c.freeze := by
  unfold State.suspendDone
  split
  · split
    · exact ⟨rfl, rfl, rfl, fun _ h => h, fun j c h => ⟨c, h, rfl⟩⟩
    · rw [foldl_send]
      refine ⟨rfl, rfl, rfl, fun o h => List.mem_append_left _ h, fun j c h => ?_⟩
      have hmap := ctx?_updCtx s i j (fun c => { c with suspendReq := [] }) fun _ => rfl
      rw [h] at hmap
      refine ⟨_, hmap, ?_⟩
      dsimp only
      split <;> rfl
  · exact ⟨rfl, rfl, rfl, fun _ h => h, fun j c h => ⟨c, h, rfl⟩⟩

/-- A context that is frozen no more; `n`: the bytes of its dump. -/
def Context.thawed (x c : Context) (n : Nat) : Context :=
  { x with freeze := none, dumpAt := if n = 0 then x.dumpAt else some (c.dumpBase.toNat % 2 ^ 52, n) }

/-- The state once a context is frozen no more. -/
def State.thawed (s : State) (c : Context) (n : Nat) : State :=
  { s.updCtx c.id (Context.thawed · c n) with freezeOrder := s.freezeOrder.filter (· != c.id) }

/-- A release ends the context's work, after its dump, and its freeze. -/
theorem release_released {s : State} {c : Context} (z : Freeze) (dump byDebugger : Bool) (hc : s.ctx? c.id = some c) :
    Released s (s.release c z dump byDebugger) c.id := by
  unfold State.release
  dsimp only
  generalize hw : (if dump then s.writeDump c z else (0, false, s)) = w
  have haside : Aside s w.2.2 := by
    rw [← hw]
    split
    · exact aside_writeDump ..
    · exact .refl s
  have hrecords : Records s w.2.2 := by
    rw [← hw]
    split
    · exact records_writeDump ..
    · exact .refl s
  generalize he : w.2.2.endContextWork c.id _ = e
  obtain ⟨hctxs, hthreads, hgroups, hreplays, hdone⟩ := endContextWork_ends w.2.2 c.id _ he.symm
  obtain ⟨c0, hc0⟩ : ∃ c0, e.ctx? c.id = some c0 := by
    have hctl := haside.fpCtl c.id
    rw [hc] at hctl
    rw [State.ctx?, hctxs]
    exact (Option.map_eq_some_iff.mp hctl).imp fun _ h => h.1
  have hfreed : (e.thawed c w.1).ctx? c.id = some (c0.thawed c w.1) := ctx?_updCtx_same hc0 fun _ => by rfl
  obtain ⟨ev, q, hreport⟩ := report_shape (e.thawed c w.1) moduleId 12 (BitVec.ofNat 16 c.id)
    (BitVec.ofNat 64 (w.1 % 2 ^ 32 + (if w.2.1 then 2 ^ 32 else 0) + if byDebugger then 2 ^ 33 else 0))
  obtain ⟨hthreads', hgroups', hreplays', hout', hctx'⟩ :=
    suspendDone_frame { e.thawed c w.1 with events := ev, eventSeq := q } c.id
  change Released s (((e.thawed c w.1).report _ _ _ _).suspendDone c.id) c.id
  rw [hreport]
  refine ⟨hctx' c.id _ hfreed, fun x hx => ?_, fun x hx => ?_, fun x hx => ?_, fun r hr hctx => ?_⟩
  · exact hthreads x (hthreads' ▸ hx)
  · exact hgroups x (hgroups' ▸ hx)
  · exact hreplays x (hreplays' ▸ hx)
  · obtain ⟨-, f, hf, hgo⟩ := hrecords
    obtain ⟨-, hctxf, hgraph, hseq, hreq, hfault⟩ := hgo r
    have hsent := hout' _ (hdone (f r) (by rw [hf]; exact List.mem_map_of_mem hr) (hctxf.trans hctx))
    rw [hgraph, hseq, hreq] at hsent
    exact ⟨_, hsent, fun n hn => by rw [hfault n hn]; rfl⟩

/-! ## FREEZE_COMPLETE and FREEZE_LIMIT_EXPIRY -/

/-- No freeze that is due stands before the context's: the dump writer is free for it. -/
theorem writerBusy_eq_false {s : State} {i : Nat}
    (h : ∀ j ∈ s.freezeOrder.takeWhile (· != i), ∀ x, s.ctx? j = some x → x.due s.now = false) : s.writerBusy i = false := by
  rw [State.writerBusy, List.any_eq_false]
  intro j hj
  cases hx : s.ctx? j with
  | none => simp
  | some x => simp [h j hj x hx]

theorem writerBusy_eq_true {s : State} {i : Nat}
    (h : ∃ j ∈ s.freezeOrder.takeWhile (· != i), ∃ x, s.ctx? j = some x ∧ x.due s.now = true) : s.writerBusy i = true := by
  obtain ⟨j, hj, x, hx, hdue⟩ := h
  exact List.any_eq_true.mpr ⟨j, hj, by simp [hx, hdue]⟩

theorem tryRelease_of_no_request {s : State} {i : Nat} {c : Context} (hc : s.ctx? i = some c) (h : c.releaseReq = none) :
    s.tryRelease i = s := by
  unfold State.tryRelease
  rw [hc]
  simp [h]

/-- A release that a debugger has asked for is done where the freeze is complete and the dump writer is free. -/
theorem tryRelease_of_free {s : State} {c : Context} {z : Freeze} {t : Nat} {h : Hdr} {dump : Bool} (hc : s.ctx? c.id = some c)
    (hz : c.freeze = some z) (ht : z.complete = some t) (hreq : c.releaseReq = some (h, dump)) (hfree : s.writerBusy c.id = false) :
    s.tryRelease c.id =
      ((s.release c z dump true).updCtx c.id fun x => { x with releaseReq := none }).send (.reply h 0x29 0 []) := by
  unfold State.tryRelease
  rw [hc]
  dsimp only
  rw [hz, hreq]
  simp only [ht, hfree, Option.isNone_some, Bool.and_false, Bool.or_self, Bool.false_eq_true, if_false]

/-- Once its request is answered, a release is what it was. -/
theorem Released.answered {s s' : State} {i : Nat} (hr : Released s s' i) (h : Hdr) :
    Released s ((s'.updCtx i fun x => { x with releaseReq := none }).send (.reply h 0x29 0 [])) i ∧
      ∃ c, ((s'.updCtx i fun x => { x with releaseReq := none }).send (.reply h 0x29 0 [])).ctx? i = some c ∧ c.freeze = none ∧
        c.releaseReq = none := by
  obtain ⟨⟨c, hc, hthaw⟩, hthreads, hgroups, hreplays, hdone⟩ := hr
  have hctx := ctx?_updCtx_same (f := fun x => { x with releaseReq := none }) hc fun _ => rfl
  refine ⟨⟨⟨_, hctx, hthaw⟩, hthreads, hgroups, hreplays, fun r hr hi => ?_⟩, _, hctx, hthaw, rfl⟩
  obtain ⟨st, hst, hf⟩ := hdone r hr hi
  exact ⟨st, List.mem_append_left _ hst, hf⟩

theorem tryRelease_released {s : State} {c : Context} {z : Freeze} {t : Nat} {h : Hdr} {dump : Bool} (hc : s.ctx? c.id = some c)
    (hz : c.freeze = some z) (ht : z.complete = some t) (hreq : c.releaseReq = some (h, dump)) (hfree : s.writerBusy c.id = false) :
    Released s (s.tryRelease c.id) c.id ∧
      (∃ c', (s.tryRelease c.id).ctx? c.id = some c' ∧ c'.freeze = none ∧ c'.releaseReq = none) ∧
      Out.reply h 0x29 0 [] ∈ (s.tryRelease c.id).out := by
  have hreleased := (release_released z dump true hc).answered h
  rw [tryRelease_of_free hc hz ht hreq hfree]
  exact ⟨hreleased.1, hreleased.2, List.mem_append_right _ (List.mem_singleton.mpr rfl)⟩

/-- When the dump writer is to serve a freeze that is complete. -/
theorem due_of_complete {c : Context} {z : Freeze} {t : Nat} (hz : c.freeze = some z) (ht : z.complete = some t) (now : Nat) :
    c.due now = ((z.expires.map fun e => decide (e ≤ now)).getD false || (c.releaseReq.map (·.2)).getD false) := by
  rw [Context.due, hz]
  simp [ht]

/-- What the event does for a frozen context. -/
theorem exec_freezeLimitExpiry {s : State} {i : Nat} {c : Context} {z : Freeze} (hc : s.ctx? i = some c) (hz : c.freeze = some z) :
    exec (.freezeLimitExpiry i) s = .next (if !c.due s.now || s.writerBusy i then s
      else if c.releaseReq.isSome then s.tryRelease i else s.release c z true false) := by
  change execFreezeLimitExpiry i s = _
  simp only [execFreezeLimitExpiry, hc, hz]

/-- A freeze whose turn has come is released. -/
theorem freezeLimitExpiry_releases {s : State} {c : Context} {z : Freeze} {t : Nat} (hc : s.ctx? c.id = some c)
    (hz : c.freeze = some z) (ht : z.complete = some t) (hdue : c.due s.now = true) (hfree : s.writerBusy c.id = false) :
    ∃ s', exec (.freezeLimitExpiry c.id) s = .next s' ∧ Released s s' c.id := by
  rw [exec_freezeLimitExpiry hc hz]
  simp only [hdue, hfree, Bool.not_true, Bool.or_false, Bool.false_eq_true, if_false]
  cases hreq : c.releaseReq with
  | none => exact ⟨_, rfl, release_released z true false hc⟩
  | some x => exact ⟨_, rfl, (tryRelease_released hc hz ht hreq hfree).1⟩

/-- The freeze once its drain has ended: its limit timer runs unless a debugger is attached. -/
def Freeze.completed (z : Freeze) (c : Context) (now : Nat) : Freeze :=
  { z with complete := some now, expires := if c.attached then none else some (now + z.left), debugged := z.debugged || c.attached }

/-- A frozen context whose clusters have all stopped and drained: the freeze is complete (R368). -/
theorem freezeComplete_completes {s : State} {c : Context} {z : Freeze} (hc : s.ctx? c.id = some c) (hz : c.freeze = some z)
    (hopen : z.complete = none) (hreq : c.releaseReq = none) (hheld : ∀ k ∈ s.clusters, k.ctx = some c.id →
      (s.clusterAt k.phys).stopped = true ∧ (s.clusterAt k.phys).saving = false ∧ s.clusterDrained k.phys = true) :
    exec (.freezeComplete c.id) s = .next (s.updCtx c.id fun x => { x with freeze := some (z.completed c s.now) }) := by
  have hall : ((s.heldClusters c.id).all fun p => (s.clusterAt p).stopped && !(s.clusterAt p).saving && s.clusterDrained p) = true := by
    simp only [State.heldClusters, List.all_eq_true, List.mem_map, List.mem_filter]
    rintro p ⟨k, ⟨hk, hctx⟩, rfl⟩
    obtain ⟨hstop, hsave, hdrained⟩ := hheld k hk (by simpa using hctx)
    simp [hstop, hsave, hdrained]
  change execFreezeComplete c.id s = _
  simp only [execFreezeComplete, hc, hz, hopen, hall, Option.isSome_none, Bool.not_true, Bool.or_false, Bool.false_eq_true, if_false]
  refine congrArg Host.Outcome.next (tryRelease_of_no_request (ctx?_updCtx_same hc fun _ => by rfl) hreq)

/-! ## Watchdogs (R362) -/

/-- Each of the contexts that one fault after the other is recorded for is frozen by its own. -/
theorem frozenBy_foldl {f : State → Nat → State} {code : Nat}
    (hf : ∀ s i, ∃ (rep : Option Nat) (r : FaultRec), r.code = code ∧ f s i = s.contextFault i rep r) {cs : List Nat} {s : State}
    {ctx : Nat} {c : Context} (hnodup : cs.Nodup) (hmem : ctx ∈ cs) (hc : s.ctx? ctx = some c) (hfree : c.freeze = none) :
    FrozenBy (cs.foldl f s) ctx code := by
  have keep : ∀ (cs : List Nat) (s : State), ctx ∉ cs → FrozenBy s ctx code → FrozenBy (cs.foldl f s) ctx code := by
    intro cs
    induction cs with
    | nil => exact fun _ _ h => h
    | cons i cs ih =>
      intro s hn h
      obtain ⟨hi, hcs⟩ := not_or.mp (mt List.mem_cons.mpr hn)
      obtain ⟨rep, rec, -, hfi⟩ := hf s i
      exact ih _ hcs (hfi ▸ h.contextFault hi rep rec)
  induction cs generalizing s with
  | nil => cases hmem
  | cons i cs ih =>
    obtain ⟨hi, hcs⟩ := List.nodup_cons.mp hnodup
    obtain ⟨rep, rec, hcode, hfi⟩ := hf s i
    rw [List.foldl_cons, hfi]
    rcases List.mem_cons.mp hmem with rfl | hrest
    · exact keep cs _ hi (hcode ▸ frozenBy_contextFault rep rec hc hfree)
    · have hne : c.id ≠ i := fun h => hi (h ▸ (ctx?_id hc).symm ▸ hrest)
      exact ih hcs hrest (by rw [contextFault_ctx?, hc]; simp [hne])

/-- The state once a unit's watchdog has been reported and counted. -/
def State.timedOut (s : State) (u : UnitId) : State :=
  let s' := s.report (s.unitSource u) 6 0xFFFF (zext64 (s.unitId u))
  match UnitId.cluster u with
  | some p => s'.countFault p
  | none => s'

theorem timedOut_frame (s : State) (u : UnitId) : (s.timedOut u).mem = s.mem ∧ (s.timedOut u).ctxs = s.ctxs := by
  unfold State.timedOut
  cases UnitId.cluster u <;> simp [State.countFault]

/-- The watchdog fault of a context with work in a unit. -/
def State.watchdogFault (src : BitVec 32) (s : State) (c : Nat) : State :=
  s.unitFault c ((s.replays.find? fun r => r.ctx == c).map (·.uid)) 0x47 src

theorem unitFault_eq (s : State) (c : Nat) (rep : Option Nat) (code : Nat) (src : BitVec 32) :
    s.unitFault c rep code src = s.contextFault c rep ⟨code, src, s.now, 0, 0, 0, 0, 0, 0, 0, 0⟩ := rfl

theorem watchdogFault_eq (src : BitVec 32) (s : State) (c : Nat) :
    ∃ (rep : Option Nat) (f : FaultRec), f.code = 0x47 ∧ State.watchdogFault src s c = s.contextFault c rep f := by
  refine ⟨_, _, ?_, unitFault_eq ..⟩
  rfl

theorem exec_unitWatchdog (s : State) (u : UnitId) : exec (.unitWatchdog u) s =
    .next (if (s.workIn u).isEmpty then s else (s.workIn u).foldl (State.watchdogFault (s.unitSource u)) (s.timedOut u)) := rfl

theorem workIn_nodup (s : State) (u : UnitId) : (s.workIn u).Nodup := List.nodup_dedup _

/-- UNIT_WATCHDOG freezes every context that has work in the unit. -/
theorem unitWatchdog_freezes {s : State} {u : UnitId} (hwork : s.workIn u ≠ []) : ∃ s', exec (.unitWatchdog u) s = .next s' ∧
    s'.mem = s.mem ∧ ∀ c x, c ∈ s.workIn u → s.ctx? c = some x → x.freeze = none → FrozenBy s' c 0x47 := by
  obtain ⟨hmem, hctxs⟩ := timedOut_frame s u
  have hnodup := workIn_nodup s u
  have hexec := exec_unitWatchdog s u
  generalize s.workIn u = cs at hwork hnodup hexec
  generalize s.timedOut u = s1 at hmem hctxs hexec
  rw [if_neg (by simpa using hwork)] at hexec
  refine ⟨_, hexec, (foldl_keeps State.mem (State.watchdogFault _) (fun s c => contextFault_mem ..) s1 cs).trans hmem,
    fun c x hc hx hfree => ?_⟩
  have hx1 : s1.ctx? c = some x := by rw [State.ctx?, hctxs]; exact hx
  exact frozenBy_foldl (watchdogFault_eq _) hnodup hc hx1 hfree

/-- PROGRESS_WATCHDOG freezes the context of the group's thread whose wait the device owes an end. -/
theorem progressWatchdog_freezes {s : State} {g : Group} {t : Thread} {x : Context} (hg : s.group? g.uid = some g)
    (hst : g.st = .running) (hstop : (s.clusterAt g.phys).stopped = false) (hwaking : s.waking g.phys = false)
    (hrun : ∀ y ∈ s.threads, y.group = g.uid → y.run.isTrapped = false ∧ y.run ≠ .held)
    (ht : s.threads.find? (fun y => y.group == g.uid && (y.run == .running && s.owedWait y)) = some t)
    (hx : s.ctx? t.ctx = some x) (hfree : x.freeze = none) :
    ∃ s', exec (.progressWatchdog g.uid) s = .next s' ∧ FrozenBy s' t.ctx 0x47 ∧ s'.mem = s.mem := by
  have hpaused : ((s.threads.filter fun t => t.group == g.uid).any fun t => t.run.isTrapped || t.run == .held) = false := by
    simp only [List.any_eq_false, List.mem_filter]
    rintro y ⟨hy, hgroup⟩
    obtain ⟨htrap, hheld⟩ := hrun y hy (by simpa using hgroup)
    simp [htrap, hheld]
  have hfind : (s.threads.filter fun t => t.group == g.uid).find? (fun t => t.run == .running && s.owedWait t) = some t := by
    simpa only [List.find?_filter, Bool.decide_and, Bool.decide_eq_true] using ht
  have hexec : exec (.progressWatchdog g.uid) s = execProgressWatchdog g.uid s := rfl
  simp only [execProgressWatchdog, hg, hst, hstop, hwaking, hpaused, hfind, bne_self_eq_false, Bool.or_self, Bool.false_eq_true,
    if_false] at hexec
  refine ⟨_, hexec, frozenBy_contextFault _ _ ?_ hfree, ?_⟩
  · rw [State.ctx?, State.countFault, State.updCluster_ctxs, State.report_ctxs]
    exact hx
  · simp [State.threadContextFault]

/-! ## TRAP_SERVICE_START (R344, R345) -/

theorem isFull_withFlags (t : Thread) (f : BitVec 5) (o : Operand) : { t with flags := f }.isFull o = t.isFull o := rfl

theorem int_withFlags (t : Thread) (f : BitVec 5) (r : IReg) : { t with flags := f }.int r = t.int r := rfl

section
variable (s : State) (x : Context) (g : Graph) (v : Thread)

/-- The service thread before its registers are set. -/
def State.serviceFrame : Thread :=
  ({ Thread.blank s.fresh (.service v.uid) v.ctx v.group g.id v.phys v.lcl v.core 63 with
     delegated := v.delegated, window := vecWindow x.trapVec, pc := vecAddr x.trapVec, handle := engineId 9 v.lcore,
     stamp := v.stamp } : Thread).setFpWord x.fpCtl

theorem serviceThread_eq : s.serviceThread x g v = { (s.serviceFrame x g v).zeros with flags := 0 } := rfl

/-- Where a service thread starts. -/
theorem serviceThread_place : (s.serviceThread x g v).kind = .service v.uid ∧ (s.serviceThread x g v).run = .running ∧
    (s.serviceThread x g v).slot = 63 ∧ (s.serviceThread x g v).phys = v.phys ∧ (s.serviceThread x g v).core = v.core ∧
    (s.serviceThread x g v).flags = 0 ∧ (s.serviceThread x g v).stamp = v.stamp := by
  obtain ⟨hkind, hrun, -, -, -, hphys, -, hcore, hslot, -, -⟩ := zeros_frame (s.serviceFrame x g v)
  rw [serviceThread_eq]
  exact ⟨hkind, hrun, hslot, hphys, hcore, rfl, zeros_keeps _ Thread.put_stamp (s.serviceFrame x g v)⟩

/-- Its body and its window are TRAP_VEC's. -/
theorem serviceThread_vector : (s.serviceThread x g v).pc.toNat = x.trapVec.toNat % 2 ^ 18 ∧
    (s.serviceThread x g v).window.toNat = x.trapVec.toNat / 2 ^ 18 % 2 ^ 16 := by
  obtain ⟨-, -, -, -, -, -, -, -, -, hwindow, hpc⟩ := zeros_frame (s.serviceFrame x g v)
  rw [serviceThread_eq]
  dsimp only
  rw [hpc, hwindow]
  change (vecAddr x.trapVec).toNat = _ ∧ (vecWindow x.trapVec).toNat = _
  constructor
  all_goals simp only [vecAddr, vecWindow, zext64, bits, BitVec.toNat_setWidth, BitVec.extractLsb'_toNat, Nat.shiftRight_eq_div_pow]
  omega

/-- Its d and g registers are FULL and zero, its locals EMPTY (R39). -/
theorem serviceThread_registers :
    (∀ i, (s.serviceThread x g v).isFull (.int (.d i)) = true ∧ (s.serviceThread x g v).int (.d i) = 0) ∧
    (∀ i, (s.serviceThread x g v).isFull (.int (.g i)) = true ∧ (s.serviceThread x g v).int (.g i) = 0) ∧
    ∀ i, (s.serviceThread x g v).isFull (.int (.l i)) = false := by
  have hfull (o : Operand) : (s.serviceThread x g v).isFull o = (s.serviceFrame x g v).zeros.isFull o := isFull_withFlags ..
  have hint (r : IReg) : (s.serviceThread x g v).int r = (s.serviceFrame x g v).zeros.int r := int_withFlags ..
  have hempty : (s.serviceFrame x g v).full = 0 := rfl
  have hzero : (s.serviceFrame x g v).ints = Vector.replicate 31 0 := rfl
  simp only [hfull, hint, isFull_zeros hempty, int_zeros hzero, and_self, implies_true]

end

section
variable {s : State} {phys c : Nat} {r : TrapRec} {rest : List TrapRec} {v : Thread} {x : Context}
  (hq : (s.coreAt phys c).trapQ = r :: rest) (hserving : (s.coreAt phys c).serving = none)
include hq hserving

/-- A record whose thread has ended leaves the queue. -/
theorem trapServiceStart_ended (h : ∀ v, s.thread? r.uid = some v → v.live = false) :
    exec (.trapServiceStart phys c) s = .next (s.setCore { s.coreAt phys c with trapQ := rest }) := by
  have hexec : exec (.trapServiceStart phys c) s = execTrapServiceStart phys c s := rfl
  rw [hexec]
  cases hv : s.thread? r.uid with
  | none => simp only [execTrapServiceStart, hq, hserving, hv]
  | some v => simp only [execTrapServiceStart, hq, hserving, hv, h v hv, Bool.not_false, if_true]

variable (hv : s.thread? r.uid = some v) (hlive : v.live = true) (hstop : (s.clusterAt phys).stopped = false)
  (hx : s.ctx? v.ctx = some x) (hw : s.writesArrived v = true) (ha : s.accessesDone v = true)
include hv hlive hstop hx hw ha

/-- Once what the thread issued has drained, its service starts. -/
theorem trapServiceStart_starts {g : Graph} (hg : s.serviceGraph x = some g) : exec (.trapServiceStart phys c) s =
    .next { s.setCore { s.coreAt phys c with trapQ := rest, serving := some (r, (s.serviceThread x g v).uid) } with
      threads := s.threads ++ [s.serviceThread x g v], fresh := s.fresh + 1 } := by
  have hexec : exec (.trapServiceStart phys c) s = execTrapServiceStart phys c s := rfl
  rw [hexec]
  simp only [execTrapServiceStart, hq, hserving, hv, hlive, hstop, hx, hw, ha, hg, Bool.not_true, Bool.or_self,
    Bool.false_eq_true, if_false]

/-- A trap that no body serves is fatal with its own code. -/
theorem trapServiceStart_unserved (hg : s.serviceGraph x = none) (hfree : x.freeze = none) :
    ∃ s', exec (.trapServiceStart phys c) s = .next s' ∧ FrozenBy s' v.ctx r.code := by
  refine ⟨s.threadContextFault v r.code r.addr r.data r.info, ?_, frozenBy_contextFault _ _ hx hfree⟩
  have hexec : exec (.trapServiceStart phys c) s = execTrapServiceStart phys c s := rfl
  rw [hexec]
  simp only [execTrapServiceStart, hq, hserving, hv, hlive, hstop, hx, hw, ha, hg, Bool.not_true, Bool.or_self,
    Bool.false_eq_true, if_false]

end

/-- Settles O45: each clause is the rule of its event. -/
theorem trapServiceAndFreezes : Obligations.TrapServiceAndFreezes := by
  intro s
  refine ⟨fun phys c r rest v x hq hserving hv hlive hstop hx hw ha =>
      ⟨fun g hg => ?_, trapServiceStart_unserved hq hserving hv hlive hstop hx hw ha⟩,
    fun phys c r rest hq hserving h => trapServiceStart_ended hq hserving h,
    fun c z hc hz hopen hreq hheld => freezeComplete_completes hc hz hopen hreq hheld,
    fun c z t e hc hz ht he => ⟨fun hlt hreq => ?_, fun hle hturn => ?_⟩,
    fun c z t h hc hz ht hreq => ⟨fun hbusy => ?_, fun hturn => ?_⟩,
    fun u => ⟨fun hwork => ?_, unitWatchdog_freezes⟩,
    fun g t x hg hst hstop hwaking hrun ht hx hfree => progressWatchdog_freezes hg hst hstop hwaking hrun ht hx hfree⟩
  · obtain ⟨hkind, hrun, hslot, hphys, hcore, hflags, hstamp⟩ := serviceThread_place s x g v
    obtain ⟨hpc, hwindow⟩ := serviceThread_vector s x g v
    obtain ⟨hd, hgl, hl⟩ := serviceThread_registers s x g v
    have hexec := trapServiceStart_starts hq hserving hv hlive hstop hx hw ha hg
    generalize s.serviceThread x g v = t at *
    have hnames := coreAt_names s phys c
    have hcoreAt : (s.setCore { s.coreAt phys c with trapQ := rest, serving := some (r, t.uid) }).coreAt phys c =
        { s.coreAt phys c with trapQ := rest, serving := some (r, t.uid) } := by
      rw [coreAt_setCore, if_pos hnames]
    refine ⟨_, t, hexec, rfl, hkind, hrun, hslot, hphys, hcore, hflags, hpc, hwindow, hd, hgl, hl, hstamp,
      congrArg CoreSt.serving hcoreAt, congrArg CoreSt.trapQ hcoreAt, State.setCore_mem ..⟩
  · have hdue : c.due s.now = false := by simp [due_of_complete hz ht, he, hreq, hlt]
    rw [exec_freezeLimitExpiry hc hz, hdue]
    rfl
  · have hdue : c.due s.now = true := by simp [due_of_complete hz ht, he, hle]
    obtain ⟨s', hexec, ⟨c', hc', hthaw⟩, hthreads, hgroups, hreplays, hdone⟩ :=
      freezeLimitExpiry_releases hc hz ht hdue (writerBusy_eq_false hturn)
    exact ⟨s', c', hexec, hc', hthaw, hthreads, hgroups, hreplays, hdone⟩
  · rw [exec_freezeLimitExpiry hc hz, writerBusy_eq_true hbusy, Bool.or_true]
    rfl
  · have hdue : c.due s.now = true := by simp [due_of_complete hz ht, hreq]
    have hfree := writerBusy_eq_false hturn
    obtain ⟨-, ⟨c', hc', hthaw, hanswered⟩, hreply⟩ := tryRelease_released hc hz ht hreq hfree
    refine ⟨s.tryRelease c.id, c', ?_, hc', hthaw, hanswered, hreply⟩
    rw [exec_freezeLimitExpiry hc hz, hdue, hfree, hreq]
    rfl
  · rw [exec_unitWatchdog, hwork]
    rfl

end Sys2Proof.Machine
end

section
/-! SUPPORT. Integer instructions: one operation delivers their result, and the arithmetic of the model is that of the spec's
tables (R55 to R63). -/

namespace Sys2Proof.Machine

/-! ## The operations (R37) -/

/-- The instruction is the integer operation that owes `d` the value of `f`, and names no wide register. -/
structure IsIntOp (i : Instr) (d : IReg) (f : Thread → Word) : Prop where
  exec_eq : ∀ s, exec i s = intOp i s d f
  noStream : ∀ s t, NoStream s t i

/-- An integer operation issues with its result on its way. -/
theorem IsIntOp.issues {s : State} {t : Thread} {p : Port} {i : Instr} {d : IReg} {f : Thread → Word} (hi : IsIntOp i d f)
    (h : Issues s t p i) : exec i s = .next ((s.issued t p i).result t p [(.int d, (f t).setWidth 256)] .alu none) :=
  (hi.exec_eq s).trans (compute_ok h (hi.noStream s t))

/-- A predicate operation issues with a condition and its negation on their way. -/
theorem predOp_issues {s : State} {t : Thread} {p : Port} {i : Instr} (h : Issues s t p i) (hn : NoStream s t i) (x y : PReg)
    {f : Thread → Bool} {c : Bool} (hc : f t = c) : predOp i s x y f = .next ((s.issued t p i).result t p
      [(.pred x, if c then 1 else 0), (.pred y, if c then 0 else 1)] .alu none) := by
  subst hc
  refine (compute_ok h hn).trans ?_
  cases f t <;> simp [predResult, boolWord]

/-! ## Shifts, bounds and saturation (R55) -/

theorem amount_eq (b : Word) : amount b = b.toNat % 64 := by
  simp [amount, BitVec.extractLsb'_toNat]

theorem minSigned_eq_pick (a b : Word) : minSigned a b = pick (decide (a.toInt ≤ b.toInt)) a b := by
  unfold minSigned pick
  rw [BitVec.slt_eq_decide]
  by_cases he : a = b
  · simp [he]
  · have hne : a.toInt ≠ b.toInt := fun h => he (BitVec.toInt_inj.mp h)
    simp [lt_iff_le_and_ne, hne]

theorem maxSigned_eq_pick (a b : Word) : maxSigned a b = pick (decide (a.toInt ≤ b.toInt)) b a := by
  unfold maxSigned pick
  rw [BitVec.slt_eq_decide]
  by_cases he : a = b
  · simp [he]
  · have hne : a.toInt ≠ b.toInt := fun h => he (BitVec.toInt_inj.mp h)
    simp [lt_iff_le_and_ne, hne]

theorem minUnsigned_eq_pick (a b : Word) : minUnsigned a b = pick (decide (a.toNat ≤ b.toNat)) a b := by
  unfold minUnsigned pick
  rw [BitVec.ult_eq_decide]
  by_cases he : a = b
  · simp [he]
  · have hne : a.toNat ≠ b.toNat := fun h => he (BitVec.toNat_inj.mp h)
    simp [lt_iff_le_and_ne, hne]

theorem maxUnsigned_eq_pick (a b : Word) : maxUnsigned a b = pick (decide (a.toNat ≤ b.toNat)) b a := by
  unfold maxUnsigned pick
  rw [BitVec.ult_eq_decide]
  by_cases he : a = b
  · simp [he]
  · have hne : a.toNat ≠ b.toNat := fun h => he (BitVec.toNat_inj.mp h)
    simp [lt_iff_le_and_ne, hne]

/-- Saturation to the signed range: the nearer bound of a value outside it, and the wrapped value of one inside. -/
theorem satSigned_eq (x : Int) : satSigned x = if x < -2 ^ 63 then BitVec.ofInt 64 (-2 ^ 63)
    else if 2 ^ 63 - 1 < x then BitVec.ofInt 64 (2 ^ 63 - 1) else BitVec.ofInt 64 x := by
  unfold satSigned
  split
  · rw [show max (-(2 ^ 63)) (min (2 ^ 63 - 1) x) = -2 ^ 63 by omega]
  · split
    · rw [show max (-(2 ^ 63)) (min (2 ^ 63 - 1) x) = 2 ^ 63 - 1 by omega]
    · rw [show max (-(2 ^ 63)) (min (2 ^ 63 - 1) x) = x by omega]

theorem ofInt_toInt_add (a b : Word) : BitVec.ofInt 64 (a.toInt + b.toInt) = a + b := by
  rw [BitVec.ofInt_add, BitVec.ofInt_toInt, BitVec.ofInt_toInt]

theorem ofInt_toInt_sub (a b : Word) : BitVec.ofInt 64 (a.toInt - b.toInt) = a - b := by
  rw [Int.sub_eq_add_neg, BitVec.ofInt_add, BitVec.ofInt_neg, BitVec.ofInt_toInt, BitVec.ofInt_toInt, BitVec.sub_eq_add_neg]

theorem satUnsigned_add (a b : Word) : satUnsigned ((a.toNat : Int) + b.toNat) =
    if 2 ^ 64 ≤ a.toNat + b.toNat then BitVec.allOnes 64 else a + b := by
  unfold satUnsigned
  split
  · rw [show max 0 (min (2 ^ 64 - 1) ((a.toNat : Int) + b.toNat)) = 2 ^ 64 - 1 by omega]
    decide
  · rw [show max 0 (min (2 ^ 64 - 1) ((a.toNat : Int) + b.toNat)) = ((a.toNat + b.toNat : Nat) : Int) by omega,
      BitVec.ofInt_natCast, BitVec.ofNat_add, BitVec.ofNat_toNat, BitVec.ofNat_toNat]
    simp

theorem satUnsigned_sub (a b : Word) : satUnsigned ((a.toNat : Int) - b.toNat) = if a.toNat < b.toNat then 0 else a - b := by
  unfold satUnsigned
  split
  · rw [show max 0 (min (2 ^ 64 - 1) ((a.toNat : Int) - b.toNat)) = 0 by omega]
    rfl
  · rw [show max 0 (min (2 ^ 64 - 1) ((a.toNat : Int) - b.toNat)) = ((a.toNat - b.toNat : Nat) : Int) by omega,
      BitVec.ofInt_natCast]
    exact BitVec.eq_of_toNat_eq (by simp; omega)

theorem toInt_sext64 (x : BitVec 10) : (sext64 x).toInt = x.toInt := BitVec.toInt_signExtend_of_le (by decide)

/-! ## The tables of R55 and R56 -/

/-- An instruction of R55's table is the integer operation of its row. -/
theorem isIntOp_of_table55 {i : Instr} {d a b : IReg} {f : Word → Word → Word} (h : table55 i = some (d, a, b, f)) :
    IsIntOp i d fun t => f (t.int a) (t.int b) := by
  revert h
  fun_cases table55 i
  case case21 => exact fun h => nomatch h
  all_goals
    rintro ⟨⟩
    refine ⟨fun s => congrArg (intOp _ s d) (funext fun t => ?_), fun s t => noStream_of_noWide rfl rfl⟩
  case case9 | case10 | case11 | case12 => rw [amount_eq]
  case case13 => exact minSigned_eq_pick ..
  case case14 => exact maxSigned_eq_pick ..
  case case15 => exact minUnsigned_eq_pick ..
  case case16 => exact maxUnsigned_eq_pick ..
  case case17 => rw [satSigned_eq, ofInt_toInt_add]
  case case18 => rw [satSigned_eq, ofInt_toInt_sub]
  case case19 => exact satUnsigned_add ..
  case case20 => exact satUnsigned_sub ..
  all_goals rfl

/-- An immediate form of R56's table is the integer operation of its row. -/
theorem isIntOp_of_table56 {i : Instr} {d a : IReg} {f : Word → Word} (h : table56 i = some (d, a, f)) :
    IsIntOp i d fun t => f (t.int a) := by
  revert h
  fun_cases table56 i
  case case12 => exact fun h => nomatch h
  all_goals
    rintro ⟨⟩
    refine ⟨fun s => congrArg (intOp _ s d) (funext fun t => ?_), fun s t => noStream_of_noWide rfl rfl⟩
  case case10 => rw [minSigned_eq_pick, toInt_sext64]
  case case11 => rw [maxSigned_eq_pick, toInt_sext64]
  all_goals rfl

/-- Settles O1: each row of the two tables is one integer operation, which issues with its result on its way. -/
theorem integerAluResult : Obligations.IntegerAluResult :=
  ⟨fun _ _ _ _ _ _ _ _ h hrow => (isIntOp_of_table55 hrow).issues h,
    fun _ _ _ _ _ _ _ h hrow => (isIntOp_of_table56 hrow).issues h⟩

/-! ## Constants and moves (R57, R60, R61, R81) -/

/-- The predicate word: bit 0 one, and bit n the predicate p_n. -/
theorem getLsbD_predWord (t : Thread) {n : Nat} (hn : n < 64) :
    (predWord t).getLsbD n = if h : n < 8 then t.pred ⟨n, h⟩ else false := by
  unfold predWord
  rw [BitVec.getLsbD_ofNat, decide_eq_true hn, Bool.true_and, Nat.add_comm]
  cases n with
  | zero => simp [Thread.pred]
  | succ k =>
    rw [Nat.testBit_add_one, show (2 * t.preds.toNat + 1) / 2 = t.preds.toNat by omega, ← BitVec.getLsbD]
    split
    · simp [Thread.pred]
    · exact BitVec.getLsbD_of_ge _ _ (by omega)

/-- Settles O2: each is one operation; WRPW delivers its seven predicates in one result. -/
theorem constantsAndMoves : Obligations.ConstantsAndMoves := by
  intro s t p
  refine ⟨fun d n h => ?_, fun d n h => ?_, fun a d h => ?_, fun n d h => ?_, fun d k h => ?_, fun k a h => ?_, fun d h => ?_,
    fun d h => ⟨predWord t, fun n hn => getLsbD_predWord t hn, ?_⟩,
    fun a h => ⟨_, ?_, fun n v hv => ?_, compute_ok h ?_⟩, fun h => ?_⟩
  · exact IsIntOp.issues ⟨fun _ => rfl, fun _ _ => noStream_of_noWide rfl rfl⟩ h
  · exact IsIntOp.issues ⟨fun _ => rfl, fun _ _ => noStream_of_noWide rfl rfl⟩ h
  · exact IsIntOp.issues ⟨fun _ => rfl, fun _ _ => noStream_of_noWide rfl rfl⟩ h
  · exact IsIntOp.issues ⟨fun _ => rfl, fun _ _ => noStream_of_noWide rfl rfl⟩ h
  · exact IsIntOp.issues ⟨fun _ => rfl, fun _ _ => noStream_of_noWide rfl rfl⟩ h
  · exact compute_ok h (noStream_of_noWide rfl rfl)
  · exact IsIntOp.issues ⟨fun _ => rfl, fun _ _ => noStream_of_noWide rfl rfl⟩ h
  · exact IsIntOp.issues ⟨fun _ => rfl, fun _ _ => noStream_of_noWide rfl rfl⟩ h
  · rfl
  · obtain ⟨x, -, hx⟩ := List.mem_map.mp hv
    cases hx
    cases (t.int a).getLsbD n.val <;> simp [boolWord]
  · exact noStream_of_noWide rfl rfl
  · exact attempt_ok h (noStream_of_noWide rfl rfl) rfl

/-! ## Compares (R62, R63) -/

theorem condHolds_iff (k : Cond) (a b : Word) : condHolds k a b = true ↔ cond62 k a b := by
  cases k <;> simp [condHolds, cond62, BitVec.slt_eq_decide, BitVec.ult_eq_decide]

theorem truthTable_eq (f : BitVec 4) (x y : Bool) : truthTable f x y = f.getLsbD (2 * x.toNat + y.toNat) := by
  cases x <;> cases y <;> rfl

/-- Settles O4: each is one predicate operation, whose condition is that of R62 or the entry of R63's table. -/
theorem comparesAndPredicates : Obligations.ComparesAndPredicates := by
  refine fun s t pt p q c => ⟨fun a b k h hc => ?_, fun a n k h hc => ?_, fun a b f h hc => ?_⟩
  · exact predOp_issues h (noStream_of_noWide rfl rfl) p q (Bool.eq_iff_iff.mpr ((condHolds_iff ..).trans hc.symm))
  · exact predOp_issues h (noStream_of_noWide rfl rfl) p q (Bool.eq_iff_iff.mpr ((condHolds_iff ..).trans hc.symm))
  · exact predOp_issues h (noStream_of_noWide rfl rfl) p q ((truthTable_eq ..).trans hc.symm)

/-! ## Control transfer (R64 to R66) -/

/-- Settles O5: each is one attempt; BRI's target decides between the transfer and the trap. -/
theorem controlTransfer : Obligations.ControlTransfer := by
  refine fun s t p => ⟨fun o h => ?_, fun a n h hup => ?_, fun a n h hback => ?_, fun d n h => ?_,
    fun d a n h => ?_, fun a h => ?_⟩
  · exact attempt_ok h (noStream_of_noWide rfl rfl) rfl
  · refine attempt_ok h (noStream_of_noWide rfl rfl) ?_
    dsimp only
    rw [if_neg (BitVec.not_le.mpr hup)]
  · refine ⟨.plain 0x07 (t.int a + 2 * n.signExtend 64), rfl,
      attempt_error h (noStream_of_noWide rfl rfl) (by simp [Trap.plain]) ?_⟩
    dsimp only
    rw [if_pos (BitVec.not_lt.mp hback)]
  · exact attempt_ok h (noStream_of_noWide rfl rfl) rfl
  · exact attempt_ok h (noStream_of_noWide rfl rfl) rfl
  · exact attempt_ok h (noStream_of_noWide rfl rfl) rfl

end Sys2Proof.Machine
end

section
/-! SUPPORT. Multiply, divide and bit-field arithmetic: the model's functions meet the pseudocode of R58 and R59. -/

namespace Sys2Proof.Machine

/-! ## Products (R58) -/

/-- The high half of a product that fits 128 bits. -/
theorem toInt_highHalf {x : Int} (h : |x| < 2 ^ 127) :
    ∃ lo : Nat, lo < 2 ^ 64 ∧ x = (BitVec.ofInt 64 (x / 2 ^ 64)).toInt * 2 ^ 64 + lo := by
  obtain ⟨hlo, hhi⟩ := abs_lt.mp h
  refine ⟨(x % 2 ^ 64).toNat, by omega, ?_⟩
  rw [BitVec.toInt_ofInt, Int.bmod_eq_of_le (by omega) (by omega)]
  omega

theorem abs_toInt_le (a : Word) : |a.toInt| ≤ 2 ^ 63 := by
  have hlo := BitVec.le_toInt a
  have hhi := BitVec.toInt_lt (x := a)
  exact abs_le.mpr ⟨by omega, by omega⟩

theorem abs_mul_lt {x y : Int} (hx : |x| ≤ 2 ^ 63) (hy : |y| < 2 ^ 64) : |x * y| < 2 ^ 127 := by
  calc |x * y| = |x| * |y| := abs_mul x y
    _ ≤ 2 ^ 63 * (2 ^ 64 - 1) := mul_le_mul hx (by omega) (abs_nonneg y) (by norm_num)
    _ < 2 ^ 127 := by norm_num

/-- The high half of an unsigned product. -/
theorem toNat_highHalf (a b : Word) :
    ∃ lo : Nat, lo < 2 ^ 64 ∧ a.toNat * b.toNat = (BitVec.ofNat 64 (a.toNat * b.toNat / 2 ^ 64)).toNat * 2 ^ 64 + lo := by
  have hlt : a.toNat * b.toNat < 2 ^ 64 * 2 ^ 64 := Nat.mul_lt_mul'' a.isLt b.isLt
  refine ⟨a.toNat * b.toNat % 2 ^ 64, Nat.mod_lt _ (by decide), ?_⟩
  rw [BitVec.toNat_ofNat, Nat.mod_eq_of_lt (Nat.div_lt_of_lt_mul hlt)]
  omega

/-! ## Quotients and remainders (R58) -/

theorem divSigned_says (a b : Word) : if b = 0 then divSigned a b = 0xFFFFFFFFFFFFFFFF
    else if a = 0x8000000000000000 ∧ b = 0xFFFFFFFFFFFFFFFF then divSigned a b = a
    else (divSigned a b).toInt = Int.tdiv a.toInt b.toInt := by
  unfold divSigned
  split
  · rfl
  · split
    · next h => obtain ⟨rfl, rfl⟩ := h; rfl
    · next h =>
      have hno : a ≠ BitVec.intMin 64 ∨ b ≠ -1#64 := not_and_or.mp h
      rw [← BitVec.toInt_sdiv_of_ne_or_ne a b hno, BitVec.ofInt_toInt]

theorem remSigned_says (a b : Word) : if b = 0 then remSigned a b = a
    else if a = 0x8000000000000000 ∧ b = 0xFFFFFFFFFFFFFFFF then remSigned a b = 0
    else (remSigned a b).toInt = a.toInt - Int.tdiv a.toInt b.toInt * b.toInt := by
  unfold remSigned
  split
  · rfl
  · split
    · next h => obtain ⟨rfl, rfl⟩ := h; rfl
    · rw [← BitVec.toInt_srem, BitVec.ofInt_toInt, BitVec.toInt_srem, Int.tmod_def, Int.mul_comm]

theorem divUnsigned_says (a b : Word) : if b = 0 then divUnsigned a b = 0xFFFFFFFFFFFFFFFF
    else (divUnsigned a b).toNat = a.toNat / b.toNat := by
  unfold divUnsigned
  split
  · rfl
  · exact BitVec.toNat_udiv

theorem remUnsigned_says (a b : Word) : if b = 0 then remUnsigned a b = a
    else (remUnsigned a b).toNat = a.toNat - a.toNat / b.toNat * b.toNat := by
  unfold remUnsigned
  split
  · rfl
  · rw [BitVec.toNat_umod, Nat.mod_eq_sub_div_mul]

/-! ## Counts (R59) -/

theorem leadingZeros_says (a : Word) (n : Nat) : leadingZeros a n ≤ n ∧ (∀ i < leadingZeros a n, a.getLsbD (n - 1 - i) = false) ∧
    (leadingZeros a n < n → a.getLsbD (n - 1 - leadingZeros a n) = true) := by
  induction n with
  | zero => exact ⟨le_rfl, fun _ h => absurd h (Nat.not_lt_zero _), fun h => absurd h (Nat.not_lt_zero _)⟩
  | succ n ih =>
    obtain ⟨hle, hzeros, hone⟩ := ih
    unfold leadingZeros
    split
    · next hb => exact ⟨Nat.zero_le _, fun _ h => absurd h (Nat.not_lt_zero _), fun _ => hb⟩
    · next hb =>
      refine ⟨by omega, fun i hi => ?_, fun hlt => ?_⟩
      · cases i with
        | zero => simpa using hb
        | succ i =>
          have := hzeros i (by omega)
          rwa [show n - 1 - i = n + 1 - 1 - (i + 1) by omega] at this
      · have := hone (by omega)
        rwa [show n - 1 - leadingZeros a n = n + 1 - 1 - (1 + leadingZeros a n) by omega] at this

theorem trailingZeros_says (a : Word) {n : Nat} (hn : n ≤ 64) : trailingZeros a n ≤ n ∧
    (∀ i < trailingZeros a n, a.getLsbD (64 - n + i) = false) ∧
    (trailingZeros a n < n → a.getLsbD (64 - n + trailingZeros a n) = true) := by
  induction n with
  | zero => exact ⟨le_rfl, fun _ h => absurd h (Nat.not_lt_zero _), fun h => absurd h (Nat.not_lt_zero _)⟩
  | succ n ih =>
    obtain ⟨hle, hzeros, hone⟩ := ih (by omega)
    unfold trailingZeros
    split
    · next hb =>
      refine ⟨Nat.zero_le _, fun _ h => absurd h (Nat.not_lt_zero _), fun _ => ?_⟩
      rwa [show 64 - (n + 1) + 0 = 63 - n by omega]
    · next hb =>
      refine ⟨by omega, fun i hi => ?_, fun hlt => ?_⟩
      · cases i with
        | zero => rw [show 64 - (n + 1) + 0 = 63 - n by omega]; simpa using hb
        | succ i =>
          have := hzeros i (by omega)
          rwa [show 64 - n + i = 64 - (n + 1) + (i + 1) by omega] at this
      · have := hone (by omega)
        rwa [show 64 - n + trailingZeros a n = 64 - (n + 1) + (1 + trailingZeros a n) by omega] at this

theorem oneBits_eq (a : Word) (n : Nat) : oneBits a n = ((List.range n).filter fun i => a.getLsbD i).length := by
  induction n with
  | zero => rfl
  | succ n ih =>
    rw [oneBits, ih, List.range_succ, List.filter_append, List.length_append, Nat.add_comm]
    cases h : a.getLsbD n <;> simp [h]

theorem oneBits_le (a : Word) (n : Nat) : oneBits a n ≤ n := by
  rw [oneBits_eq]
  exact (List.length_filter_le _ _).trans_eq List.length_range

/-- A count of at most 64 fits its register. -/
theorem toNat_count {n : Nat} (h : n ≤ 64) : (BitVec.ofNat 64 n).toNat = n :=
  Nat.mod_eq_of_lt (by omega)

/-! ## Bits, bytes and fields (R59) -/

/-- Byte k of a word whose lowest byte is split off. -/
theorem getLsbD_append_byte {m : Nat} (x : BitVec m) (y : Byte) (k : Nat) {j : Nat} (hj : j < 8) :
    (x ++ y).getLsbD (8 * k + j) = if k = 0 then y.getLsbD j else x.getLsbD (8 * (k - 1) + j) := by
  rw [BitVec.getLsbD_append]
  split
  · next h => rw [if_pos (by omega), show 8 * k + j = j by omega]
  · next h => rw [if_neg (by omega), show 8 * k + j - 8 = 8 * (k - 1) + j by omega]

theorem getLsbD_byteSwap (a : Word) {i j : Nat} (hi : i < 8) (hj : j < 8) :
    (byteSwap a).getLsbD (8 * (7 - i) + j) = a.getLsbD (8 * i + j) := by
  simp only [byteSwap, getLsbD_append_byte _ _ _ hj, BitVec.getLsbD_extractLsb']
  interval_cases i <;> simp [hj]

theorem bits_zero_eq_setWidth (a : Word) {n : Nat} (h : n ≤ 64) : bits a 0 n = a.setWidth n :=
  (BitVec.setWidth_eq_extractLsb' h).symm

theorem fieldOf_eq (b : Word) : fieldOf b = (fieldPos b, fieldWidth b) := by
  simp [fieldOf, fieldPos, fieldWidth, BitVec.extractLsb'_toNat, Nat.shiftRight_eq_div_pow]

theorem fieldWidth_le (b : Word) : fieldPos b + fieldWidth b ≤ 64 := by
  have := (bits b 0 6).isLt
  unfold fieldWidth fieldPos
  omega

theorem getLsbD_lowMask (w : Nat) {i : Nat} (hi : i < 64) : (lowMask w).getLsbD i = decide (i < w) := by
  rw [lowMask, BitVec.getLsbD_ofNat, Nat.testBit_two_pow_sub_one, decide_eq_true hi, Bool.true_and]

theorem getLsbD_extractField (a b : Word) {i : Nat} (hi : i < 64) : (extractField a b).getLsbD i =
    if i < fieldWidth b then a.getLsbD (fieldPos b + i) else false := by
  rw [extractField, BitVec.getLsbD_and, getLsbD_lowMask _ hi, BitVec.getLsbD_ushiftRight]
  by_cases h : i < fieldWidth b <;> simp [h]

theorem getLsbD_extractFieldSigned (a b : Word) {i : Nat} (hi : i < 64) : (extractFieldSigned a b).getLsbD i =
    if fieldWidth b = 0 then false
    else if i < fieldWidth b then a.getLsbD (fieldPos b + i)
    else a.getLsbD (fieldPos b + fieldWidth b - 1) := by
  have hle := fieldWidth_le b
  unfold extractFieldSigned
  split
  · simp
  · rw [BitVec.getLsbD_sshiftRight, BitVec.msb_eq_getLsbD_last,
      decide_eq_false (show ¬ 64 ≤ i by omega), Bool.not_false, Bool.true_and]
    by_cases h : i < fieldWidth b
    · rw [if_pos (by omega), if_pos h, BitVec.getLsbD_shiftLeft, decide_eq_true (by omega), decide_eq_false (by omega),
        show 64 - fieldWidth b + i - (64 - fieldPos b - fieldWidth b) = fieldPos b + i by omega]
      rfl
    · rw [if_neg (by omega), if_neg h, BitVec.getLsbD_shiftLeft, decide_eq_true (by omega), decide_eq_false (by omega),
        show 64 - 1 - (64 - fieldPos b - fieldWidth b) = fieldPos b + fieldWidth b - 1 by omega]
      rfl

theorem getLsbD_insertField (old a b : Word) {i : Nat} (hi : i < 64) : (insertField old a b).getLsbD i =
    if fieldPos b ≤ i ∧ i < fieldPos b + fieldWidth b then a.getLsbD (i - fieldPos b) else old.getLsbD i := by
  unfold insertField
  simp only [BitVec.getLsbD_or, BitVec.getLsbD_and, BitVec.getLsbD_not, BitVec.getLsbD_shiftLeft]
  by_cases hlo : i < fieldPos b
  · simp [hi, hlo, show ¬ fieldPos b ≤ i by omega]
  · rw [getLsbD_lowMask _ (by omega)]
    by_cases hhi : i - fieldPos b < fieldWidth b
    · simp [hi, hlo, hhi, show fieldPos b ≤ i by omega, show i < fieldPos b + fieldWidth b by omega]
    · simp [hi, hlo, hhi, show ¬ i < fieldPos b + fieldWidth b by omega]

/-! ## The tables of R58 and R59 -/

/-- An instruction of R58's table is one integer operation, whose value meets its row. -/
theorem isIntOp_of_says58 {i : Instr} {d a b : IReg} {R : Word → Word → Word → Prop} (h : says58 i = some (d, a, b, R)) :
    ∃ f, IsIntOp i d f ∧ ∀ t, R (t.int a) (t.int b) (f t) := by
  revert h
  fun_cases says58 i
  case case9 => exact fun h => nomatch h
  all_goals
    rintro ⟨⟩
    refine ⟨_, ⟨fun _ => rfl, fun _ _ => noStream_of_noWide rfl rfl⟩, fun t => ?_⟩
  case case1 => exact BitVec.toNat_mul ..
  case case2 => exact toInt_highHalf (abs_mul_lt (abs_toInt_le _) ((abs_toInt_le _).trans_lt (by norm_num)))
  case case3 => exact toNat_highHalf ..
  case case4 =>
    refine toInt_highHalf (abs_mul_lt (abs_toInt_le _) ?_)
    rw [Nat.abs_cast]
    exact_mod_cast (t.int b).isLt
  case case5 => exact divSigned_says ..
  case case6 => exact remSigned_says ..
  case case7 => exact divUnsigned_says ..
  case case8 => exact remUnsigned_says ..

/-- An instruction of R59's table is one integer operation, whose value meets its row. -/
theorem isIntOp_of_says59 {i : Instr} {d a b : IReg} {R : Word → Word → Word → Word → Prop}
    (h : says59 i = some (d, a, b, R)) : ∃ f, IsIntOp i d f ∧ ∀ t, R (t.int d) (t.int a) (t.int b) (f t) := by
  revert h
  fun_cases says59 i
  case case12 => exact fun h => nomatch h
  all_goals
    rintro ⟨⟩
    refine ⟨_, ⟨fun _ => rfl, fun _ _ => noStream_of_noWide rfl rfl⟩, fun t => ?_⟩
  all_goals dsimp only
  case case1 =>
    have h := leadingZeros_says (t.int a) 64
    rwa [toNat_count h.1]
  case case2 =>
    have h := trailingZeros_says (t.int a) le_rfl
    simpa only [toNat_count h.1, Nat.sub_self, Nat.zero_add] using h
  case case3 => rw [← oneBits_eq, toNat_count (oneBits_le ..)]
  case case4 =>
    intro i hi
    rw [BitVec.getLsbD_reverse, BitVec.getMsbD, decide_eq_true (by omega), Bool.true_and]
    exact congrArg _ (by omega)
  case case5 => exact fun i hi j hj => getLsbD_byteSwap _ hi hj
  case case6 | case7 | case8 => exact congrArg _ (bits_zero_eq_setWidth _ (by decide))
  case case9 => rw [fieldOf_eq]; exact fun i hi => getLsbD_extractFieldSigned _ _ hi
  case case10 => rw [fieldOf_eq]; exact fun i hi => getLsbD_extractField _ _ hi
  case case11 => rw [fieldOf_eq]; exact fun i hi => getLsbD_insertField _ _ _ hi

/-- Settles O3: each row of the two tables is one integer operation whose value meets the row. -/
theorem multiplyDivideAndBitFieldResult : Obligations.MultiplyDivideAndBitFieldResult := by
  refine ⟨fun s t p i d a b R h hrow => ?_, fun s t p i d a b R h hrow => ?_⟩
  · obtain ⟨f, hi, hR⟩ := isIntOp_of_says58 hrow
    exact ⟨f t, hR t, hi.issues h⟩
  · obtain ⟨f, hi, hR⟩ := isIntOp_of_says59 hrow
    exact ⟨f t, hR t, hi.issues h⟩

end Sys2Proof.Machine
end

section
/-! SUPPORT. Memory instructions at their issue: each asks for one access, whose address is checked and translated before it
leaves (R67, R192 to R195, R201, R214). -/

namespace Sys2Proof.Machine

/-! ## The access that an instruction asks for (R67, R216, R221, R224, R228) -/

theorem memAddr_eq_addr67 (t : Thread) (b : IReg) (o : BitVec 10) (n : Nat) : memAddr t b o n = addr67 t b o n := by
  rw [addr67, BitVec.ofInt_add, BitVec.ofInt_mul, BitVec.ofInt_toInt, BitVec.ofInt_natCast]
  rfl

theorem awBytes_eq (w : AWidth) : awBytes w = if w = .w then 4 else 8 := by cases w <;> rfl

/-- An access that a request asks for, checked, translated and sent; a reduction's raises its thread's count. -/
def State.ask (s : State) (t : Thread) (p : Port) (r : Request) (push : Option Nat) : Except Trap State :=
  let sent := s.access t p r.kind r.addr r.size r.write r.aperFirst r.red push r.op
  if r.red then sent.map (·.raiseReds t.uid) else sent

/-- A memory instruction is one attempt that asks for its access. -/
theorem exec_of_request {t1 : Thread} {i : Instr} {r : Request} (h : request t1 i = some r) (s : State) :
    ∃ body, exec i s = attempt i s body ∧ ∀ s1 p, ∃ push, body s1 t1 p = s1.ask t1 p r push := by
  revert h
  fun_cases request t1 i
  case case46 => exact fun h => nomatch h
  all_goals
    rintro ⟨⟩
    refine ⟨_, rfl, fun s1 p => ?_⟩
  case case1 | case2 | case3 | case4 | case5 | case6 | case7 | case8 | case9 | case10 | case11 | case12 | case13 | case14 =>
    rw [plainRequest, ← memAddr_eq_addr67]
    exact ⟨_, rfl⟩
  case case40 =>
    rw [← awBytes_eq]
    exact ⟨_, rfl⟩
  case case15 | case16 | case17 | case18 | case19 | case41 | case42 | case43 | case44 | case45 => exact ⟨_, rfl⟩
  all_goals
    rw [atomicRequest, ← awBytes_eq]
    exact ⟨_, rfl⟩

/-! ## The access on its way (R201, R204, R214) -/

theorem classBlocks_eq_holdsLater (red : Bool) (pfx : Option (Order × Scope)) : classBlocks red pfx = holdsLater red pfx := by
  rcases pfx with _ | ⟨o, c⟩ <;> cases red <;> [rfl; rfl; (cases o <;> rfl); rfl]

/-- A reduction's class holds nothing: of an acquire it keeps relaxed, of a sequentially consistent one release. -/
theorem effClass_eq (red : Bool) (pfx : Option (Order × Scope)) : effClass red pfx = pfx.map fun x =>
    if red = true ∧ x.1 = .acq then .rlx else if red = true ∧ x.1 = .sc then .rel else x.1 := by
  rcases pfx with _ | ⟨o, c⟩
  · rfl
  · cases red <;> cases o <;> rfl

/-- What a thread sends: its access, last of the accesses on their way. -/
theorem sendAccess_sends (s : State) (t : Thread) (p : Port) (l : Loc) (n : Nat) (op : AccOp) (red : Bool) (push : Option Nat) :
    ∃ a : Access, s.sendAccess t p l n op red push = { s with accs := s.accs ++ [a], fresh := s.fresh + 1 } ∧
      a.uid = some t.uid ∧ a.ctx = t.ctx ∧ a.group = t.group ∧ a.loc = l ∧ a.size = n ∧ a.op = op ∧ a.red = red ∧
      a.phase = (if s.behindHeld a = true then .outbound else if l.present = true then .sent else .away) ∧
      a.cancelled = false ∧ a.blocking = holdsLater red p.pfx ∧ a.scope = (p.pfx.map (·.2)).getD .dev ∧
      a.order = p.pfx.map fun x => if red = true ∧ x.1 = .acq then .rlx else if red = true ∧ x.1 = .sc then .rel else x.1 := by
  rw [← classBlocks_eq_holdsLater, ← effClass_eq]
  unfold State.sendAccess
  dsimp only
  split
  · next h => exact ⟨_, rfl, rfl, rfl, rfl, rfl, rfl, rfl, rfl, (if_pos h).symm, rfl, rfl, rfl, rfl⟩
  · next h =>
    split
    · next ha =>
      have hl : l.present = false := by simpa using ha
      exact ⟨_, rfl, rfl, rfl, rfl, rfl, rfl, rfl, rfl, ((if_neg h).trans (if_neg (by simp [hl]))).symm, rfl, rfl, rfl, rfl⟩
    · next ha =>
      have hl : l.present = true := by simpa using ha
      exact ⟨_, rfl, rfl, rfl, rfl, rfl, rfl, rfl, rfl, ((if_neg h).trans (if_pos hl)).symm, rfl, rfl, rfl, rfl⟩

/-- Where a check fails, nothing is sent. -/
theorem ask_error {s s' : State} {t : Thread} {p : Port} {r : Request} {push : Option Nat} {tr : Trap}
    (h : s.resolve t.issuer r.kind r.addr r.size r.write r.aperFirst false = (.error tr, s')) : s.ask t p r push = .error tr := by
  simp only [State.ask, State.access, h]
  cases r.red <;> rfl

/-- Where the address leads to a place, the access is sent, and a reduction counted. -/
theorem ask_ok {s s' : State} {t : Thread} {p : Port} {r : Request} {push : Option Nat} {l : Loc}
    (h : s.resolve t.issuer r.kind r.addr r.size r.write r.aperFirst false = (.ok l, s')) : s.ask t p r push =
      .ok (if r.red then (s'.sendAccess t p l r.size r.op r.red push).raiseReds t.uid
        else s'.sendAccess t p l r.size r.op r.red push) := by
  simp only [State.ask, State.access, h]
  cases r.red <;> rfl

/-- Settles O16: the instruction is one attempt that asks for its access, and the answer of the address's checks decides. -/
theorem accessIssues : Obligations.AccessIssues := by
  intro s s1 s2 t t1 p i r res h hbegin hreq hres
  obtain ⟨body, hexec, hbody⟩ := exec_of_request hreq s
  obtain ⟨push, hask⟩ := hbody s1 p
  rw [hexec, attempt_of_begin h hbegin, hask]
  cases res with
  | error tr => rw [ask_error hres]
  | ok l =>
    obtain ⟨a, hsend, hfields⟩ := sendAccess_sends s2 t1 p l r.size r.op r.red push
    refine ⟨a, ?_⟩
    obtain ⟨huid, hctx, hgroup, hloc, hsize, hop, hred, hphase, hcancel, hblock, hscope, horder⟩ := hfields
    refine ⟨huid, hctx, hgroup, hloc, hsize, hop, hred, hphase, hcancel, hblock, hscope, horder, ?_⟩
    rw [ask_ok hres, hsend]
    rfl

end Sys2Proof.Machine
end

section
/-! SUPPORT. The checks of an address before anything leaves (R67, R192, R195, R216, R228), and the own allotments that 0xE2 and
0xE3 reach (R193). -/

namespace Sys2Proof.Machine

/-! ## The order of the checks -/

/-- The address has no aperture whose home performs accesses of the kind. -/
def Misdirected (a : Word) (k : AKind) : Prop := ∀ ap, aperture a = some ap → performs ap k = false

section
variable {s : State} {i : Issuer} {k : AKind} {a : Word} {n : Nat} {w ph : Bool}

/-- An operation that checks its aperture first traps on a wrong one, aligned or not. -/
theorem resolve_aperture_first (h : Misdirected a k) : s.resolve i k a n w true ph = (.error (.address a), s) := by
  unfold State.resolve
  cases ha : aperture a with
  | none => rfl
  | some ap => simp [h ap ha]

/-- An operation traps on a misaligned address of an aperture that performs it, or of any where it checks that first. -/
theorem resolve_misaligned {first : Bool} (hn : a.toNat % n ≠ 0)
    (h : first = true → ∃ ap, aperture a = some ap ∧ performs ap k = true) :
    s.resolve i k a n w first ph = (.error (.misaligned a), s) := by
  unfold State.resolve
  cases first with
  | false => simp [hn]
  | true =>
    obtain ⟨ap, ha, hp⟩ := h rfl
    simp [ha, hp, hn]

/-- An aligned address of a wrong aperture traps. -/
theorem resolve_misdirected (hn : a.toNat % n = 0) (h : Misdirected a k) :
    s.resolve i k a n w false ph = (.error (.address a), s) := by
  unfold State.resolve
  cases ha : aperture a with
  | none => simp [hn]
  | some ap => simp [hn, h ap ha]

end

/-! ## Apertures of the kinds that check them first -/

theorem aperture_eq_spad {a : Word} (h : (bits a 56 8).toNat = 0xE2) : aperture a = some .spad := by
  unfold aperture
  rw [h]
  rfl

theorem aperture_eq_tcm {a : Word} (h : (bits a 56 8).toNat = 0xE3) : aperture a = some .tcm := by
  unfold aperture
  rw [h]
  rfl

theorem aperture_eq_global {a : Word} (h : (bits a 56 8).toNat = 0x00) : aperture a = some .global := by
  unfold aperture
  rw [h]
  rfl

theorem misdirected_granule {a : Word} (h2 : bits a 56 8 ≠ 0xE2) (h1 : bits a 56 8 ≠ 0xE1) : Misdirected a .granule := by
  intro ap
  unfold aperture
  split
  case h_4 h => exact absurd (BitVec.eq_of_toNat_eq h) h1
  case h_5 h => exact absurd (BitVec.eq_of_toNat_eq h) h2
  case h_7 => exact fun h => nomatch h
  all_goals
    rintro ⟨⟩
    rfl

theorem misdirected_sum {a : Word} (h0 : bits a 56 8 ≠ 0x00) : Misdirected a .sum := by
  intro ap
  unfold aperture
  split
  case h_1 h => exact absurd (BitVec.eq_of_toNat_eq h) h0
  case h_7 => exact fun h => nomatch h
  all_goals
    rintro ⟨⟩
    rfl

/-! ## The own allotments (R193) -/

theorem toNat_bits {w : Nat} (x : BitVec w) (lo n : Nat) : (bits x lo n).toNat = x.toNat / 2 ^ lo % 2 ^ n := by
  rw [BitVec.extractLsb'_toNat, Nat.shiftRight_eq_div_pow]

/-- An aligned plain address of a place without translation is decided by that place. -/
theorem resolve_plain {s : State} {i : Issuer} {a : Word} {n : Nat} {w : Bool} (hn : a.toNat % n = 0) {l : Option Loc}
    (hp : s.place i a n = l.map .at_) : s.resolve i .plain a n w false false =
      ((l.map Except.ok).getD (.error (.address a)), s) := by
  unfold State.resolve
  cases hap : aperture a with
  | none =>
    have hnone : l.map Place.at_ = none := by rw [← hp, State.place, hap]
    simp [hn, Option.map_eq_none_iff.mp hnone]
  | some ap =>
    have hperf : performs ap .plain = true := by cases ap <;> rfl
    cases l <;> simp [hn, hp, hperf]

/-- The own-scratchpad address of an offset leads there, where the allotment goes so far. -/
theorem place_spad {s : State} {i : Issuer} {g : Group} {o : Nat} (n : Nat) (hg : s.group? i.group = some g)
    (hd : i.delegated = false) (ho : o < 2 ^ 21) : s.place i (BitVec.ofNat 64 (0xE200000000000000 + o)) n =
      (if o + n ≤ g.spadSize then some (.spad g.phys (g.spadBase + o)) else none : Option Loc).map .at_ := by
  have hbyte : aperture (BitVec.ofNat 64 (0xE200000000000000 + o)) = some .spad :=
    aperture_eq_spad (by rw [toNat_bits, BitVec.toNat_ofNat]; omega)
  have hoff : (bits (BitVec.ofNat 64 (0xE200000000000000 + o)) 0 21).toNat = o := by
    rw [toNat_bits, BitVec.toNat_ofNat]
    omega
  have hzero : bits (BitVec.ofNat 64 (0xE200000000000000 + o)) 21 35 = 0 :=
    BitVec.eq_of_toNat_eq (show _ = 0 by rw [toNat_bits, BitVec.toNat_ofNat]; omega)
  unfold State.place
  by_cases h : o + n ≤ g.spadSize <;> simp [hbyte, hg, hd, hoff, hzero, h]

/-- The own-TCM address of an offset leads to the core's own, where the allotment goes so far. -/
theorem place_tcm {s : State} {i : Issuer} {g : Group} {o : Nat} (n : Nat) (hg : s.group? i.group = some g)
    (hd : i.delegated = false) (hc : i.core < 8) (ho : o < 2 ^ 17) : s.place i (BitVec.ofNat 64 (0xE300000000000000 + o)) n =
      (if o + n ≤ g.tcmSize then some (.tcm g.phys i.core (g.tcmBase[i.core] + o)) else none : Option Loc).map .at_ := by
  have hbyte : aperture (BitVec.ofNat 64 (0xE300000000000000 + o)) = some .tcm :=
    aperture_eq_tcm (by rw [toNat_bits, BitVec.toNat_ofNat]; omega)
  have hoff : (bits (BitVec.ofNat 64 (0xE300000000000000 + o)) 0 17).toNat = o := by
    rw [toNat_bits, BitVec.toNat_ofNat]
    omega
  have hzero : bits (BitVec.ofNat 64 (0xE300000000000000 + o)) 17 39 = 0 :=
    BitVec.eq_of_toNat_eq (show _ = 0 by rw [toNat_bits, BitVec.toNat_ofNat]; omega)
  unfold State.place
  by_cases h : o + n ≤ g.tcmSize <;> simp [hbyte, hg, hd, hoff, hzero, hc, h]

/-- An address of an aligned aperture is as aligned as its offset. -/
theorem toNat_mod_of_dvd {n o base : Nat} (hb : n ∣ base) (ho : o % n = 0) (hlt : base + o < 2 ^ 64) :
    (BitVec.ofNat 64 (base + o)).toNat % n = 0 := by
  rw [BitVec.toNat_ofNat, Nat.mod_eq_of_lt hlt]
  exact Nat.mod_eq_zero_of_dvd (Nat.dvd_add hb (Nat.dvd_of_mod_eq_zero ho))

/-- Settles O17: the first check that fails is the trap, and an aligned address of an own allotment is decided by its place. -/
theorem addressChecksAndAllotments : Obligations.AddressChecksAndAllotments := by
  refine ⟨fun s i k a n w => ⟨fun hn => ?_, fun hn ha => ?_, fun hn ha => ?_, fun hk h2 h1 => ?_, fun hk h2 hn => ?_,
    fun hk h0 => ?_, fun hk h0 hn => ?_⟩, fun s i g o n w hg hd hpos ho h2 h3 => ⟨fun hlt => ?_, fun hc hlt => ?_⟩⟩
  · exact resolve_misaligned hn nofun
  · exact resolve_misdirected hn fun ap h => by rw [ha] at h; cases h
  · obtain ⟨ap, ha, hp⟩ := ha
    exact resolve_misdirected hn fun ap' h => by rw [ha] at h; cases h; exact hp
  · subst hk
    exact resolve_aperture_first (misdirected_granule h2 h1)
  · subst hk
    exact resolve_misaligned hn fun _ => ⟨.spad, aperture_eq_spad (by rw [h2]; rfl), rfl⟩
  · subst hk
    exact resolve_aperture_first (misdirected_sum h0)
  · subst hk
    exact resolve_misaligned hn fun _ => ⟨.global, aperture_eq_global (by rw [h0]; rfl), rfl⟩
  · rw [resolve_plain (toNat_mod_of_dvd h2 ho (by omega)) (place_spad n hg hd hlt)]
    split <;> rfl
  · rw [resolve_plain (toNat_mod_of_dvd h3 ho (by omega)) (place_tcm n hg hd hc hlt)]
    split <;> rfl

end Sys2Proof.Machine
end

section
/-! SUPPORT. Loads at their homes (R67, R201): what serving a request moves on, what performing one leaves, and the value that a load
replies. -/

namespace Sys2Proof.Machine

/-! ## ACCESS_PERFORM (R197, R200, R201) -/

theorem exec_accessPerform {s : State} {a : Access} (h : PerformsNow s a) (ans : PeerAnswer) :
    exec (.accessPerform a.id ans) s = .next (s.perform a ans) := by
  obtain ⟨hfind, hperf, hyields⟩ := h
  change execAccessPerform a.id ans s = _
  simp only [execAccessPerform, hfind, hperf, hyields, Bool.not_false, Bool.and_true, if_true]

theorem bankServed_shape (s : State) (l : Loc) (n r : Nat) : ∃ k, s.bankServed l n r = { s with clusters := k } := by
  unfold State.bankServed
  split
  · exact updCluster_shape ..
  · exact ⟨s.clusters, rfl⟩

theorem countPass_shape (s : State) (a : Access) : ∃ x, s.countPass a = { s with accs := x } := by
  unfold State.countPass State.passBelow
  split
  · exact ⟨_, rfl⟩
  · exact ⟨s.accs, rfl⟩

/-- Serving a request moves on banks' arbiters and counts of requests that have been passed, and nothing else. -/
theorem servedFor_shape (s : State) (a : Access) : ∃ k x, s.servedFor a = { s with clusters := k, accs := x } := by
  obtain ⟨k, hk⟩ := bankServed_shape s a.loc a.size a.core
  obtain ⟨x, hx⟩ := countPass_shape { s with clusters := k } a
  exact ⟨k, x, by rw [State.servedFor, hk, hx]⟩

/-! ## A load (R67, R201) -/

/-- The home of a place on the device is asked, and answers with what stands there. -/
theorem commit_load {s : State} {a : Access} {peer : Wide} {full : Bool} {mark : PeerMark} {e : Ext} {d : Operand}
    (hdev : OnDevice a.loc) (hop : a.op = .load e d) (hsound : s.poisoned a.loc a.size = false) :
    s.commit a peer full mark =
      (s.settle a.id).reply a [(d, loadValue e d a.size (s.read a.loc a.size))] .mem 0 0 a.stamp := by
  obtain ⟨hsome, hhere⟩ := hdev
  have hread := homeRead_sound (c := a.ctx) (g := some a.group) (w := a.uid.bind s.thread?) hsound
  unfold State.commit State.accRead
  cases hl : a.loc
  case nowhere => exact absurd hl hsome
  case peer d o => exact absurd hl (hhere d o)
  all_goals
    rw [hl] at hread
    simp [hop, hread]

/-- The reply to a thread is one result on its way. -/
theorem reply_arrives {s : State} {a : Access} {u : Nat} (hu : a.uid = some u) (hc : a.cancelled = false)
    (ws : List (Operand × Wide)) (pr : Prod) (k : Nat) (b : BitVec 32) (z : Stamp) : ∃ r : Arrival,
      s.reply a ws pr k b z = { s with arrivals := s.arrivals ++ [r], fresh := s.fresh + 1 } ∧ r.uid = u ∧ r.writes = ws ∧
      r.flags = 0 ∧ r.fp = false ∧ r.push = a.push ∧ r.seq = a.id ∧ r.kind = k ∧ r.arriver = b ∧ r.stamp = z := by
  unfold State.reply
  simp only [hu, hc, Bool.false_and, Bool.false_eq_true, if_false]
  exact ⟨_, rfl, rfl, rfl, rfl, rfl, rfl, rfl, rfl, rfl, rfl⟩

/-- Settles O20: the load is settled and its reply leaves, and serving it moves on what `servedFor_shape` names. -/
theorem loadIsPerformed : Obligations.LoadIsPerformed := by
  intro s a ans u e d hnow hdev hsound hop hu hc hred
  obtain ⟨k, x, hserved⟩ := servedFor_shape s a
  obtain ⟨r, hreply, huid, hwrites, hflags, hfp, hpush, hseq, -⟩ := reply_arrives (s := (s.servedFor a).settle a.id) hu hc
    [(d, loadValue e d a.size ((s.servedFor a).read a.loc a.size))] .mem 0 0 a.stamp
  refine ⟨_, r, (exec_accessPerform hnow ans).trans (congrArg _ ((commit_load hdev hop ?_).trans hreply)), ?_, huid, hpush, hseq,
    hfp, hflags, ?_, rfl, rfl, ?_, ?_⟩
  · rw [hserved]; exact hsound
  · rw [hserved]; rfl
  · rw [hwrites, hserved]
    rfl
  · rw [hserved]; rfl
  · rw [hserved]; rfl

end Sys2Proof.Machine
end

section
/-! SUPPORT. A refutation of O21: the statement is for every state, and not only for those whose AWAITs stand at addresses that the
module's HBM has (R5). An AWAIT at HBM address 2^41 overlaps the first bytes of scratchpad 0, by the keys of the two places, and a
store there looks at the AWAITs of an HBM word alone (R226). -/

namespace Sys2Proof.Machine

/-- A store of eight zero bytes at the first bytes of scratchpad 0, on its way. -/
def spadStore : Access :=
  { id := 1, uid := some 3, fam := none, group := 2, ctx := 0, phys := 0, lcl := 0, core := 0, order := none, scope := .dev,
    blocking := true, red := false, loc := .spad 0 0, size := 8, op := .store 0, phase := .sent, agedAt := none, passedBy := 0,
    resent := false, granted := false, queue := 0, cancelled := false, push := none, peer := none, handle := 0,
    stamp := Stamp.zero }

/-- An AWAIT that waits at HBM address 2^41 for a word of 0. -/
def farWatch : Access :=
  { spadStore with id := 2, loc := .hbm (2 ^ 41), op := .await .eq 0 .zero, phase := .waiting }

/-- The reset state with the two. -/
def aliased : State := { State.reset with accs := [spadStore, farWatch] }

theorem performsNow_spadStore : PerformsNow aliased spadStore := ⟨rfl, by decide +kernel, by decide +kernel⟩

/-- After the store the AWAIT is still there. -/
theorem accessPerform_keeps_farWatch {s' : State} (he : exec (.accessPerform spadStore.id PeerAnswer.none) aliased = .next s') :
    ∃ y ∈ s'.accs, y.id = farWatch.id := by
  have hw : (match exec (.accessPerform spadStore.id PeerAnswer.none) aliased with
      | .next s => s.accs.any fun y => y.id == farWatch.id
      | _ => false) = true := by decide +kernel
  rw [he] at hw
  simpa using hw

/-- Its word is 0. -/
theorem accessPerform_satisfies_farWatch {s' : State} (he : exec (.accessPerform spadStore.id PeerAnswer.none) aliased = .next s') :
    awSays .eq farWatch.size (Mem.getLE s'.mem (2 ^ 41) farWatch.size) (0 : Word).toNat = true := by
  have hw : (match exec (.accessPerform spadStore.id PeerAnswer.none) aliased with
      | .next s => awSays .eq farWatch.size (Mem.getLE s.mem (2 ^ 41) farWatch.size) (0 : Word).toNat
      | _ => false) = true := by decide +kernel
  rwa [he] at hw

/-- An AWAIT that is placed where its word satisfies it waits no more. -/
theorem PlacedBy.gone {s' : State} {a w : Access} (h : PlacedBy s' a w) {pa u : Nat} {c : AwCond} {v : Word} {d : IReg}
    (hloc : w.loc = .hbm pa) (hop : w.op = .await c v d) (hu : w.uid = some u) (hc : w.cancelled = false) (hr : w.red = false)
    (hsays : awSays c w.size (Mem.getLE s'.mem pa w.size) v.toNat = true) : ∀ y ∈ s'.accs, y.id ≠ w.id := by
  have hplaced := h pa u c v d hloc hop hu hc hr
  rw [if_pos hsays] at hplaced
  exact hplaced.1

/-- Refutes O21: a store need not place an AWAIT that its bytes satisfy. -/
theorem not_storeIsPerformed : ¬ Obligations.StoreIsPerformed := by
  unfold Obligations.StoreIsPerformed
  intro h
  obtain ⟨hstore, -⟩ := h aliased spadStore PeerAnswer.none 0 3 rfl performsNow_spadStore ⟨nofun, nofun⟩ rfl rfl
    (fun w _ _ _ => rfl)
  obtain ⟨s', r, he, -, -, -, -, -, -, -, -, hplaced⟩ := hstore rfl
  obtain ⟨y, hy, hid⟩ := accessPerform_keeps_farWatch he
  have hwatch : Watching aliased spadStore farWatch :=
    ⟨by simp [aliased], by simp [aliased, farWatch, spadStore], rfl, by decide +kernel⟩
  exact (hplaced farWatch hwatch).gone rfl rfl rfl rfl rfl (accessPerform_satisfies_farWatch he) y hy hid

end Sys2Proof.Machine
end

section
/-! SUPPORT. Family handles: what an issue changes at all, what an instruction on a family does where its register names one and
where it names none, and FSTAT's word (R73, R78 to R80, R82, R273 to R279). -/

namespace Sys2Proof.Machine

/-! ## What an issue changes -/

theorem setCore_shape (s : State) (k : CoreSt) : ∃ ks, s.setCore k = { s with cores := ks } := by
  unfold State.setCore
  split
  · exact ⟨_, rfl⟩
  · exact ⟨_, rfl⟩

theorem updCore_shape (s : State) (p c : Nat) (f : CoreSt → CoreSt) : ∃ ks, s.updCore p c f = { s with cores := ks } :=
  setCore_shape ..

/-- Issuing changes threads, and cores where the sequencer issues, and nothing else. -/
theorem issued_shape (s : State) (t : Thread) (p : Port) (i : Instr) :
    ∃ ts ks, s.issued t p i = { s with threads := ts, cores := ks } := by
  unfold State.issued State.advance
  split
  · obtain ⟨ks, h⟩ := updCore_shape (s.updThread t.uid fun x => x.oweAll (regsOf i).dsts) t.phys t.core
      fun k => { k with seqr := k.seqr.map SeqRun.next }
    exact ⟨_, ks, h⟩
  · exact ⟨_, s.cores, rfl⟩

@[simp] theorem issued_families (s : State) (t : Thread) (p : Port) (i : Instr) : (s.issued t p i).families = s.families := by
  obtain ⟨ts, ks, h⟩ := issued_shape s t p i
  rw [h]

/-- A thread once it has issued: its destinations are owed, and it stands behind the instruction unless its sequencer run has
issued it. -/
def Thread.steppedPast (x : Thread) (p : Port) (i : Instr) : Thread :=
  let y := x.oweAll (regsOf i).dsts
  if p.seqr then y else { y with pc := y.pc + BitVec.ofNat 64 (issueLength p i), bpSkip := none, wait := none, kept := none }

section
variable (x : Thread) (p : Port) (i : Instr)

@[simp] theorem steppedPast_uid : (x.steppedPast p i).uid = x.uid := by unfold Thread.steppedPast; dsimp only; split <;> simp
@[simp] theorem steppedPast_kind : (x.steppedPast p i).kind = x.kind := by unfold Thread.steppedPast; dsimp only; split <;> simp
@[simp] theorem steppedPast_run : (x.steppedPast p i).run = x.run := by unfold Thread.steppedPast; dsimp only; split <;> simp
@[simp] theorem steppedPast_phys : (x.steppedPast p i).phys = x.phys := by unfold Thread.steppedPast; dsimp only; split <;> simp
@[simp] theorem steppedPast_core : (x.steppedPast p i).core = x.core := by unfold Thread.steppedPast; dsimp only; split <;> simp
@[simp] theorem steppedPast_slot : (x.steppedPast p i).slot = x.slot := by unfold Thread.steppedPast; dsimp only; split <;> simp

end

theorem issued_threads (s : State) (t : Thread) (p : Port) (i : Instr) :
    (s.issued t p i).threads = s.threads.map fun x => if x.uid == t.uid then x.steppedPast p i else x := by
  unfold State.issued State.advance Thread.steppedPast
  cases p.seqr with
  | true => simp
  | false => exact congrArg State.threads (updThread_updThread s t.uid (f := fun x => x.oweAll (regsOf i).dsts) _ fun x => by simp)

theorem member?_steppedPast (x : Thread) (p : Port) (i : Instr) : (x.steppedPast p i).member? = x.member? := by
  simp only [Thread.member?, steppedPast_kind]

/-! ## Instructions on a family (R82, R273) -/

section
variable {s : State} {t : Thread} {p : Port} {i : Instr} {a : IReg} {f : Family}
  {body : State → Thread → Port → Family → Except Trap State} (h : Issues s t p i) (hn : NoStream s t i)
include h hn

/-- A register that names no family of the thread raises the family-handle trap. -/
theorem handleOp_nameless (hnone : NamesNone s t (t.int a)) :
    handleOp i s a body = .next (s.takeTrap t p (.familyHandle (t.int a))) := by
  refine attempt_error h hn (by simp [Trap.familyHandle, Trap.plain]) ?_
  have hfind : s.families.find? (fun f => zext64 f.handle == t.int a && f.creator == t.uid && !f.detached && !f.nameless) =
      none := by
    refine List.find?_eq_none.mpr fun f hf hmatch => ?_
    simp only [Bool.and_eq_true, beq_iff_eq, Bool.not_eq_true'] at hmatch
    obtain ⟨⟨⟨hhandle, hcreator⟩, hdetached⟩, hnameless⟩ := hmatch
    exact hnone f hf hcreator hdetached hnameless hhandle
  simp only [State.named, issued_families, hfind]

variable (hf : Names s t (t.int a) f)
include hf

/-- On a named family the operation is done, or traps. -/
theorem handleOp_ok {s2 : State} (hb : body (s.issued t p i) t p f = .ok s2) : handleOp i s a body = .next s2 := by
  refine attempt_ok h hn ?_
  rw [State.named, issued_families, hf]
  exact hb

theorem handleOp_error {tr : Trap} (hb : body (s.issued t p i) t p f = .error tr) (hcode : tr.code ≠ 0x06) :
    handleOp i s a body = .next (s.takeTrap t p tr) := by
  refine attempt_error h hn hcode ?_
  rw [State.named, issued_families, hf]
  exact hb

/-- An instruction that takes a reserved family traps on a started one. -/
theorem reservedOp_started (hst : f.started = true) :
    reservedOp i s a body = .next (s.takeTrap t p (.familyHandle (t.int a))) :=
  handleOp_error h hn hf (if_pos hst) (by simp [Trap.familyHandle, Trap.plain])

theorem reservedOp_ok {s2 : State} (hst : f.started = false) (hb : body (s.issued t p i) t p f = .ok s2) :
    reservedOp i s a body = .next s2 :=
  handleOp_ok h hn hf (by rw [hst]; exact hb)

theorem reservedOp_error {tr : Trap} (hst : f.started = false) (hb : body (s.issued t p i) t p f = .error tr)
    (hcode : tr.code ≠ 0x06) : reservedOp i s a body = .next (s.takeTrap t p tr) :=
  handleOp_error h hn hf (by rw [hst]; exact hb) hcode

end

/-! ## FSTAT's word (R275) -/

/-- The state of a family as FSTAT shows it. -/
def State.statusState (s : State) (f : Family) : Nat :=
  if !f.started then 0 else if f.status.isSome then 2 else if s.belowDecided f then 3 else 1

theorem statusState_lt (s : State) (f : Family) : s.statusState f < 4 := by
  unfold State.statusState
  split_ifs <;> decide

theorem statusWord_eq (s : State) (f : Family) : s.statusWord f = BitVec.ofNat 64
    ((if f.where_ = 3 then 0 else f.hostLcl % 256) * 2 ^ 32 + min f.next (2 ^ 24 - 1) * 2 ^ 8 + f.status.getD 0 % 4 * 16 +
      s.statusState f * 4 + f.where_ % 4) := rfl

/-- The number of FSTAT's word, whose five fields do not meet. -/
theorem toNat_statusWord (s : State) (f : Family) : (s.statusWord f).toNat =
    (if f.where_ = 3 then 0 else f.hostLcl % 256) * 2 ^ 32 + min f.next (2 ^ 24 - 1) * 2 ^ 8 + f.status.getD 0 % 4 * 16 +
      s.statusState f * 4 + f.where_ % 4 := by
  have hstate := statusState_lt s f
  have hhost : (if f.where_ = 3 then 0 else f.hostLcl % 256) < 256 := by split <;> omega
  rw [statusWord_eq, BitVec.toNat_ofNat, Nat.mod_eq_of_lt (by omega)]

theorem belowDecided_iff (s : State) (f : Family) : s.belowDecided f = true ↔ ∃ (k m : Nat) (x : Thread), f.decided = some k ∧
    (x ∈ s.threads ∨ ∃ r ∈ s.saves, x ∈ r.threads) ∧ x.member? = some (f.uid, m) ∧ m < k := by
  unfold State.belowDecided
  cases f.decided with
  | none => simp
  | some d =>
    simp only [List.any_eq_true, List.mem_append, List.mem_flatMap, Option.some.injEq]
    constructor
    · rintro ⟨x, hx, hbelow⟩
      cases hm : x.member? with
      | none => simp [hm] at hbelow
      | some y =>
        obtain ⟨hu, hlt⟩ : y.1 = f.uid ∧ y.2 < d := by simpa [hm] using hbelow
        exact ⟨d, y.2, x, rfl, hx, by rw [hm, ← hu], hlt⟩
    · rintro ⟨k, m, x, rfl, hx, hm, hlt⟩
      exact ⟨x, hx, by simp [hm, hlt]⟩

/-- Issuing changes nothing that FSTAT shows. -/
theorem statusWord_issued (s : State) (t : Thread) (p : Port) (i : Instr) (f : Family) :
    (s.issued t p i).statusWord f = s.statusWord f := by
  have hbelow : (s.issued t p i).belowDecided f = s.belowDecided f := by
    unfold State.belowDecided
    cases f.decided with
    | none => rfl
    | some d =>
      obtain ⟨ts, ks, hs⟩ := issued_shape s t p i
      have hsaves : (s.issued t p i).saves = s.saves := by rw [hs]
      dsimp only
      rw [List.any_append, List.any_append, issued_threads, List.any_map, hsaves]
      congr 2
      funext x
      simp only [Function.comp_apply]
      split
      · rw [member?_steppedPast]
      · rfl
  rw [statusWord_eq, statusWord_eq, State.statusState, State.statusState, hbelow]

/-- FSTAT's state field: 0 reserved, 2 terminated, 3 terminating while a member below the deciding one is left, 1 running. -/
theorem statusState_cases (s : State) (f : Family) : (f.started = false → s.statusState f = 0) ∧
    (f.started = true → f.status ≠ none → s.statusState f = 2) ∧
    (f.started = true → f.status = none → (s.belowDecided f = true → s.statusState f = 3) ∧
      (¬ s.belowDecided f = true → s.statusState f = 1)) := by
  unfold State.statusState
  refine ⟨fun h => ?_, fun h hs => ?_, fun h hs => ⟨fun hb => ?_, fun hb => ?_⟩⟩
  · simp [h]
  · simp [h, Option.isSome_iff_ne_none.mpr hs]
  · simp [h, hs, hb]
  · simp [h, hs, hb]

/-! ## The instructions that name a family (R73, R78 to R80, R82, R274 to R279) -/

/-- Each instruction that names a family is one operation on what its handle register names. -/
theorem exec_of_handleReg {i : Instr} {a : IReg} (h : handleReg i = some a) :
    ∃ body, (∀ s, exec i s = handleOp i s a body) ∧ ∀ s t, NoStream s t i := by
  revert h
  fun_cases handleReg i
  case case12 => exact fun h => nomatch h
  all_goals
    rintro ⟨⟩
    exact ⟨_, fun _ => rfl, fun _ _ => noStream_of_noWide rfl rfl⟩

/-- Those that take a reserved family. -/
theorem exec_of_reservedOnly {i : Instr} {a b : IReg}
    (h : i = .fplace a b ∨ (∃ n, i = .fputD a b n) ∨ (∃ n, i = .fputG a b n) ∨ ∃ n, i = .fgo a n) :
    ∃ body, (∀ s, exec i s = reservedOp i s a body) ∧ ∀ s t, NoStream s t i := by
  rcases h with rfl | ⟨n, rfl⟩ | ⟨n, rfl⟩ | ⟨n, rfl⟩ <;> exact ⟨_, fun _ => rfl, fun _ _ => noStream_of_noWide rfl rfl⟩

/-- Settles O29: each instruction is one operation on the family that its register names, if it names one. -/
theorem familyHandles : Obligations.FamilyHandles := by
  refine fun s t p f d a b => ⟨fun i hi h hnone => ?_, fun hf => ⟨fun i hi h hst => ?_, fun n h hst => ?_, fun n h hst => ?_,
    fun h hst => ?_, fun h => ?_, fun n h => ?_, fun h => ?_, fun h => ?_, fun h => ?_, fun h => ?_, fun h => ?_⟩⟩
  · obtain ⟨body, he, hn⟩ := exec_of_handleReg hi
    rw [he]
    exact handleOp_nameless h (hn s t) hnone
  · obtain ⟨body, he, hn⟩ := exec_of_reservedOnly hi
    rw [he]
    exact reservedOp_started h (hn s t) hf hst
  · split
    · next hw => exact reservedOp_error h (noStream_of_noWide rfl rfl) hf hst (if_pos hw) (by simp)
    · next hw => exact reservedOp_ok h (noStream_of_noWide rfl rfl) hf hst (if_neg hw)
  · split
    · next hw => exact reservedOp_error h (noStream_of_noWide rfl rfl) hf hst (if_pos hw) (by simp)
    · next hw => exact reservedOp_ok h (noStream_of_noWide rfl rfl) hf hst (if_neg hw)
  · split
    · next hw => exact reservedOp_ok h (noStream_of_noWide rfl rfl) hf hst (if_pos hw)
    · next hw => exact reservedOp_error h (noStream_of_noWide rfl rfl) hf hst (if_neg hw) (by simp)
  · refine handleOp_ok h (noStream_of_noWide rfl rfl) hf ?_
    cases f.status <;> rfl
  · split
    · next hw => exact handleOp_error h (noStream_of_noWide rfl rfl) hf (if_pos hw) (by simp)
    · next hw =>
      refine handleOp_ok h (noStream_of_noWide rfl rfl) hf ((if_neg hw).trans ?_)
      cases f.status <;> rfl
  · split
    · next hw => exact handleOp_error h (noStream_of_noWide rfl rfl) hf (if_pos (by simp [hw])) (by simp)
    · next hw =>
      exact handleOp_ok h (noStream_of_noWide rfl rfl) hf ((if_neg (by simpa using hw)).trans (by simp [State.freeFamily]))
  · exact handleOp_ok h (noStream_of_noWide rfl rfl) hf rfl
  · exact handleOp_ok h (noStream_of_noWide rfl rfl) hf rfl
  · have hword := toNat_statusWord s f
    have hlt := statusState_lt s f
    have hstate : (s.statusWord f).toNat / 4 % 4 = s.statusState f := by omega
    have hhost : (if f.where_ = 3 then 0 else f.hostLcl % 256) < 256 := by split <;> omega
    refine ⟨s.statusWord f, handleOp_ok h (noStream_of_noWide rfl rfl) hf (by rw [statusWord_issued]; rfl), by omega, ?_, by omega,
      by omega, by omega⟩
    rw [hstate, ← belowDecided_iff]
    exact statusState_cases s f
  · split
    · next hst => exact handleOp_error h (noStream_of_noWide rfl rfl) hf (if_pos (by simp [hst])) (by simp)
    · next hst =>
      split
      · next hend =>
        exact handleOp_ok h (noStream_of_noWide rfl rfl) hf ((if_neg (by simpa using hst)).trans ((if_pos hend).trans
          (by simp [State.freeFamily])))
      · next hend => exact handleOp_ok h (noStream_of_noWide rfl rfl) hf ((if_neg (by simpa using hst)).trans (if_neg hend))

end Sys2Proof.Machine
end

section
/-! SUPPORT. A refutation of O27: the statement is for every state, and not only for those in which the next number to be given is
new; where a family already carries it, FALLOC shows that family's record in its frame (R258) although the new one has an entry. -/

namespace Sys2Proof.Machine

/-- The thread of `State.seated1` with parameters that R70 accepts: step 1 and the thread's own window. -/
def reservingThread : Thread := { seatedThread with exts := seatedThread.exts.set 2 0x444F000000000001 }

/-- A family in frame 0 under the number 100. -/
def numberedFamily : Family := { startedFamily 100 9 (some 0) with k1 := 5 }

/-- The machine of `State.seated1` with the two, in which the next number to be given is again 100. -/
def reservedTwice : State :=
  { State.reset.seated1 with threads := [reservingThread], port := some seatedPort, families := [numberedFamily], fresh := 100 }

/-- FALLOC reserves entry 0 and yet writes the record of the older family. -/
theorem falloc_writes_record {s' : State} (he : exec (.falloc (.l 0)) reservedTwice = .next s') : s'.mem ≠ [] := by
  have hw : (match exec (.falloc (.l 0)) reservedTwice with
      | .next s => s.mem
      | _ => []) ≠ [] := by decide +kernel
  rwa [he] at hw

/-- Refutes O27: a family with an entry may be reserved and memory changed. -/
theorem not_familyReservation : ¬ Obligations.FamilyReservation := by
  unfold Obligations.FamilyReservation
  intro h
  obtain ⟨-, -, hreserved⟩ := h reservedTwice reservingThread seatedPort (.l 0) (by decide +kernel)
  have hentry : reservedTwice.freeEntry reservingThread = some 0 := by decide +kernel
  obtain ⟨s2, f, num, c, he, -, -, -, -, -, -, -, -, -, -, -, -, -, hplace⟩ :=
    hreserved (by decide +kernel) (.inl (by simp [hentry]))
  rw [hentry] at hplace
  obtain ⟨-, -, -, hmem⟩ := hplace
  exact falloc_writes_record he hmem

end Sys2Proof.Machine
end

section
/-! SUPPORT. A refutation of O28: the statement is for every state, and not only for those whose threads' numbers differ; of two
threads under one number, an inline start leaves the one that has ended as it is (R266). -/

namespace Sys2Proof.Machine

/-- The thread of `State.seated1` with the handle 1 in l0. -/
def startingThread : Thread := { seatedThread with ints := seatedThread.ints.set 0 1 }

/-- An ended thread under the number of the first. -/
def endedTwin : Thread := { startingThread with run := .ended, slot := 1 }

/-- A reserved family of that thread, of kind 4, in entry 0 and with the handle 1. -/
def inlineFamily : Family :=
  { startedFamily 10 3 none with handle := 1, entry := some 0, k3 := 4, started := false, next := 0 }

/-- The machine of `State.seated1` with the three, at an FGO. -/
def startedTwice : State :=
  { State.reset.seated1 with
    threads := [startingThread, endedTwin], port := some seatedPort, families := [inlineFamily], fresh := 100 }

theorem names_inlineFamily : Names startedTwice startingThread (startingThread.int (.l 0)) inlineFamily := by decide +kernel

/-- After the FGO the twin is still ended. -/
theorem fgo_keeps_endedTwin {s' : State} (he : exec (.fgo (.l 0) 0) startedTwice = .next s') :
    ∃ x ∈ s'.threads, x.uid = startingThread.uid ∧ x.run = .ended := by
  have hw : (match exec (.fgo (.l 0) 0) startedTwice with
      | .next s => s.threads.any fun x => x.uid == startingThread.uid && x.run == .ended
      | _ => false) = true := by decide +kernel
  rw [he] at hw
  simpa using hw

/-- Refutes O28: a thread under the creator's number need not host the family. -/
theorem not_familyStart : ¬ Obligations.FamilyStart := by
  unfold Obligations.FamilyStart
  intro h
  obtain ⟨hfgo, -⟩ := h startedTwice startingThread seatedPort (.l 0) (.l 0) 0
  obtain ⟨-, -, hinline⟩ := hfgo inlineFamily (by decide +kernel) names_inlineFamily rfl rfl
  obtain ⟨s', he, hhosting, -⟩ := hinline (by decide +kernel) rfl rfl rfl rfl (by decide +kernel) rfl
    (.inr (by decide +kernel)) (by decide +kernel)
  obtain ⟨x, hx, huid, hrun⟩ := fgo_keeps_endedTwin he
  rw [hhosting x hx huid] at hrun
  exact absurd hrun nofun

end Sys2Proof.Machine
end

section
/-! SUPPORT. Delegation (R262, R263): the order of the candidates, the inline start when there is none, what placing members leaves
of a family, and what the creator finds when its start has been answered. -/

namespace Sys2Proof.Machine

/-! ## Candidates (R262) -/

/-- Cluster and spare count `x` come before `y`: more spare slots, or as many and the lower number. -/
def Ahead (x y : Nat × Nat) : Prop := y.2 < x.2 ∨ y.2 = x.2 ∧ x.1 < y.1

theorem Ahead.trans {x y z : Nat × Nat} (h : Ahead x y) (h' : Ahead y z) : Ahead x z := by
  unfold Ahead at *; omega

theorem ahead_total {x y : Nat × Nat} (hne : y.1 ≠ x.1) (h : ¬ Ahead x y) : Ahead y x := by
  unfold Ahead at *; omega

/-- Insertion puts the element before the first one that it is ahead of. -/
theorem insertSpare_cons (x y : Nat × Nat) (ys : List (Nat × Nat)) :
    Ahead x y ∧ insertSpare x (y :: ys) = x :: y :: ys ∨ ¬ Ahead x y ∧ insertSpare x (y :: ys) = y :: insertSpare x ys := by
  have hahead : (decide (y.2 < x.2) || (y.2 == x.2 && decide (x.1 < y.1))) = true ↔ Ahead x y := by simp [Ahead]
  by_cases h : Ahead x y
  · exact .inl ⟨h, if_pos (hahead.mpr h)⟩
  · exact .inr ⟨h, if_neg (hahead.not.mpr h)⟩

theorem insertSpare_perm (x : Nat × Nat) (ys : List (Nat × Nat)) : (insertSpare x ys).Perm (x :: ys) := by
  induction ys with
  | nil => exact .refl _
  | cons y ys ih =>
    obtain ⟨-, h⟩ | ⟨-, h⟩ := insertSpare_cons x y ys <;> rw [h]
    exact (ih.cons y).trans (.swap x y ys)

theorem insertSpare_pairwise {x : Nat × Nat} {ys : List (Nat × Nat)} (hs : ys.Pairwise Ahead) (hne : ∀ y ∈ ys, y.1 ≠ x.1) :
    (insertSpare x ys).Pairwise Ahead := by
  induction ys with
  | nil => exact List.pairwise_singleton ..
  | cons y ys ih =>
    obtain ⟨hy, hys⟩ := List.pairwise_cons.mp hs
    obtain ⟨hxy, h⟩ | ⟨hxy, h⟩ := insertSpare_cons x y ys <;> rw [h]
    · refine List.pairwise_cons.mpr ⟨fun z hz => ?_, hs⟩
      obtain rfl | hz := List.mem_cons.mp hz
      · exact hxy
      · exact hxy.trans (hy z hz)
    · refine List.pairwise_cons.mpr ⟨fun z hz => ?_, ih hys fun z hz => hne z (List.mem_cons_of_mem _ hz)⟩
      obtain rfl | hz := List.mem_cons.mp ((insertSpare_perm x ys).mem_iff.mp hz)
      · exact ahead_total (hne y List.mem_cons_self) hxy
      · exact hy z hz

theorem foldr_insertSpare_perm (xs : List (Nat × Nat)) : (xs.foldr insertSpare []).Perm xs := by
  induction xs with
  | nil => exact .refl _
  | cons x xs ih => exact (insertSpare_perm ..).trans (ih.cons x)

theorem foldr_insertSpare_pairwise {xs : List (Nat × Nat)} (hd : (xs.map (·.1)).Nodup) :
    (xs.foldr insertSpare []).Pairwise Ahead := by
  induction xs with
  | nil => exact .nil
  | cons x xs ih =>
    obtain ⟨hx, hd⟩ := List.nodup_cons.mp hd
    refine insertSpare_pairwise (ih hd) fun y hy he => hx ?_
    exact List.mem_map.mpr ⟨y, (foldr_insertSpare_perm xs).mem_iff.mp hy, he⟩

/-- A cluster of the summary that may take a member of the family: in its place and its context's allotment, with a spare slot,
and not the creating one. -/
def Fits (s : State) (f : Family) (c : Context) (l n : Nat) : Prop :=
  (l, n) ∈ s.summary ∧ 1 ≤ n ∧ f.inPlace l = true ∧ l ∈ c.allot ∧ l ≠ f.lcl

/-- The clusters that fit with their spare counts, in the order in which they are asked. -/
def State.ranking (s : State) (f : Family) (c : Context) : List (Nat × Nat) :=
  (s.summary.filter fun x => f.inPlace x.1 && c.allot.contains x.1 && x.1 != f.lcl && decide (1 ≤ x.2)).foldr insertSpare []

section
variable {s : State} {f : Family} {c : Context}

theorem mem_ranking {l n : Nat} : (l, n) ∈ s.ranking f c ↔ Fits s f c l n := by
  unfold State.ranking Fits
  rw [(foldr_insertSpare_perm _).mem_iff]
  simp only [List.mem_filter, Bool.and_eq_true, List.contains_iff_mem, bne_iff_ne, ne_eq, decide_eq_true_eq]
  tauto

theorem ranking_take_mem {l n : Nat} (h : (l, n) ∈ (s.ranking f c).take 4) : Fits s f c l n :=
  mem_ranking.mp (List.mem_of_mem_take h)

variable (hd : (s.summary.map (·.1)).Nodup)
include hd

theorem ranking_keys_filter : ((s.summary.filter fun x => f.inPlace x.1 && c.allot.contains x.1 && x.1 != f.lcl &&
    decide (1 ≤ x.2)).map (·.1)).Nodup := hd.sublist (List.filter_sublist.map _)

theorem ranking_pairwise : (s.ranking f c).Pairwise Ahead := foldr_insertSpare_pairwise (ranking_keys_filter hd)

theorem ranking_nodup : ((s.ranking f c).map (·.1)).Nodup :=
  ((foldr_insertSpare_perm _).map _).nodup_iff.mpr (ranking_keys_filter hd)

/-- A cluster has one spare count in a summary. -/
theorem summary_unique {l n m : Nat} (hn : (l, n) ∈ s.summary) (hm : (l, m) ∈ s.summary) : n = m :=
  congrArg Prod.snd (List.inj_on_of_nodup_map hd hn hm rfl)

/-- The candidates are the first four of the ranking. -/
theorem candidates_eq (hc : s.ctx? f.ctx = some c) : s.candidates f s.summary = ((s.ranking f c).take 4).map (·.1) := by
  unfold State.candidates
  simp only [hc, Option.map_some, Option.getD_some]
  rw [List.map_take, ← State.ranking, (ranking_nodup hd).dedup]

theorem candidates_pairwise : (((s.ranking f c).take 4).map (·.1)).Pairwise fun a b =>
    ∀ n m, (a, n) ∈ s.summary → (b, m) ∈ s.summary → m < n ∨ m = n ∧ a < b := by
  refine List.pairwise_map.mpr (((ranking_pairwise hd).sublist (List.take_sublist 4 _)).imp_of_mem fun {x y} hx hy hxy => ?_)
  intro n m hn hm
  obtain ⟨hx, -⟩ := ranking_take_mem hx
  obtain ⟨hy, -⟩ := ranking_take_mem hy
  rw [summary_unique hd hn hx, summary_unique hd hm hy]
  exact hxy

/-- A cluster that fits and is no candidate comes after four that are. -/
theorem candidates_full {l n : Nat} (h : Fits s f c l n) (hl : l ∉ ((s.ranking f c).take 4).map (·.1)) :
    (((s.ranking f c).take 4).map (·.1)).length = 4 ∧
      ∀ b ∈ ((s.ranking f c).take 4).map (·.1), ∀ m, (b, m) ∈ s.summary → n < m ∨ n = m ∧ b < l := by
  have hdrop : (l, n) ∈ (s.ranking f c).drop 4 := by
    have hmem := mem_ranking.mpr h
    rw [← List.take_append_drop 4 (s.ranking f c)] at hmem
    exact (List.mem_append.mp hmem).resolve_left fun ht => hl (List.mem_map.mpr ⟨_, ht, rfl⟩)
  constructor
  · have := List.length_pos_of_mem hdrop
    rw [List.length_drop] at this
    simp only [List.length_map, List.length_take]
    omega
  · intro b hb m hm
    obtain ⟨x, hx, rfl⟩ := List.mem_map.mp hb
    have hp := ranking_pairwise (f := f) (c := c) hd
    rw [← List.take_append_drop 4 (s.ranking f c)] at hp
    obtain ⟨-, -, hcross⟩ := List.pairwise_append.mp hp
    obtain ⟨hx', -⟩ := ranking_take_mem hx
    rw [summary_unique hd hm hx']
    exact hcross x hx _ hdrop

end

/-! ## Starts (R39, R74, R266) -/

theorem fill_kind (t : Thread) (d : List (Fin 4 × Word)) (g : List (Fin 8 × Word)) : (t.fill d g).kind = t.kind :=
  (foldl_keeps Thread.kind _ (fun _ _ => Thread.put_kind ..) _ _).trans
    (foldl_keeps Thread.kind _ (fun _ _ => Thread.put_kind ..) _ _)

theorem fill_run (t : Thread) (d : List (Fin 4 × Word)) (g : List (Fin 8 × Word)) : (t.fill d g).run = t.run :=
  (foldl_keeps Thread.run _ (fun _ _ => Thread.put_run ..) _ _).trans
    (foldl_keeps Thread.run _ (fun _ _ => Thread.put_run ..) _ _)

theorem fill_slot (t : Thread) (d : List (Fin 4 × Word)) (g : List (Fin 8 × Word)) : (t.fill d g).slot = t.slot :=
  (foldl_keeps Thread.slot _ (fun _ _ => Thread.put_slot ..) _ _).trans
    (foldl_keeps Thread.slot _ (fun _ _ => Thread.put_slot ..) _ _)

/-- One thread starts, of that kind and in that slot. -/
theorem startNext_thread (s : State) (f : Family) (kind : Nat → ThreadKind) (core slot : Nat) (z : Stamp) :
    ∃ x, (s.startNext f kind core slot z).threads = s.threads ++ [x] ∧ x.kind = kind f.next ∧ x.run = .running ∧ x.slot = slot :=
  ⟨_, rfl, fill_kind .., fill_run .., fill_slot ..⟩

@[simp] theorem keepRecord_threads (s : State) (fam : Nat) : (s.keepRecord fam).threads = s.threads := by
  unfold State.keepRecord
  split
  · split
    · split
      · rfl
      · exact writeBytes_threads ..
    · rfl
  · rfl

@[simp] theorem keepFrame_families (s : State) (u : Nat) : (s.keepFrame u).families = s.families := by
  unfold State.keepFrame
  split
  · split
    · rfl
    · exact writeBytes_families ..
  · rfl

/-- The next index starts in the creator's slot. -/
theorem inlineNext_starts {s : State} {fam : Nat} {f : Family} {c : Thread} (hf : s.family? fam = some f)
    (hc : s.thread? f.creator = some c) (hmore : f.more = true) (z : Stamp) :
    s.inlineNext fam z = (s.startNext f (fun m => .inline fam m c.uid) c.core c.slot z).keepRecord fam := by
  simp [State.inlineNext, hf, hc, hmore]

/-- A family whose inline run begins in the slot of a thread. -/
def Family.runsIn (c : Thread) (fr : Nat) (f : Family) : Family :=
  { f with where_ := 2, runFrame := some fr, hostPhys := c.phys, hostLcl := c.lcl, probe := none }

/-- A thread in whose slot an inline run of the family begins. -/
def Thread.hosting (fam : Nat) (t : Thread) : Thread :=
  { t with run := if t.live then t.run.behind (RunState.hostFor fam) else t.run, wait := none }

/-- An inline run that has a frame begins. -/
theorem runInline_begins {s : State} {fam : Nat} {f : Family} {t : Thread} (hf : s.family? fam = some f)
    (hframe : f.frame ≠ none ∨ s.freeFrame t ≠ none) :
    ∃ (fr : Nat) (s1 : State), s1.families = (s.updFamily fam (Family.runsIn t fr)).families ∧
      s1.threads = (s.updThread t.uid (Thread.hosting fam)).threads ∧
      s.runInline fam t = some ((s1.keepFrame t.uid).inlineNext fam t.stamp) := by
  unfold State.runInline
  rw [hf]
  dsimp only
  cases hown : f.frame with
  | some fr => exact ⟨fr, _, by rfl, by rfl, rfl⟩
  | none =>
    obtain ⟨fr, hfree⟩ := Option.ne_none_iff_exists'.mp (hframe.resolve_left (not_not.mpr hown))
    rw [hfree]
    exact ⟨fr, _, by rfl, by rfl, rfl⟩

/-- A family with a frame, of its own or free on the core, runs inline: its creator hosts it, and its next index runs in the
creator's slot. -/
theorem runInline_hosts {s : State} {fam : Nat} {f : Family} {t : Thread} (hf : s.family? fam = some f) (hmore : f.more = true)
    (ht : s.thread? f.creator = some t) (hframe : f.frame ≠ none ∨ s.freeFrame t ≠ none) :
    ∃ s' x, s.runInline fam t = some s' ∧
      s'.threads = (s.threads.map fun y => if y.uid == t.uid then y.hosting fam else y) ++ [x] ∧
      x.fam? = some fam ∧ x.run = .running ∧ x.slot = t.slot := by
  obtain ⟨fr, s1, hfamilies, hthreads, hrun⟩ := runInline_begins hf hframe
  have hf1 : (s1.keepFrame t.uid).family? fam = some (f.runsIn t fr) := by
    have hu : f.uid = fam := by simpa using List.find?_some hf
    rw [State.family?, keepFrame_families, hfamilies, ← State.family?,
      family?_updFamily s fam fam (Family.runsIn t fr) fun _ => rfl, hf]
    simp [hu]
  have ht1 : (s1.keepFrame t.uid).thread? (f.runsIn t fr).creator = some (t.hosting fam) := by
    have hu : t.uid = (f.runsIn t fr).creator := thread?_uid ht
    rw [State.thread?, keepFrame_threads, hthreads, ← State.thread?, ← hu]
    exact thread?_updThread_same (hu ▸ ht) (f := Thread.hosting fam) fun _ => rfl
  obtain ⟨x, hx, hkind, hrunning, hslot⟩ := startNext_thread (s1.keepFrame t.uid) (f.runsIn t fr)
    (fun m => .inline fam m (t.hosting fam).uid) (t.hosting fam).core (t.hosting fam).slot t.stamp
  refine ⟨_, x, hrun, ?_, ?_, hrunning, hslot⟩
  · rw [inlineNext_starts hf1 ht1 hmore, keepRecord_threads, hx, keepFrame_threads, hthreads]
    rfl
  · simp [Thread.fam?, Thread.member?, hkind]

/-! ## The creator goes on (R74, R262) -/

/-- A write to a shared register changes, besides the forwards, at most what the thread has forwarded. -/
theorem forwardOn_threads (s : State) (u q : Nat) (o : Operand) (v : Wide) :
    (s.forwardOn u q o v).threads = s.threads ∨
      ∃ i, (s.forwardOn u q o v).threads = (s.updThread u fun t => { t with fwd := setBit t.fwd i true }).threads := by
  unfold State.forwardOn
  split
  · split
    · split
      · exact .inr ⟨_, rfl⟩
      · exact .inl rfl
    · exact .inl rfl
  · exact .inl rfl

/-- How a creator stands once it has gone past its FGO or CREATE. -/
structure Thread.WentPast (inline : Bool) (x y : Thread) : Prop where
  uid : y.uid = x.uid
  pc : y.pc = x.pc + 4
  run : y.run = if inline then x.run else x.run.behind fun _ => .running
  kind : y.kind = x.kind
  slot : y.slot = x.slot

/-- A creator that goes past its start. -/
def Thread.pastStart (inline : Bool) (t : Thread) : Thread :=
  { t with pc := t.pc + 4, bpSkip := none, run := if inline then t.run else t.run.behind fun _ => .running }

/-- A creator that goes past its CREATE. -/
def Thread.pastCreate (inline : Bool) (d : IReg) (t : Thread) : Thread :=
  { (t.pastStart inline).owe (.int d) with creations := t.creations + 1 }

theorem wentPast_pastStart (inline : Bool) (x : Thread) : x.WentPast inline (x.pastStart inline) := ⟨rfl, rfl, rfl, rfl, rfl⟩

theorem wentPast_pastCreate (inline : Bool) (d : IReg) (x : Thread) : x.WentPast inline (x.pastCreate inline d) :=
  ⟨Thread.owe_uid .., Thread.owe_pc .., Thread.owe_run .., Thread.owe_kind .., Thread.owe_slot ..⟩

theorem Thread.WentPast.put {inline : Bool} {x y : Thread} (h : x.WentPast inline y) (o : Operand) (v : Wide) :
    x.WentPast inline (y.put o v) :=
  ⟨(Thread.put_uid ..).trans h.uid, (Thread.put_pc ..).trans h.pc, (Thread.put_run ..).trans h.run,
    (Thread.put_kind ..).trans h.kind, (Thread.put_slot ..).trans h.slot⟩

/-- A full handle register is one more change of the creator alone. -/
theorem fillHandle_threads (s : State) (u : Nat) (d : IReg) (r : BitVec 32) :
    ∃ fwd : BitVec 4 → BitVec 4, (s.fillHandle u d r).threads = (s.updThread u fun t =>
      { t.put (.int d) ((zext64 r).setWidth 256) with fwd := fwd (t.put (.int d) ((zext64 r).setWidth 256)).fwd }).threads := by
  unfold State.fillHandle
  rw [keepFrame_threads]
  obtain h | ⟨i, h⟩ := forwardOn_threads (s.updThread u fun t => t.put (.int d) ((zext64 r).setWidth 256)) u s.fresh (.int d)
    ((zext64 r).setWidth 256) <;> rw [h]
  · exact ⟨id, rfl⟩
  · rw [updThread_updThread s u _ fun _ => Thread.put_uid ..]
    exact ⟨fun x => setBit x i true, rfl⟩

/-- Of the threads, going past a start changes the creator alone. -/
theorem passStart_threads (s : State) (t : Thread) (f : Family) (inline : Bool) :
    ∃ g : Thread → Thread, (∀ x : Thread, x.WentPast inline (g x)) ∧
      (s.passStart t f inline).threads = (s.updThread t.uid g).threads := by
  unfold State.passStart
  dsimp only
  split
  · next d _ _ =>
    cases inline with
    | true =>
      obtain ⟨fwd, h⟩ := fillHandle_threads (s.updThread t.uid (Thread.pastCreate true d)) t.uid d f.handle
      rw [updThread_updThread s t.uid _ fun _ => (wentPast_pastCreate ..).uid] at h
      refine ⟨_, fun x => ?_, h⟩
      have hput := (wentPast_pastCreate true d x).put (.int d) ((zext64 f.handle).setWidth 256)
      exact ⟨hput.uid, hput.pc, hput.run, hput.kind, hput.slot⟩
    | false => exact ⟨_, wentPast_pastCreate false d, rfl⟩
  · exact ⟨_, wentPast_pastStart inline, keepFrame_threads ..⟩

theorem forwardOn_families (s : State) (u q : Nat) (o : Operand) (v : Wide) : (s.forwardOn u q o v).families = s.families := by
  unfold State.forwardOn
  split
  · split
    · split <;> rfl
    · rfl
  · rfl

@[simp] theorem passStart_families (s : State) (t : Thread) (f : Family) (inline : Bool) :
    (s.passStart t f inline).families = s.families := by
  unfold State.passStart
  dsimp only
  split
  · split
    · exact (keepFrame_families ..).trans (forwardOn_families ..)
    · rfl
  · exact keepFrame_families ..

/-! ## The end of a family leaves the threads (R78) -/

@[simp] theorem answerWaiters_threads (s : State) (f : Family) (status : Nat) : (s.answerWaiters f status).threads = s.threads := by
  refine foldl_keeps State.threads _ (fun s p => ?_) s _
  split
  · split <;> rfl
  · split <;> rfl
  · rfl

@[simp] theorem finishFamily_threads (s : State) (fam status : Nat) (z : Option Stamp) :
    (s.finishFamily fam status z).threads = s.threads := by
  cases hf : s.family? fam with
  | none => unfold State.finishFamily; rw [hf]
  | some f =>
    obtain h | h := finishFamily_cases status z hf <;> rw [h]
    · simp
    · exact (keepRecord_threads ..).trans (by simp)

@[simp] theorem tryFinish_threads (s : State) (fam : Nat) (z : Option Stamp) : (s.tryFinish fam z).threads = s.threads := by
  unfold State.tryFinish
  split
  · rfl
  · split
    · exact finishFamily_threads ..
    · rfl

/-- What is so of every family of a uid, whether it has terminated or not, is so after its end. -/
theorem tryFinish_forall {s : State} {fam : Nat} {P : Family → Prop} (hP : ∀ g status z, P g → P (g.finished status z))
    (h : ∀ g ∈ s.families, g.uid = fam → P g) (z : Option Stamp) : ∀ g ∈ (s.tryFinish fam z).families, g.uid = fam → P g := by
  unfold State.tryFinish
  split
  · exact h
  · next f hf =>
    split
    · have hfam : f.uid = fam := by simpa using List.find?_some hf
      have hreplaced : ∀ status, ∀ g ∈ (s.updFamily fam fun _ => f.finished status z).families, g.uid = fam → P g := by
        intro status g hg hu
        obtain ⟨x, hx, rfl⟩ := List.mem_map.mp hg
        split at hu
        · next hxf => rw [if_pos hxf]; exact hP f status z (h f (List.mem_of_find?_eq_some hf) hfam)
        · next hxf => rw [if_neg hxf]; exact h x hx hu
      intro g hg hu
      obtain e | e := finishFamily_cases (if f.killed then 2 else if f.decided.isSome then 1 else 0) z hf <;> rw [e] at hg
      · exact hreplaced _ g (by simpa using hg) hu
      · exact hreplaced _ g (by simpa using List.mem_of_mem_filter hg) hu
    · exact h

/-! ## Placing (R260) -/

/-- Placing leaves of a family's record all but the count of its members that have started, the core of the last block and what
its home entry holds. -/
def Family.Placing (f f' : Family) : Prop := ∃ n last held, f' = { f with next := n, last := last, held := held }

theorem Family.Placing.refl (f : Family) : f.Placing f := ⟨_, _, _, rfl⟩

theorem Family.Placing.trans {f g h : Family} (hg : f.Placing g) (hh : g.Placing h) : f.Placing h := by
  obtain ⟨_, _, _, rfl⟩ := hg
  obtain ⟨n, last, held, rfl⟩ := hh
  exact ⟨n, last, held, rfl⟩

/-- A change of families that keeps what placing keeps. -/
theorem family?_map_placing {s s' : State} {fam u : Nat} {f : Family} {g : Family → Family} (hg : ∀ x : Family, x.Placing (g x))
    (hs : s'.families = (s.updFamily u g).families) (hf : s.family? fam = some f) :
    ∃ f', s'.family? fam = some f' ∧ f.Placing f' := by
  have huid (x : Family) : (g x).uid = x.uid := by obtain ⟨_, _, _, h⟩ := hg x; rw [h]
  refine ⟨_, (congrArg (List.find? _) hs).trans ((family?_updFamily s u fam g huid).trans (congrArg _ hf)), ?_⟩
  dsimp only
  split
  · exact hg f
  · exact .refl f

theorem startNext_placing {s : State} {fam : Nat} {f : Family} (hf : s.family? fam = some f) (g : Family) (kind : Nat → ThreadKind)
    (core slot : Nat) (z : Stamp) : ∃ f', (s.startNext g kind core slot z).family? fam = some f' ∧ f.Placing f' :=
  family?_map_placing (u := g.uid) (g := fun x => { x with next := x.next + 1, held := Vector.replicate 4 none })
    (fun x => ⟨x.next + 1, x.last, Vector.replicate 4 none, rfl⟩) rfl hf

theorem startMany_placing (fam u core : Nat) : ∀ (n : Nat) {s : State} {f : Family}, s.family? fam = some f →
    ∃ f', (s.startMany u core n).family? fam = some f' ∧ f.Placing f'
  | 0, _, f, hf => ⟨f, hf, .refl f⟩
  | n + 1, s, f, hf => by
    unfold State.startMany
    split
    · next g slot _ _ =>
      split
      · obtain ⟨f1, hf1, h1⟩ := startNext_placing hf g (.member u) core slot g.stamp
        obtain ⟨f2, hf2, h2⟩ := startMany_placing fam u core n hf1
        exact ⟨f2, hf2, h1.trans h2⟩
      · exact ⟨f, hf, .refl f⟩
    · exact ⟨f, hf, .refl f⟩

theorem placeFrom_placing (fam u : Nat) : ∀ (n : Nat) {s : State} {f : Family}, s.family? fam = some f →
    ∃ f', (s.placeFrom u n).family? fam = some f' ∧ f.Placing f'
  | 0, _, f, hf => ⟨f, hf, .refl f⟩
  | n + 1, s, f, hf => by
    unfold State.placeFrom
    split
    · exact ⟨f, hf, .refl f⟩
    · split
      · exact ⟨f, hf, .refl f⟩
      · split
        · exact ⟨f, hf, .refl f⟩
        · next g _ _ _ c _ =>
          obtain ⟨f1, hf1, h1⟩ := startMany_placing fam u c (if g.block = 0 then s.room g c else min (s.room g c) g.block) hf
          obtain ⟨f2, hf2, h2⟩ := family?_map_placing (u := u) (g := fun x => { x with last := c })
            (fun x => ⟨x.next, _, x.held, rfl⟩) rfl hf1
          obtain ⟨f3, hf3, h3⟩ := placeFrom_placing fam u n hf2
          exact ⟨f3, hf3, (h1.trans h2).trans h3⟩

@[simp] theorem takeCluster_families (s : State) (c p : Nat) (l : Option Nat) : (s.takeCluster c p l).families = s.families := by
  unfold State.takeCluster; dsimp only
  rw [State.updCluster_families]
  split
  · exact State.setCluster_families ..
  · rfl

/-! ## The events (R262, R263) -/

section
variable {s : State} {f : Family} (hf : s.family? f.uid = some f)
include hf

/-- An unanswered probe that has candidates asks them, and one that has none fails. -/
theorem delegationCandidates_answers {pr : Probe} {at_ : Nat} (hp : f.probe = some pr) (hans : pr.answered = false)
    (hat : s.summaryAt = some at_) (hnow : s.now ≤ at_ + 1000) :
    exec (.delegationCandidates f.uid false) s = .next (if (s.candidates f s.summary).isEmpty then s.probeFails f
      else s.updFamily f.uid fun x => { x with probe := some ⟨true, s.candidates f s.summary, none, 0⟩ }) := by
  show execDelegationCandidates f.uid false s = _
  simp [execDelegationCandidates, hat, hnow, hf, hp, hans]

theorem family?_updFamily_same {g : Family → Family} (hg : ∀ x, (g x).uid = x.uid) :
    (s.updFamily f.uid g).family? f.uid = some (g f) := by
  rw [family?_updFamily s _ _ g hg, hf]
  simp

/-- A creator that is held at the start of a family with no candidate, but with a frame, goes past it and hosts the family. -/
theorem probeFails_inline {t : Thread} (hmore : f.more = true) (ht : s.thread? f.creator = some t) (hrun : t.run = .probing f.uid)
    (hframe : f.frame ≠ none ∨ s.freeFrame t ≠ none) :
    (∃ x ∈ (s.probeFails f).threads, x.uid = t.uid ∧ x.pc = t.pc + 4 ∧ x.run = .hosting f.uid) ∧
      ∃ x ∈ (s.probeFails f).threads, x.fam? = some f.uid ∧ x.run = .running ∧ x.slot = t.slot := by
  have hkilled : f.killed = false := by
    simp only [Family.more, Bool.and_eq_true, Bool.not_eq_true'] at hmore
    obtain ⟨⟨⟨-, hkilled⟩, -⟩, -⟩ := hmore
    exact hkilled
  have hprobes : t.probes f.uid = true := by simp [Thread.probes, hrun, RunState.base]
  obtain ⟨s1, y, hinline, hthreads, hfam, hrunning, hslot⟩ := runInline_hosts hf hmore ht hframe
  have hfails : s.probeFails f = s1.passStart t f true := by simp [State.probeFails, ht, hkilled, hinline, hprobes]
  obtain ⟨g, hg, hpast⟩ := passStart_threads s1 t f true
  have hmem (x : Thread) (hx : x ∈ s1.threads) : (if x.uid == t.uid then g x else x) ∈ (s.probeFails f).threads := by
    rw [hfails, hpast]; exact List.mem_map_of_mem hx
  refine ⟨⟨_, hmem (t.hosting f.uid) ?_, ?_⟩, ⟨_, hmem y ?_, ?_⟩⟩
  · rw [hthreads]
    exact List.mem_append_left _ (List.mem_map.mpr ⟨t, thread?_mem ht, if_pos (by simp)⟩)
  · have hw := hg (t.hosting f.uid)
    have hself : ((t.hosting f.uid).uid == t.uid) = true := BEq.rfl
    rw [if_pos hself]
    exact ⟨hw.uid, hw.pc, hw.run.trans (by simp [Thread.hosting, Thread.live, hrun, RunState.behind, RunState.hostFor])⟩
  · rw [hthreads]; exact List.mem_append_right _ List.mem_cons_self
  · have hw := hg y
    split
    · exact ⟨(fam?_of_kind hw.kind).trans hfam, hw.run.trans hrunning, hw.slot.trans hslot⟩
    · exact ⟨hfam, hrunning, hslot⟩

/-- A cluster that can take a member becomes the host and places the family. -/
theorem delegationProbe_accepts {l n phys : Nat} {rest : List Nat} (hp : f.probe = some ⟨true, l :: rest, none, n⟩)
    (hphys : s.physOf l = some phys) (hhost : s.mayHost f.ctx l phys = true) (hk : f.killed = false) :
    ∃ s' f', exec (.delegationProbe f.uid) s = .next s' ∧ s'.family? f.uid = some f' ∧ f'.hostPhys = phys ∧ f'.hostLcl = l ∧
      f'.where_ = 1 ∧ f'.spare = true ∧ f'.probe = some ⟨true, l :: rest, some (l, true), n⟩ := by
  have htaken : (s.takeCluster f.ctx phys (s.clusterAt phys).lcl).family? f.uid = some f :=
    (congrArg (List.find? _) (takeCluster_families ..)).trans hf
  obtain ⟨f', hf', _, _, _, rfl⟩ := placeFrom_placing f.uid f.uid 504 (family?_updFamily_same htaken (g := fun x =>
    { x with hostPhys := phys, hostLcl := l, where_ := 1, spare := true, last := 7,
             probe := some ⟨true, l :: rest, some (l, true), n⟩ })
    fun _ => rfl)
  refine ⟨_, _, ?_, hf', rfl, rfl, rfl, rfl, rfl⟩
  show execDelegationProbe f.uid s = _
  simp [execDelegationProbe, hf, hp, hphys, hhost, hk, State.place_]

/-- Any other cluster refuses. -/
theorem delegationProbe_refuses {l n phys : Nat} {rest : List Nat} (hp : f.probe = some ⟨true, l :: rest, none, n⟩)
    (hphys : s.physOf l = some phys) (hno : s.mayHost f.ctx l phys = false ∨ f.killed = true) :
    exec (.delegationProbe f.uid) s =
      .next (s.updFamily f.uid fun x => { x with probe := some ⟨true, l :: rest, some (l, false), n⟩ }) := by
  show execDelegationProbe f.uid s = _
  obtain h | h := hno <;> simp [execDelegationProbe, hf, hp, hphys, h]

/-- An accept lets the creator go on. -/
theorem probeReply_accepted {l n b : Nat} {rest : List Nat} {t : Thread} (hp : f.probe = some ⟨true, l :: rest, some (b, true), n⟩)
    (ht : s.thread? f.creator = some t) (hrun : t.run = .probing f.uid) :
    ∃ s', exec (.probeReply f.uid) s = .next s' ∧ (∀ g ∈ s'.families, g.uid = f.uid → g.probe = none) ∧
      ∃ x ∈ s'.threads, x.uid = t.uid ∧ x.pc = t.pc + 4 ∧ x.run = .running := by
  have hprobes : t.probes f.uid = true := by simp [Thread.probes, hrun, RunState.base]
  let s1 := s.updFamily f.uid fun x => { x with probe := none }
  have ht1 : s1.thread? f.creator = some t := ht
  have hexec : exec (.probeReply f.uid) s = .next ((s1.passStart t f false).tryFinish f.uid none) := by
    show execProbeReply f.uid s = _
    simp [execProbeReply, hf, hp, s1, ht1, hprobes]
  obtain ⟨g, hg, hpast⟩ := passStart_threads s1 t f false
  refine ⟨_, hexec, tryFinish_forall (P := fun x => x.probe = none) (fun _ _ _ => id) (fun x hx hu => ?_) none, g t, ?_, ?_⟩
  · rw [passStart_families] at hx
    obtain ⟨y, -, rfl⟩ := List.mem_map.mp hx
    split
    · rfl
    · next hy =>
      rw [if_neg hy] at hu
      exact absurd (by simpa using hu) hy
  · rw [tryFinish_threads, hpast]
    exact List.mem_map.mpr ⟨t, thread?_mem ht, if_pos (by simp)⟩
  · exact ⟨(hg t).uid, (hg t).pc, (hg t).run.trans (by simp [hrun, RunState.behind])⟩

/-- A refusal turns the family to the next candidate. -/
theorem probeReply_refused {l m n b : Nat} {rest : List Nat} (hp : f.probe = some ⟨true, l :: m :: rest, some (b, false), n⟩) :
    exec (.probeReply f.uid) s = .next (s.updFamily f.uid fun x => { x with probe := some ⟨true, m :: rest, none, n + 1⟩ }) := by
  show execProbeReply f.uid s = _
  simp [execProbeReply, hf, hp]

end

/-- A summary that is older than 1 µs answers nothing. -/
theorem delegationCandidates_stale {s : State} {fam at_ : Nat}
    (h : s.summaryAt = none ∨ s.summaryAt = some at_ ∧ at_ + 1000 < s.now) :
    exec (.delegationCandidates fam false) s = .next s := by
  show execDelegationCandidates fam false s = _
  obtain h | ⟨h, hlt⟩ := h
  · simp [execDelegationCandidates, h]
  · simp [execDelegationCandidates, h, hlt]

/-- Settles O39: the candidates are the first four of the ranking by spare slots; with none the creator hosts the family, and a
probe and its reply are the rules of their events. -/
theorem delegationProbes : Obligations.DelegationProbes := by
  refine ⟨fun s => ⟨s.spareNow, fun l n => ?_, fun _ => rfl⟩, fun s f hf => ⟨fun pr c at_ hp hans hc hat hnow hd => ⟨?_, ?_⟩,
    fun fam at_ => delegationCandidates_stale, fun l rest n phys hp hphys => ⟨delegationProbe_accepts hf hp hphys,
      delegationProbe_refuses hf hp hphys⟩, fun l rest n b t hp => probeReply_accepted hf hp,
    fun l m rest n b hp => probeReply_refused hf hp⟩⟩
  · simp only [State.spareNow, List.mem_filterMap, List.mem_range, Option.map_eq_some_iff, Prod.mk.injEq]
    constructor
    · rintro ⟨_, hl, p, hp, rfl, rfl⟩; exact ⟨hl, p, hp, rfl⟩
    · rintro ⟨hl, p, hp, rfl⟩; exact ⟨l, hl, p, hp, rfl, rfl⟩
  · rintro ⟨l, n, hfits⟩
    have hne : s.candidates f s.summary ≠ [] := by
      rw [candidates_eq hd hc]
      have := List.ne_nil_of_mem (mem_ranking.mpr hfits)
      simpa using this
    refine ⟨_, s.candidates f s.summary, (delegationCandidates_answers hf hp hans hat hnow).trans
      (congrArg _ (if_neg (by simpa using hne))), family?_updFamily_same hf (g := fun x =>
        { x with probe := some ⟨true, s.candidates f s.summary, none, 0⟩ }) fun _ => rfl, hne, ?_⟩
    rw [candidates_eq hd hc]
    refine ⟨by simp, fun k hk => ?_, candidates_pairwise hd, fun k m => candidates_full hd⟩
    obtain ⟨⟨k', m⟩, hx, rfl⟩ := List.mem_map.mp hk
    exact ⟨m, ranking_take_mem hx⟩
  · intro hnone t ht hrun hmore hframe
    have hempty : s.candidates f s.summary = [] := by
      rw [candidates_eq hd hc]
      have : s.ranking f c = [] := List.eq_nil_iff_forall_not_mem.mpr fun x hx => hnone x.1 x.2 (mem_ranking.mp hx)
      rw [this]; rfl
    exact ⟨_, (delegationCandidates_answers hf hp hans hat hnow).trans (congrArg _ (if_pos (by simp [hempty]))),
      probeFails_inline hf hmore ht hrun hframe⟩

end Sys2Proof.Machine
end

section
/-! SUPPORT. EXIT, BREAK and YIELD (R76, R77, R267, R280, R351): how a thread's end begins, what a BREAK leaves of the members above
it and of everything else, and the end of a trap service. -/

namespace Sys2Proof.Machine

/-! ## What an issue leaves -/

@[simp] theorem issued_fwds (s : State) (t : Thread) (p : Port) (i : Instr) : (s.issued t p i).fwds = s.fwds := by
  obtain ⟨ts, ks, h⟩ := issued_shape s t p i
  rw [h]

@[simp] theorem issued_accs (s : State) (t : Thread) (p : Port) (i : Instr) : (s.issued t p i).accs = s.accs := by
  obtain ⟨ts, ks, h⟩ := issued_shape s t p i
  rw [h]

/-- The issuing thread has stepped past its instruction. -/
theorem issued_thread?_same {s : State} {t : Thread} (ht : s.thread? t.uid = some t) (p : Port) (i : Instr) :
    (s.issued t p i).thread? t.uid = some (t.steppedPast p i) :=
  (congrArg (List.find? _) (issued_threads s t p i)).trans
    (thread?_updThread_same (f := (Thread.steppedPast · p i)) ht fun _ => steppedPast_uid ..)

theorem updThread_congr {s : State} {u : Nat} {f g : Thread → Thread} (h : ∀ x ∈ s.threads, x.uid = u → f x = g x) :
    s.updThread u f = s.updThread u g := by
  have hmap : (s.threads.map fun x => if x.uid == u then f x else x) = s.threads.map fun x => if x.uid == u then g x else x := by
    refine List.map_congr_left fun x hx => ?_
    by_cases hu : x.uid = u
    · rw [if_pos (by simpa using hu), if_pos (by simpa using hu), h x hx hu]
    · rw [if_neg (by simpa using hu), if_neg (by simpa using hu)]
  simp only [State.updThread, hmap]

/-! ## How an end begins (R76, R77) -/

/-- A thread that stands at something and waits for nothing. -/
def Thread.standing (r : RunState) (t : Thread) : Thread := { t with run := r, wait := none }

section
variable {s : State} {t : Thread}

/-- Nothing under the thread's uid does anything but run. -/
def State.Runs (s : State) (t : Thread) : Prop := ∀ x ∈ s.threads, x.uid = t.uid → x.run = .running

theorem runs_issued (hone : ∀ x ∈ s.threads, x.uid = t.uid → x = t) (hrun : t.run = .running) (p : Port) (i : Instr) :
    (s.issued t p i).Runs t := by
  intro x hx hu
  rw [issued_threads] at hx
  obtain ⟨y, hy, rfl⟩ := List.mem_map.mp hx
  have huy : y.uid = t.uid := by
    split at hu
    · exact (steppedPast_uid ..).symm.trans hu
    · exact hu
  rw [if_pos (by simpa using huy), steppedPast_run, hone y hy huy, hrun]

variable (hruns : s.Runs t)
include hruns

theorem updThread_behind (r : RunState) :
    (s.updThread t.uid fun x => { x with run := x.run.behind fun _ => r, wait := none }) = s.updThread t.uid (Thread.standing r) :=
  updThread_congr fun x hx hu => by simp [Thread.standing, hruns x hx hu, RunState.behind]

theorem startExit_exit : s.startExit t false = s.updThread t.uid (Thread.standing .exiting) := updThread_behind hruns .exiting

theorem startExit_alone (hm : t.member? = none) : s.startExit t true = s.updThread t.uid (Thread.standing .breaking) := by
  rw [← updThread_behind hruns]
  simp [State.startExit, hm]

theorem startExit_member {fam m : Nat} (hm : t.member? = some (fam, m)) :
    s.startExit t true = (s.updThread t.uid (Thread.standing .breaking)).breakAt fam m := by
  rw [← updThread_behind hruns]
  simp [State.startExit, hm]

end

theorem isService_of_member {t : Thread} {x : Nat × Nat} (h : t.member? = some x) : t.isService = false := by
  unfold Thread.isService
  split
  · next v hk => simp [Thread.member?, hk] at h
  · rfl

/-- Outside trap service EXIT and BREAK begin their own thread's end. -/
theorem exitOp_starts {s : State} {t : Thread} {p : Port} {i : Instr} (h : Issues s t p i) (hn : NoStream s t i)
    (hs : t.isService = false) (brk : Bool) : exitOp i s brk = .next ((s.issued t p i).startExit t brk) := by
  refine attempt_ok h hn ?_
  dsimp only
  split
  · next v hk => simp [Thread.isService, hk] at hs
  · rfl

/-! ## BREAK of a member (R77, R267) -/

/-- A member of the family above member `m`. -/
def Thread.isAbove (fam m : Nat) (x : Thread) : Bool := (x.member?.map fun y => y.1 == fam && decide (m < y.2)).getD false

/-- The live members of the family above member `m`. -/
def State.above (s : State) (fam m : Nat) : List Thread := s.threads.filter fun x => x.isAbove fam m && x.live

/-- A family that member `m` has decided. -/
def Family.decidedBy (m : Nat) (f : Family) : Family := { f with decided := some m, held := Vector.replicate 4 none }

/-- Every live member above `m` has ended, and the family is decided. -/
def State.cutAbove (s : State) (fam m : Nat) : State :=
  ((s.above fam m).foldl (fun s t => s.endMember t.uid) (s.updFamily fam (Family.decidedBy m))).keepRecord fam

/-- The slots of threads are given out in ascending core and slot order (R261). -/
def State.offerSlots (s : State) (ts : List Thread) : State :=
  (ts.mergeSort slotOrder).foldl (fun s x => s.offerSlot x.phys x.core x.slot none) s

section
variable {s : State} {fam m : Nat} {f : Family} (hf : s.family? fam = some f)

theorem membersOf_above (s : State) (fam m : Nat) :
    ((s.membersOf fam).filter fun t => (t.member?.map fun x => decide (m < x.2)).getD false && t.live) = s.above fam m := by
  unfold State.membersOf State.above
  rw [List.filter_filter]
  refine List.filter_congr fun x _ => ?_
  cases hm : x.member? with
  | none => simp [Thread.isAbove, Thread.fam?, hm]
  | some y =>
    simp only [Thread.isAbove, Thread.fam?, hm, Option.map_some, Option.getD_some, Option.some_beq_some]
    cases y.1 == fam <;> simp

include hf

theorem breakAt_decided {d : Nat} (hd : f.decided = some d) (hle : d ≤ m) : s.breakAt fam m = s := by
  simp [State.breakAt, hf, hd, hle]

theorem breakAt_decides (hd : ∀ d, f.decided = some d → m < d) :
    s.breakAt fam m = (s.cutAbove fam m).offerSlots (s.above fam m) := by
  have hno : (f.decided.map fun d => decide (d ≤ m)).getD false = false := by
    cases hdec : f.decided with
    | none => rfl
    | some d => simpa using hd d hdec
  unfold State.breakAt
  simp only [hf, hno, Bool.false_eq_true, if_false]
  have habove := membersOf_above (s.updFamily fam (Family.decidedBy m)) fam m
  rw [show (s.updFamily fam (Family.decidedBy m)).above fam m = s.above fam m from rfl] at habove
  rw [State.cutAbove, State.offerSlots, ← habove]
  rfl

end

/-! ### The family that has been decided -/

/-- Between two states each uid's family is decided by the same member. -/
structure SameDecided (s s' : State) : Prop where
  decided : ∀ u, (s'.family? u).map (·.decided) = (s.family? u).map (·.decided)

theorem SameDecided.of_eq {s s' : State} (h : s'.families = s.families) : SameDecided s s' :=
  ⟨fun _ => by rw [State.family?, State.family?, h]⟩

theorem SameDecided.trans {s s' s'' : State} (h : SameDecided s s') (h' : SameDecided s' s'') : SameDecided s s'' :=
  ⟨fun u => (h'.decided u).trans (h.decided u)⟩

theorem SameDecided.foldl {α : Type} {f : State → α → State} (h : ∀ s a, SameDecided s (f s a)) (xs : List α) (s : State) :
    SameDecided s (xs.foldl f s) := by
  induction xs generalizing s with
  | nil => exact .of_eq rfl
  | cons x xs ih => exact (h s x).trans (ih _)

theorem sameDecided_updFamily (s : State) (u : Nat) {g : Family → Family}
    (hg : ∀ f, (g f).uid = f.uid ∧ (g f).decided = f.decided) : SameDecided s (s.updFamily u g) := by
  refine ⟨fun v => ?_⟩
  rw [family?_updFamily s u v g fun f => (hg f).1, Option.map_map]
  congr 1
  funext f
  dsimp only [Function.comp]
  split
  · exact (hg f).2
  · rfl

theorem sameDecided_endThreadWait (s : State) (u : Nat) (a : BitVec 32) (k : Nat) (z : Stamp) :
    SameDecided s (s.endThreadWait u a k z) := by
  unfold State.endThreadWait
  split
  · exact .of_eq rfl
  · exact .of_eq (aside_endWait ..).families

theorem sameDecided_sendForward (s : State) (fam m : Nat) (i : Fin 4) (v : Word) (z : Stamp) :
    SameDecided s (s.sendForward fam m i v z) := by
  have hlog := sameDecided_updFamily s fam (g := Family.logged m i v) fun _ => ⟨rfl, rfl⟩
  have hput (t : Thread) (deps : List Nat) := hlog.trans (.of_eq (s' := (s.updFamily fam (Family.logged m i v)).updThread t.uid
    (Thread.received i v deps)) rfl)
  obtain ⟨-, h⟩ | ⟨f, deps, -, ⟨t, -, h | h⟩ | ⟨-, h⟩⟩ := sendForward_cases s fam m i v z <;> rw [h]
  · exact .of_eq rfl
  · exact (hput t deps).trans (sameDecided_endThreadWait ..)
  · exact (hput t deps).trans (.of_eq (keepFrame_families ..))
  · split
    · exact hlog.trans (sameDecided_updFamily _ _ fun _ => ⟨rfl, rfl⟩)
    · exact hlog

theorem leaveTraps_families (s : State) (t : Thread) : (s.leaveTraps t).families = s.families := by
  unfold State.leaveTraps
  dsimp only
  split
  · split
    · exact State.setCore_families ..
    · exact State.setCore_families ..
  · exact State.setCore_families ..

theorem sameDecided_endMember (s : State) (u : Nat) : SameDecided s (s.endMember u) := by
  unfold State.endMember
  split
  · exact .of_eq rfl
  · next t _ =>
    split
    · exact .of_eq rfl
    · have hdrop : SameDecided s (s.dropForwards u) :=
        .trans (s' := { s with fwds := s.fwds.filter fun f => f.from_ != u }) (.of_eq rfl)
          (.foldl (fun _ _ => sameDecided_sendForward ..) _ _)
      exact hdrop.trans (.of_eq ((State.setCore_families ..).trans (leaveTraps_families ..)))

/-- The family is decided by `m`. -/
theorem cutAbove_decided {s : State} {fam m : Nat} {f : Family} (hf : s.family? fam = some f) :
    ∃ f', (s.cutAbove fam m).family? fam = some f' ∧ f'.decided = some m := by
  have hu : f.uid = fam := by simpa using List.find?_some hf
  have hset : (s.updFamily fam (Family.decidedBy m)).family? fam = some (f.decidedBy m) := by
    rw [family?_updFamily s fam fam (Family.decidedBy m) fun _ => rfl, hf]
    simp [hu]
  have hsame : SameDecided (s.updFamily fam (Family.decidedBy m)) (s.cutAbove fam m) :=
    (SameDecided.foldl (fun s (t : Thread) => sameDecided_endMember s t.uid) _ _).trans (.of_eq (keepRecord_families ..))
  have hdec := hsame.decided fam
  rw [hset] at hdec
  exact Option.map_eq_some_iff.mp hdec

/-! ### The members above -/

theorem cutAbove_ended {s : State} {fam m : Nat} {x : Thread} (hd : s.UidsDiffer) (hx : x ∈ s.above fam m) :
    (s.cutAbove fam m).Ended x.uid :=
  (settles_keepRecord ..).ended (ended_foldl_endMember (s := s.updFamily fam (Family.decidedBy m)) hd hx)

/-! ### The other threads -/

/-- The thread is there and serves no trap, and no forward of the uids is on its way. -/
structure Apart (s : State) (x : Thread) (us : List Nat) : Prop where
  mem : x ∈ s.threads
  serves : ∀ phys core r v, (s.coreAt phys core).serving = some (r, v) → v ≠ x.uid
  fwds : ∀ w ∈ s.fwds, w.from_ ∉ us

theorem dropForwards_of_none {s : State} {u : Nat} (h : ∀ w ∈ s.fwds, w.from_ ≠ u) : s.dropForwards u = s := by
  have hkeep : (s.fwds.filter fun f => f.from_ != u) = s.fwds := List.filter_eq_self.mpr fun w hw => by simpa using h w hw
  have hsend : (s.fwds.filter fun f => f.from_ == u && !s.fwdHeld f) = [] :=
    List.filter_eq_nil_iff.mpr fun w hw => by simp [h w hw]
  simp only [State.dropForwards, hkeep, hsend, List.foldl_nil]

theorem Apart.updThread {s : State} {x : Thread} {us : List Nat} (h : Apart s x us) {u : Nat} (hu : x.uid ≠ u) {f : Thread → Thread}
    (hf : ∀ y, (f y).uid = y.uid) : Apart (s.updThread u f) x us :=
  ⟨(mem_updThread_other hf hu).mpr h.mem, h.serves, h.fwds⟩

theorem Apart.setCore {s : State} {x : Thread} {us : List Nat} (h : Apart s x us) {k : CoreSt}
    (hk : ∀ r v, k.serving = some (r, v) → v ≠ x.uid) : Apart (s.setCore k) x us := by
  refine ⟨(State.setCore_threads ..).symm ▸ h.mem, fun phys core r v hserv => ?_, (State.setCore_fwds ..).symm ▸ h.fwds⟩
  rw [coreAt_setCore] at hserv
  split at hserv
  · exact hk r v hserv
  · exact h.serves phys core r v hserv

theorem Apart.leaveTraps {s : State} {x : Thread} {us : List Nat} (h : Apart s x us) (t : Thread) :
    Apart (s.leaveTraps t) x us := by
  unfold State.leaveTraps
  dsimp only
  split
  · next r svc hserv =>
    split
    · have hfree := h.setCore (k := { s.coreAt t.phys t.core with
        trapQ := (s.coreAt t.phys t.core).trapQ.filter (·.uid != t.uid), serving := none }) nofun
      have hended := hfree.updThread (u := svc) (h.serves _ _ _ _ hserv).symm (f := fun x => { x with run := .ended }) fun _ => rfl
      exact ⟨hended.mem, hended.serves, hended.fwds⟩
    · exact h.setCore (h.serves _ _)
  · exact h.setCore (h.serves _ _)

theorem Apart.endMember {s : State} {x : Thread} {us : List Nat} (h : Apart s x us) {u : Nat} (hu : u ∈ us) (hx : x.uid ≠ u) :
    Apart (s.endMember u) x us := by
  unfold State.endMember
  split
  · exact h
  · next t _ =>
    split
    · exact h
    · rw [dropForwards_of_none fun w hw he => h.fwds w hw (he ▸ hu)]
      have hdropped : Apart ((s.cancelWaiters u true).dropResults u) x us := ⟨h.mem, h.serves, h.fwds⟩
      have hleft := hdropped.leaveTraps t
      refine Apart.updThread ?_ hx fun _ => rfl
      exact hleft.setCore (hleft.serves _ _)

theorem Apart.foldl_endMember {x : Thread} {us : List Nat} {ts : List Thread}
    (hts : ∀ t ∈ ts, t.uid ∈ us ∧ x.uid ≠ t.uid) {s : State}
    (h : Apart s x us) : Apart (ts.foldl (fun s t => s.endMember t.uid) s) x us := by
  induction ts generalizing s with
  | nil => exact h
  | cons t ts ih =>
    obtain ⟨hu, hx⟩ := hts t List.mem_cons_self
    exact ih (fun y hy => hts y (List.mem_cons_of_mem _ hy)) (h.endMember hu hx)

/-- A thread that is not above and serves no trap stands as it stood. -/
theorem cutAbove_keeps {s : State} {fam m : Nat} {x : Thread} (h : Apart s x ((s.above fam m).map (·.uid)))
    (hx : ∀ y ∈ s.above fam m, x.uid ≠ y.uid) : x ∈ (s.cutAbove fam m).threads := by
  unfold State.cutAbove
  rw [keepRecord_threads]
  exact (Apart.foldl_endMember (fun t ht => ⟨List.mem_map_of_mem ht, hx t ht⟩) (s := s.updFamily fam (Family.decidedBy m))
    ⟨h.mem, h.serves, h.fwds⟩).mem

/-! ## A member that issues BREAK (R77, R267) -/

theorem mem_updThread_same {s : State} {u : Nat} {f : Thread → Thread} {x : Thread} (hx : x ∈ (s.updThread u f).threads)
    (hu : x.uid = u) : ∃ y ∈ s.threads, y.uid = u ∧ x = f y := by
  obtain ⟨y, hy, rfl⟩ := List.mem_map.mp hx
  split at hu
  · next hyu => exact ⟨y, hy, by simpa using hyu, if_pos hyu⟩
  · next hyu => exact absurd (by simpa using hu) hyu

/-- The machine in which a thread's BREAK takes effect. -/
def State.breaking (s : State) (t : Thread) (p : Port) : State := (s.issued t p .brk).updThread t.uid (Thread.standing .breaking)

section
variable {s : State} {t : Thread} {p : Port} {fam m : Nat}

theorem breaking_threads (s : State) (t : Thread) (p : Port) : (s.breaking t p).threads =
    s.threads.map fun x => if x.uid == t.uid then (x.steppedPast p .brk).standing .breaking else x := by
  have h := updThread_updThread s t.uid (f := (Thread.steppedPast · p .brk)) (Thread.standing .breaking) fun _ => steppedPast_uid ..
  rw [State.breaking, State.updThread_threads, issued_threads]
  exact congrArg State.threads h

theorem breaking_runs {x : Thread} (hx : x ∈ (s.breaking t p).threads) (hu : x.uid = t.uid) : x.run = .breaking := by
  obtain ⟨y, -, -, rfl⟩ := mem_updThread_same hx hu
  rfl

theorem breaking_family? {f : Family} (hf : s.family? fam = some f) : (s.breaking t p).family? fam = some f :=
  (congrArg (List.find? _) (issued_families ..)).trans hf

theorem breaking_uidsDiffer (hd : (s.threads.map (·.uid)).Nodup) : (s.breaking t p).UidsDiffer := by
  have huid (x : Thread) : (if x.uid == t.uid then (x.steppedPast p .brk).standing .breaking else x).uid = x.uid := by
    split
    · exact steppedPast_uid ..
    · rfl
  intro x hx y hy h
  rw [breaking_threads] at hx hy
  obtain ⟨x', hx', rfl⟩ := List.mem_map.mp hx
  obtain ⟨y', hy', rfl⟩ := List.mem_map.mp hy
  rw [List.inj_on_of_nodup_map hd hx' hy' ((huid x').symm.trans (h.trans (huid y')))]

/-- A filter does not see a change of elements that it does not take. -/
theorem filter_map_of_kept {α : Type} {q : α → Bool} {g : α → α} {xs : List α}
    (h : ∀ x ∈ xs, g x = x ∨ q x = false ∧ q (g x) = false) :
    (xs.map g).filter q = xs.filter q := by
  induction xs with
  | nil => rfl
  | cons x xs ih =>
    have htail := ih fun y hy => h y (List.mem_cons_of_mem _ hy)
    obtain hx | ⟨hx, hgx⟩ := h x List.mem_cons_self
    · rw [List.map_cons, hx, List.filter_cons, List.filter_cons, htail]
    · simp [hx, hgx, htail]

/-- The members above the thread are the same ones before its BREAK. -/
theorem breaking_above (hone : ∀ x ∈ s.threads, x.uid = t.uid → x = t) (hm : t.member? = some (fam, m)) :
    (s.breaking t p).above fam m = s.above fam m := by
  unfold State.above
  rw [breaking_threads]
  refine filter_map_of_kept fun x hx => ?_
  by_cases hu : x.uid = t.uid
  · obtain rfl := hone x hx hu
    have hself : x.isAbove fam m = false := by simp [Thread.isAbove, hm]
    refine .inr ⟨by simp [hself], ?_⟩
    have hstep : ((x.steppedPast p .brk).standing .breaking).isAbove fam m = x.isAbove fam m := by
      unfold Thread.isAbove
      rw [← member?_steppedPast x p .brk]
      rfl
    simp [hstep, hself]
  · exact .inl (if_neg (by simpa using hu))

/-- BREAK of a member. -/
theorem exec_brk_member (h : Issues s t p .brk) (hone : ∀ x ∈ s.threads, x.uid = t.uid → x = t) (hrun : t.run = .running)
    (hm : t.member? = some (fam, m)) : exec .brk s = .next ((s.breaking t p).breakAt fam m) := by
  rw [State.breaking, ← startExit_member (runs_issued hone hrun p .brk) hm]
  exact exitOp_starts h (noStream_of_noWide rfl rfl) (isService_of_member hm) true

/-- A member that has no other member beside it decides its family and ends nobody. -/
theorem exec_brk_only (h : Issues s t p .brk) (hone : ∀ x ∈ s.threads, x.uid = t.uid → x = t) (hrun : t.run = .running)
    (hm : t.member? = some (fam, m)) {f : Family} (hf : s.family? fam = some f) (hd : f.decided = none)
    (honly : ∀ x ∈ s.threads, x.fam? = some fam → x.uid = t.uid) : exec .brk s = .next ((s.breaking t p).cutAbove fam m) ∧
      ((s.breaking t p).cutAbove fam m).threads = (s.breaking t p).threads := by
  have hnone : (s.breaking t p).above fam m = [] := by
    rw [breaking_above hone hm]
    refine List.filter_eq_nil_iff.mpr fun x hx habove => ?_
    cases hmem : x.member? with
    | none => simp [Thread.isAbove, hmem] at habove
    | some y =>
      simp only [Thread.isAbove, hmem, Option.map_some, Option.getD_some, Bool.and_eq_true, beq_iff_eq, decide_eq_true_eq] at habove
      obtain ⟨⟨hfam, hlt⟩, -⟩ := habove
      obtain rfl := hone x hx (honly x hx (by simp [Thread.fam?, hmem, hfam]))
      rw [hm] at hmem
      obtain rfl := Option.some.inj hmem
      exact absurd hlt (lt_irrefl _)
  refine ⟨?_, ?_⟩
  · rw [exec_brk_member h hone hrun hm, breakAt_decides (breaking_family? hf) (by simp [hd]), hnone]
    simp [State.offerSlots]
  · rw [State.cutAbove, hnone, keepRecord_threads]
    rfl

/-- Those that are not above the breaking member, and serve no trap, stand as they stood. -/
theorem breaking_keeps (hd : (s.threads.map (·.uid)).Nodup) (hone : ∀ x ∈ s.threads, x.uid = t.uid → x = t)
    (hm : t.member? = some (fam, m)) (hfwds : ∀ x ∈ s.above fam m, ∀ w ∈ s.fwds, w.from_ ≠ x.uid) {x : Thread}
    (hx : x ∈ (s.breaking t p).threads) (hnot : x.isAbove fam m = false)
    (hserves : ∀ phys core r v, (s.coreAt phys core).serving = some (r, v) → v ≠ x.uid) :
    x ∈ ((s.breaking t p).cutAbove fam m).threads := by
  refine cutAbove_keeps ⟨hx, fun phys core r v hv => hserves phys core r v ?_, fun w hw hmem => ?_⟩ fun y hy hu => ?_
  · exact (issued_serving s t p .brk phys core).symm.trans hv
  · have hw' : w ∈ s.fwds := issued_fwds s t p .brk ▸ hw
    rw [breaking_above hone hm] at hmem
    obtain ⟨y, hy, hu⟩ := List.mem_map.mp hmem
    exact hfwds y hy w hw' hu.symm
  · obtain ⟨hmem, habove⟩ := List.mem_filter.mp hy
    obtain rfl := breaking_uidsDiffer hd x hx y hmem hu
    simp [hnot] at habove

end

/-! ## The end of a trap service (R351) -/

theorem behind_of_not_trapped {r : RunState} (h : r.isTrapped = false) (f : RunState → RunState) : r.behind f = f r := by
  cases r with
  | trapped r => cases h
  | _ => rfl

/-- A thread that is served ends as its service says, at once or when what it runs elsewhere has ended. -/
theorem exitServed_stands {s : State} {v : Thread} {r0 : RunState} (hr : ∀ x ∈ s.threads, x.uid = v.uid → x.run = .trapped r0)
    (h0 : r0.isTrapped = false) :
    s.exitServed v false = s.updThread v.uid (Thread.standing (if s.busyElsewhere v then .leaving false else .exiting)) := by
  have hends (r : RunState) : ((s.updThread v.uid fun t => { t with run := t.run.served }).updThread v.uid fun t =>
      { t with run := t.run.behind fun _ => r, wait := none }) = s.updThread v.uid (Thread.standing r) := by
    rw [updThread_updThread s v.uid (f := fun t => { t with run := t.run.served }) _ fun _ => rfl]
    refine updThread_congr fun x hx hu => ?_
    simp [Thread.standing, hr x hx hu, RunState.served, behind_of_not_trapped h0]
  have hbusy : (s.updThread v.uid fun t => { t with run := t.run.served }).busyElsewhere v = s.busyElsewhere v := rfl
  unfold State.exitServed
  dsimp only
  rw [hbusy]
  split
  · exact hends _
  · exact hends _

/-- The trap slot is free and the service has ended. -/
def State.serviceLeaves (s : State) (t : Thread) (p : Port) : State :=
  ((((s.issued t p .exit).updCore t.phys t.core CoreSt.leaveServed).updThread t.uid (Thread.standing .ended)).dropResults
    t.uid).liftFences

section
variable {s : State} {t : Thread} {p : Port} {r : TrapRec} {svc : Nat}

theorem leaveServed_names (k : CoreSt) : k.leaveServed.phys = k.phys ∧ k.leaveServed.core = k.core := by
  unfold CoreSt.leaveServed
  split <;> exact ⟨rfl, rfl⟩

theorem serviceLeaves_coreAt (s : State) (t : Thread) (p : Port) :
    (s.serviceLeaves t p).coreAt t.phys t.core = ((s.issued t p .exit).coreAt t.phys t.core).leaveServed :=
  (coreAt_updCore _ _ _ _ _ _ leaveServed_names).trans (if_pos ⟨rfl, rfl⟩)

theorem serviceLeaves_threads (s : State) (t : Thread) (p : Port) :
    (s.serviceLeaves t p).threads = ((s.issued t p .exit).updThread t.uid (Thread.standing .ended)).threads :=
  congrArg (List.map _) (State.setCore_threads ..)

theorem serviceLeaves_families (s : State) (t : Thread) (p : Port) : (s.serviceLeaves t p).families = s.families :=
  (State.setCore_families ..).trans (issued_families ..)

/-- What a change of one core keeps of it, it keeps of every core. -/
theorem coreAt_updCore_keeps {α : Type} {s : State} {f : CoreSt → CoreSt} (g : CoreSt → α) (p c a b : Nat)
    (hf : ∀ k, ((f k).phys = k.phys ∧ (f k).core = k.core) ∧ g (f k) = g k) :
    g ((s.updCore p c f).coreAt a b) = g (s.coreAt a b) := by
  rw [coreAt_updCore _ _ _ _ _ _ fun k => (hf k).1]
  split
  · next h => obtain ⟨rfl, rfl⟩ := h; exact (hf _).2
  · rfl

/-- An issue leaves whose sequencer run the core has. -/
theorem issued_seqr_uid (s : State) (t : Thread) (p : Port) (i : Instr) (a b : Nat) :
    ((s.issued t p i).coreAt a b).seqr.map (·.uid) = (s.coreAt a b).seqr.map (·.uid) := by
  unfold State.issued State.advance
  split
  · refine coreAt_updCore_keeps (fun k => k.seqr.map (·.uid)) _ _ _ _ fun k => ?_
    refine ⟨⟨rfl, rfl⟩, ?_⟩
    dsimp only
    cases k.seqr with
    | none => rfl
    | some q =>
      simp only [Option.map_some, SeqRun.next]
      split <;> rfl
  · rfl

variable (hserving : (s.coreAt t.phys t.core).serving = some (r, svc))
include hserving

theorem serviceLeaves_serving : ((s.serviceLeaves t p).coreAt t.phys t.core).serving = none := by
  rw [serviceLeaves_coreAt]
  unfold CoreSt.leaveServed
  rw [issued_serving, hserving]

/-- What the served thread runs elsewhere goes on, but for a sequencer run that stands at the trap. -/
theorem serviceLeaves_busy {v : Thread} (hphys : v.phys = t.phys) (hcore : v.core = t.core) :
    (s.serviceLeaves t p).busyElsewhere v = true ↔
      (r.seqr = false ∧ ∃ q, (s.coreAt t.phys t.core).seqr = some q ∧ q.uid = v.uid) ∨ s.hosts v.uid = true := by
  have hhosts : (s.serviceLeaves t p).hosts v.uid = s.hosts v.uid := by
    unfold State.hosts
    rw [serviceLeaves_families]
  have hseqr : ((s.serviceLeaves t p).coreAt t.phys t.core).seqr =
      if r.seqr then none else ((s.issued t p .exit).coreAt t.phys t.core).seqr := by
    rw [serviceLeaves_coreAt]
    unfold CoreSt.leaveServed
    rw [issued_serving, hserving]
  have hany (o : Option SeqRun) : (o.any fun q => q.uid == v.uid) = true ↔ o.map (·.uid) = some v.uid := by
    cases o <;> simp
  unfold State.busyElsewhere
  rw [hphys, hcore, hhosts, hseqr, Bool.or_eq_true, hany]
  refine or_congr_left ?_
  cases r.seqr with
  | true => simp
  | false => simp [issued_seqr_uid]

end

/-- EXIT of a trap service: the service has ended, and the thread that it serves stands as its end says. -/
theorem exec_exit_service {s : State} {t tv : Thread} {p : Port} {v : Nat} {r0 : RunState} (h : Issues s t p .exit)
    (hk : t.kind = .service v) (hne : v ≠ t.uid) (hv : ∀ x ∈ s.threads, x.uid = v → x = tv) (htv : s.thread? v = some tv)
    (hrun : tv.run = .trapped r0) (h0 : r0.isTrapped = false) :
    exec .exit s = .next ((s.serviceLeaves t p).updThread v
      (Thread.standing (if (s.serviceLeaves t p).busyElsewhere tv then .leaving false else .exiting))) := by
  have huid : tv.uid = v := thread?_uid htv
  have hfind : (s.serviceLeaves t p).thread? v = some tv := by
    rw [State.thread?, serviceLeaves_threads, ← State.thread?]
    rw [thread?_updThread_other (f := Thread.standing .ended) (fun _ => rfl) hne, issued_thread?_other hne, htv]
  have htrapped : ∀ x ∈ (s.serviceLeaves t p).threads, x.uid = tv.uid → x.run = .trapped r0 := by
    intro x hx hu
    have hxt : x.uid ≠ t.uid := (hu.trans huid).trans_ne hne
    rw [serviceLeaves_threads, mem_updThread_other (f := Thread.standing .ended) (fun _ => rfl) hxt, issued_threads] at hx
    have hx' : x ∈ s.threads := (mem_updThread_other (f := (Thread.steppedPast · p .exit)) (fun _ => steppedPast_uid ..) hxt).mp hx
    rw [hv x hx' (hu.trans huid), hrun]
  have hexec : exec .exit s = .next ((s.serviceLeaves t p).exitServed tv false) := by
    refine attempt_ok (i := .exit) h (noStream_of_noWide rfl rfl) ?_
    simp only [hk]
    change (match (s.serviceLeaves t p).thread? v with
      | some x => Except.ok ((s.serviceLeaves t p).exitServed x false)
      | none => .ok (s.serviceLeaves t p)) = _
    rw [hfind]
  rw [hexec, exitServed_stands htrapped h0, huid]

/-- Settles O30: outside trap service an end begins with its own thread and, for a BREAK, cuts the members above; in trap service it
ends the service and the thread that it serves. -/
theorem endingAndYielding : Obligations.EndingAndYielding := by
  intro s t p hone hrun
  refine ⟨fun h hs => ?_, fun h hs hm => ?_, fun fam m f h hm hf hd honly => ?_, fun fam m f h hs hm hf hnd => ⟨?_, ?_⟩,
    fun v r svc tv r0 h hk hne hserving hv htv hrun0 h0 hphys hcore => ?_, fun h => ?_⟩
  · have ht : s.thread? t.uid = some t := thread?_uid h.2.1 ▸ h.2.1
    refine ⟨_, _, (exitOp_starts h (noStream_of_noWide rfl rfl) hs false).trans
      (congrArg _ (startExit_exit (runs_issued hone hrun p .exit))),
      thread?_updThread_same (issued_thread?_same ht p .exit) fun _ => rfl, rfl, issued_mem .., issued_accs ..⟩
  · have ht : s.thread? t.uid = some t := thread?_uid h.2.1 ▸ h.2.1
    refine ⟨_, _, (exitOp_starts h (noStream_of_noWide rfl rfl) hs true).trans
      (congrArg _ (startExit_alone (runs_issued hone hrun p .brk) hm)),
      thread?_updThread_same (issued_thread?_same ht p .brk) fun _ => rfl, rfl, issued_mem .., issued_families ..⟩
  · obtain ⟨hexec, hthreads⟩ := exec_brk_only h hone hrun hm hf hd honly
    obtain ⟨f', hf', hdec⟩ := cutAbove_decided (m := m) (breaking_family? (t := t) (p := p) hf)
    exact ⟨_, f', hexec, hf', hdec, fun x hx hu => breaking_runs (hthreads ▸ hx) hu⟩
  · intro d hd hle
    rw [exec_brk_member h hone hrun hm, breakAt_decided (breaking_family? hf) hd hle]
    rfl
  · intro hlater
    obtain ⟨f', hf', hdec⟩ := cutAbove_decided (m := m) (breaking_family? (t := t) (p := p) hf)
    have habove := breaking_above (p := p) hone hm
    refine ⟨(s.breaking t p).cutAbove fam m, f', ?_, hf', hdec, fun x hx y hy hu => ?_, fun hfwds x hx hnot hserves => ?_⟩
    · rw [exec_brk_member h hone hrun hm, breakAt_decides (breaking_family? hf) hlater, habove]
      rfl
    · exact cutAbove_ended (breaking_uidsDiffer hnd) (habove ▸ hx) y hy hu
    · exact breaking_keeps hnd hone hm hfwds hx hnot hserves
  · intro goesOn
    have hbusy := serviceLeaves_busy (p := p) hserving hphys hcore
    rw [thread?_uid htv] at hbusy
    refine ⟨_, exec_exit_service h hk hne hv htv hrun0 h0, serviceLeaves_serving hserving, fun x hx hu => ?_, fun hgo x hx hu => ?_,
      fun hgo x hx hu => ?_⟩
    · have hxv : x.uid ≠ v := hu.trans_ne hne.symm
      rw [mem_updThread_other (f := Thread.standing _) (fun _ => rfl) hxv, serviceLeaves_threads] at hx
      obtain ⟨y, -, -, rfl⟩ := mem_updThread_same hx hu
      rfl
    · obtain ⟨y, -, -, rfl⟩ := mem_updThread_same hx hu
      exact if_pos (hbusy.mpr hgo)
    · obtain ⟨y, -, -, rfl⟩ := mem_updThread_same hx hu
      exact if_neg (hbusy.not.mpr hgo)
  · exact attempt_ok h (noStream_of_noWide rfl rfl) rfl

end Sys2Proof.Machine
end

section
/-! SUPPORT. Rounding and NaN results (R111, R117, R123, R130): an exactly representable value has its own encoding as its
rounding, and a NaN operand decides each operation. -/

namespace Sys2Proof.Machine

/-! ## Encodings of finite values (R111) -/

/-- The value that an encoding of a finite value stands for: subnormal, or normal with its leading one. -/
theorem unpack_fin {f : Fmt} {b m : Nat} {neg : Bool} {e : Int} (h : unpack f b = .fin neg m e) :
    neg = decide (signBit f ≤ b % 2 ^ f.width) ∧ b % signBit f ≤ maxFinite f ∧
      ((b % signBit f < 2 ^ fracBits f ∧ m = b % signBit f ∧ e = emin f - fracBits f) ∨
        ∃ E, 1 ≤ E ∧ b % signBit f = E * 2 ^ fracBits f + b % signBit f % 2 ^ fracBits f ∧
          m = 2 ^ fracBits f + b % signBit f % 2 ^ fracBits f ∧ e = E - expBias f - fracBits f) := by
  unfold unpack at h
  dsimp only at h
  split at h
  · split at h <;> cases h
  · next hle =>
    split at h
    · next hE =>
      cases h
      exact ⟨rfl, not_lt.mp hle, .inl ⟨(Nat.div_eq_zero_iff_lt (Nat.two_pow_pos _)).mp hE, rfl, rfl⟩⟩
    · next hE =>
      cases h
      exact ⟨rfl, not_lt.mp hle, .inr ⟨_, Nat.one_le_iff_ne_zero.mpr hE, (Nat.div_add_mod' ..).symm, rfl, rfl⟩⟩

/-- In a format with a sign, an encoding is its sign bit and its magnitude. -/
theorem withSign_mod_signBit {f : Fmt} {b : Nat} (hsign : 2 ^ f.width = 2 * signBit f) (hb : b < 2 ^ f.width) :
    withSign f (decide (signBit f ≤ b % 2 ^ f.width)) (b % signBit f) = b := by
  rw [Nat.mod_eq_of_lt hb]
  unfold withSign
  by_cases hle : signBit f ≤ b
  · rw [if_pos (decide_eq_true hle), Nat.mod_eq_sub_mod hle, Nat.mod_eq_of_lt (by omega), Nat.add_sub_cancel' hle]
  · rw [if_neg (by simpa using hle), Nat.mod_eq_of_lt (not_le.mp hle)]

/-! ## Exact values (R117) -/

/-- A remainder of zero rounds up in no mode. -/
theorem roundsUp_zero (rm : RMode) (neg : Bool) (n k : Nat) : roundsUp rm neg n 0 k = false := by
  cases rm <;> simp [roundsUp]

/-- A value whose exponent is that of its binade's last place needs no rounding: its encoding is that many units of the
binade, and no flag is set. -/
theorem roundTo_exact {f : Fmt} {v : FEnv} {m : Nat} {e ex : Int} (neg : Bool) (hm : m ≠ 0) (hftz : v.ftz = false)
    (hex : max ((Nat.log2 m : Int) + e) (emin f) = ex) (he : e = ex - fracBits f)
    (hmax : (ex + expBias f - 1).toNat * 2 ^ fracBits f + m ≤ maxFinite f) :
    roundTo f v neg m e = (withSign f neg ((ex + expBias f - 1).toNat * 2 ^ fracBits f + m), 0) := by
  unfold roundTo
  rw [if_neg hm]
  dsimp only
  simp only [hex, ← he, ge_iff_le, le_refl, if_true, sub_self, Int.toNat_zero, pow_zero, mul_one, roundsUp_zero,
    Bool.false_eq_true, if_false, add_zero, not_lt.mpr hmax, hftz, Bool.false_and, bne_self_eq_false,
    BitVec.or_self]

/-- In each format that has a sign, the sign bit is the top one (R111). -/
theorem signBit_of_signed {f : Fmt} (hf : f ∈ [Fmt.d, .s, .h, .bf, .e5, .e4, .e2]) :
    2 ^ f.width = 2 * signBit f := by
  revert f
  decide

/-- Rounding the value of an encoding gives the encoding: a subnormal one counts units at the smallest exponent, and the
leading one of a normal one stands `fracBits` places above its last. -/
theorem roundTo_unpack {f : Fmt} {v : FEnv} {b m : Nat} {neg : Bool} {e : Int} (hsign : 2 ^ f.width = 2 * signBit f)
    (hftz : v.ftz = false) (hb : b < 2 ^ f.width) (h : unpack f b = .fin neg m e) : roundTo f v neg m e = (b, 0) := by
  obtain ⟨rfl, hmax, ⟨hsub, rfl, rfl⟩ | ⟨E, hE, hmag, hm, rfl⟩⟩ := unpack_fin h
  · by_cases hz : b % signBit f = 0
    · rw [hz, roundTo, if_pos rfl, ← hz, withSign_mod_signBit hsign hb]
    · have hlog : Nat.log2 (b % signBit f) < fracBits f := (Nat.log2_lt hz).mpr hsub
      have hunits : (emin f + expBias f - 1).toNat * 2 ^ fracBits f + b % signBit f = b % signBit f := by simp [emin]
      rw [roundTo_exact (ex := emin f) _ hz hftz (by omega) rfl (hunits.trans_le hmax), hunits, withSign_mod_signBit hsign hb]
  · have hlt : b % signBit f % 2 ^ fracBits f < 2 ^ fracBits f := Nat.mod_lt _ (Nat.two_pow_pos _)
    have hlog : Nat.log2 m = fracBits f := (Nat.log2_eq_iff (by omega)).mpr ⟨by omega, by rw [pow_succ]; omega⟩
    have hunits : ((E : Int) - expBias f + expBias f - 1).toNat * 2 ^ fracBits f + m = b % signBit f := by
      obtain ⟨E, rfl⟩ := Nat.exists_eq_add_of_le' hE
      rw [show (((E + 1 : Nat) : Int) - expBias f + expBias f - 1).toNat = E by omega, hm, ← add_assoc, ← Nat.succ_mul]
      exact hmag.symm
    have hex : max ((Nat.log2 m : Int) + (E - expBias f - fracBits f)) (emin f) = E - expBias f := by
      rw [hlog, emin]
      omega
    rw [roundTo_exact _ (by omega) hftz hex rfl (hunits.trans_le hmax), hunits, withSign_mod_signBit hsign hb]

/-! ## NaN operands (R123, R130) -/

theorem isNaN_iff {f : Fmt} {b : Nat} : isNaN f b = true ↔ unpack f b = .nan := by simp [isNaN]

@[simp] theorem FVal.neg_nan : FVal.nan.neg = .nan := rfl

@[simp] theorem addVals_nan_left (f : Fmt) (v : FEnv) (x : FVal) : addVals f v .nan x = (canonNaN f, 0) := by
  cases x <;> rfl

@[simp] theorem addVals_nan_right (f : Fmt) (v : FEnv) (x : FVal) : addVals f v x .nan = (canonNaN f, 0) := by
  cases x <;> rfl

@[simp] theorem mulExact_nan_left (x : FVal) : mulExact .nan x = some .nan := by cases x <;> rfl

@[simp] theorem mulExact_nan_right (x : FVal) : mulExact x .nan = some .nan := by cases x <;> rfl

section
variable {f : Fmt} {v : FEnv} {a b c : Nat}

theorem fAdd_nan (h : isNaN f (daz f v a) = true ∨ isNaN f (daz f v b) = true) : fAdd f v a b = (canonNaN f, 0) := by
  rcases h with h | h <;> simp [fAdd, isNaN_iff.mp h]

theorem fSub_nan (h : isNaN f (daz f v a) = true ∨ isNaN f (daz f v b) = true) : fSub f v a b = (canonNaN f, 0) := by
  rcases h with h | h <;> simp [fSub, isNaN_iff.mp h]

theorem fMul_nan (h : isNaN f (daz f v a) = true ∨ isNaN f (daz f v b) = true) : fMul f v a b = (canonNaN f, 0) := by
  rcases h with h | h <;> simp [fMul, isNaN_iff.mp h, roundVal]

theorem fDiv_nan (h : isNaN f (daz f v a) = true ∨ isNaN f (daz f v b) = true) : fDiv f v a b = (canonNaN f, 0) := by
  unfold fDiv
  rcases h with h | h
  · rw [isNaN_iff.mp h]
  · rw [isNaN_iff.mp h]
    cases unpack f (daz f v a) <;> rfl

theorem fSqrt_nan (h : isNaN f (daz f v a) = true) : fSqrt f v a = (canonNaN f, 0) := by
  unfold fSqrt
  rw [isNaN_iff.mp h]

/-- A NaN among three operands gives the canonical NaN; only factors without a product make it invalid. -/
theorem fFma_nan (h : isNaN f (daz f v a) = true ∨ isNaN f (daz f v b) = true ∨ isNaN f (daz f v c) = true) :
    fFma f v a b c =
      (canonNaN f, if mulExact (unpack f (daz f v a)) (unpack f (daz f v b)) = none then fInvalid else 0) := by
  unfold fFma
  rcases h with h | h | h
  · simp [isNaN_iff.mp h]
  · simp [isNaN_iff.mp h]
  · rw [isNaN_iff.mp h]
    cases mulExact (unpack f (daz f v a)) (unpack f (daz f v b)) <;> simp

end

/-- Settles O10: an encoding's value needs no rounding, and a NaN decides each operation before any other operand does. -/
theorem roundingAndNanResults : Obligations.RoundingAndNanResults :=
  ⟨fun _ _ _ _ _ _ hf hftz hb h => roundTo_unpack (signBit_of_signed hf) hftz hb h,
    fun _ _ _ _ _ => ⟨fun h => ⟨fAdd_nan h, fSub_nan h, fMul_nan h, fDiv_nan h⟩, fSqrt_nan, fFma_nan⟩⟩

end Sys2Proof.Machine
end

section
/-! SUPPORT. Conversions and the control word (R126, R129, R135, R136). -/

namespace Sys2Proof.Machine

/-! ## Conversions (R129, R135) -/

/-- CVT has no form with E8M0 (R135). -/
theorem src_ne_x8_of_issues_cvt {s : State} {t : Thread} {p : Port} {d a : IReg} {m : CvtMode} {src dst : Fmt}
    (h : Issues s t p (.cvt d a m src dst)) : src ≠ .x8 := by
  obtain ⟨-, -, hill, -⟩ := h
  rintro rfl
  have hwf : (Instr.cvt d a m .x8 dst).wf = false := by
    cases hw : d.writable <;> simp [Instr.wf, Instr.check, Instr.dst?, Instr.own, cvtCheck, hw]
  simp [illegalAt, hwf] at hill

theorem wrap_lt (w : Nat) (x : Int) : wrap w x < 2 ^ w := by
  unfold wrap
  have hpos := Int.emod_nonneg x (Int.natCast_ne_zero.mpr (Nat.two_pow_pos w).ne')
  have hlt := Int.emod_lt_of_pos x (Int.natCast_pos.mpr (Nat.two_pow_pos w))
  omega

/-- A conversion to an integer gives a lane of its width. -/
theorem convert_lt {src dst : Fmt} {m : CvtMode} {v : FEnv} {draw : BitVec 32} {b : Nat} (hsrc : src ≠ .x8)
    (hdst : dst.isInt = true) : (convert src dst m v draw b).1 < 2 ^ dst.width := by
  have hx8 : dst ≠ .x8 := by rintro rfl; cases hdst
  unfold convert
  simp only [hx8, hsrc, hdst, if_true, if_false]
  split
  · exact wrap_lt ..
  · split
    · exact Nat.two_pow_pos _
    · exact wrap_lt ..
    · split
      · exact wrap_lt ..
      · split <;> exact wrap_lt ..

theorem width_le_64 (f : Fmt) : f.width ≤ 64 := by cases f <;> decide

/-- An unsigned lane's word is the lane (R129). -/
theorem cvtWord_unsigned {dst : Fmt} {r : Nat} (hdst : dst.isSigned = false) (hr : r < 2 ^ dst.width) :
    cvtWord dst r = r := by
  have h64 : r < 2 ^ 64 := hr.trans_le (Nat.pow_le_pow_right (by decide) (width_le_64 dst))
  unfold cvtWord
  split
  · simp only [intVal, hdst, Bool.false_and, Bool.false_eq_true, if_false, wrap, Nat.mod_eq_of_lt hr]
    omega
  · rfl

/-- A signed lane's word is its sign-extension (R129). -/
theorem cvtWord_signed {dst : Fmt} {r : Nat} (hint : dst.isInt = true) :
    cvtWord dst r = (BitVec.ofInt 64 (intVal dst r)).toNat := by
  rw [cvtWord, if_pos hint, BitVec.toNat_ofInt, wrap]

/-- What CVT owes: a signed integer extended by its sign, and every other result as it is. -/
theorem cvtWord_convert {src dst : Fmt} {m : CvtMode} {v : FEnv} {draw : BitVec 32} {b : Nat} (hsrc : src ≠ .x8) :
    cvtWord dst (convert src dst m v draw b).1 = if dst.isInt = true ∧ dst.isSigned = true then
      (BitVec.ofInt 64 (intVal dst (convert src dst m v draw b).1)).toNat else (convert src dst m v draw b).1 := by
  split
  · next h => exact cvtWord_signed h.1
  · next h =>
    by_cases hint : dst.isInt = true
    · exact cvtWord_unsigned (by simpa [hint] using h) (convert_lt hsrc hint)
    · exact if_neg hint

/-! ## The control word (R136) -/

theorem toNat_append_eq_add {m n : Nat} (x : BitVec m) (y : BitVec n) : (x ++ y).toNat = x.toNat * 2 ^ n + y.toNat := by
  rw [BitVec.toNat_append, ← Nat.shiftLeft_add_eq_or_of_lt y.isLt, Nat.shiftLeft_eq]

/-- The ten bits: the flags in bits 9 to 5, FTZ in 4, DAZ in 3 and the mode in 2 to 0. -/
theorem toNat_fpWord (t : Thread) :
    t.fpWord.toNat = t.flags.toNat * 32 + t.ftz.toNat * 16 + t.daz.toNat * 8 + t.rm.toNat := by
  simp only [Thread.fpWord, toNat_append_eq_add, BitVec.toNat_ofBool]
  omega

/-- RDFP's result is the ten bits, zero-extended. -/
theorem setWidth_fpWord (t : Thread) : (zext64 t.fpWord).setWidth 256 =
    BitVec.ofNat 256 (t.flags.toNat * 32 + t.ftz.toNat * 16 + t.daz.toNat * 8 + t.rm.toNat) := by
  rw [← toNat_fpWord, BitVec.ofNat_toNat]
  exact BitVec.setWidth_setWidth (by decide)

/-- WRFP's write of the ten bits, field by field. -/
theorem setFpWord_bits (t : Thread) (x : Word) : t.setFpWord (bits x 0 10) =
    { t with flags := BitVec.ofNat 5 (x.toNat / 32), ftz := x.getLsbD 4, daz := x.getLsbD 3,
             rm := if x.toNat % 8 ≤ 4 then BitVec.ofNat 3 x.toNat else t.rm } := by
  have hflags : bits (bits x 0 10) 5 5 = BitVec.ofNat 5 (x.toNat / 32) :=
    BitVec.eq_of_toNat_eq (by rw [toNat_bits, toNat_bits, BitVec.toNat_ofNat]; omega)
  have hrm : bits (bits x 0 10) 0 3 = BitVec.ofNat 3 x.toNat :=
    BitVec.eq_of_toNat_eq (by rw [toNat_bits, toNat_bits, BitVec.toNat_ofNat]; omega)
  have hle : BitVec.ofNat 3 x.toNat ≤ 4 ↔ x.toNat % 8 ≤ 4 := by rw [BitVec.le_def, BitVec.toNat_ofNat]; rfl
  unfold Thread.setFpWord
  simp only [hflags, hrm, hle, bits, BitVec.getLsbD_extractLsb']
  simp

/-- Settles O9: CVT is one operation whose word is `cvtWord_convert`'s, and the others read and write the ten bits. -/
theorem conversionAndFloatControl : Obligations.ConversionAndFloatControl := by
  refine ⟨fun s t p d a m src dst h => attempt_ok h (noStream_of_noWide rfl rfl) ?_, fun s t p => ⟨fun d h => ?_, fun a h => ?_,
    fun h => attempt_ok h (noStream_of_noWide rfl rfl) rfl⟩⟩
  · dsimp only
    rw [cvtWord_convert (src_ne_x8_of_issues_cvt h)]
    rfl
  · refine (attempt_ok h (noStream_of_noWide rfl rfl) rfl).trans ?_
    rw [intResult, setWidth_fpWord]
  · refine (attempt_ok h (noStream_of_noWide rfl rfl) rfl).trans ?_
    simp only [setFpWord_bits]

end Sys2Proof.Machine
end

section
/-! SUPPORT. Scalar floating point (R129 to R134): each row of the tables is one operation, a class is read off the fields of an
encoding, and a compare is decided by the NaNs first and then by the order of the values. -/

namespace Sys2Proof.Machine

/-! ## Arithmetic (R130, R131, R133) -/

/-- Adding the top bit of a number flips it. -/
theorem add_two_pow_mod {n a : Nat} : (a + 2 ^ n) % 2 ^ (n + 1) = a % 2 ^ (n + 1) ^^^ 2 ^ n := by
  refine Nat.eq_of_testBit_eq fun i => ?_
  rw [Nat.testBit_xor, Nat.testBit_mod_two_pow, Nat.testBit_mod_two_pow, Nat.testBit_two_pow, Nat.add_comm a]
  obtain h | rfl | h := lt_trichotomy i n
  · simp [Nat.testBit_two_pow_add_gt h, h.ne', h.trans (Nat.lt_succ_self n)]
  · simp [Nat.testBit_two_pow_add_eq]
  · simp [h.ne, show ¬ i < n + 1 by omega]

theorem width_pos (f : Fmt) : 0 < f.width := by cases f <;> decide

/-- FNEG changes the sign bit alone. -/
theorem fNeg_eq_xor {f : Fmt} {a : Nat} (ha : a < 2 ^ f.width) : fNeg f a = a ^^^ 2 ^ (f.width - 1) := by
  have hw : f.width = f.width - 1 + 1 := (Nat.sub_add_cancel (width_pos f)).symm
  calc fNeg f a = (a + 2 ^ (f.width - 1)) % 2 ^ (f.width - 1 + 1) := by rw [← hw]; rfl
    _ = a % 2 ^ (f.width - 1 + 1) ^^^ 2 ^ (f.width - 1) := add_two_pow_mod
    _ = a ^^^ 2 ^ (f.width - 1) := by rw [← hw, Nat.mod_eq_of_lt ha]

theorem fpSrc_lt (f : Fmt) (t : Thread) (a : IReg) : fpSrc f t a < 2 ^ f.width := Nat.mod_lt _ (Nat.two_pow_pos _)

/-- A scalar operation issues with its result and its flags on their way together (R123). -/
theorem fpOp_issues {s : State} {t : Thread} {p : Port} {i : Instr} {d : IReg} {g : Thread → Flagged} {r : Flagged}
    (h : Issues s t p i) (hn : NoStream s t i) (hr : g t = r) :
    fpOp i s d g = .next ((s.issued t p i).result t p [(.int d, BitVec.ofNat 256 r.1)] .alu (some r.2)) := by
  subst hr
  exact attempt_ok h hn rfl

/-- Settles O6: each row of the table is one scalar operation, FNEG's in the words of `fNeg_eq_xor`. -/
theorem scalarFloatResult : Obligations.ScalarFloatResult := by
  intro s t p i d r h
  fun_cases table130 t i
  case case18 => exact fun hrow => nomatch hrow
  case case9 =>
    rintro ⟨⟩
    exact fpOp_issues h (noStream_of_noWide rfl rfl) (congrArg (·, (0 : FFlags)) (fNeg_eq_xor (fpSrc_lt ..)))
  all_goals
    rintro ⟨⟩
    exact fpOp_issues h (noStream_of_noWide rfl rfl) rfl

/-! ## Classes (R132) -/

/-- The class of an encoding, as the bit of FCLASS's mask. -/
def floatClass (f : FFmt) (b : Nat) : Nat :=
  let m := b % 2 ^ (fields111 f).1
  let e := b / 2 ^ (fields111 f).1 % 2 ^ (fields111 f).2
  let neg := b / 2 ^ ((fields111 f).1 + (fields111 f).2) % 2 = 1
  if e = 2 ^ (fields111 f).2 - 1 then (if m ≠ 0 then 8 else if neg then 0 else 7)
  else if e = 0 then (if m = 0 then (if neg then 3 else 4) else if neg then 2 else 5)
  else if neg then 1 else 6

theorem floatClass_lt (f : FFmt) (b : Nat) : floatClass f b < 9 := by
  unfold floatClass
  grind

/-- An encoding is of its class and of no other. -/
theorem classBit_iff (f : FFmt) (b k : Nat) : classBit f b k ↔ k = floatClass f b := by
  have htop : 2 ^ (fields111 f).2 - 1 ≠ 0 := by cases f <;> decide
  unfold classBit floatClass
  dsimp only
  split <;> grind

/-- The parts of an encoding that `unpack` compares, by the fields of R111. -/
theorem unpack_fields (f : FFmt) {b : Nat} (hb : b < 2 ^ (scalarFmt f).width) :
    (maxFinite (scalarFmt f) < b % signBit (scalarFmt f) ↔
      b / 2 ^ (fields111 f).1 % 2 ^ (fields111 f).2 = 2 ^ (fields111 f).2 - 1) ∧
    (b % signBit (scalarFmt f) = infBits (scalarFmt f) ↔
      b / 2 ^ (fields111 f).1 % 2 ^ (fields111 f).2 = 2 ^ (fields111 f).2 - 1 ∧ b % 2 ^ (fields111 f).1 = 0) ∧
    (signBit (scalarFmt f) ≤ b % 2 ^ (scalarFmt f).width ↔ b / 2 ^ ((fields111 f).1 + (fields111 f).2) % 2 = 1) ∧
    b % signBit (scalarFmt f) / 2 ^ fracBits (scalarFmt f) = b / 2 ^ (fields111 f).1 % 2 ^ (fields111 f).2 ∧
    (b % signBit (scalarFmt f) = 0 ↔
      b / 2 ^ (fields111 f).1 % 2 ^ (fields111 f).2 = 0 ∧ b % 2 ^ (fields111 f).1 = 0) := by
  cases f <;> simp only [scalarFmt, fields111, maxFinite, signBit, infBits, fracBits, Fmt.width] at hb ⊢ <;> and_intros <;> omega

/-- FCLASS's mask has the bit of the encoding's class. -/
theorem fClass_eq (f : FFmt) {b : Nat} (hb : b < 2 ^ (scalarFmt f).width) : fClass (scalarFmt f) b = 2 ^ floatClass f b := by
  obtain ⟨htop, hinf, hneg, hexp, hzero⟩ := unpack_fields f hb
  have hhas : hasInf (scalarFmt f) = true := by cases f <;> rfl
  have hfrac : fracBits (scalarFmt f) = (fields111 f).1 := by cases f <;> rfl
  unfold fClass unpack isSubnormal floatClass
  simp only [htop, hneg, hhas, Bool.true_and, beq_iff_eq, hinf, hfrac]
  by_cases hspecial : b / 2 ^ (fields111 f).1 % 2 ^ (fields111 f).2 = 2 ^ (fields111 f).2 - 1
  · grind
  · by_cases hsub : b / 2 ^ (fields111 f).1 % 2 ^ (fields111 f).2 = 0
    · grind
    · grind

/-- Settles O7: the mask is the one bit that `floatClass` numbers. -/
theorem fclassMask : Obligations.FclassMask := by
  intro s t p f d a h
  have hlt := floatClass_lt f (fpSrc (scalarFmt f) t a)
  have hmask : BitVec.ofNat 256 (fClass (scalarFmt f) (fpSrc (scalarFmt f) t a)) =
      (BitVec.twoPow 64 (floatClass f (fpSrc (scalarFmt f) t a))).setWidth 256 :=
    BitVec.eq_of_toNat_eq (by
      rw [BitVec.toNat_setWidth, BitVec.toNat_ofNat, BitVec.toNat_twoPow_of_lt (by omega), fClass_eq f (fpSrc_lt ..)])
  refine ⟨_, fun k _ => ?_, ⟨_, hlt, BitVec.twoPow_eq ..⟩,
    (fpOp_issues h (noStream_of_noWide rfl rfl) rfl).trans (by rw [hmask])⟩
  rw [classBit_iff, BitVec.getLsbD_twoPow]
  simp [show floatClass f (fpSrc (scalarFmt f) t a) < 64 by omega, eq_comm]

/-! ## Compares (R134) -/

/-- An instruction of R134's table is the compare of its row. -/
theorem exec_of_table134 {i : Instr} {f : Fmt} {p q : PReg} {a b : IReg} {k : FCond}
    (h : table134 i = some (f, p, q, a, b, k)) :
    (∀ s, exec i s = fpCmp i s f p q a b k) ∧ ∀ s t, NoStream s t i := by
  revert h
  fun_cases table134 i
  case case5 => exact fun h => nomatch h
  all_goals
    rintro ⟨⟩
    exact ⟨fun _ => rfl, fun _ _ => noStream_of_noWide rfl rfl⟩

/-- A compare issues with its condition, the negation and its flags on their way together. -/
theorem fpCmp_issues {s : State} {t : Thread} {pt : Port} {i : Instr} (h : Issues s t pt i) (hn : NoStream s t i) (f : Fmt)
    (p q : PReg) (a b : IReg) (k : FCond) :
    let r := fCmp f t.fenv k (t.int a).toNat (t.int b).toNat
    fpCmp i s f p q a b k = .next ((s.issued t pt i).result t pt
      [(.pred p, if r.1 then 1 else 0), (.pred q, if r.1 then 0 else 1)] .alu (some r.2)) := by
  refine (attempt_ok h hn rfl).trans ?_
  cases (fCmp f t.fenv k (t.int a).toNat (t.int b).toNat).1 <;> simp [predResult, boolWord]

section
variable {f : Fmt} {v : FEnv} {a b : Nat} (k : FCond)

/-- With a NaN, the condition alone decides, and lt, le, gt and ge are invalid. -/
theorem fCmp_of_nan (h : isNaN f (daz f v a) = true ∨ isNaN f (daz f v b) = true) : fCmp f v k a b =
    (k == .ne || k == .un, if k = .lt ∨ k = .le ∨ k = .gt ∨ k = .ge then fInvalid else 0) := by
  have hnan : (isNaN f (daz f v a) || isNaN f (daz f v b)) = true := by simpa using h
  unfold fCmp
  simp only [hnan]
  cases k <;> rfl

/-- With no NaN, the values decide, and no flag is set. -/
theorem fCmp_of_ordered (h : ¬ (isNaN f (daz f v a) = true ∨ isNaN f (daz f v b) = true)) :
    (fCmp f v k a b).2 = 0 ∧ ((fCmp f v k a b).1 = true ↔ match k with
      | .eq => valueKey f (daz f v a) = valueKey f (daz f v b)
      | .ne => valueKey f (daz f v a) ≠ valueKey f (daz f v b)
      | .lt => valueKey f (daz f v a) < valueKey f (daz f v b)
      | .le => valueKey f (daz f v a) ≤ valueKey f (daz f v b)
      | .gt => valueKey f (daz f v b) < valueKey f (daz f v a)
      | .ge => valueKey f (daz f v b) ≤ valueKey f (daz f v a)
      | .un => False
      | .ord => True) := by
  have hnan : (isNaN f (daz f v a) || isNaN f (daz f v b)) = false := by simpa using h
  unfold fCmp
  simp only [hnan]
  cases k <;> simp

end

/-- Settles O8: each row of the table is one compare, decided by `fCmp_of_nan` or `fCmp_of_ordered`. -/
theorem floatCompare : Obligations.FloatCompare := by
  intro s t pt i f p q a b k h hrow
  obtain ⟨hexec, hn⟩ := exec_of_table134 hrow
  refine ⟨_, _, (hexec s).trans (fpCmp_issues h (hn s t) f p q a b k), ?_⟩
  dsimp only
  split
  · next hnan => exact Prod.ext_iff.mp (fCmp_of_nan k hnan)
  · next hord => exact fCmp_of_ordered k hord

end Sys2Proof.Machine
end

section
/-! SUPPORT. Lanes of wide registers (R112, R137): what stands in each lane of a value that is put together from lanes, and what a
wide instruction owes once it starts. -/

namespace Sys2Proof.Machine

/-! ## Lanes -/

theorem lane_lt (w : Nat) (x : Wide) (n : Nat) : lane w x n < 2 ^ w := Nat.mod_lt _ (Nat.two_pow_pos _)

theorem lanesNat_shiftRight (w : Nat) (vs : List Nat) (n : Nat) : (lanesNat w vs >>> (w * n)) % 2 ^ w = vs.getD n 0 % 2 ^ w := by
  induction vs generalizing n with
  | nil => simp [lanesNat]
  | cons v vs ih =>
    cases n with
    | zero => simp [lanesNat, Nat.add_mod]
    | succ n =>
      have hdrop : lanesNat w (v :: vs) >>> (w * (n + 1)) = lanesNat w vs >>> (w * n) := by
        rw [Nat.mul_succ, Nat.add_comm, Nat.shiftRight_add, Nat.shiftRight_eq_div_pow _ w, lanesNat,
          Nat.add_mul_div_left _ _ (Nat.two_pow_pos _), Nat.div_eq_of_lt (Nat.mod_lt _ (Nat.two_pow_pos _)), Nat.zero_add]
      rw [hdrop, ih, List.getD_cons_succ]

/-- A lane of a value put together from lanes. -/
theorem lane_ofLanes {w n : Nat} (vs : List Nat) (hn : n < 256 / w) : lane w (ofLanes w vs) n = vs.getD n 0 % 2 ^ w := by
  have hw : w * n + w ≤ 256 := by
    rw [← Nat.mul_succ]
    exact (Nat.mul_le_mul_left w hn).trans (Nat.mul_div_le 256 w)
  rw [← lanesNat_shiftRight, lane, ofLanes, BitVec.toNat_ofNat]
  refine Nat.eq_of_testBit_eq fun i => ?_
  simp only [Nat.testBit_mod_two_pow, Nat.testBit_shiftRight]
  by_cases hi : i < w
  · simp [show w * n + i < 256 by omega]
  · simp [hi]

theorem getD_map_range {α : Type} (r : Nat → α) (d : α) {n k : Nat} (hn : n < k) : ((List.range k).map r).getD n d = r n := by
  rw [List.getD_eq_getElem _ _ (by simpa using hn)]
  simp

theorem getD_lanesOf {w n : Nat} (x : Wide) (hn : n < 256 / w) : (lanesOf w x).getD n 0 = lane w x n :=
  getD_map_range _ _ hn

@[simp] theorem length_lanesOf (w : Nat) (x : Wide) : (lanesOf w x).length = 256 / w := by simp [lanesOf]

theorem lanes2_eq (f : Fmt) (op : Nat → Nat → Flagged) (x y : Wide) :
    lanes2 f op x y = (List.range f.lanes).map fun n => op (lane f.width x n) (lane f.width y n) := by
  rw [lanes2, lanesOf, lanesOf, List.zipWith_map, List.zipWith_self]
  rfl

theorem lanes1_eq (f : Fmt) (op : Nat → Flagged) (x : Wide) :
    lanes1 f op x = (List.range f.lanes).map fun n => op (lane f.width x n) := by
  rw [lanes1, lanesOf, List.map_map]
  rfl

/-- Lane by lane over three sources. -/
theorem lanes3_eq {α : Type} (f : Fmt) (op : Nat × Nat → Nat → α) (x y z : Wide) :
    ((lanesOf f.width x).zip (lanesOf f.width y)).zipWith op (lanesOf f.width z) =
      (List.range f.lanes).map fun n => op (lane f.width x n, lane f.width y n) (lane f.width z n) := by
  rw [lanesOf, lanesOf, lanesOf, List.zip_map', List.zipWith_map, List.zipWith_self]
  rfl

@[simp] theorem map_fst_quiet (vs : List Nat) : (quiet vs).map (·.1) = vs := by
  simp [quiet, Function.comp_def]

/-! ## Wide instructions (R137) -/

section
variable {s s1 : State} {t t1 : Thread} {p : Port} {i : Instr}

/-- A wide instruction that starts owes its lanes together, with the OR of their flags. -/
theorem vecOp_begins {d : WReg} {f : Fmt} {g : Thread → List Flagged} (h : Issues s t p i) (hb : s.begin t p i = .ok (s1, t1)) :
    vecOp i s d f g = .next (s1.result t1 p [(.wide d, ofLanes f.width ((g t1).map (·.1)))] .alu
      (if f.isFloat then some ((g t1).foldl (fun x r => x ||| r.2) 0) else none)) :=
  attempt_of_begin h hb

/-- What it owes where each lane is a function of the lane's number. -/
theorem vecOp_begins_range {d : WReg} {f : Fmt} {g : Thread → List Flagged} {r : Nat → Flagged} (h : Issues s t p i)
    (hb : s.begin t p i = .ok (s1, t1)) (hr : g t1 = (List.range f.lanes).map r) :
    ∃ w : Wide, (∀ n < f.lanes, lane f.width w n = (r n).1 % 2 ^ f.width) ∧
      vecOp i s d f g = .next (s1.result t1 p [(.wide d, w)] .alu
        (if f.isFloat then some ((List.range f.lanes).foldl (fun x n => x ||| (r n).2) 0) else none)) := by
  refine ⟨ofLanes f.width ((g t1).map (·.1)), fun n hn => ?_, (vecOp_begins h hb).trans ?_⟩
  · rw [lane_ofLanes _ hn, hr, List.map_map, getD_map_range _ _ hn]
    rfl
  · rw [hr, List.foldl_map]

end

/-! ## Lane functions (R137, R138) -/

/-- Two results are one lane of `w` bits, with the same flags. -/
def SameLane (w : Nat) (x y : Flagged) : Prop := x.1 % 2 ^ w = y.1 % 2 ^ w ∧ x.2 = y.2

theorem SameLane.of_eq {w : Nat} {x y : Flagged} (h : x = y) : SameLane w x y := h ▸ ⟨rfl, rfl⟩

/-- The instruction is, for the thread, the wide operation that owes `d` the function `g` of the lanes of `a`, `b` and `d`. -/
def IsLaneOp (t : Thread) (i : Instr) (d a b : WReg) (f : Fmt) (g : Nat → Nat → Nat → Flagged) : Prop :=
  ∃ (gl : Thread → List Flagged) (op : Nat → Nat → Nat → Flagged), (∀ s, exec i s = vecOp i s d f gl) ∧
    (gl t = (List.range f.lanes).map fun n =>
      op (lane f.width (t.wide a) n) (lane f.width (t.wide b) n) (lane f.width (t.wide d) n)) ∧
    ∀ x y z, x < 2 ^ f.width → y < 2 ^ f.width → z < 2 ^ f.width → SameLane f.width (op x y z) (g x y z)

section
variable {t : Thread} {i : Instr} {d a b : WReg} {f : Fmt} {g : Nat → Nat → Nat → Flagged}

/-- What an instruction that is a function of lanes owes. -/
theorem IsLaneOp.begins {s s1 : State} {t0 : Thread} {p : Port} (hi : IsLaneOp t i d a b f g) (h : Issues s t0 p i)
    (hb : s.begin t0 p i = .ok (s1, t)) :
    let r (n : Nat) := g (lane f.width (t.wide a) n) (lane f.width (t.wide b) n) (lane f.width (t.wide d) n)
    ∃ w : Wide, (∀ n < f.lanes, lane f.width w n = (r n).1 % 2 ^ f.width) ∧
      exec i s = .next (s1.result t p [(.wide d, w)] .alu
        (if f.isFloat then some ((List.range f.lanes).foldl (fun x n => x ||| (r n).2) 0) else none)) := by
  obtain ⟨gl, op, hexec, hgl, hsame⟩ := hi
  have hlane (n : Nat) := hsame _ _ _ (lane_lt f.width (t.wide a) n) (lane_lt f.width (t.wide b) n) (lane_lt f.width (t.wide d) n)
  obtain ⟨w, hw, hnext⟩ := vecOp_begins_range (d := d) h hb hgl
  refine ⟨w, fun n hn => (hw n hn).trans (hlane n).1, (hexec s).trans (hnext.trans ?_)⟩
  simp only [(hlane _).2]

theorem isLaneOp_lanes2 (op : Thread → Nat → Nat → Flagged)
    (hexec : ∀ s, exec i s = vecOp i s d f fun t => lanes2 f (op t) (t.wide a) (t.wide b))
    (hsame : ∀ x y z, x < 2 ^ f.width → y < 2 ^ f.width → SameLane f.width (op t x y) (g x y z)) : IsLaneOp t i d a b f g :=
  ⟨_, fun x y _ => op t x y, hexec, lanes2_eq .., fun x y z hx hy _ => hsame x y z hx hy⟩

theorem isLaneOp_lanes1 (op : Thread → Nat → Flagged)
    (hexec : ∀ s, exec i s = vecOp i s d f fun t => lanes1 f (op t) (t.wide a))
    (hsame : ∀ x y z, x < 2 ^ f.width → SameLane f.width (op t x) (g x y z)) : IsLaneOp t i d a b f g :=
  ⟨_, fun x _ _ => op t x, hexec, lanes1_eq .., fun x y z hx _ _ => hsame x y z hx⟩

end

/-- The low bits of the value of an integer lane are the lane (R109). -/
theorem wrap_intVal {f : Fmt} {x : Nat} (hx : x < 2 ^ f.width) : wrap f.width (intVal f x) = x := by
  have hpow : ((2 ^ f.width : Nat) : Int) = 2 ^ f.width := Nat.cast_pow ..
  have hmod : (x : Int) % (2 ^ f.width : Nat) = x := Int.emod_eq_of_lt (Int.natCast_nonneg x) (Int.ofNat_lt.mpr hx)
  unfold wrap intVal
  rw [Nat.mod_eq_of_lt hx]
  dsimp only
  split
  · rw [← hpow, Int.sub_emod_right, hmod, Int.toNat_natCast]
  · rw [hmod, Int.toNat_natCast]

theorem intLanes_min {f : Fmt} {x y : Nat} (hx : x < 2 ^ f.width) (hy : y < 2 ^ f.width) :
    intLanes f min x y = (if intVal f x ≤ intVal f y then x else y, 0) := by
  unfold intLanes
  split
  · next h => rw [min_eq_left h, wrap_intVal hx]
  · next h => rw [min_eq_right (le_of_not_ge h), wrap_intVal hy]

theorem intLanes_max {f : Fmt} {x y : Nat} (hx : x < 2 ^ f.width) (hy : y < 2 ^ f.width) :
    intLanes f max x y = (if intVal f x ≤ intVal f y then y else x, 0) := by
  unfold intLanes
  split
  · next h => rw [max_eq_right h, wrap_intVal hy]
  · next h => rw [max_eq_left (le_of_not_ge h), wrap_intVal hx]

theorem toNat_ofInt_eq_wrap (w : Nat) (x : Int) : (BitVec.ofInt w x).toNat = wrap w x := BitVec.toNat_ofInt ..

/-- An arithmetic shift right keeps the sign of the lane (R110). -/
theorem laneSra_eq {f : Fmt} {x y : Nat} (hx : x < 2 ^ f.width) :
    laneSra f x y = (((BitVec.ofNat f.width x).sshiftRight (y % f.width)).toNat, 0) := by
  have hv : (if 2 ^ (f.width - 1) ≤ x then (x : Int) - 2 ^ f.width else x) = (BitVec.ofNat f.width x).toInt := by
    rw [BitVec.toInt_eq_toNat_cond, BitVec.toNat_ofNat, Nat.mod_eq_of_lt hx]
    have hw : 2 ^ f.width = 2 * 2 ^ (f.width - 1) := by
      rw [← Nat.pow_succ', Nat.succ_eq_add_one, Nat.sub_add_cancel (width_pos f)]
    split <;> split <;> first | rfl | omega
  unfold laneSra
  simp only [hv, shiftCount]
  rw [← toNat_ofInt_eq_wrap, ← BitVec.ofInt_toInt (x := (BitVec.ofNat f.width x).sshiftRight (y % f.width)),
    BitVec.toInt_sshiftRight, Int.shiftRight_eq_div_pow]
  rfl

theorem laneAbs_int {f : Fmt} {x : Nat} (hx : x < 2 ^ f.width) :
    wrap f.width (intVal f x).natAbs = if intVal f x < 0 then wrap f.width (-intVal f x) else x := by
  split
  · next h => rw [Int.ofNat_natAbs_of_nonpos h.le]
  · next h => rw [Int.natAbs_of_nonneg (not_lt.mp h), wrap_intVal hx]

/-- An instruction of the tables of R137 and R138 is the function of lanes of its row. -/
theorem isLaneOp_of_table137 {t : Thread} {i : Instr} {d a b : WReg} {f : Fmt} {g : Nat → Nat → Nat → Flagged}
    (h : table137 t.fenv i = some (d, a, b, f, g)) : IsLaneOp t i d a b f g := by
  revert h
  fun_cases table137 t.fenv i
  case case26 => exact fun h => nomatch h
  all_goals rintro ⟨⟩
  case case1 => exact isLaneOp_lanes2 (laneAdd f ·.fenv) (fun _ => rfl) fun _ _ _ _ _ => .of_eq rfl
  case case2 => exact isLaneOp_lanes2 (laneSub f ·.fenv) (fun _ => rfl) fun _ _ _ _ _ => .of_eq rfl
  case case3 => exact isLaneOp_lanes2 (laneMul f ·.fenv) (fun _ => rfl) fun _ _ _ _ _ => .of_eq rfl
  case case4 => exact ⟨_, _, fun _ => rfl, lanes3_eq .., fun _ _ _ _ _ _ => .of_eq rfl⟩
  case case5 =>
    refine isLaneOp_lanes2 (laneMin f ·.fenv) (fun _ => rfl) fun x y _ hx hy => .of_eq ?_
    rw [laneMin, intLanes_min hx hy]
  case case6 =>
    refine isLaneOp_lanes2 (laneMax f ·.fenv) (fun _ => rfl) fun x y _ hx hy => .of_eq ?_
    rw [laneMax, intLanes_max hx hy]
  case case7 => exact isLaneOp_lanes2 _ (fun _ => rfl) fun _ _ _ _ _ => .of_eq rfl
  case case8 => exact isLaneOp_lanes2 _ (fun _ => rfl) fun _ _ _ _ _ => .of_eq rfl
  case case9 => exact isLaneOp_lanes2 _ (fun _ => rfl) fun _ _ _ _ _ => .of_eq rfl
  case case10 => exact isLaneOp_lanes2 _ (fun _ => rfl) fun _ _ _ _ _ => .of_eq rfl
  case case11 => exact isLaneOp_lanes2 _ (fun _ => rfl) fun _ _ _ _ _ => .of_eq rfl
  case case12 =>
    refine isLaneOp_lanes2 _ (fun _ => rfl) fun x y _ _ _ => .of_eq ?_
    rw [Nat.shiftLeft_eq, shiftCount]
  case case13 =>
    refine isLaneOp_lanes2 _ (fun _ => rfl) fun x y _ _ _ => .of_eq ?_
    rw [Nat.shiftRight_eq_div_pow, shiftCount]
  case case14 => exact isLaneOp_lanes2 _ (fun _ => rfl) fun x y _ hx _ => .of_eq (laneSra_eq hx)
  case case15 => exact isLaneOp_lanes2 (laneDiv f ·.fenv) (fun _ => rfl) fun _ _ _ _ _ => .of_eq rfl
  case case16 => exact isLaneOp_lanes1 (fSqrt f ·.fenv) (fun _ => rfl) fun _ _ _ _ => .of_eq rfl
  case case17 =>
    refine isLaneOp_lanes1 (fun _ => laneAbs f) (fun _ => rfl) fun x _ _ hx => .of_eq ?_
    rw [laneAbs, laneAbs_int hx]
    rfl
  case case18 =>
    refine isLaneOp_lanes1 (fun _ => laneNeg f) (fun _ => rfl) fun x _ _ hx => .of_eq ?_
    rw [laneNeg, fNeg_eq_xor hx]
  case case19 => exact isLaneOp_lanes2 (fun _ => laneMulh f) (fun _ => rfl) fun _ _ _ _ _ => .of_eq rfl
  case case20 => exact isLaneOp_lanes2 (laneCmp f ·.fenv .eq) (fun _ => rfl) fun _ _ _ _ _ => .of_eq rfl
  case case21 => exact isLaneOp_lanes2 (laneCmp f ·.fenv .ne) (fun _ => rfl) fun _ _ _ _ _ => .of_eq rfl
  case case22 => exact isLaneOp_lanes2 (laneCmp f ·.fenv .lt) (fun _ => rfl) fun _ _ _ _ _ => .of_eq rfl
  case case23 => exact isLaneOp_lanes2 (laneCmp f ·.fenv .le) (fun _ => rfl) fun _ _ _ _ _ => .of_eq rfl
  case case24 => exact isLaneOp_lanes2 (laneCmp f ·.fenv .un) (fun _ => rfl) fun _ _ _ _ _ => .of_eq rfl
  case case25 =>
    refine ⟨_, fun x y z => (if z ≠ 0 then x else y, 0), fun _ => rfl, ?_, fun _ _ _ _ _ _ => .of_eq rfl⟩
    dsimp only
    rw [lanes3_eq, quiet, List.map_map]
    rfl

/-- Settles O11: each row of the tables is one function of the lanes of its registers. -/
theorem wideLaneResult : Obligations.WideLaneResult := by
  intro s s1 t t1 p i d a b f g h hb hrow
  obtain ⟨w, hlanes, hexec⟩ := (isLaneOp_of_table137 hrow).begins h hb
  exact ⟨w, _, hexec, hlanes, rfl⟩

end Sys2Proof.Machine
end

section
/-! SUPPORT. Shuffles, reductions and scans (R139 to R141): what stands at each place of the lists that the model builds. -/

namespace Sys2Proof.Machine

/-! ## Shuffles (R139) -/

theorem getD_interleave {xs ys : List Nat} (h : xs.length = ys.length) (n : Nat) :
    (interleave xs ys).getD n 0 = if n % 2 = 0 then xs.getD (n / 2) 0 else ys.getD (n / 2) 0 := by
  fun_induction interleave xs ys generalizing n with
  | case1 x xs y ys ih =>
    obtain _ | _ | n := n
    · rfl
    · rfl
    · have hlen : xs.length = ys.length := by simpa using h
      rw [List.getD_cons_succ, List.getD_cons_succ, ih hlen, show (n + 1 + 1) % 2 = n % 2 by omega,
        show (n + 1 + 1) / 2 = n / 2 + 1 by omega, List.getD_cons_succ, List.getD_cons_succ]
  | case2 xs ys hne =>
    obtain _ | ⟨x, xs⟩ := xs
    · obtain _ | ⟨y, ys⟩ := ys
      · simp
      · cases h
    · obtain _ | ⟨y, ys⟩ := ys
      · cases h
      · exact absurd rfl (hne x xs y ys rfl)

theorem getD_evens (xs : List Nat) (n : Nat) : (evens xs).getD n 0 = xs.getD (2 * n) 0 := by
  fun_induction evens xs generalizing n with
  | case1 x y xs ih =>
    cases n with
    | zero => rfl
    | succ n => rw [List.getD_cons_succ, ih, show 2 * (n + 1) = 2 * n + 1 + 1 by omega, List.getD_cons_succ, List.getD_cons_succ]
  | case2 xs hne =>
    obtain _ | ⟨x, _ | ⟨y, xs⟩⟩ := xs
    · simp
    · cases n with
      | zero => rfl
      | succ n => simp [show 2 * (n + 1) = 2 * n + 1 + 1 by omega]
    · exact absurd rfl (hne x y xs)

/-- Every format has an even number of lanes. -/
theorem two_mul_half_lanes (f : Fmt) : 2 * (f.lanes / 2) = f.lanes := by cases f <;> decide

theorem getD_take {xs : List Nat} {n k : Nat} (h : n < k) : (xs.take k).getD n 0 = xs.getD n 0 := by
  simp [List.getD_eq_getElem?_getD, h]

theorem getD_drop (xs : List Nat) (n k : Nat) : (xs.drop k).getD n 0 = xs.getD (k + n) 0 := by
  simp [List.getD_eq_getElem?_getD, List.getElem?_drop]

/-- The lanes of two registers, one after the other. -/
theorem getD_lanesOf_append (f : Fmt) (x y : Wide) {n : Nat} (h : n < 2 * f.lanes) :
    (lanesOf f.width x ++ lanesOf f.width y).getD n 0 =
      if n < f.lanes then lane f.width x n else lane f.width y (n - f.lanes) := by
  have hlen : (lanesOf f.width x).length = f.lanes := length_lanesOf ..
  split
  · next hn => rw [List.getD_append _ _ _ _ (by omega), getD_lanesOf _ hn]
  · next hn => rw [List.getD_append_right _ _ _ _ (by omega), hlen, getD_lanesOf _ (by unfold Fmt.lanes at *; omega)]

/-- The instruction is the shuffle `gl` of the lanes of `a` and `b`, which copies the lane that `g` names to each place. -/
structure IsShuffle (i : Instr) (d a b : WReg) (f : Fmt) (g : (Nat → Nat) → (Nat → Nat) → Nat → Nat)
    (gl : List Nat → List Nat → List Nat) : Prop where
  wf_eq : i.wf = f.isInt
  exec_eq : ∀ s, exec i s = shuffleOp i s d a b f gl
  getD_eq : ∀ x y, ∀ n < f.lanes,
    (gl (lanesOf f.width x) (lanesOf f.width y)).getD n 0 = g (lane f.width x) (lane f.width y) n
  lt : ∀ x y n, g (lane f.width x) (lane f.width y) n < 2 ^ f.width

theorem isNone_ite_format (c : Bool) : (if c then none else some Illegal.format).isNone = c := by cases c <;> rfl

/-- An instruction of R139's table copies lanes as its row says. -/
theorem isShuffle_of_table139 {i : Instr} {d a b : WReg} {f : Fmt} {g : (Nat → Nat) → (Nat → Nat) → Nat → Nat}
    (h : table139 i = some (d, a, b, f, g)) : ∃ gl, IsShuffle i d a b f g gl := by
  have hhalf := two_mul_half_lanes f
  have hget (x : Wide) {n : Nat} (hn : n < f.lanes) : (lanesOf f.width x).getD n 0 = lane f.width x n := getD_lanesOf x hn
  have hlt (c : Prop) [Decidable c] (x y : Wide) (m n : Nat) :
      (if c then lane f.width x m else lane f.width y n) < 2 ^ f.width := by split <;> exact lane_lt ..
  revert h
  fun_cases table139 i
  case case6 => exact fun h => nomatch h
  all_goals rintro ⟨⟩
  case case1 =>
    refine ⟨fun x y => y.map fun k => x.getD (k % f.lanes) 0, isNone_ite_format _, fun _ => rfl, fun x y n hn => ?_,
      fun _ _ _ => lane_lt ..⟩
    have hn' : n < (lanesOf f.width y).length := by rwa [length_lanesOf]
    have hpos : 0 < f.lanes := by omega
    rw [List.getD_eq_getElem _ _ (by rwa [List.length_map]), List.getElem_map, ← List.getD_eq_getElem _ 0 hn', hget _ hn,
      hget _ (Nat.mod_lt _ hpos)]
  case case2 =>
    refine ⟨fun x y => interleave (x.take (f.lanes / 2)) (y.take (f.lanes / 2)), isNone_ite_format _, fun _ => rfl,
      fun x y n hn => ?_, fun _ _ _ => hlt ..⟩
    rw [getD_interleave (by simp), getD_take (by omega), getD_take (by omega), hget _ (by omega), hget _ (by omega)]
  case case3 =>
    refine ⟨fun x y => interleave (x.drop (f.lanes / 2)) (y.drop (f.lanes / 2)), isNone_ite_format _, fun _ => rfl,
      fun x y n hn => ?_, fun _ _ _ => hlt ..⟩
    rw [getD_interleave (by simp), getD_drop, getD_drop, hget _ (by omega), hget _ (by omega)]
  case case4 =>
    refine ⟨fun x y => evens (x ++ y), isNone_ite_format _, fun _ => rfl, fun x y n hn => ?_, fun _ _ _ => hlt ..⟩
    rw [getD_evens, getD_lanesOf_append f x y (by omega)]
  case case5 =>
    refine ⟨fun x y => evens ((x ++ y).drop 1), isNone_ite_format _, fun _ => rfl, fun x y n hn => ?_, fun _ _ _ => hlt ..⟩
    rw [getD_evens, getD_drop, getD_lanesOf_append f x y (by omega), Nat.add_comm]

/-- An instruction that issues is legal. -/
theorem wf_of_issues {s : State} {t : Thread} {p : Port} {i : Instr} (h : Issues s t p i) : i.wf = true := by
  obtain ⟨-, -, hill, -⟩ := h
  simp only [illegalAt, Bool.or_eq_false_iff, Bool.not_eq_false'] at hill
  exact hill.1.1.1.2

theorem isInt_iff_code (f : Fmt) : f.isInt = true ↔ f.code.toNat ≤ 7 := by cases f <;> decide

theorem isFloat_of_isInt {f : Fmt} (h : f.isInt = true) : f.isFloat = false := by
  revert h
  cases f <;> decide

/-- Settles O12: each row of the table is one shuffle of lanes of an integer format. -/
theorem shuffleLanes : Obligations.ShuffleLanes := by
  intro i d a b f g hrow
  obtain ⟨gl, hwf, hexec, hget, hlt⟩ := isShuffle_of_table139 hrow
  refine ⟨by rw [hwf, isInt_iff_code], fun s s1 t t1 p h hb =>
    ⟨ofLanes f.width (gl (lanesOf f.width (t1.wide a)) (lanesOf f.width (t1.wide b))), ?_, fun n hn => ?_⟩⟩
  · have hfloat : f.isFloat = false := isFloat_of_isInt (hwf.symm.trans (wf_of_issues h))
    refine (hexec s).trans ((vecOp_begins h hb).trans ?_)
    rw [map_fst_quiet, hfloat]
    rfl
  · rw [lane_ofLanes _ hn, hget _ _ n hn, Nat.mod_eq_of_lt (hlt ..)]

/-! ## Reductions (R140) -/

/-- Flags joined on the way are joined to what was there before. -/
theorem foldl_flags {α : Type} (fl : α → FFlags) (xs : List α) (acc : FFlags) :
    xs.foldl (fun x r => x ||| fl r) acc = acc ||| xs.foldl (fun x r => x ||| fl r) 0 := by
  induction xs generalizing acc with
  | nil => simp
  | cons r rs ih =>
    rw [List.foldl_cons, List.foldl_cons, ih, ih (0 ||| fl r), BitVec.or_assoc]
    simp

theorem foldl_flags_replicate (m : Nat) : (List.replicate m ((0, 0) : Flagged)).foldl (fun x r => x ||| r.2) 0 = 0 := by
  induction m with
  | zero => rfl
  | succ m ih => rwa [List.replicate_succ, List.foldl_cons, BitVec.or_self]

/-- One level of the tree pairs adjacent lanes. -/
theorem pairUp_range (op : Nat → Nat → Flagged) (m : Nat) (x : Nat → Nat) :
    pairUp op ((List.range (2 * m)).map x) = (List.range m).map fun n => op (x (2 * n)) (x (2 * n + 1)) := by
  induction m generalizing x with
  | zero => rfl
  | succ m ih =>
    have hcons : (List.range (2 * (m + 1))).map x = x 0 :: x 1 :: (List.range (2 * m)).map fun n => x (n + 2) := by
      rw [Nat.mul_succ, List.range_succ_eq_map, List.range_succ_eq_map]
      simp [Function.comp_def]
    rw [hcons, pairUp, ih, List.range_succ_eq_map, List.map_cons, List.map_map]
    rfl

/-- The model's tree over 2^k lanes is R140's loop of k halvings. -/
theorem reduceTree_eq_reduced (op : Nat → Nat → Flagged) {k n : Nat} (hk : k ≤ n) (x : Nat → Nat) (acc : FFlags) :
    reduceTree op n ((List.range (2 ^ k)).map x) acc = reduced op k x acc := by
  induction k generalizing n x acc with
  | zero => cases n <;> rfl
  | succ k ih =>
    obtain ⟨n, rfl⟩ : ∃ m, n = m + 1 := Nat.exists_eq_succ_of_ne_zero (by omega)
    have hflags := foldl_flags (fun n => (op (x (2 * n)) (x (2 * n + 1))).2) (List.range (2 ^ k)) acc
    rw [reduceTree, if_neg (by simp), Nat.pow_succ', pairUp_range, collect, List.map_map, List.foldl_map]
    dsimp only
    rw [← hflags]
    exact ih (by omega) ..

theorem two_pow_log2_lanes (f : Fmt) : 2 ^ Nat.log2 f.lanes = f.lanes ∧ Nat.log2 f.lanes ≤ 6 := by cases f <;> decide

theorem reduceTree_lanesOf (f : Fmt) (op : Nat → Nat → Flagged) (x : Wide) :
    reduceTree op 6 (lanesOf f.width x) 0 = reduced op (Nat.log2 f.lanes) (lane f.width x) 0 := by
  obtain ⟨hpow, hle⟩ := two_pow_log2_lanes f
  rw [← reduceTree_eq_reduced op hle, hpow]
  rfl

/-- An instruction of R140's table is the reduction of its row. -/
theorem exec_of_table140 {t : Thread} {i : Instr} {d a : WReg} {f : Fmt} {op : Nat → Nat → Flagged}
    (h : table140 t.fenv i = some (d, a, f, op)) :
    ∃ opOf : Thread → Nat → Nat → Flagged, opOf t = op ∧ ∀ s, exec i s = reduceOp i s d a f opOf := by
  revert h
  fun_cases table140 t.fenv i
  case case7 => exact fun h => nomatch h
  all_goals rintro ⟨⟩
  case case1 => exact ⟨(laneAdd f ·.fenv), rfl, fun _ => rfl⟩
  case case2 => exact ⟨(laneMin f ·.fenv), rfl, fun _ => rfl⟩
  case case3 => exact ⟨(laneMax f ·.fenv), rfl, fun _ => rfl⟩
  case case4 => exact ⟨fun _ x y => (x &&& y, 0), rfl, fun _ => rfl⟩
  case case5 => exact ⟨fun _ x y => (x ||| y, 0), rfl, fun _ => rfl⟩
  case case6 => exact ⟨fun _ x y => (x ^^^ y, 0), rfl, fun _ => rfl⟩

theorem lanes_pos (f : Fmt) : 0 < f.lanes := by cases f <;> decide

/-- A reduction that starts owes the lane that the loop leaves, and zeros. -/
theorem reduceOp_begins {s s1 : State} {t t1 : Thread} {p : Port} {i : Instr} (d a : WReg) (f : Fmt)
    (op : Thread → Nat → Nat → Flagged) (h : Issues s t p i) (hb : s.begin t p i = .ok (s1, t1)) :
    let r := reduced (op t1) (Nat.log2 f.lanes) (lane f.width (t1.wide a)) 0
    ∃ w : Wide, lane f.width w 0 = r.1 % 2 ^ f.width ∧ (∀ n, 0 < n → n < f.lanes → lane f.width w n = 0) ∧
      reduceOp i s d a f op = .next (s1.result t1 p [(.wide d, w)] .alu (if f.isFloat then some r.2 else none)) := by
  refine ⟨ofLanes f.width ((reduceTree (op t1) 6 (lanesOf f.width (t1.wide a)) 0 ::
    List.replicate (f.lanes - 1) (0, 0)).map (·.1)), ?_, fun n hpos hn => ?_, (vecOp_begins h hb).trans ?_⟩
  · rw [lane_ofLanes _ (lanes_pos f), reduceTree_lanesOf]
    rfl
  · obtain ⟨n, rfl⟩ := Nat.exists_eq_add_of_le' hpos
    rw [lane_ofLanes _ hn, List.map_cons, List.getD_cons_succ, List.map_replicate]
    simp
  · rw [List.foldl_cons, foldl_flags, foldl_flags_replicate, reduceTree_lanesOf]
    simp

/-! ## Scans (R141) -/

section
variable (op : Nat → Nat → Flagged) (hd : Nat → Flagged) (u x y z h : Nat) (xs : List (Nat × Nat))

theorem scanInc_some : scanInc op hd (some y) ((x, h) :: xs) =
    (if h = 0 then op y x else hd x) :: scanInc op hd (some (if h = 0 then op y x else hd x).1) xs := rfl

theorem scanExc_some : scanExc op u (some (y, z)) ((x, h) :: xs) =
    (if h = 0 then op y z else (u, 0)) :: scanExc op u (some ((if h = 0 then op y z else (u, 0)).1, x)) xs := rfl

end

/-- An inclusive scan that goes on after lane `k` is R141's recurrence. -/
theorem scanInc_after (op : Nat → Nat → Flagged) (hd : Nat → Flagged) (x h : Nat → Nat) (k m : Nat) :
    scanInc op hd (some (scanned op hd true x h k).1) ((List.range' (k + 1) m).map fun n => (x n, h n)) =
      (List.range' (k + 1) m).map (scanned op hd true x h) := by
  induction m generalizing k with
  | zero => rfl
  | succ m ih =>
    have hlane : (if h (k + 1) = 0 then op (scanned op hd true x h k).1 (x (k + 1)) else hd (x (k + 1))) =
        scanned op hd true x h (k + 1) := by simp [scanned, ite_not]
    rw [List.range'_succ, List.map_cons, List.map_cons, scanInc_some, hlane, ih]

theorem scanInc_range (op : Nat → Nat → Flagged) (hd : Nat → Flagged) (x h : Nat → Nat) (m : Nat) :
    scanInc op hd none ((List.range' 0 m).map fun n => (x n, h n)) = (List.range' 0 m).map (scanned op hd true x h) := by
  cases m with
  | zero => rfl
  | succ m => exact congrArg (hd (x 0) :: ·) (scanInc_after op hd x h 0 m)

/-- An exclusive scan that goes on after lane `k` is R141's recurrence. -/
theorem scanExc_after (op : Nat → Nat → Flagged) (u : Nat) (x h : Nat → Nat) (k m : Nat) :
    scanExc op u (some ((scanned op (fun _ => (u, 0)) false x h k).1, x k)) ((List.range' (k + 1) m).map fun n => (x n, h n)) =
      (List.range' (k + 1) m).map (scanned op (fun _ => (u, 0)) false x h) := by
  induction m generalizing k with
  | zero => rfl
  | succ m ih =>
    have hlane : (if h (k + 1) = 0 then op (scanned op (fun _ => (u, 0)) false x h k).1 (x k) else (u, 0)) =
        scanned op (fun _ => (u, 0)) false x h (k + 1) := by simp [scanned, ite_not]
    rw [List.range'_succ, List.map_cons, List.map_cons, scanExc_some, hlane, ih]

theorem scanExc_range (op : Nat → Nat → Flagged) (u : Nat) (x h : Nat → Nat) (m : Nat) :
    scanExc op u none ((List.range' 0 m).map fun n => (x n, h n)) =
      (List.range' 0 m).map (scanned op (fun _ => (u, 0)) false x h) := by
  cases m with
  | zero => rfl
  | succ m => exact congrArg ((u, 0) :: ·) (scanExc_after op u x h 0 m)

/-- Only what the head's function makes of the source's lanes counts. -/
theorem scanned_congr {op : Nat → Nat → Flagged} {hd hd' : Nat → Flagged} {inc : Bool} {x h : Nat → Nat}
    (heq : ∀ n, hd (x n) = hd' (x n)) : scanned op hd inc x h = scanned op hd' inc x h := by
  funext n
  induction n with
  | zero => exact heq 0
  | succ n ih => rw [scanned, scanned, heq, ih]

/-! ### Heads -/

theorem withSign_zero (f : Fmt) (c : Prop) [Decidable c] : withSign f (decide c) 0 = if c then signBit f else 0 := by
  simp [withSign]

section
variable {f : Fmt} {x : Nat}

/-- A subnormal encoding is no NaN. -/
theorem isNaN_of_isSubnormal (h : isSubnormal f x = true) : isNaN f x = false := by
  have hmax : 2 ^ fracBits f ≤ maxFinite f + 1 := by cases f <;> decide
  simp only [isSubnormal, Bool.and_eq_true, beq_iff_eq, Nat.div_eq_zero_iff_lt (Nat.two_pow_pos _)] at h
  simp only [isNaN, unpack]
  rw [if_neg (by omega), if_pos ((Nat.div_eq_zero_iff_lt (Nat.two_pow_pos _)).mpr h.1)]
  rfl

/-- A zero is neither a NaN nor subnormal. -/
theorem isNaN_withSign_zero (hf : f.isFloat = true) (neg : Bool) :
    isNaN f (withSign f neg 0) = false ∧ isSubnormal f (withSign f neg 0) = false := by
  revert hf
  cases f <;> cases neg <;> decide

/-- What the model leaves in a lane that begins a segment is what log entry 91 says. -/
theorem headLane_eq_headOf (hf : f.isArith = true) (v : FEnv) (add : Bool) (hx : x < 2 ^ f.width) :
    headLane f v add x = headOf f v add x := by
  unfold headLane headOf
  by_cases hint : f.isInt = true
  · rw [if_pos hint, if_pos hint]
  · have hfloat : f.isFloat = true := by simpa [Fmt.isArith, hint] using hf
    have hflush : flushable f = true := by
      revert hfloat
      cases f <;> decide
    simp only [hint, daz, hflush, Nat.mod_eq_of_lt hx, Bool.and_true, Bool.false_eq_true, if_false]
    by_cases hsub : isSubnormal f x = true
    · have hnan := isNaN_of_isSubnormal hsub
      obtain ⟨hnan0, hsub0⟩ := isNaN_withSign_zero hfloat (decide (signBit f ≤ x))
      rw [withSign_zero] at hnan0 hsub0
      cases hdaz : v.daz
      · simp [hsub, hnan, withSign_zero]
      · simp [hsub, hnan, hnan0, hsub0, withSign_zero]
    · simp [hsub]

end

/-- The instruction is the scan `op` of the lanes of `a`, heads where those of `b` are not zero. -/
def IsScan (t : Thread) (i : Instr) (d a b : WReg) (f : Fmt) (op : Nat → Nat → Flagged) (hd : Nat → Flagged)
    (inc : Bool) : Prop :=
  ∃ gl : Thread → List Flagged, (∀ s, exec i s = vecOp i s d f gl) ∧
    (f.isArith = true → gl t = (List.range f.lanes).map (scanned op hd inc (lane f.width (t.wide a)) (lane f.width (t.wide b))))

theorem zip_lanesOf (f : Fmt) (x y : Wide) :
    (lanesOf f.width x).zip (lanesOf f.width y) = (List.range' 0 f.lanes).map fun n => (lane f.width x n, lane f.width y n) := by
  rw [lanesOf, lanesOf, List.zip_map', List.range_eq_range']
  rfl

section
variable {t : Thread} {i : Instr} {d a b : WReg} {f : Fmt}

theorem isScan_inc (add : Bool) (op : Thread → Nat → Nat → Flagged) (h : ∀ s, exec i s = scanOp i s d a b f add none op) :
    IsScan t i d a b f (op t) (headOf f t.fenv add) true := by
  refine ⟨_, h, fun hf => ?_⟩
  dsimp only
  rw [zip_lanesOf, scanInc_range, List.range_eq_range',
    scanned_congr fun n => headLane_eq_headOf hf t.fenv add (lane_lt ..)]

theorem isScan_exc (add : Bool) (u : Nat) (op : Thread → Nat → Nat → Flagged)
    (h : ∀ s, exec i s = scanOp i s d a b f add (some u) op) : IsScan t i d a b f (op t) (fun _ => (u, 0)) false := by
  refine ⟨_, h, fun _ => ?_⟩
  dsimp only
  rw [zip_lanesOf, scanExc_range, List.range_eq_range']

end

/-- An instruction of R141's table is the scan of its row, of an arithmetic format where it is legal. -/
theorem isScan_of_table141 {t : Thread} {i : Instr} {d a b : WReg} {f : Fmt} {op : Nat → Nat → Flagged} {hd : Nat → Flagged}
    {inc : Bool} (h : table141 t.fenv i = some (d, a, b, f, op, hd, inc)) : i.wf = f.isArith ∧ IsScan t i d a b f op hd inc := by
  revert h
  fun_cases table141 t.fenv i
  case case7 => exact fun h => nomatch h
  all_goals
    rintro ⟨⟩
    refine ⟨isNone_ite_format _, ?_⟩
  case case1 => exact isScan_inc true (laneAdd f ·.fenv) fun _ => rfl
  case case2 => exact isScan_inc false (laneMin f ·.fenv) fun _ => rfl
  case case3 => exact isScan_inc false (laneMax f ·.fenv) fun _ => rfl
  case case4 => exact isScan_exc true 0 (laneAdd f ·.fenv) fun _ => rfl
  case case5 => exact isScan_exc false (topOf f) (laneMin f ·.fenv) fun _ => rfl
  case case6 => exact isScan_exc false (bottomOf f) (laneMax f ·.fenv) fun _ => rfl

/-- Settles O13: each row of the tables is one reduction, the loop of R140, or one scan, the recurrence of R141. -/
theorem reductionAndScanLanes : Obligations.ReductionAndScanLanes := by
  intro s s1 t t1 p i d a b f op hd inc h hb
  refine ⟨fun hrow => ?_, fun hrow => ?_⟩
  · obtain ⟨opOf, rfl, hexec⟩ := exec_of_table140 hrow
    rw [hexec]
    exact reduceOp_begins d a f opOf h hb
  · obtain ⟨hwf, gl, hexec, hgl⟩ := isScan_of_table141 hrow
    rw [hexec]
    exact vecOp_begins_range h hb (hgl (hwf.symm.trans (wf_of_issues h)))

end Sys2Proof.Machine
end

section
/-! SUPPORT. Lane moves and VCVT (R142, R143): one lane read, written or spread, and the part of a register that a conversion
fills. -/

namespace Sys2Proof.Machine

/-! ## Lane moves (R143) -/

theorem getD_set {xs : List Nat} {k n : Nat} (v : Nat) (hn : n < xs.length) :
    (xs.set k v).getD n 0 = if n = k then v else xs.getD n 0 := by
  rw [List.getD_eq_getElem _ _ (by simpa using hn), List.getElem_set, ← List.getD_eq_getElem _ 0 hn]
  simp only [eq_comm]

/-- A register with one lane replaced. -/
theorem lane_ofLanes_set {w k n : Nat} (x : Wide) (v : Nat) (hn : n < 256 / w) :
    lane w (ofLanes w ((lanesOf w x).set k v)) n = if n = k then v % 2 ^ w else lane w x n := by
  rw [lane_ofLanes _ hn, getD_set v (by rwa [length_lanesOf]), getD_lanesOf x hn]
  split
  · rfl
  · exact Nat.mod_eq_of_lt (lane_lt ..)

/-- A register with one value in every lane. -/
theorem lane_ofLanes_replicate {w n : Nat} (v : Nat) (hn : n < 256 / w) :
    lane w (ofLanes w (List.replicate (256 / w) v)) n = v % 2 ^ w := by
  rw [lane_ofLanes _ hn, List.getD_replicate _ hn]

/-! ## VCVT (R142) -/

theorem getD_cvtLanes (t : Thread) (src dst : Fmt) (m : CvtMode) (x : Wide) (from_ k : Nat) {n : Nat} (hn : n < k) :
    ((cvtLanes t src dst m x from_ k).map (·.1)).getD n 0 =
      (convert src dst m t.fenv (t.draw n) (lane src.width x (from_ + n))).1 := by
  rw [cvtLanes, List.map_map, getD_map_range _ _ hn]
  rfl

@[simp] theorem length_cvtLanes (t : Thread) (src dst : Fmt) (m : CvtMode) (x : Wide) (from_ k : Nat) :
    (cvtLanes t src dst m x from_ k).length = k := by simp [cvtLanes]

/-- A part of VCVT's destination that is named lies within it. -/
theorem part_le_of_wf {d a : WReg} {q : Fin 8} {dst src : Fmt} {m : CvtMode} (h : (Instr.vcvt d a q dst m src).wf = true)
    (hlt : src.lanes < dst.lanes) : (q.val + 1) * src.lanes ≤ dst.lanes := by
  have hcheck : vcvtCheck dst src m q = none := Option.isNone_iff_eq_none.mp h
  have hq : ¬ vcvtRatio dst src ≤ q.val := fun hle => by
    simp only [vcvtCheck, hle, decide_true, Bool.or_true, if_true] at hcheck
    split_ifs at hcheck
  have hratio : vcvtRatio dst src = dst.lanes / src.lanes := by
    rw [vcvtRatio, max_eq_right hlt.le, min_eq_left hlt.le]
  rw [hratio] at hq
  exact (Nat.le_div_iff_mul_le (lanes_pos src)).mp (by omega)

section
variable (t : Thread) (d a : WReg) (q : Nat) {src dst : Fmt} (m : CvtMode)

/-- A conversion to as few lanes or fewer fills the destination. -/
theorem getD_vcvtLanes_widening (h : dst.lanes ≤ src.lanes) {n : Nat} (hn : n < dst.lanes) :
    ((vcvtLanes t d a q src dst m).map (·.1)).getD n 0 =
      (convert src dst m t.fenv (t.draw n) (lane src.width (t.wide a) (q * dst.lanes + n))).1 := by
  rw [vcvtLanes, if_pos h, getD_cvtLanes _ _ _ _ _ _ _ hn]

/-- A conversion to more lanes fills one part of the destination and keeps the others. -/
theorem getD_vcvtLanes_narrowing (h : src.lanes < dst.lanes) (hq : (q + 1) * src.lanes ≤ dst.lanes) {n : Nat}
    (hn : n < dst.lanes) :
    ((vcvtLanes t d a q src dst m).map (·.1)).getD n 0 =
      if q * src.lanes ≤ n ∧ n < (q + 1) * src.lanes then
        (convert src dst m t.fenv (t.draw (n - q * src.lanes)) (lane src.width (t.wide a) (n - q * src.lanes))).1
      else lane dst.width (t.wide d) n := by
  have hlen : (lanesOf dst.width (t.wide d)).length = dst.lanes := length_lanesOf ..
  have hsucc : (q + 1) * src.lanes = q * src.lanes + src.lanes := Nat.succ_mul ..
  have hfront : ((lanesOf dst.width (t.wide d)).take (q * src.lanes)).length = q * src.lanes := by
    rw [List.length_take, hlen]
    omega
  have hold : (lanesOf dst.width (t.wide d)).getD n 0 = lane dst.width (t.wide d) n := getD_lanesOf _ hn
  rw [vcvtLanes, if_neg (by omega), List.map_append, List.map_append, List.map_take, List.map_drop, map_fst_quiet]
  by_cases hlow : n < q * src.lanes
  · rw [if_neg (by omega), List.append_assoc, List.getD_append _ _ _ _ (by simp [hlen]; omega), getD_take hlow, hold]
  · by_cases hpart : n < (q + 1) * src.lanes
    · rw [if_pos ⟨by omega, hpart⟩, List.getD_append _ _ _ _ (by simp [hlen]; omega),
        List.getD_append_right _ _ _ _ (by simp [hlen]; omega)]
      rw [hfront, getD_cvtLanes _ _ _ _ _ _ _ (by omega), Nat.zero_add]
    · rw [if_neg (by omega), List.getD_append_right _ _ _ _ (by simp [hlen]; omega), getD_drop, List.length_append,
        List.length_map, length_cvtLanes, hfront, show (q + 1) * src.lanes + (n - (q * src.lanes + src.lanes)) = n by omega, hold]

end

/-- Settles O14: each move writes the lanes of one value, and VCVT's part lies in its destination where it is legal. -/
theorem laneMovesAndWideConversion : Obligations.LaneMovesAndWideConversion := by
  refine fun s s1 t t1 p => ⟨fun d a b w h hb => attempt_of_begin h hb, fun d a b w h hb => ?_, fun d a w h hb => ?_,
    fun d a q dst m src h hb => ⟨_, _, fun n hn => ?_, attempt_of_begin h hb⟩⟩
  · exact ⟨_, fun n hn => lane_ofLanes_set _ _ hn, attempt_of_begin h hb⟩
  · exact ⟨_, fun n hn => lane_ofLanes_replicate _ hn, attempt_of_begin h hb⟩
  · rw [lane_ofLanes _ hn]
    dsimp only
    by_cases hle : dst.lanes ≤ src.lanes
    · refine ⟨fun _ => ?_, fun hnot => absurd (.inl hle) hnot⟩
      rw [collect, getD_vcvtLanes_widening _ _ _ _ _ hle hn, if_pos hle, if_pos hle]
    · have hlt : src.lanes < dst.lanes := not_le.mp hle
      rw [collect, getD_vcvtLanes_narrowing _ _ _ _ _ hlt (part_le_of_wf (wf_of_issues h) hlt) hn, if_neg hle, if_neg hle]
      refine ⟨fun hpart => by rw [if_pos (hpart.resolve_left hle)], fun hnot => ?_⟩
      rw [if_neg fun hpart => hnot (.inr hpart), Nat.mod_eq_of_lt (lane_lt ..)]

end Sys2Proof.Machine
end

section
/-! SUPPORT. Refutations of O31 and O32: the statements are for every state, and not only for those in which a core that a save
record holds (R356) has no thread in a slot. There the record says who owns the core (R145), and what an unlisted core holds
says that no thread does. -/

namespace Sys2Proof.Machine

/-- The save record of cluster 0, whose core 0 thread 3 owns. -/
def ownerRecord : SaveRec := ⟨0, 0, 0, [], [{ CoreSt.fresh 0 0 with owner := some 3 }], [], [], [], 0x1000, false⟩

/-- The machine of `State.seated1` with that record, its thread in its slot and about to issue at a port. -/
def ownedInRecord (p : Port) : State := { State.reset.seated1 with port := some p, saves := [ownerRecord] }

/-- VOWN answers the owner that the record names, and the core still has none. -/
theorem vown_leaves_unowned {s' : State} (he : exec (.vown (.l 0)) (ownedInRecord seatedPort) = .next s') :
    (s'.coreAt 0 0).owner = none := by
  have hw : (match exec (.vown (.l 0)) (ownedInRecord seatedPort) with
      | .next s => (s.coreAt 0 0).owner
      | _ => some 0) = none := by decide +kernel
  rwa [he] at hw

/-- Refutes O31: a core that is not listed, and so has no owner, need not go to the thread that asks for it. -/
theorem not_ownershipAndStreams : ¬ Obligations.OwnershipAndStreams := by
  unfold Obligations.OwnershipAndStreams
  intro h
  obtain ⟨-, hvown, -⟩ := h (ownedInRecord seatedPort) seatedThread seatedPort
  obtain ⟨-, hfree, -⟩ := hvown (.l 0) (by decide +kernel)
  obtain ⟨s', r, he, howner, -⟩ := hfree (by decide +kernel) (by decide +kernel) (by decide +kernel) (by decide)
  exact absurd (howner.symm.trans (vown_leaves_unowned he)) (by decide)

/-- The sequencer's port for that thread: what issues there lists the core. -/
def sequencerPort : Port := ⟨3, Guard.always, none, true⟩

/-- MFMT takes the vector-ownership trap. -/
theorem mfmt_traps_ownership {s' : State} (he : exec (.mfmt .zero) (ownedInRecord sequencerPort) = .next s') :
    (s'.coreAt 0 0).trapQ.map (·.code) = [0x0B] := by
  have hw : (match exec (.mfmt .zero) (ownedInRecord sequencerPort) with
      | .next s => (s.coreAt 0 0).trapQ.map (·.code)
      | _ => []) = [0x0B] := by decide +kernel
  rwa [he] at hw

/-- Refutes O32: once the core is listed, the record no longer says who owns it, and a format word that is not valid does not
take the matrix-parameter trap. -/
theorem not_matrixInstructions : ¬ Obligations.MatrixInstructions := by
  unfold Obligations.MatrixInstructions
  intro h
  obtain ⟨-, howner⟩ := h (ownedInRecord sequencerPort) seatedThread sequencerPort 0 .zero .zero .zero
  obtain ⟨hmfmt, -⟩ := howner (by decide +kernel)
  have he := hmfmt (by decide +kernel)
  rw [if_neg (by decide)] at he
  exact absurd (mfmt_traps_ownership he) (by decide +kernel)

end Sys2Proof.Machine
end

section
/-! SUPPORT. A refutation of O42: where a thread's pop waits for the element that a peer answers, the record of that wait (R313,
R316) is a write at its home, which wakes the AWAITs that watch it (R226), and where an AWAIT is a peer's its answer is a message
of its own (R337). No value is known of the device's own id, so peer 1 or peer 2 is taken, whichever has another one (R194). -/

namespace Sys2Proof.Machine

/-- The device has the id of one of the two peers at most. -/
theorem exists_foreign_peer : ∃ n ∈ [1, 2], n ≠ Config.deviceId.toNat := by
  by_cases h : Config.deviceId.toNat = 1
  · exact ⟨2, by decide, by omega⟩
  · exact ⟨1, by decide, Ne.symm h⟩

/-- Four elements of 32 bytes from the start of the window of peer `n` on. -/
def peerElements (n : Nat) : Word × Word × Word × Word :=
  (0x0100000000000000 + BitVec.ofNat 64 (n * 2 ^ 47), 0x0001000001000004, 0x20, 0)

/-- Unit 2 streams them in; the pop of the first one waits. The last record of the unit's stamp stands on device 7. -/
def waitedFor (n : Nat) : Stream :=
  { Stream.fresh with cfg := some (peerElements n), bound := some 1, late := true, stamp := ⟨0, 0, 0, some 7⟩ }

/-- A context with peer `n` in its table, under a device id that no device has. -/
def contextOfPeer (n : Nat) : Context := { Context.fresh 0 0 with peers := [(n, ⟨65536, 0, 0x10000⟩)] }

/-- The machine of `State.seated1` with that unit on its thread's core and that context; its contrail is enabled, its records stand
at 0x10000, and `peerWatch` waits there for the word to be 1, the present time. -/
def fetchingFromPeer (n : Nat) : State :=
  let s := State.reset.seated1.updCore 0 0 fun k => { k with owner := some 3, streams := k.streams.set 2 (waitedFor n) }
  { s with
    ctxs := [contextOfPeer n]
    replays := s.replays.map fun r => { r with ctrlCtl := 0x100 }
    tlb := [⟨0, 0, 0, 65536, 0x10000, true, true, false⟩]
    accs := [peerWatch]
    now := 1
    fresh := 6 }

/-- A fetch from a peer asks it for the element, which arrives with its answer. -/
theorem streamFetch_of_peer {s s1 : State} {t : Thread} {u : Fin 4} {peer : Wide} {cfg : Word × Word × Word × Word}
    {e d off : Nat}
    (hnext : (s.coreAt t.phys t.core).streams[u.val].nextFetch = some (cfg, e))
    (howner : (s.coreAt t.phys t.core).owner = some t.uid) (ht : s.thread? t.uid = some t)
    (hrun : (s.clusterAt t.phys).stopped = false)
    (hres : s.resolve t.issuer .plain (streamAddr cfg e) 32 false false false = (.ok (.peer d off), s1)) :
    exec (.streamFetch t.phys t.core u peer) s =
      .next ((s1.send (.peerAccess t.ctx d off 32 (.load .zx (.int .zero))
        ((s.coreAt t.phys t.core).streams[u.val].stamp.mark (streamId t u) t.lcore))).elementArrives t u peer) := by
  show execStreamFetch t.phys t.core u peer s = _
  unfold execStreamFetch
  simp only [hnext, howner, Option.bind_some, ht, hrun, hres, Bool.false_eq_true, if_false]

section
variable {n : Nat} (hn : n ∈ [1, 2]) (hne : n ≠ Config.deviceId.toNat)
include hn

/-- The address of the first element is checked and found behind the system aperture, in the peer's window. -/
theorem place_peerElements : aperture (streamAddr (peerElements n) 0) = some .system ∧
    (streamAddr (peerElements n) 0).toNat % 32 = 0 ∧
    (fetchingFromPeer n).place seatedThread.issuer (streamAddr (peerElements n) 0) 32 = some (.peer n 0) ∧
    (contextOfPeer n).peerId n = n := by
  revert n
  decide +kernel

/-- The unit may fetch the first element. -/
theorem nextFetch_peerElements :
    ((fetchingFromPeer n).coreAt 0 0).streams[2].nextFetch = some (peerElements n, 0) := by
  revert n
  decide +kernel

include hne

/-- Where the first element stands; finding it changes nothing. -/
theorem resolve_peerElements : (fetchingFromPeer n).resolve seatedThread.issuer .plain (streamAddr (peerElements n) 0)
    32 false false false = (.ok (.peer n 0), fetchingFromPeer n) := by
  obtain ⟨haperture, haligned, hplace, hid⟩ := place_peerElements hn
  have hdev : 65536 ≠ Config.deviceId.toNat := Config.deviceId.isLt.ne'
  have hctx : (fetchingFromPeer n).ctx? seatedThread.issuer.ctx = some (contextOfPeer n) := rfl
  have hlookup : (contextOfPeer n).peers.lookup n = some ⟨65536, 0, 0x10000⟩ := List.lookup_cons_self
  have hpeer : (fetchingFromPeer n).peerPlace seatedThread.issuer n 0 32 false = (.peer n 0, fetchingFromPeer n) := by
    simp [State.peerPlace, hctx, hlookup, hne, hdev, hid]
  unfold State.resolve
  simp [haperture, performs, haligned, hplace, hpeer]

end

/-- Two messages leave: the access, and the answer of the peer's AWAIT. -/
theorem elementArrives_answers_peer : ∀ n ∈ [1, 2], (((fetchingFromPeer n).send (.peerAccess 0 n 0 32 (.load .zx (.int .zero))
    ((waitedFor n).stamp.mark (streamId seatedThread 2) 0))).elementArrives seatedThread 2 0).out.length = 2 := by
  decide +kernel

/-- Refutes O42: the access to the peer need not be the one message that leaves. -/
theorem not_streamAndSequencerUnits : ¬ Obligations.StreamAndSequencerUnits := by
  unfold Obligations.StreamAndSequencerUnits
  intro h
  obtain ⟨n, hn, hne⟩ := exists_foreign_peer
  obtain ⟨hfetch, -⟩ := h (fetchingFromPeer n) seatedThread 0 0 rfl rfl
  obtain ⟨-, hpeer, -⟩ := hfetch 2 0 (peerElements n) 0 (nextFetch_peerElements hn) rfl rfl rfl
  obtain ⟨s', he, hout, -⟩ := hpeer n 0 _ (resolve_peerElements hn hne)
  have hs' := Host.Outcome.next.inj
    ((streamFetch_of_peer (nextFetch_peerElements hn) rfl rfl rfl (resolve_peerElements hn hne)).symm.trans he)
  have hlen : s'.out.length = 2 := (congrArg (·.out.length) hs').symm.trans (elementArrives_answers_peer n hn)
  have hone : s'.out.length = 1 := (congrArg List.length hout).trans rfl
  exact absurd (hone.symm.trans hlen) (by decide)

end Sys2Proof.Machine
end

section
/-! SUPPORT. Rounding (R117): a value rounds alike however it is written as a multiple of a power of two, and a rounded value stays
within its format. -/

namespace Sys2Proof.Machine

/-! ## Rounding depends on the value alone (R117) -/

theorem log2_mul_two_pow {m : Nat} (hm : m ≠ 0) (k : Nat) : Nat.log2 (m * 2 ^ k) = Nat.log2 m + k := by
  obtain ⟨hle, hlt⟩ := (Nat.log2_eq_iff hm).mp rfl
  refine (Nat.log2_eq_iff (by simp [hm])).mpr ⟨?_, ?_⟩
  · rw [pow_add]
    exact Nat.mul_le_mul_right _ hle
  · rw [Nat.add_right_comm, pow_add]
    exact Nat.mul_lt_mul_of_pos_right hlt (Nat.two_pow_pos k)

/-- Both parts of a truncation scaled by the same power round alike. -/
theorem roundsUp_mul_two_pow (rm : RMode) (neg : Bool) (n r k j : Nat) :
    roundsUp rm neg n (r * 2 ^ j) (k + j) = roundsUp rm neg n r k := by
  have hpos : 0 < 2 ^ j := Nat.two_pow_pos j
  have hzero : (r * 2 ^ j != 0) = (r != 0) := by rw [Bool.eq_iff_iff]; simp
  have hdouble : 2 * (r * 2 ^ j) = 2 * r * 2 ^ j := (Nat.mul_assoc ..).symm
  cases rm with
  | rtz => rfl
  | rup | rdn => simp only [roundsUp, hzero]
  | rna => simp only [roundsUp, hzero, hdouble, pow_add, Nat.mul_le_mul_right_iff hpos]
  | rne =>
    have heq : (2 * r * 2 ^ j == 2 ^ k * 2 ^ j) = (2 * r == 2 ^ k) := by rw [Bool.eq_iff_iff]; simp
    simp only [roundsUp, hzero, hdouble, pow_add, Nat.mul_lt_mul_right hpos, heq]
  | sr d =>
    have hquot : r * 2 ^ j * 2 ^ 32 / (2 ^ k * 2 ^ j) = r * 2 ^ 32 / 2 ^ k := by
      rw [Nat.mul_right_comm, Nat.mul_div_mul_right _ _ hpos]
    simp only [roundsUp, pow_add, hquot]

/-- The truncated units of ±m · 2^e at the last place 2^sh, as `roundTo` takes them. -/
def unitsAt (m : Nat) (e sh : Int) : Nat := if e ≥ sh then m * 2 ^ (e - sh).toNat else m / 2 ^ (sh - e).toNat

/-- What that truncation leaves, in units of 2^(sh - e). -/
def restAt (m : Nat) (e sh : Int) : Nat := if e ≥ sh then 0 else m % 2 ^ (sh - e).toNat

theorem unitsAt_mul_two_pow (m k : Nat) (e sh : Int) : unitsAt (m * 2 ^ k) e sh = unitsAt m (e + k) sh := by
  unfold unitsAt
  obtain h | h := le_or_gt sh e
  · rw [if_pos h, if_pos (by omega), show (e + k - sh).toNat = k + (e - sh).toNat by omega, pow_add, mul_assoc]
  · rw [if_neg (by omega)]
    obtain h' | h' := le_or_gt sh (e + k)
    · rw [if_pos h', show k = (e + k - sh).toNat + (sh - e).toNat by omega, pow_add, ← mul_assoc,
        Nat.mul_div_cancel _ (Nat.two_pow_pos _)]
      congr 2
      omega
    · rw [if_neg (by omega), show (sh - e).toNat = (sh - (e + k)).toNat + k by omega, pow_add,
        Nat.mul_div_mul_right _ _ (Nat.two_pow_pos k)]

theorem restAt_mul_two_pow (m k : Nat) (e sh : Int) : restAt (m * 2 ^ k) e sh = restAt m (e + k) sh * 2 ^ k := by
  unfold restAt
  obtain h | h := le_or_gt sh e
  · rw [if_pos h, if_pos (by omega), Nat.zero_mul]
  · rw [if_neg (by omega)]
    obtain h' | h' := le_or_gt sh (e + k)
    · rw [if_pos h', Nat.zero_mul]
      exact Nat.mod_eq_zero_of_dvd ((Nat.pow_dvd_pow 2 (by omega)).mul_left m)
    · rw [if_neg (by omega), show (sh - e).toNat = (sh - (e + k)).toNat + k by omega, pow_add, Nat.mul_mod_mul_right]

theorem restAt_mul_two_pow_ne_zero (m k : Nat) (e sh : Int) : (restAt (m * 2 ^ k) e sh != 0) = (restAt m (e + k) sh != 0) := by
  rw [restAt_mul_two_pow, Bool.eq_iff_iff]
  simp

/-- The units that the value rounds to. -/
def roundedUnits (rm : RMode) (neg : Bool) (m : Nat) (e sh : Int) : Nat :=
  unitsAt m e sh + if roundsUp rm neg (unitsAt m e sh) (restAt m e sh) (sh - e).toNat then 1 else 0

theorem roundedUnits_mul_two_pow (rm : RMode) (neg : Bool) (m k : Nat) (e sh : Int) :
    roundedUnits rm neg (m * 2 ^ k) e sh = roundedUnits rm neg m (e + k) sh := by
  unfold roundedUnits
  rw [unitsAt_mul_two_pow, restAt_mul_two_pow]
  obtain h | h := le_or_gt sh (e + k)
  · rw [restAt, if_pos h, Nat.zero_mul, roundsUp_zero, roundsUp_zero]
  · rw [show (sh - e).toNat = (sh - (e + k)).toNat + k by omega, roundsUp_mul_two_pow]

/-- `roundTo` of a value that is not zero, by its rounded units at the last place. -/
theorem roundTo_of_ne_zero {f : Fmt} {v : FEnv} {neg : Bool} {m : Nat} {e : Int} (hm : m ≠ 0) : roundTo f v neg m e =
    (let ex := max ((Nat.log2 m : Int) + e) (emin f)
     let sh := ex - fracBits f
     let mag := (ex + expBias f - 1).toNat * 2 ^ fracBits f + roundedUnits v.rm neg m e sh
     if maxFinite f < mag then (overflowBits f v.rm v.sat neg, fOverflow ||| fInexact)
     else
       let tiny := decide (mag < 2 ^ fracBits f)
       if v.ftz && flushable f && tiny && mag != 0 then (withSign f neg 0, fUnderflow ||| fInexact)
       else (withSign f neg mag, (if restAt m e sh != 0 then fInexact else 0) |||
         (if restAt m e sh != 0 && tiny then fUnderflow else 0))) := by
  rw [roundTo, if_neg hm]
  rfl

/-- A value rounds alike however it is written as a multiple of a power of two. -/
theorem roundTo_mul_two_pow (f : Fmt) (v : FEnv) (neg : Bool) (m k : Nat) (e : Int) :
    roundTo f v neg (m * 2 ^ k) e = roundTo f v neg m (e + k) := by
  by_cases hm : m = 0
  · rw [hm, Nat.zero_mul, roundTo, roundTo, if_pos rfl, if_pos rfl]
  · have hex : ((Nat.log2 (m * 2 ^ k) : Nat) : Int) + e = Nat.log2 m + (e + k) := by
      rw [log2_mul_two_pow hm]
      omega
    rw [roundTo_of_ne_zero (by simp [hm]), roundTo_of_ne_zero hm]
    simp only [hex, roundedUnits_mul_two_pow, restAt_mul_two_pow_ne_zero]

theorem roundInt_mul_two_pow (f : Fmt) (v : FEnv) (x : Int) (k : Nat) (e : Int) (zneg : Bool) :
    roundInt f v (x * 2 ^ k) e zneg = roundInt f v x (e + k) zneg := by
  have hpos : (0 : Int) < 2 ^ k := by positivity
  by_cases hx : x = 0
  · simp [roundInt, hx]
  · have hneg : (x * 2 ^ k < 0) = (x < 0) := propext (by rw [mul_neg_iff]; simp [hpos, hpos.le])
    rw [roundInt, roundInt, if_neg hx, if_neg (by simp [hx]), ← roundTo_mul_two_pow, Int.natAbs_mul, Int.natAbs_pow]
    simp only [hneg]
    rfl

/-- A signed magnitude rounds as the integer that it stands for. -/
theorem roundTo_eq_roundInt (f : Fmt) (v : FEnv) (x e : Int) :
    roundTo f v (decide (x < 0)) x.natAbs e = roundInt f v x e false := by
  by_cases hx : x = 0
  · simp [roundInt, roundTo, hx]
  · rw [roundInt, if_neg hx]

/-! ## Results stay within the format -/

/-- A rounded value overflows or is a finite encoding. -/
theorem roundTo_bits (f : Fmt) (v : FEnv) (neg : Bool) (m : Nat) (e : Int) :
    (roundTo f v neg m e).1 = overflowBits f v.rm v.sat neg ∨
      ∃ mag ≤ maxFinite f, (roundTo f v neg m e).1 = withSign f neg mag := by
  by_cases hm : m = 0
  · exact .inr ⟨0, Nat.zero_le _, by rw [roundTo, if_pos hm]⟩
  · rw [roundTo_of_ne_zero hm]
    dsimp only
    split
    · exact .inl rfl
    · next hle =>
      split
      · exact .inr ⟨0, Nat.zero_le _, rfl⟩
      · exact .inr ⟨_, not_lt.mp hle, rfl⟩

theorem withSign_single_lt (neg : Bool) {mag : Nat} (h : mag ≤ infBits .s) : withSign .s neg mag < 2 ^ 32 := by
  have hinf : infBits .s = 0x7F800000 := rfl
  have hsign : signBit .s = 2 ^ 31 := rfl
  unfold withSign
  split <;> omega

theorem roundTo_single_lt (neg : Bool) (m : Nat) (e : Int) : (roundTo .s FEnv.plain neg m e).1 < 2 ^ 32 := by
  obtain h | ⟨mag, hmag, h⟩ := roundTo_bits .s FEnv.plain neg m e
  · rw [h]
    exact withSign_single_lt neg le_rfl
  · rw [h]
    exact withSign_single_lt neg (hmag.trans (Nat.le_succ _))

theorem addVals_single_lt (x y : FVal) : (addVals .s FEnv.plain x y).1 < 2 ^ 32 := by
  fun_cases addVals .s FEnv.plain x y
  · decide
  · decide
  · exact withSign_single_lt _ le_rfl
  · decide
  · exact withSign_single_lt _ le_rfl
  · exact withSign_single_lt _ le_rfl
  · unfold roundInt
    split
    · exact withSign_single_lt _ (Nat.zero_le _)
    · exact roundTo_single_lt ..

theorem fAdd_single_lt (a b : Nat) : (fAdd .s FEnv.plain a b).1 < 2 ^ 32 := addVals_single_lt ..

end Sys2Proof.Machine
end

section
/-! SUPPORT. The products of a group of the matrix unit (R168), as integer multiples of 2^-300, and what a cut at a weight leaves of
each (R170). -/

namespace Sys2Proof.Machine

/-! ## Signed magnitudes -/

theorem natAbs_signed (neg : Bool) (m : Nat) : (signed neg m).natAbs = m := by cases neg <;> simp [signed]

theorem signed_mul (neg : Bool) (m k : Nat) : signed neg (m * k) = signed neg m * k := by cases neg <;> simp [signed]

theorem signed_eq_zero {neg : Bool} {m : Nat} : signed neg m = 0 ↔ m = 0 := by cases neg <;> simp [signed]

/-- The sign of a signed magnitude goes over to another one. -/
theorem sign_signed_mul {m k : Nat} (neg : Bool) (h : m = 0 → k = 0) : (signed neg m).sign * k = signed neg k := by
  by_cases hm : m = 0
  · simp [h hm, signed]
  · cases neg <;> simp [signed, Int.sign_natCast_of_ne_zero hm]

/-! ## Products of two elements (R168) -/

/-- A pair has no product, or one that is a NaN. -/
theorem mulExact_nan_iff (p : FVal × FVal) :
    (mulExact p.1 p.2 == none || mulExact p.1 p.2 == some .nan) = nan168 p := by
  obtain ⟨x, y⟩ := p
  cases x <;> cases y <;> simp only [mulExact, nan168]
  · rfl
  · rfl
  · rfl
  · rfl
  · rfl
  · next m _ => by_cases h : m = 0 <;> simp [h]
  · rfl
  · next m _ _ => by_cases h : m = 0 <;> simp [h]
  · rfl

/-- A pair's product is an infinity of a sign. -/
theorem mulExact_inf_iff (neg : Bool) (p : FVal × FVal) :
    (mulExact p.1 p.2 == some (.inf neg)) = infinite168 neg p := by
  obtain ⟨x, y⟩ := p
  rw [Bool.eq_iff_iff]
  cases x <;> cases y <;> simp only [mulExact, infinite168]
  · simp
  · simp
  · simp
  · simp
  · simp
  · next m _ => by_cases h : m = 0 <;> simp [h]
  · simp
  · next m _ _ => by_cases h : m = 0 <;> simp [h]
  · simp

/-- Sign, magnitude and exponent of the product of two finite elements. -/
def finiteProduct : FVal × FVal → Bool × Nat × Int
  | (.fin a m e, .fin b n g) => (a != b, m * n, e + g)
  | _ => (false, 0, 0)

/-- A product that is no NaN and no infinity is that of two finite elements. -/
theorem mulExact_finite {p : FVal × FVal} (hnan : nan168 p = false) (hinf : ∀ neg, infinite168 neg p = false) :
    mulExact p.1 p.2 = some (.fin (finiteProduct p).1 (finiteProduct p).2.1 (finiteProduct p).2.2) := by
  obtain ⟨x, y⟩ := p
  cases hx : mulExact x y with
  | none =>
    rw [← mulExact_nan_iff, hx] at hnan
    cases hnan
  | some v =>
    cases v with
    | nan =>
      rw [← mulExact_nan_iff, hx] at hnan
      cases hnan
    | inf neg =>
      have h := hinf neg
      rw [← mulExact_inf_iff, hx] at h
      simp at h
    | fin neg m e =>
      cases x <;> cases y <;> simp only [mulExact, reduceCtorEq, Option.some.injEq] at hx
      · split at hx <;> simp at hx
      · split at hx <;> simp at hx
      · rw [← hx]
        rfl

/-- A signed magnitude of a power of two from 2^-300 on, as a multiple of 2^-300. -/
def units168 (p : Bool × Nat × Int) : Int := signed p.1 (p.2.1 * 2 ^ (p.2.2 + 300).toNat)

theorem product168_eq_units168 (p : FVal × FVal) : product168 p = units168 (finiteProduct p) := by
  obtain ⟨x, y⟩ := p
  have hzero : units168 (false, 0, 0) = 0 := by rw [units168, signed_eq_zero, Nat.zero_mul]
  cases x <;> cases y
  case fin.fin a m e b n g =>
    unfold product168 units168 finiteProduct signed
    by_cases h : a = b <;> simp [h]
  all_goals exact hzero.symm

theorem negZero168_eq (p : FVal × FVal) : negZero168 p = ((finiteProduct p).2.1 == 0 && (finiteProduct p).1) := by
  obtain ⟨x, y⟩ := p
  cases x <;> cases y <;> rfl

theorem units168_eq_zero {p : Bool × Nat × Int} : units168 p = 0 ↔ p.2.1 = 0 := by
  simp [units168, signed_eq_zero]

theorem natAbs_units168 (p : Bool × Nat × Int) : (units168 p).natAbs = p.2.1 * 2 ^ (p.2.2 + 300).toNat := natAbs_signed ..

/-! ## A product cut at a weight (R170) -/

/-- A product cut toward zero at 2^u, in units of it. -/
def cutAt (u : Int) (p : Bool × Nat × Int) : Int := signed p.1 (unitsAt p.2.1 p.2.2 u)

section
variable {p : Bool × Nat × Int} {u : Int} (hp : -300 ≤ p.2.2)

/-- At a weight that is not above its own, a product is not cut. -/
theorem units168_of_le (hu : -300 ≤ u) (hle : u ≤ p.2.2) : units168 p = cutAt u p * 2 ^ (u + 300).toNat := by
  rw [units168, cutAt, unitsAt, if_pos hle, show (p.2.2 + 300).toNat = (p.2.2 - u).toNat + (u + 300).toNat by omega,
    pow_add, ← mul_assoc, signed_mul]
  push_cast
  rfl

include hp

/-- At a weight below 2^-300, no product is cut. -/
theorem cutAt_of_low (hu : u ≤ -300) : cutAt u p = units168 p * 2 ^ (-300 - u).toNat := by
  rw [units168, cutAt, unitsAt, if_pos (hu.trans hp),
    show (p.2.2 - u).toNat = (p.2.2 + 300).toNat + (-300 - u).toNat by omega, pow_add, ← mul_assoc, signed_mul]
  push_cast
  rfl

/-- At a weight from 2^-300 on, a product's multiple of 2^-300 loses its places below the weight. -/
theorem cutAt_of_high (hu : -300 ≤ u) : cutAt u p * 2 ^ (u + 300).toNat =
    (units168 p).sign * ((units168 p).natAbs / 2 ^ (u + 300).toNat * 2 ^ (u + 300).toNat : Nat) := by
  have hquot : (units168 p).natAbs / 2 ^ (u + 300).toNat = unitsAt p.2.1 p.2.2 u := by
    have h := unitsAt_mul_two_pow p.2.1 (p.2.2 + 300).toNat (-300) u
    rw [show -300 + ((p.2.2 + 300).toNat : Int) = p.2.2 by omega] at h
    rw [← h, natAbs_units168, unitsAt]
    split
    · obtain rfl : u = -300 := by omega
      simp
    · rw [show u - -300 = u + 300 by omega]
  rw [hquot, units168, sign_signed_mul, cutAt, signed_mul]
  · push_cast
    rfl
  · intro h
    obtain h | h := Nat.mul_eq_zero.mp h
    · simp [unitsAt, h]
    · simp at h

end

end Sys2Proof.Machine
end

section
/-! SUPPORT. GroupSum (R168): the sum that the unit rounds, and the sum of integer multiples of 2^-300 that R169 and R170 describe,
are one value. -/

namespace Sys2Proof.Machine

/-! ## The weight of a group's last place (R170) -/

theorem foldl_max_le_iff (xs : List Nat) (a b : Nat) : xs.foldl max a ≤ b ↔ a ≤ b ∧ ∀ x ∈ xs, x ≤ b := by
  induction xs generalizing a with
  | nil => simp
  | cons x xs ih => simp [ih, and_assoc]

theorem le_foldl_min_iff (xs : List Int) (a b : Int) : b ≤ xs.foldl min a ↔ b ≤ a ∧ ∀ x ∈ xs, b ≤ x := by
  induction xs generalizing a with
  | nil => simp
  | cons x xs ih => simp [ih, and_assoc]

section
variable {fs : List (Bool × Nat × Int)}

/-- The lowest exponent is a bound of them all. -/
theorem lowExp_le {p : Bool × Nat × Int} (hp : p ∈ fs) : lowExp fs ≤ p.2.2 :=
  ((le_foldl_min_iff ..).mp le_rfl).2 _ (List.mem_map_of_mem hp)

variable (hlow : ∀ p ∈ fs, -300 ≤ p.2.2)
include hlow

/-- It is the exponent of one of them. -/
theorem le_lowExp (hne : fs ≠ []) : -300 ≤ lowExp fs := by
  refine (le_foldl_min_iff ..).mpr ⟨?_, List.forall_mem_map.mpr hlow⟩
  cases fs with
  | nil => exact absurd rfl hne
  | cons p fs => simpa using hlow p List.mem_cons_self

/-- A product that is not zero, by the place of its highest bit above 2^-300. -/
theorem log2_units168 {p : Bool × Nat × Int} (hp : p ∈ fs) (hm : p.2.1 ≠ 0) :
    ((Nat.log2 (units168 p).natAbs : Nat) : Int) = topExp p.2.1 p.2.2 + 300 := by
  have h := hlow p hp
  rw [natAbs_units168, log2_mul_two_pow hm, topExp]
  omega

/-- The two ways to name the largest power of two that no product exceeds agree. -/
theorem top_of_products (hnz : fs.all (fun p => p.2.1 == 0) = false) :
    ∃ M : Int, ((fs.filter fun p => p.2.1 != 0).map fun p => topExp p.2.1 p.2.2).max? = some M ∧
      ((fs.map fun p => Nat.log2 (units168 p).natAbs).foldl max 0 : Nat) = M + 300 := by
  obtain ⟨p, hp, hm⟩ : ∃ p ∈ fs, p.2.1 ≠ 0 := by simpa using hnz
  cases hmax : ((fs.filter fun p => p.2.1 != 0).map fun p => topExp p.2.1 p.2.2).max? with
  | none =>
    rw [List.max?_eq_none_iff, List.map_eq_nil_iff, List.filter_eq_nil_iff] at hmax
    exact absurd (bne_iff_ne.mpr hm) (hmax p hp)
  | some M =>
    refine ⟨M, rfl, ?_⟩
    obtain ⟨hmem, hle⟩ := List.max?_eq_some_iff.mp hmax
    obtain ⟨t, ht, rfl⟩ := List.mem_map.mp hmem
    obtain ⟨htmem, htm⟩ := List.mem_filter.mp ht
    have htop := log2_units168 hlow htmem (bne_iff_ne.mp htm)
    have hmost : (fs.map fun p => Nat.log2 (units168 p).natAbs).foldl max 0 ≤ Nat.log2 (units168 t).natAbs := by
      refine (foldl_max_le_iff ..).mpr ⟨Nat.zero_le _, ?_⟩
      simp only [List.mem_map, forall_exists_index, and_imp, forall_apply_eq_imp_iff₂]
      intro y hy
      by_cases hym : y.2.1 = 0
      · rw [units168_eq_zero.mpr hym]
        exact Nat.zero_le _
      · have hytop := log2_units168 hlow hy hym
        have hyle := hle _ (List.mem_map_of_mem (List.mem_filter.mpr ⟨hy, bne_iff_ne.mpr hym⟩))
        omega
    have hleast : Nat.log2 (units168 t).natAbs ≤ (fs.map fun p => Nat.log2 (units168 p).natAbs).foldl max 0 :=
      ((foldl_max_le_iff ..).mp le_rfl).2 _ (List.mem_map.mpr ⟨t, htmem, rfl⟩)
    omega

end

/-! ## Sums of finite products (R168 to R170) -/

/-- A multiple of 2^-300 cut toward zero at 2^-47 of the largest power of two that no product exceeds. -/
def cut168 (window : Bool) (top : Nat) (x : Int) : Int :=
  if window then x.sign * (x.natAbs / 2 ^ (top - 47) * 2 ^ (top - 47) : Nat) else x

/-- The sum that R168 to R170 round, in multiples of 2^-300. -/
def sum168 (window : Bool) (fs : List (Bool × Nat × Int)) : Int :=
  (fs.map fun p => cut168 window ((fs.map fun p => Nat.log2 (units168 p).natAbs).foldl max 0) (units168 p)).sum

/-- A sum of products that are not all zero rounds as the integer that it is at its weight. -/
theorem roundSum_sumProducts {fs : List (Bool × Nat × Int)} (q : Option Int) {u : Int} (hu : q.getD (lowExp fs) = u)
    (hnz : fs.all (fun p => p.2.1 == 0) = false) :
    roundSum (sumProducts fs q) = (roundInt .s FEnv.plain (fs.map (cutAt u)).sum u false).1 := by
  subst hu
  rw [sumProducts, if_neg (by simp [hnz])]
  exact congrArg Prod.fst (roundTo_eq_roundInt ..)

/-- Products that are all zero sum to a zero of the sign that they share (R115). -/
theorem roundSum_sumProducts_zero {fs : List (Bool × Nat × Int)} (q : Option Int) (hz : fs.all (fun p => p.2.1 == 0) = true) :
    roundSum (sumProducts fs q) = if fs.all (fun p => p.1) then 0x80000000 else 0 := by
  rw [sumProducts, if_pos hz]
  cases fs.all fun p => p.1 <;> rfl

section
variable {fs : List (Bool × Nat × Int)}

/-- Cut at a weight from 2^-300 on, the sum rounds as that of the multiples of 2^-300 that the cut leaves. -/
theorem roundInt_cut_of_high {u : Int} (hu : -300 ≤ u) {g : Int → Int}
    (hg : ∀ p ∈ fs, g (units168 p) = cutAt u p * 2 ^ (u + 300).toNat) :
    roundInt .s FEnv.plain (fs.map (cutAt u)).sum u false =
      roundInt .s FEnv.plain (fs.map fun p => g (units168 p)).sum (-300) false := by
  rw [List.map_congr_left hg, List.sum_map_mul_right, roundInt_mul_two_pow, show -300 + ((u + 300).toNat : Int) = u by omega]

variable (hlow : ∀ p ∈ fs, -300 ≤ p.2.2)
include hlow

/-- Cut at a weight below 2^-300, the sum rounds as that of the products themselves. -/
theorem roundInt_cut_of_low {u : Int} (hu : u ≤ -300) :
    roundInt .s FEnv.plain (fs.map (cutAt u)).sum u false =
      roundInt .s FEnv.plain (fs.map units168).sum (-300) false := by
  rw [List.map_congr_left fun p hp => cutAt_of_low (hlow p hp) hu, List.sum_map_mul_right, roundInt_mul_two_pow,
    show u + ((-300 - u).toNat : Int) = -300 by omega]

variable (hnz : fs.all (fun p => p.2.1 == 0) = false)
include hnz

/-- Without a window the sum is exact (R169). -/
theorem roundSum_exact : roundSum (sumProducts fs none) = (roundInt .s FEnv.plain (sum168 false fs) (-300) false).1 := by
  have hne : fs ≠ [] := by
    rintro rfl
    cases hnz
  have hu := le_lowExp hlow hne
  rw [roundSum_sumProducts none rfl hnz]
  exact congrArg Prod.fst (roundInt_cut_of_high hu fun p hp => units168_of_le hu (lowExp_le hp))

/-- With a window of 48 bits each product is cut below it (R170). -/
theorem roundSum_window :
    roundSum (sumProducts fs (((fs.filter fun p => p.2.1 != 0).map fun p => topExp p.2.1 p.2.2).max?.map (· - 47))) =
      (roundInt .s FEnv.plain (sum168 true fs) (-300) false).1 := by
  obtain ⟨M, hM, htop⟩ := top_of_products hlow hnz
  rw [hM, Option.map_some, roundSum_sumProducts (some (M - 47)) rfl hnz, sum168]
  generalize (fs.map fun p => Nat.log2 (units168 p).natAbs).foldl max 0 = top at htop
  obtain hu | hu := le_or_gt (-300) (M - 47)
  · refine congrArg Prod.fst (roundInt_cut_of_high hu fun p hp => ?_)
    rw [cutAt_of_high (hlow p hp) hu, show (M - 47 + 300).toNat = top - 47 by omega]
    rfl
  · have hcut : ∀ x, cut168 true top x = x := fun x => by
      simp [cut168, show top - 47 = 0 by omega, Int.sign_mul_abs]
    simp only [hcut]
    exact congrArg Prod.fst (roundInt_cut_of_low hlow hu.le)

end

/-! ## GroupSum (R168) -/

/-- An element whose exponent is at least -150, as that of each element of the float formats is. -/
def HighEnough (x : FVal) : Prop := ∀ neg m e, x = .fin neg m e → -150 ≤ e

theorem finiteProduct_high {p : FVal × FVal} (hx : HighEnough p.1) (hy : HighEnough p.2) : -300 ≤ (finiteProduct p).2.2 := by
  obtain ⟨x, y⟩ := p
  cases x <;> cases y
  case fin.fin a m e b n g =>
    have he := hx a m e rfl
    have hg := hy b n g rfl
    show -300 ≤ e + g
    omega
  all_goals exact (by decide : (-300 : Int) ≤ 0)

/-- The products of a set of pairs, as the unit forms them. -/
abbrev productsOf (ps : List (FVal × FVal)) : List (Option FVal) := ps.map fun p => mulExact p.1 p.2

theorem finProducts_finite {ps : List (FVal × FVal)} (hnan : ∀ p ∈ ps, nan168 p = false)
    (hinf : ∀ neg, ∀ p ∈ ps, infinite168 neg p = false) : finProducts (productsOf ps) = some (ps.map finiteProduct) := by
  unfold finProducts productsOf
  induction ps with
  | nil => rfl
  | cons p ps ih =>
    rw [List.map_cons, List.mapM_cons, ih (fun p hp => hnan p (.tail _ hp)) fun neg p hp => hinf neg p (.tail _ hp),
      mulExact_finite (hnan p List.mem_cons_self) fun neg => hinf neg p List.mem_cons_self]
    rfl

/-- GroupSum of pairs with neither a NaN nor an infinity: it depends on their products alone. -/
theorem groupSum168_finite {window : Bool} {ps : List (FVal × FVal)} (hnan : ps.any nan168 = false)
    (hinf : ∀ neg, ps.any (infinite168 neg) = false) :
    groupSum168 window ps =
      (if (ps.map finiteProduct).all fun p => p.2.1 == 0 then
        (if (ps.map finiteProduct).all fun p => p.1 then 0x80000000 else 0)
      else (roundInt .s FEnv.plain (sum168 window (ps.map finiteProduct)) (-300) false).1) := by
  have hzero : (fun p => product168 p == 0) = fun p => (finiteProduct p).2.1 == 0 := funext fun p => by
    rw [Bool.eq_iff_iff, beq_iff_eq, beq_iff_eq, product168_eq_units168, units168_eq_zero]
  have hproduct : product168 = units168 ∘ finiteProduct := funext product168_eq_units168
  unfold groupSum168
  rw [hnan, hinf false, hinf true, if_neg (by decide), if_neg (by decide), if_neg (by decide), hzero, List.all_map]
  refine ite_congr rfl (fun hz => ?_) fun _ => ?_
  · have hneg : ps.all negZero168 = (ps.map finiteProduct).all fun p => p.1 := by
      rw [Bool.eq_iff_iff, List.all_map, List.all_eq_true, List.all_eq_true]
      refine forall₂_congr fun p hp => ?_
      rw [negZero168_eq, show ((finiteProduct p).2.1 == 0) = true from List.all_eq_true.mp hz p hp]
      rfl
    rw [hneg]
  · rw [sum168, List.map_map, List.map_map, hproduct]
    rfl

/-- The unit's GroupSum, rounded, is the one of R168 to R170. -/
theorem roundSum_groupSum {window : Bool} {ps : List (FVal × FVal)} (hhigh : ∀ p ∈ ps, HighEnough p.1 ∧ HighEnough p.2) :
    roundSum (groupSum window (productsOf ps)) = groupSum168 window ps := by
  have hnone : ((productsOf ps).any fun p => p == none || p == some .nan) = ps.any nan168 := by
    rw [List.any_map]
    exact congrArg ps.any (funext mulExact_nan_iff)
  have hsome (neg : Bool) : ((productsOf ps).any fun p => p == some (.inf neg)) = ps.any (infinite168 neg) := by
    rw [List.any_map]
    exact congrArg ps.any (funext (mulExact_inf_iff neg))
  rw [groupSum, hnone, hsome, hsome]
  cases hnan : ps.any nan168
  case true => simp only [groupSum168, hnan]; rfl
  cases hup : ps.any (infinite168 false) <;> cases hdown : ps.any (infinite168 true)
  case true.true | true.false | false.true => simp only [groupSum168, hnan, hup, hdown]; rfl
  have hinf : ∀ neg, ps.any (infinite168 neg) = false := Bool.rec hup hdown
  have hfin : finProducts (productsOf ps) = some (ps.map finiteProduct) :=
    finProducts_finite (by simpa using hnan) fun neg => by simpa using hinf neg
  simp only [groupSum168_finite hnan hinf, hfin, Bool.false_eq_true, if_false, Bool.and_false]
  have hlow : ∀ p ∈ ps.map finiteProduct, -300 ≤ p.2.2 :=
    List.forall_mem_map.mpr fun p hp => finiteProduct_high (hhigh p hp).1 (hhigh p hp).2
  cases hz : (ps.map finiteProduct).all fun p => p.2.1 == 0
  · cases window
    · exact roundSum_exact hlow hz
    · exact roundSum_window hlow hz
  · exact roundSum_sumProducts_zero _ hz

end Sys2Proof.Machine
end

section
/-! SUPPORT. The elements of an accumulator tile (R164, R168 to R171): groups and blocks in their order, and where each element stands
in the tile (R156). -/

namespace Sys2Proof.Machine

/-! ## Groups and blocks in order (R169 to R171) -/

/-- The pairs from place `o` on, `n` of them. -/
def pairsFrom (a b : Nat → FVal) (o n : Nat) : List (FVal × FVal) := (List.range n).map fun t => (a (o + t), b (o + t))

theorem products_map_range (a b : Nat → FVal) (n : Nat) :
    products ((List.range n).map a) ((List.range n).map b) = productsOf (pairsFrom a b 0 n) := by
  rw [products, List.zipWith_map, List.zipWith_self, productsOf, pairsFrom, List.map_map]
  simp [Function.comp_def]

theorem take_map_range {α : Type} (a : Nat → α) (n k : Nat) : ((List.range (n + k)).map a).take n = (List.range n).map a := by
  rw [← List.map_take, List.take_range, Nat.min_eq_left (Nat.le_add_right n k)]

theorem drop_map_range {α : Type} (a : Nat → α) (n k : Nat) :
    ((List.range (n + k)).map a).drop n = (List.range k).map fun t => a (n + t) := by
  rw [List.range_add, List.map_append, List.drop_left' (by simp), List.map_map]
  rfl

theorem pairsFrom_shift (a b : Nat → FVal) (n o k : Nat) :
    pairsFrom (fun t => a (n + t)) (fun t => b (n + t)) o k = pairsFrom a b (n + o) k := by
  simp only [pairsFrom, Nat.add_assoc]

section
variable {a b : Nat → FVal} (ha : ∀ t, HighEnough (a t)) (hb : ∀ t, HighEnough (b t))
include ha hb

theorem roundSum_pairsFrom (window : Bool) (o n : Nat) :
    roundSum (groupSum window (productsOf (pairsFrom a b o n))) = groupSum168 window (pairsFrom a b o n) :=
  roundSum_groupSum (List.forall_mem_map.mpr fun _ _ => ⟨ha _, hb _⟩)

end

/-- Groups of 16 pairs, each folded into the sum (R169, R170). -/
theorem foldGroups_eq (window : Bool) (G fuel c : Nat) {a b : Nat → FVal} (ha : ∀ t, HighEnough (a t))
    (hb : ∀ t, HighEnough (b t)) (hfuel : G ≤ fuel) :
    foldGroups 16 window fuel c ((List.range (16 * G)).map a) ((List.range (16 * G)).map b) =
      (List.range G).foldl (fun c g => (fAdd .s FEnv.plain c (groupSum168 window (pairsFrom a b (16 * g) 16))).1) c := by
  induction G generalizing fuel c a b with
  | zero => cases fuel <;> rfl
  | succ G ih =>
    obtain ⟨fuel, rfl⟩ := Nat.exists_eq_add_of_le' (Nat.one_le_of_lt hfuel)
    have hne : ((List.range (16 + 16 * G)).map a).isEmpty = false := by simp
    rw [Nat.mul_succ, Nat.add_comm (16 * G) 16, foldGroups, hne, if_neg (by decide)]
    simp only [take_map_range, drop_map_range, products_map_range]
    rw [ih _ _ (fun t => ha _) (fun t => hb _) (by omega), roundSum_pairsFrom ha hb, List.range_succ_eq_map, List.foldl_cons,
      List.foldl_map]
    simp only [pairsFrom_shift, Nat.mul_zero, Nat.mul_succ, Nat.add_comm (16 * _) 16]

/-- Blocks of 128 pairs, each scaled and folded into the sum (R171). -/
theorem foldScaled_eq (sc : Nat → Nat × Nat) (Q c : Nat) {a b : Nat → FVal} (ha : ∀ t, HighEnough (a t))
    (hb : ∀ t, HighEnough (b t)) :
    foldScaled ((List.range Q).map sc) c ((List.range (128 * Q)).map a) ((List.range (128 * Q)).map b) =
      (List.range Q).foldl (fun c q => (fAdd .s FEnv.plain c (fMul .s FEnv.plain
        (groupSum168 false (pairsFrom a b (128 * q) 128)) (fMul .s FEnv.plain (sc q).1 (sc q).2).1).1).1) c := by
  induction Q generalizing sc c a b with
  | zero => rfl
  | succ Q ih =>
    rw [Nat.mul_succ, Nat.add_comm (128 * Q), List.range_succ_eq_map, List.map_cons, List.map_map, foldScaled]
    simp only [take_map_range, drop_map_range, products_map_range]
    rw [ih (sc ∘ Nat.succ) _ (fun t => ha _) (fun t => hb _), roundSum_pairsFrom ha hb, List.foldl_cons, List.foldl_map]
    simp only [pairsFrom_shift, Nat.mul_zero, Nat.mul_succ, Nat.add_comm (128 * _) 128, Function.comp_apply]

/-! ## One element (R168 to R171) -/

/-- Every finite value of the float formats has an exponent of at least -150. -/
theorem unpack_high {f : Fmt} (hf : -150 ≤ emin f - fracBits f) (b : Nat) : HighEnough (unpack f b) := by
  intro neg m e h
  obtain ⟨-, -, ⟨-, -, rfl⟩ | ⟨E, hE, -, -, rfl⟩⟩ := unpack_fin h
  · exact hf
  · unfold emin at hf
    omega

/-- The formats of a float class reach no further down. -/
theorem mclass_high {f g : Fmt} (hsome : (mclass f g).isSome = true) (hne : mclass f g ≠ some .integer) :
    -150 ≤ emin f - fracBits f ∧ -150 ≤ emin g - fracBits g := by
  revert hsome hne
  fun_cases mclass f g
  case case12 => exact fun h => nomatch h
  all_goals decide

/-- What the descriptor's check settles (R160). -/
theorem class_and_depth_of_mfmtOk {d : Word} (h : mfmtOk d = true) :
    (mclass (mfa d) (mfb d)).isSome = true ∧ mdepth d % 16 = 0 ∧ (mscaled d = true → mdepth d % 128 = 0) := by
  unfold mfmtOk at h
  simp only [Bool.and_eq_true, beq_iff_eq, Bool.or_eq_true, Bool.not_eq_true'] at h
  obtain ⟨⟨⟨⟨⟨⟨⟨⟨⟨⟨-, hclass⟩, -⟩, -⟩, -⟩, -⟩, hdepth⟩, hscaled⟩, -⟩, -⟩, -⟩ := h
  exact ⟨hclass, hdepth, fun h => hscaled.resolve_left (by simp [h])⟩

/-- Scales of each block of 128 places (R171). -/
def mscales (d : Word) : Nat := if mscaled d then mdepth d / 128 else 0

/-- Row i of A, column j of B and the scales of row i, from the operand values by position. -/
def rowOf (d : Word) (val : Nat → Nat) (i : Nat) : List Nat := (List.range (mdepth d)).map fun x => val (i * mdepth d + x)

def columnOf (d : Word) (val : Nat → Nat) (j : Nat) : List Nat :=
  (List.range (mdepth d)).map fun x => val (16 * mdepth d + x * 32 + j)

def scalesOf (d : Word) (val : Nat → Nat) (i : Nat) : List (Nat × Nat) := (List.range (mscales d)).map fun b =>
  (val (48 * mdepth d + i * mscales d + b), val (48 * mdepth d + 16 * mscales d + b))

/-- An element of an integer class gains the exact sum of its products, modulo 2^32 (R168). -/
theorem mmaElement_integer {d : Word} (hint : mclass (mfa d) (mfb d) = some .integer) (val : Nat → Nat) (c i j : Nat)
    (sc : List (Nat × Nat)) :
    ((mmaElement d c (rowOf d val i) (columnOf d val j) sc : Nat) : Int) =
      ((c : Int) + ((List.range (mdepth d)).map fun x => intVal (mfa d) (val (i * mdepth d + x)) *
        intVal (mfb d) (val (16 * mdepth d + x * 32 + j))).sum) % 2 ^ 32 := by
  rw [mmaElement, hint, rowOf, columnOf, List.zipWith_map, List.zipWith_self]
  exact Int.toNat_of_nonneg (Int.emod_nonneg _ (by decide))

/-- An element of a float class folds the sums of its groups or of its scaled blocks in order (R169 to R171). -/
theorem mmaElement_float {d : Word} (hok : mfmtOk d = true) (hne : mclass (mfa d) (mfb d) ≠ some .integer) (val : Nat → Nat)
    (c i j : Nat) :
    mmaElement d c (rowOf d val i) (columnOf d val j) (scalesOf d val i) = mmaFloat d val i j c := by
  obtain ⟨hsome, h16, h128⟩ := class_and_depth_of_mfmtOk hok
  obtain ⟨hA, hB⟩ := mclass_high hsome hne
  have ha (t : Nat) : HighEnough (unpack (mfa d) (val (i * mdepth d + t))) := unpack_high hA _
  have hb (t : Nat) : HighEnough (unpack (mfb d) (val (16 * mdepth d + t * 32 + j))) := unpack_high hB _
  obtain ⟨k, hk⟩ := Option.isSome_iff_exists.mp hsome
  have hk' : k ≠ .integer := fun h => hne (h ▸ hk)
  have hvalues : mmaElement d c (rowOf d val i) (columnOf d val j) (scalesOf d val i) =
      if mscaled d then foldScaled (scalesOf d val i) c ((rowOf d val i).map (unpack (mfa d)))
        ((columnOf d val j).map (unpack (mfb d)))
      else foldGroups 16 (k == .float16) (rowOf d val i).length c ((rowOf d val i).map (unpack (mfa d)))
        ((columnOf d val j).map (unpack (mfb d))) := by
    rw [mmaElement, hk]
    cases k with
    | integer => exact absurd rfl hk'
    | float8 | float4 | float16 => rfl
  rw [hvalues, rowOf, columnOf, List.map_map, List.map_map, List.length_map, List.length_range, mmaFloat]
  cases hscaled : mscaled d
  · rw [if_neg (by decide), if_neg (by decide), hk]
    have hfold := foldGroups_eq (k == .float16) (mdepth d / 16) (mdepth d) c ha hb (Nat.div_le_self ..)
    rw [Nat.mul_div_cancel' (Nat.dvd_of_mod_eq_zero h16)] at hfold
    exact hfold
  · have hfold := foldScaled_eq (fun q => (val (48 * mdepth d + i * mscales d + q), val (48 * mdepth d + 16 * mscales d + q)))
      (mscales d) c ha hb
    have hscales : mscales d = mdepth d / 128 := if_pos hscaled
    rw [if_pos rfl, if_pos rfl, ← hscales]
    rw [hscales, Nat.mul_div_cancel' (Nat.dvd_of_mod_eq_zero (h128 hscaled)), ← hscales] at hfold
    exact hfold

/-- The sums stay within 32 bits. -/
theorem foldl_fAdd_lt {α : Type} (g : Nat → α → Nat) (xs : List α) {c : Nat} (hc : c < 2 ^ 32) :
    xs.foldl (fun c x => (fAdd .s FEnv.plain c (g c x)).1) c < 2 ^ 32 := by
  induction xs generalizing c with
  | nil => exact hc
  | cons x xs ih => exact ih (fAdd_single_lt ..)

theorem mmaFloat_lt (d : Word) (val : Nat → Nat) (i j : Nat) {c : Nat} (hc : c < 2 ^ 32) : mmaFloat d val i j c < 2 ^ 32 := by
  unfold mmaFloat
  dsimp only
  split
  · exact foldl_fAdd_lt (fun _ _ => _) _ hc
  · exact foldl_fAdd_lt (fun _ _ => _) _ hc

theorem mmaElement_integer_lt {d : Word} (hint : mclass (mfa d) (mfb d) = some .integer) (c : Nat) (as bs : List Nat)
    (sc : List (Nat × Nat)) : mmaElement d c as bs sc < 2 ^ 32 := by
  rw [mmaElement, hint]
  exact (Int.toNat_lt_of_ne_zero (by decide)).mpr (Int.emod_lt_of_pos _ (by decide))

/-! ## The tile (R156, R164) -/

/-- Rows of equal length one after another, by place. -/
theorem flatMap_map_range {α : Type} (g : Nat → Nat → α) (n k : Nat) :
    ((List.range n).flatMap fun i => (List.range k).map (g i)) = (List.range (k * n)).map fun e => g (e / k) (e % k) := by
  induction n with
  | zero => simp
  | succ n ih =>
    rw [List.range_succ, List.flatMap_append, ih, Nat.mul_succ, List.range_add, List.map_append, List.map_map]
    simp only [List.flatMap_cons, List.flatMap_nil, List.append_nil]
    refine congrArg _ (List.map_congr_left fun e he => ?_)
    have he : e < k := List.mem_range.mp he
    simp only [Function.comp_apply]
    rw [Nat.mul_add_div (by omega), Nat.div_eq_of_lt he, Nat.mul_add_mod, Nat.mod_eq_of_lt he, Nat.add_zero]

/-- A field of a bit vector made of a number is the number's, where it lies within the vector. -/
theorem toNat_ofNat_field {N a w : Nat} (h : a + w ≤ N) (x : Nat) :
    (BitVec.ofNat N x).toNat / 2 ^ a % 2 ^ w = x / 2 ^ a % 2 ^ w := by
  rw [BitVec.toNat_ofNat, show N = a + (N - a) by omega, pow_add, Nat.mod_mul_right_div_self,
    Nat.mod_mod_of_dvd _ (Nat.pow_dvd_pow 2 (by omega))]

/-- An element of a tile, its bits. -/
abbrev tileElement (t : BitVec 16384) (i j : Nat) : Nat := t.toNat / 2 ^ (32 * (32 * i + j)) % 2 ^ 32

/-- Element (i, j) of the new tile comes from the old one, row i of A, column j of B and the scales of the row. -/
theorem tileElement_mmaTile (d : Word) (acc : BitVec 16384) (vals : Array Nat) {i j : Nat} (hi : i < 16) (hj : j < 32) :
    tileElement (mmaTile d acc vals) i j = mmaElement d (tileElement acc i j) (rowOf d (vals.getD · 0) i)
      (columnOf d (vals.getD · 0) j) (scalesOf d (vals.getD · 0) i) % 2 ^ 32 := by
  unfold mmaTile
  dsimp only
  rw [tileElement, toNat_ofNat_field (by omega), ← Nat.shiftRight_eq_div_pow, lanesNat_shiftRight, flatMap_map_range,
    getD_map_range _ _ (by omega), Nat.mul_add_div (by decide), Nat.div_eq_of_lt hj, Nat.mul_add_mod, Nat.mod_eq_of_lt hj]
  rfl

end Sys2Proof.Machine
end

section
/-! SUPPORT. What an operation of the matrix unit has read (R167), the tiles of its core, its end (R158, R177) and the granules of a
store (R176). -/

namespace Sys2Proof.Machine

/-! ## Operands that have been read (R164, R167) -/

/-- What an operation has read at a position; padding is 0. -/
def MOp.value (m : MOp) (pos : Nat) : Nat := ((m.got.lookup pos).map (·.toNat)).getD 0

/-- Every operand element that has a place has been read. -/
abbrev MOp.AllRead (m : MOp) : Prop := ∀ pos l w, m.operands[pos]? = some (some l, w) → m.got.lookup pos ≠ none

/-- Nothing is left to read: the values are those read before. -/
theorem readRest_of_got (s : State) (m : MOp) (ls : List (Option Loc × Nat)) (pos : Nat) (acc : List Nat)
    (h : ∀ i l w, ls[i]? = some (some l, w) → m.got.lookup (pos + i) ≠ none) :
    s.readRest m ls pos acc = (acc.reverse ++ (List.range ls.length).map fun i => m.value (pos + i), s) := by
  induction ls generalizing pos acc with
  | nil => simp [State.readRest]
  | cons x ls ih =>
    obtain ⟨l, n⟩ := x
    have hrest (v : Nat) (hv : m.value pos = v) : s.readRest m ls (pos + 1) (v :: acc) =
        (acc.reverse ++ (List.range ((l, n) :: ls).length).map fun i => m.value (pos + i), s) := by
      rw [ih (pos + 1) _ fun i l w hi => by rw [Nat.add_assoc, Nat.add_comm 1]; exact h (i + 1) l w hi, List.length_cons,
        List.range_succ_eq_map, List.map_cons, List.map_map, ← hv]
      simp [Function.comp_def, Nat.add_comm, Nat.add_left_comm]
    cases hv : m.got.lookup pos with
    | some v =>
      unfold State.readRest
      rw [hv]
      exact hrest v.toNat (by simp [MOp.value, hv])
    | none =>
      cases l with
      | some l => exact absurd hv (h 0 l n rfl)
      | none =>
        unfold State.readRest
        rw [hv]
        exact hrest 0 (by simp [MOp.value, hv])

section
variable {s : State} {m : MOp} (hread : m.AllRead)
include hread

theorem readRest_operands : s.readRest m m.operands 0 [] = ((List.range m.operands.length).map m.value, s) := by
  rw [readRest_of_got s m m.operands 0 [] fun i l w hi => by rw [Nat.zero_add]; exact hread i l w hi]
  simp

/-- With nothing left to read, no bank is busy for the operation. -/
theorem readsBusy_of_allRead : s.readsBusy m = false := by
  rw [State.readsBusy, List.any_eq_false]
  rintro ⟨⟨l, w⟩, pos⟩ hx
  cases l with
  | none => simp
  | some l =>
    have h := hread pos l w (List.mem_zipIdx_iff_getElem?.mp hx)
    simp [Option.isNone_iff_eq_none, h]

end

/-- The tile that an MMA leaves depends on the values at the positions of its operands. -/
theorem tileElement_mma {m : MOp} {n : Fin 2} {a b sa sb : List (Option Loc)} (hk : m.kind = .mma n a b sa sb)
    (ha : a.length = 16 * mdepth m.fmt) (hb : b.length = 32 * mdepth m.fmt) (acc : BitVec 16384) {i j : Nat}
    (hi : i < 16) (hj : j < 32) :
    ∃ sc, tileElement (mmaTile m.fmt acc ((List.range m.operands.length).map m.value).toArray) i j =
        mmaElement m.fmt (tileElement acc i j) (rowOf m.fmt m.value i) (columnOf m.fmt m.value j) sc % 2 ^ 32 ∧
      ((mscaled m.fmt = true → sa.length = 16 * (mdepth m.fmt / 128) ∧ sb.length = mdepth m.fmt / 128) →
        sc = scalesOf m.fmt m.value i) := by
  have hlen : m.operands.length = 48 * mdepth m.fmt + sa.length + sb.length := by
    simp [MOp.operands, hk, ha, hb]
    omega
  have hval {p : Nat} (hp : p < m.operands.length) :
      ((List.range m.operands.length).map m.value).toArray.getD p 0 = m.value p := by
    simp [Array.getD, hp]
  have hrow : rowOf m.fmt (((List.range m.operands.length).map m.value).toArray.getD · 0) i = rowOf m.fmt m.value i := by
    refine List.map_congr_left fun x hx => hval ?_
    have hx := List.mem_range.mp hx
    have hi' : i * mdepth m.fmt ≤ 15 * mdepth m.fmt := Nat.mul_le_mul_right _ (by omega)
    omega
  have hcol : columnOf m.fmt (((List.range m.operands.length).map m.value).toArray.getD · 0) j = columnOf m.fmt m.value j := by
    refine List.map_congr_left fun x hx => hval ?_
    have hx := List.mem_range.mp hx
    omega
  refine ⟨_, by rw [tileElement_mmaTile _ _ _ hi hj, hrow, hcol], fun hscales => ?_⟩
  refine List.map_congr_left fun x hx => ?_
  have hx := List.mem_range.mp hx
  obtain ⟨hsa, hsb⟩ : sa.length = 16 * mscales m.fmt ∧ sb.length = mscales m.fmt := by
    unfold mscales at hx ⊢
    split at hx
    · next hscaled => rw [if_pos hscaled]; exact hscales hscaled
    · exact absurd hx (Nat.not_lt_zero x)
  have hi' : i * mscales m.fmt ≤ 15 * mscales m.fmt := Nat.mul_le_mul_right _ (by omega)
  exact Prod.ext (hval (by omega)) (hval (by omega))

/-! ## The tiles of a core (R156) -/

@[simp] theorem CoreSt.setAcc_phys (k : CoreSt) (n : Fin 2) (v : BitVec 16384) : (k.setAcc n v).phys = k.phys := by
  unfold CoreSt.setAcc; split <;> rfl
@[simp] theorem CoreSt.setAcc_core (k : CoreSt) (n : Fin 2) (v : BitVec 16384) : (k.setAcc n v).core = k.core := by
  unfold CoreSt.setAcc; split <;> rfl
@[simp] theorem CoreSt.setAcc_mq (k : CoreSt) (n : Fin 2) (v : BitVec 16384) : (k.setAcc n v).mq = k.mq := by
  unfold CoreSt.setAcc; split <;> rfl

theorem CoreSt.acc_setAcc (k : CoreSt) (n n' : Fin 2) (v : BitVec 16384) :
    (k.setAcc n v).acc n' = if n' = n then v else k.acc n' := by
  unfold CoreSt.setAcc CoreSt.acc
  fin_cases n <;> fin_cases n' <;> rfl

/-! ## The end of an operation (R156, R158, R177) -/

@[simp] theorem answerMwaits_cores (s : State) (id : Nat) (st : Stamp) (l : Nat) : (s.answerMwaits id st l).cores = s.cores := by
  unfold State.answerMwaits
  refine foldl_keeps State.cores _ (fun s p => ?_) s _
  (repeat' split) <;> rfl

@[simp] theorem answerMwaits_clusters (s : State) (id : Nat) (st : Stamp) (l : Nat) :
    (s.answerMwaits id st l).clusters = s.clusters := by
  unfold State.answerMwaits
  refine foldl_keeps State.clusters _ (fun s p => ?_) s _
  (repeat' split) <;> rfl

/-- The core without an operation of its queue. -/
def CoreSt.dequeue (k : CoreSt) (id : Nat) : CoreSt := { k with mq := k.mq.filter fun x => x.id != id }

theorem CoreSt.dequeue_acc (k : CoreSt) (id : Nat) (n : Fin 2) : (k.dequeue id).acc n = k.acc n := rfl

/-- The cluster with its array empty. -/
def Cluster.emptied (k : Cluster) : Cluster := { k with array := none }

section
variable (s : State) (phys c : Nat) (m : MOp)

theorem finishOp_cores : (s.finishOp phys c m).cores = (s.updCore phys c (·.dequeue m.id)).cores := by
  unfold State.finishOp
  dsimp only
  split
  · simp only [State.liftFences_cores, answerMwaits_cores, State.stampGroup_cores, State.updCluster_cores]
    rfl
  · simp only [State.liftFences_cores, answerMwaits_cores, State.updCluster_cores]
    rfl

theorem finishOp_clusters : (s.finishOp phys c m).clusters =
    ((s.updCore phys c (·.dequeue m.id)).updCluster phys Cluster.emptied).clusters := by
  unfold State.finishOp
  dsimp only
  split
  · simp only [State.liftFences_clusters, answerMwaits_clusters, State.stampGroup_clusters]
    rfl
  · simp only [State.liftFences_clusters, answerMwaits_clusters]
    rfl

/-- A finished operation leaves its core's queue. -/
theorem finishOp_coreAt : (s.finishOp phys c m).coreAt phys c = (s.coreAt phys c).dequeue m.id := by
  rw [coreAt_of_cores (finishOp_cores ..), coreAt_updCore _ _ _ _ _ (·.dequeue m.id) fun _ => ⟨rfl, rfl⟩,
    if_pos ⟨rfl, rfl⟩]

/-- A finished operation leaves the array. -/
theorem finishOp_array : ((s.finishOp phys c m).clusterAt phys).array = none := by
  rw [clusterAt_of_clusters (finishOp_clusters ..), clusterAt_updCluster_same (f := Cluster.emptied) _ _ fun _ => rfl]
  rfl

/-- An operation leaves a tile of its core and is finished. -/
def State.replaceTile (n : Fin 2) (v : BitVec 16384) : State := (s.updCore phys c (·.setAcc n v)).finishOp phys c m

theorem replaceTile_coreAt (n : Fin 2) (v : BitVec 16384) :
    (s.replaceTile phys c m n v).coreAt phys c = ((s.coreAt phys c).setAcc n v).dequeue m.id := by
  rw [State.replaceTile, finishOp_coreAt, coreAt_updCore _ _ _ _ _ (·.setAcc n v) fun _ => by simp, if_pos ⟨rfl, rfl⟩]

theorem replaceTile_acc (n n' : Fin 2) (v : BitVec 16384) :
    ((s.replaceTile phys c m n v).coreAt phys c).acc n' = if n' = n then v else (s.coreAt phys c).acc n' := by
  rw [replaceTile_coreAt, CoreSt.dequeue_acc, CoreSt.acc_setAcc]

theorem replaceTile_mq (n : Fin 2) (v : BitVec 16384) : ((s.replaceTile phys c m n v).coreAt phys c).mq =
    (s.coreAt phys c).mq.filter fun x => x.id != m.id := by
  rw [replaceTile_coreAt, CoreSt.dequeue, CoreSt.setAcc_mq]

theorem replaceTile_mem (n : Fin 2) (v : BitVec 16384) : (s.replaceTile phys c m n v).mem = s.mem := by
  rw [State.replaceTile, finishOp_mem, State.updCore_mem]

end

/-! ## The granules of a store (R176) -/

/-- One granule write of a store. -/
def mstAccess (t : Thread) (m : MOp) (id : Nat) (l : Loc) (v : BitVec 128) : Access :=
  { id := id, uid := some t.uid, fam := t.fam?, group := t.group, ctx := t.ctx, phys := t.phys, lcl := t.lcl,
    core := t.core, order := some .rlx, scope := .cl, blocking := false, red := false, loc := l, size := 16,
    op := .mst v, phase := .sent, agedAt := none, passedBy := 0, resent := false, granted := false, queue := 0,
    cancelled := false, push := none, peer := none, handle := t.handle, stamp := m.stamp }

theorem sendMst_accs (s : State) (t : Thread) (m : MOp) (l : Loc) (v : BitVec 128) :
    (s.sendMst t m l v).accs = s.accs ++ [mstAccess t m s.fresh l v] := rfl

/-- The granules leave in order, each with one access. -/
theorem foldl_sendMst_accs (t : Thread) (m : MOp) (gs : List (Loc × BitVec 128)) (s : State) :
    ∃ as, (gs.foldl (fun s x => s.sendMst t m x.1 x.2) s).accs = s.accs ++ as ∧ as.map (·.loc) = gs.map (·.1) ∧
      ∀ a ∈ as, a.uid = some t.uid ∧ a.size = 16 ∧ a.phase = .sent ∧ ∃ v, a.op = .mst v := by
  induction gs generalizing s with
  | nil => exact ⟨[], by simp⟩
  | cons x gs ih =>
    obtain ⟨as, haccs, hlocs, hall⟩ := ih (s.sendMst t m x.1 x.2)
    refine ⟨mstAccess t m s.fresh x.1 x.2 :: as, ?_, by rw [List.map_cons, List.map_cons, hlocs]; rfl, ?_⟩
    · rw [List.foldl_cons, haccs, sendMst_accs, List.append_assoc, List.singleton_append]
    · exact List.forall_mem_cons.mpr ⟨⟨rfl, rfl, rfl, x.2, rfl⟩, hall⟩

end Sys2Proof.Machine
end

section
/-! SUPPORT. MATRIX_OP_START and MATRIX_OP_COMPLETE (R158, R164 to R166, R175, R176): what each does with an operation of each kind. -/

namespace Sys2Proof.Machine

/-! ## MATRIX_OP_START (R158) -/

section
variable {s : State} {phys c : Nat} {m : MOp} {rest : List MOp}

/-- A head that is ready needs no translations again. -/
theorem restage_of_staged (hq : (s.coreAt phys c).mq = m :: rest) (hm : m.staged = true) : s.restage phys c = s := by
  have hready : m.stage = .ready := beq_iff_eq.mp (Bool.and_eq_true_iff.mp hm).1
  unfold State.restage
  rw [hq]
  simp [hready]

theorem matrixOpStart_of_staged (hq : (s.coreAt phys c).mq = m :: rest) (hm : m.staged = true)
    (harray : (s.clusterAt phys).array = none) (hrun : (s.clusterAt phys).stopped = false)
    (hpower : (s.clusterAt phys).matPt ≠ .gated) (hturn : s.nextMatrixCore phys = some c) :
    exec (.matrixOpStart phys c []) s = .next (s.updCluster phys fun k => { k with array := some (c, m.id), mlast := c }) := by
  show execMatrixOpStart phys c [] s = _
  unfold execMatrixOpStart
  simp only [hrun, restage_of_staged hq hm, List.foldl_nil, hq, harray, hm, hturn]
  simp [hpower]

end

/-! ## MATRIX_OP_COMPLETE (R164 to R166, R175, R176) -/

/-- A tile whose new bits come from the core that it stands in. -/
theorem replaceTile_of_core (s : State) (phys c : Nat) (m : MOp) (n : Fin 2) (g : CoreSt → BitVec 16384) :
    (s.updCore phys c fun k => k.setAcc n (g k)).finishOp phys c m = s.replaceTile phys c m n (g (s.coreAt phys c)) := rfl

/-- The operation is in the array and in its core's queue. -/
structure InArray (s : State) (phys c : Nat) (m : MOp) : Prop where
  array : (s.clusterAt phys).array = some (c, m.id)
  queued : (s.coreAt phys c).mq.find? (fun x => x.id == m.id) = some m

section
variable {s : State} {phys c : Nat} {m : MOp} (h : InArray s phys c m)
include h

theorem matrixOpComplete_mz {n : Fin 2} (up : Bool) (hk : m.kind = .mz n) :
    exec (.matrixOpComplete phys up) s = .next (s.replaceTile phys c m n 0) := by
  show execMatrixOpComplete phys up s = _
  unfold execMatrixOpComplete
  simp only [h.array, h.queued, hk]
  rfl

section
variable {n : Fin 2} {a b sa sb : List (Option Loc)} (hk : m.kind = .mma n a b sa sb) (hread : m.AllRead)
include hk hread

theorem matrixOpComplete_mma : exec (.matrixOpComplete phys false) s = .next (s.replaceTile phys c m n
    (mmaTile m.fmt ((s.coreAt phys c).acc n) ((List.range m.operands.length).map m.value).toArray)) := by
  show execMatrixOpComplete phys false s = _
  unfold execMatrixOpComplete
  simp only [h.array, h.queued, hk, readsBusy_of_allRead hread, readRest_operands hread, Bool.false_eq_true, if_false]
  exact congrArg Host.Outcome.next
    (replaceTile_of_core s phys c m n fun k => mmaTile m.fmt (k.acc n) ((List.range m.operands.length).map m.value).toArray)

theorem matrixOpComplete_upset : exec (.matrixOpComplete phys true) s = .next (s.datapathFault phys c m) := by
  show execMatrixOpComplete phys true s = _
  unfold execMatrixOpComplete
  simp only [h.array, h.queued, hk, readsBusy_of_allRead hread, Bool.false_eq_true, if_false, if_true]

/-- The operation leaves its core's queue and the array, and each element of its tile is what `mmaElement` gives. -/
theorem matrixOpComplete_mma_elements (ha : a.length = 16 * mdepth m.fmt) (hb : b.length = 32 * mdepth m.fmt) :
    ∃ s', exec (.matrixOpComplete phys false) s = .next s' ∧ (s'.clusterAt phys).array = none ∧
      (s'.coreAt phys c).mq = (s.coreAt phys c).mq.filter (fun x => x.id != m.id) ∧ s'.mem = s.mem ∧
      ∀ i < 16, ∀ j < 32, ∃ sc, tileElement ((s'.coreAt phys c).acc n) i j =
          mmaElement m.fmt (tileElement ((s.coreAt phys c).acc n) i j) (rowOf m.fmt m.value i) (columnOf m.fmt m.value j) sc %
            2 ^ 32 ∧
        ((mscaled m.fmt = true → sa.length = 16 * (mdepth m.fmt / 128) ∧ sb.length = mdepth m.fmt / 128) →
          sc = scalesOf m.fmt m.value i) := by
  refine ⟨_, matrixOpComplete_mma h hk hread, finishOp_array .., replaceTile_mq .., replaceTile_mem .., fun i hi j hj => ?_⟩
  rw [replaceTile_acc, if_pos rfl]
  exact tileElement_mma hk ha hb _ hi hj

end

end

/-- The first parts of a zip, cut where the second list ends. -/
theorem map_fst_zip_eq_take {α β : Type} (xs : List α) (ys : List β) : (xs.zip ys).map (·.1) = xs.take ys.length := by
  induction xs generalizing ys with
  | nil => simp
  | cons x xs ih => cases ys <;> simp [ih]

/-- A datapath fault is counted against the cluster, reported, and charged to the context of the operation's owner. -/
theorem datapathFault_of_owner {s : State} {m : MOp} {t : Thread} (phys c : Nat) (ht : s.thread? m.uid = some t) :
    ∃ ctx detail rep f, f.code = 0x46 ∧ s.datapathFault phys c m =
      (((s.updCluster phys Cluster.emptied).countFault phys).report (clusterId phys) 5 ctx detail).contextFault t.ctx rep f := by
  have hthreads : ((s.updCluster phys Cluster.emptied).countFault phys).threads = s.threads := by
    rw [State.countFault, State.updCluster_threads, State.updCluster_threads]
  have ht' : ((s.updCluster phys fun k => { k with array := none }).countFault phys).thread? m.uid = some t := by
    rw [← ht]
    exact congrArg (List.find? fun t => t.uid == m.uid) hthreads
  unfold State.datapathFault
  dsimp only
  rw [ht']
  exact ⟨_, _, _, _, rfl, rfl⟩

theorem contextFault_cores (s : State) (ctx : Nat) (rep : Option Nat) (f : FaultRec) :
    (s.contextFault ctx rep f).cores = s.cores := by
  obtain ⟨h, -⟩ | ⟨o, e, q, h⟩ := contextFault_shape s ctx rep f <;> rw [h]

/-- A fault of a context leaves what is in each array. -/
theorem contextFault_array (s : State) (ctx phys : Nat) (rep : Option Nat) (f : FaultRec) :
    ((s.contextFault ctx rep f).clusterAt phys).array = (s.clusterAt phys).array := by
  obtain h | h := contextFault_clusterAt s ctx phys rep f
  · rw [h]
  · rw [h, stopHeld]
    split <;> rfl

/-- A datapath fault empties the array, freezes the owner's context and leaves every core as it was (R166). -/
theorem datapathFault_charges {s : State} {m : MOp} {t : Thread} {x : Context} (phys c : Nat)
    (ht : s.thread? m.uid = some t) (hx : s.ctx? t.ctx = some x) (hfree : x.freeze = none) :
    FrozenBy (s.datapathFault phys c m) t.ctx 0x46 ∧ (s.datapathFault phys c m).cores = s.cores ∧
      ((s.datapathFault phys c m).clusterAt phys).array = none := by
  obtain ⟨ctx, detail, rep, f, hcode, hfault⟩ := datapathFault_of_owner phys c ht
  rw [hfault, contextFault_cores, contextFault_array, report_clusterAt, State.report_cores, State.countFault,
    State.updCluster_cores, State.updCluster_cores, ← State.countFault, countFault_clusterAt, if_pos rfl,
    clusterAt_updCluster_same (f := Cluster.emptied) _ _ fun _ => rfl]
  refine ⟨?_, rfl, rfl⟩
  rw [← hcode]
  refine frozenBy_contextFault rep f ?_ hfree
  rw [← hx]
  refine congrArg (List.find? fun c : Context => c.id == t.ctx) ?_
  rw [State.report_ctxs, State.countFault, State.updCluster_ctxs, State.updCluster_ctxs]

section
variable {s : State} {phys c : Nat} {m : MOp} {n : Fin 2} {dst : List Loc} {d : Word} {draws : List (BitVec 32)}
  (h : InArray s phys c m) (hk : m.kind = .mst n dst d draws)
include h hk

/-- A store whose granules have not been sent sends them. -/
theorem matrixOpComplete_mst_sends {t : Thread} (up : Bool) (hsent : m.sent = false) (ht : s.thread? m.uid = some t) :
    exec (.matrixOpComplete phys up) s = .next
      (((dst.zip (mstGranules d (mstValues m.fmt d ((s.coreAt phys c).acc n) draws))).foldl
        (fun s x => s.sendMst t m x.1 x.2) s).updOp phys c m.id fun m => { m with sent := true }) := by
  show execMatrixOpComplete phys up s = _
  unfold execMatrixOpComplete
  simp only [h.array, h.queued, hk, hsent, ht, Bool.false_eq_true, if_false]

/-- A store whose granules have all been performed is finished. -/
theorem matrixOpComplete_mst_done (up : Bool) (hsent : m.sent = true)
    (hout : ∀ a ∈ s.accs, a.uid = some m.uid → ∀ v, a.op ≠ .mst v) :
    exec (.matrixOpComplete phys up) s = .next (s.finishOp phys c m) := by
  have hnone : s.mstOut m = false := by
    rw [State.mstOut, List.any_eq_false]
    intro a ha
    rw [Bool.and_eq_true, beq_iff_eq]
    rintro ⟨huid, hop⟩
    split at hop
    · next v hv => exact hout a ha huid v hv
    · cases hop
  show execMatrixOpComplete phys up s = _
  unfold execMatrixOpComplete
  simp only [h.array, h.queued, hk, hsent, hnone, Bool.false_eq_true, if_false, if_true]

end

/-- Settles O43: each operation by what the lemmas above say of it, an MMA element by element. -/
theorem matrixUnitOperations : Obligations.MatrixUnitOperations := by
  intro s phys c m
  refine ⟨fun rest hq hm harray hrun hpower hturn => matrixOpStart_of_staged hq hm harray hrun hpower hturn,
    fun harray hqueued => ?_⟩
  have h : InArray s phys c m := ⟨harray, hqueued⟩
  refine ⟨fun n up hk => ?_, fun n a b sa sb hk hint hread ha hb => ?_, fun n a b sa sb hk hok hne hread ha hb hscales => ?_,
    fun n a b sa sb t x hk ht hx hfree hread => ?_, fun n dst d draws t up hk hsent ht => ?_,
    fun n dst d draws up hk hsent hout => ?_⟩
  · refine ⟨_, matrixOpComplete_mz h up hk, ?_, fun k hne => ?_, replaceTile_mq .., finishOp_array .., replaceTile_mem ..⟩
    · rw [replaceTile_acc, if_pos rfl]
    · rw [replaceTile_acc, if_neg hne]
  · obtain ⟨s', he, harray', hmq, hmem, helem⟩ := matrixOpComplete_mma_elements h hk hread ha hb
    refine ⟨s', he, harray', hmq, hmem, fun i hi j hj => ?_⟩
    obtain ⟨sc, hsc, -⟩ := helem i hi j hj
    have hsum := hsc.trans (Nat.mod_eq_of_lt (mmaElement_integer_lt hint ..))
    exact (congrArg Nat.cast hsum).trans (mmaElement_integer hint m.value _ i j sc)
  · obtain ⟨s', he, harray', hmq, hmem, helem⟩ := matrixOpComplete_mma_elements h hk hread ha hb
    refine ⟨s', he, harray', hmq, hmem, fun i hi j hj => ?_⟩
    obtain ⟨sc, hsc, hof⟩ := helem i hi j hj
    rw [hof hscales, mmaElement_float hok hne] at hsc
    exact hsc.trans (Nat.mod_eq_of_lt (mmaFloat_lt _ _ _ _ (Nat.mod_lt _ (Nat.two_pow_pos 32))))
  · obtain ⟨hfrozen, hcores, hempty⟩ := datapathFault_charges phys c ht hx hfree
    exact ⟨_, matrixOpComplete_upset h hk hread, hfrozen, congrArg (CoreSt.acc · n) (coreAt_of_cores hcores ..), hempty⟩
  · obtain ⟨as, haccs, hlocs, hall⟩ :=
      foldl_sendMst_accs t m (dst.zip (mstGranules d (mstValues m.fmt d ((s.coreAt phys c).acc n) draws))) s
    refine ⟨_, as, matrixOpComplete_mst_sends h hk up hsent ht, (State.updCore_accs ..).trans haccs, ?_, ?_, hall⟩
    · rw [updOp_mem, foldl_mem fun s x => sendMst_mem ..]
    · rw [hlocs]
      exact map_fst_zip_eq_take ..
  · exact ⟨_, matrixOpComplete_mst_done h hk up hsent hout, finishOp_array .., congrArg CoreSt.mq (finishOp_coreAt ..)⟩

end Sys2Proof.Machine
end

section
/-! SUPPORT. Lists of cells put into the memory (R356): what a byte reads as after cells have been put, after an area has been
copied, and in a slice. -/

namespace Sys2Proof.Machine

namespace Mem

/-- A byte that none of the cells put names reads as before. -/
theorem get_setCells_of_forall_ne {m cs : List Host.Cell} {x : Nat} (h : wf m = true) (hcs : ∀ c ∈ cs, c.1 ≠ x) :
    get (setCells m cs) x = get m x := by
  induction cs generalizing m with
  | nil => rfl
  | cons c cs ih =>
    rw [setCells, ih (wf_set h) fun d hd => hcs d (.tail _ hd), get_set h, if_neg (Ne.symm (hcs c (.head _)))]

/-- Cells in canonical form put into a memory: a byte that they hold reads as theirs, every other as before. -/
theorem get_setCells_of_wfFrom {m cs : List Host.Cell} {lo : Nat} (h : wf m = true) (hcs : wfFrom lo cs = true) (x : Nat) :
    get (setCells m cs) x = if get cs x = unlisted then get m x else get cs x := by
  induction cs generalizing m lo with
  | nil => rfl
  | cons c cs ih =>
    obtain ⟨k, v⟩ := c
    simp only [wfFrom, Bool.and_eq_true, bne_iff_ne, ne_eq] at hcs
    obtain ⟨⟨-, hv⟩, hrest⟩ := hcs
    rw [setCells, ih (wf_set h) hrest, get_set h]
    rcases Nat.lt_trichotomy x k with hlt | rfl | hgt
    · simp [get, get_of_lt hrest (show x < k + 1 by omega), hlt, Nat.ne_of_lt hlt, Nat.ne_of_gt hlt]
    · simp [get, get_of_lt hrest (Nat.lt_succ_self x), hv]
    · simp [get, Nat.ne_of_lt hgt, Nat.ne_of_gt hgt, Nat.not_lt_of_gt hgt]

/-- Bytes beyond an area that is written anew read as before. -/
theorem get_setCells_clear_of_le {m cs : List Host.Cell} {lo n x : Nat} (h : wf m = true) (hx : lo + n ≤ x)
    (hcs : ∀ c ∈ cs, c.1 < lo + n) : get (setCells (clear m lo n) cs) x = get m x := by
  rw [get_setCells_of_forall_ne (wf_clear h) fun c hc => Nat.ne_of_lt (Nat.lt_of_lt_of_le (hcs c hc) hx), get_clear h,
    if_neg (by omega)]

theorem get_slice {m : List Host.Cell} {lo n x : Nat} (h : wf m = true) (hlo : lo ≤ x) (hhi : x < lo + n) :
    get (slice m lo n) x = get m x := by
  rw [slice, get_filter (fun k => decide (lo ≤ k) && decide (k < lo + n)) 0 h x]
  simp [hlo, hhi]

theorem le_of_mem_slice {m : List Host.Cell} {lo n : Nat} {c : Host.Cell} (hc : c ∈ slice m lo n) : lo ≤ c.1 ∧ c.1 < lo + n := by
  simpa [slice] using (List.mem_filter.mp hc).2

/-- Cells that follow with larger keys do not change what a byte reads as. -/
theorem get_append_of_lt {a b : List Host.Cell} {x : Nat} (hb : ∀ c ∈ b, x < c.1) : get (a ++ b) x = get a x := by
  induction a with
  | nil => exact get_of_forall_ne fun c hc => Nat.ne_of_gt (hb c hc)
  | cons c a ih => rw [List.cons_append, get, get, ih]

/-- Strings of bytes put below a place leave its byte as it was. -/
theorem get_foldl_setBytes_of_le {base x : Nat} {ys : List (Nat × List Byte)} {m : List Host.Cell} (h : wf m = true)
    (hys : ∀ y ∈ ys, base + y.1 + y.2.length ≤ x) : get (ys.foldl (fun m y => setBytes m (base + y.1) y.2) m) x = get m x := by
  induction ys generalizing m with
  | nil => rfl
  | cons y ys ih =>
    have hy := hys y (.head _)
    rw [List.foldl_cons, ih (wf_setBytes h) fun z hz => hys z (.tail _ hz), get_setBytes h, if_pos (by omega),
      List.getElem?_eq_none (by omega), Option.getD_none]

/-! ## Moved cells -/

/-- The cells, each as far from `base + at_` as it was from `key`. -/
def shift (key base at_ : Nat) (cs : List Host.Cell) : List Host.Cell := cs.map fun b => (b.1 - key + base + at_, b.2)

theorem wfFrom_shift {key base at_ : Nat} {cs : List Host.Cell} : ∀ lo, key ≤ lo → wfFrom lo cs = true →
    wfFrom (lo - key + base + at_) (shift key base at_ cs) = true := by
  induction cs with
  | nil => exact fun _ _ _ => rfl
  | cons c cs ih =>
    intro lo hlo h
    simp only [wfFrom, Bool.and_eq_true, decide_eq_true_eq] at h
    obtain ⟨⟨hk, hv⟩, hrest⟩ := h
    have hnext := ih (c.1 + 1) (by omega) hrest
    rw [show c.1 + 1 - key + base + at_ = c.1 - key + base + at_ + 1 by omega] at hnext
    simp only [shift, List.map_cons, wfFrom, Bool.and_eq_true, decide_eq_true_eq]
    exact ⟨⟨by omega, hv⟩, hnext⟩

theorem get_shift {key base at_ x : Nat} {cs : List Host.Cell} (hcs : ∀ c ∈ cs, key ≤ c.1) :
    get (shift key base at_ cs) (base + at_ + x) = get cs (key + x) := by
  induction cs with
  | nil => rfl
  | cons c cs ih =>
    have hk := hcs c (.head _)
    have heq : c.1 - key + base + at_ = base + at_ + x ↔ c.1 = key + x := by omega
    have hlt : base + at_ + x < c.1 - key + base + at_ ↔ key + x < c.1 := by omega
    have hrest := ih fun d hd => hcs d (.tail _ hd)
    rw [shift] at hrest ⊢
    simp only [List.map_cons, get, heq, hlt, hrest]

theorem wfFrom_slice {m : List Host.Cell} {lo n : Nat} (h : wf m = true) : wfFrom lo (slice m lo n) = true := by
  have hslice : wf (slice m lo n) = true := wf_slice h
  have hle : ∀ c ∈ slice m lo n, lo ≤ c.1 := fun c hc => (le_of_mem_slice hc).1
  generalize slice m lo n = cs at hslice hle ⊢
  cases cs with
  | nil => rfl
  | cons c cs =>
    simp only [wf, wfFrom, Bool.and_eq_true, decide_eq_true_eq] at hslice ⊢
    exact ⟨⟨hle c (.head _), hslice.1.2⟩, hslice.2⟩

/-- The memory with the `n` bytes from `key` on copied to `base + at_`, as a save record is written (R356). -/
def copyArea (m : List Host.Cell) (key n base at_ : Nat) : List Host.Cell :=
  setCells (clear m (base + at_) n) (shift key base at_ (slice m key n))

theorem wf_copyArea {m : List Host.Cell} {key n base at_ : Nat} (h : wf m = true) : wf (copyArea m key n base at_) = true :=
  wf_setCells (wf_clear h)

theorem get_copyArea {m : List Host.Cell} {key n base at_ o : Nat} (h : wf m = true) (ho : o < n) :
    get (copyArea m key n base at_) (base + at_ + o) = get m (key + o) := by
  have hcleared : get (clear m (base + at_) n) (base + at_ + o) = unlisted := by rw [get_clear h, if_pos (by omega)]
  rw [copyArea, get_setCells_of_wfFrom (wf_clear h) (wfFrom_shift key (Nat.le_refl _) (wfFrom_slice h)),
    get_shift fun c hc => (le_of_mem_slice hc).1, get_slice h (by omega) (by omega), hcleared]
  split
  · next hzero => exact hzero.symm
  · rfl

theorem get_copyArea_of_le {m : List Host.Cell} {key n base at_ x : Nat} (h : wf m = true) (hx : base + at_ + n ≤ x) :
    get (copyArea m key n base at_) x = get m x := by
  refine get_setCells_clear_of_le h hx fun c hc => ?_
  obtain ⟨d, hd, rfl⟩ := List.mem_map.mp hc
  have hin := le_of_mem_slice hd
  dsimp only
  omega

end Mem

end Sys2Proof.Machine
end

section
/-! SUPPORT. What stands in a save record (R44, R356), what clearing and taking a cluster leave (R289, R333), and what an answered
suspend request leaves (R360). -/

namespace Sys2Proof.Machine

/-! ## The areas of a record -/

@[simp] theorem length_leBytes (n v : Nat) : (leBytes n v).length = n := by
  induction n generalizing v with
  | zero => rfl
  | succ n ih => rw [leBytes, List.length_cons, ih]

@[simp] theorem length_frameBytes (s : State) (t : Thread) : (s.frameBytes t).length = 576 := by
  simp [State.frameBytes, List.length_flatMap]

theorem lt_of_mem_tileCells {base at_ e : Nat} {v : BitVec 16384} {c : Host.Cell} (hc : c ∈ tileCells base at_ v)
    (he : at_ + 2048 ≤ e) : c.1 < base + e := by
  unfold tileCells at hc
  split at hc
  · cases hc
  · obtain ⟨i, hi, rfl⟩ := List.mem_map.mp hc
    have := List.mem_range.mp hi
    dsimp only
    omega

/-- The accumulators of a record's cores lie in their 32 KiB. -/
theorem lt_of_mem_tiles {base n : Nat} {v w : BitVec 16384} {c : Host.Cell} (hn : n < 8)
    (hc : c ∈ tileCells base (0x51000 + 4096 * n) v ++ tileCells base (0x51000 + 4096 * n + 2048) w) :
    c.1 < base + 0x51000 + 0x8000 := by
  rw [Nat.add_assoc]
  obtain hc | hc := List.mem_append.mp hc <;> exact lt_of_mem_tileCells hc (by omega)

theorem lt_of_mem_granuleCells {base at_ phys : Nat} {full : List Nat} {c : Host.Cell}
    (hc : c ∈ granuleCells base at_ phys full) : c.1 < base + at_ + 16384 := by
  unfold granuleCells at hc
  simp only [List.mem_map, List.mem_dedup] at hc
  obtain ⟨b, ⟨g, ⟨n, -, rfl⟩, rfl⟩, rfl⟩ := hc
  dsimp only
  omega

/-- The bytes of the scratchpad stand in the record from 0x164000 on. -/
theorem writeRecord_spad {s : State} {phys base o : Nat} (h : Mem.wf s.mem = true) (hfit : base + recordSize ≤ 2 ^ 40)
    (ho : o < 2 ^ 21) : (s.writeRecord phys base).byteAt (.hbm (base + 0x164000 + o)) = s.byteAt (.spad phys o) := by
  unfold State.writeRecord
  extract_lets area tcm spad tiles granules frames
  have htcm : Mem.wf tcm = true := Mem.wf_copyArea h
  have hspad : Mem.wf spad = true := Mem.wf_copyArea htcm
  have htiles : Mem.wf tiles = true := Mem.wf_setCells (Mem.wf_clear hspad)
  have hgranules : Mem.wf granules = true := Mem.wf_setCells (Mem.wf_clear htiles)
  have hcopied : spad = Mem.copyArea tcm (Loc.spad phys 0).key 0x200000 base 0x164000 := rfl
  show Mem.get _ (base + 0x164000 + o) = Mem.get s.mem (Loc.spad phys o).key
  rw [spad_key phys 0 o (Nat.zero_le o), Nat.sub_zero]
  calc Mem.get (frames.foldl (fun m x => Mem.setBytes m (base + x.1) x.2) granules) (base + 0x164000 + o)
      = Mem.get granules (base + 0x164000 + o) := by
        refine Mem.get_foldl_setBytes_of_le hgranules fun y hy => ?_
        simp only [frames, List.mem_flatMap, List.mem_filterMap, List.mem_range, Option.map_eq_some_iff] at hy
        obtain ⟨c, hc, n, hn, t, -, rfl⟩ := hy
        rw [length_frameBytes]
        dsimp only
        omega
    _ = Mem.get tiles (base + 0x164000 + o) := by
        refine Mem.get_setCells_clear_of_le htiles (by omega) fun c hc => ?_
        exact lt_of_mem_granuleCells hc
    _ = Mem.get spad (base + 0x164000 + o) := by
        refine Mem.get_setCells_clear_of_le hspad (by omega) fun c hc => ?_
        obtain ⟨n, hn, hc⟩ := List.mem_flatMap.mp hc
        exact lt_of_mem_tiles (List.mem_range.mp hn) hc
    _ = Mem.get tcm ((Loc.spad phys 0).key + o) := by rw [hcopied, Mem.get_copyArea htcm (by omega)]
    _ = Mem.get s.mem ((Loc.spad phys 0).key + o) := by
        refine Mem.get_copyArea_of_le h ?_
        simp only [recordSize, Loc.key] at hfit ⊢
        omega

/-- What a record lists of a scratchpad byte is the byte. -/
theorem get_clusterBytes_spad {m : List Host.Cell} {phys o : Nat} (h : Mem.wf m = true) (hp : phys < 256) (ho : o < 2 ^ 21) :
    Mem.get (clusterBytes m phys) (Loc.spad phys o).key = Mem.get m (Loc.spad phys o).key := by
  have hkey := spad_key phys 0 o (Nat.zero_le o)
  rw [clusterBytes, Mem.get_append_of_lt fun c hc => ?_, Mem.get_slice h (by omega) (by omega)]
  have hin := Mem.le_of_mem_slice hc
  simp only [Loc.key] at hin ⊢
  omega

/-! ## Clearing and taking a cluster -/

theorem clearCluster_shape (s : State) (p : Nat) : ∃ k m g w c t l, s.clearCluster p =
    { s with clusters := k, mem := m, granules := g, poison := w, cores := c, tlb := t, watchLast := l } := by
  unfold State.clearCluster State.setCluster; dsimp only
  split <;> exact ⟨_, _, _, _, _, _, _, rfl⟩

/-- A cluster with its array empty and its arbiters at their start (R379). -/
def Cluster.restarted (k : Cluster) : Cluster := { k with array := none, mlast := 7, blast := Vector.replicate 64 8 }

theorem clearCluster_clusters (s : State) (p : Nat) :
    (s.clearCluster p).clusters = (s.updCluster p Cluster.restarted).clusters := rfl

theorem clearCluster_ctx (s : State) (p : Nat) : ((s.clearCluster p).clusterAt p).ctx = (s.clusterAt p).ctx := by
  rw [clusterAt_of_clusters (clearCluster_clusters s p), clusterAt_updCluster_same (f := Cluster.restarted) _ _ fun _ => rfl,
    Cluster.restarted]

theorem clearCluster_spad (s : State) {phys o : Nat} (ho : o < 2 ^ 21) : (s.clearCluster phys).byteAt (.spad phys o) = 0 := by
  have hkey := spad_key phys 0 o (Nat.zero_le o)
  exact get_of_forall_ne fun c hc => ne_of_mem_clear (by omega) (by omega) c (mem_of_mem_clear hc)

theorem clearCluster_hbm {s : State} {phys pa : Nat} (h : Mem.wf s.mem = true) (hpa : pa < 2 ^ 40) :
    (s.clearCluster phys).byteAt (.hbm pa) = s.byteAt (.hbm pa) := by
  show Mem.get (Mem.clear (Mem.clear s.mem _ _) _ _) pa = Mem.get s.mem pa
  rw [Mem.get_clear (Mem.wf_clear h), if_neg, Mem.get_clear h, if_neg] <;> simp only [Loc.key] <;> omega

theorem takeCluster_shape (s : State) (ctx p : Nat) (lcl : Option Nat) : ∃ k m g w c t l, s.takeCluster ctx p lcl =
    { s with clusters := k, mem := m, granules := g, poison := w, cores := c, tlb := t, watchLast := l } := by
  unfold State.takeCluster; dsimp only
  split
  · obtain ⟨k, m, g, w, c, t, l, hclear⟩ := clearCluster_shape s p
    obtain ⟨k', htake⟩ := updCluster_shape (s.clearCluster p) p _
    exact ⟨k', m, g, w, c, t, l, htake.trans (by rw [hclear])⟩
  · obtain ⟨k', htake⟩ := updCluster_shape s p _
    exact ⟨k', _, _, _, _, _, _, htake⟩

theorem takeCluster_ctx (s : State) (ctx p : Nat) (lcl : Option Nat) : ((s.takeCluster ctx p lcl).clusterAt p).ctx = some ctx := by
  unfold State.takeCluster
  rw [clusterAt_updCluster_same]
  exact fun _ => rfl

/-! ## A suspend request -/

theorem suspendDone_shape (s : State) (ctx : Nat) : ∃ o x, s.suspendDone ctx = { s with out := o, ctxs := x } := by
  unfold State.suspendDone
  split
  · split
    · exact ⟨_, _, rfl⟩
    · exact ⟨_, _, foldl_send ..⟩
  · exact ⟨_, _, rfl⟩

end Sys2Proof.Machine
end

section
/-! SUPPORT. Pre-emption (R182, R289, R291, R356 to R360, R379): the end of a quantum and of a slice, the save of a cluster and its
restore. -/

namespace Sys2Proof.Machine

/-! ## QUANTUM_EXPIRY and HOSTING_SLICE_EXPIRY -/

/-- A context that is not frozen holds a cluster that is not stopped. -/
structure RunsOn (s : State) (phys : Nat) (c : Context) : Prop where
  ctx : s.ctx? c.id = some c
  holds : (s.clusterAt phys).ctx = some c.id
  runs : (s.clusterAt phys).stopped = false
  unfrozen : c.freeze = none

/-- An outcome that a condition decides. -/
theorem exists_next_of_cases {P : Prop} {o : Host.Outcome State Fault Refusal} {a b : State} (ha : P → o = .next a)
    (hb : ¬ P → o = .next b) : ∃ s', o = .next s' ∧ (P → s' = a) ∧ (¬ P → s' = b) := by
  by_cases h : P
  · exact ⟨a, ha h, fun _ => rfl, fun hn => absurd h hn⟩
  · exact ⟨b, hb h, fun hp => absurd hp h, fun _ => rfl⟩

section
variable {s : State} {phys : Nat} {c : Context} (h : RunsOn s phys c)
include h

theorem quantumExpiry_early (hnow : s.now < (s.clusterAt phys).quantum + s.cfg.quantumUs * 1000) :
    exec (.quantumExpiry phys) s = .next s := by
  show execQuantumExpiry phys s = _
  simp [execQuantumExpiry, h.holds, h.ctx, hnow]

section
variable (hnow : (s.clusterAt phys).quantum + s.cfg.quantumUs * 1000 ≤ s.now)
include hnow

theorem quantumExpiry_stops (hw : ∃ x ∈ s.ctxs, x.id ≠ c.id ∧ c.prio ≤ x.prio ∧ s.wantsCluster x phys = true) :
    exec (.quantumExpiry phys) s = .next (s.updCluster phys fun k => { k with stopped := true, saving := true }) := by
  have hany : (s.ctxs.any fun x => x.id != c.id && decide (c.prio ≤ x.prio) && s.wantsCluster x phys) = true := by
    simpa [and_assoc] using hw
  show execQuantumExpiry phys s = _
  simp [execQuantumExpiry, h.holds, h.ctx, h.runs, h.unfrozen, Nat.not_lt.mpr hnow, hany]

theorem quantumExpiry_restarts (hw : ¬ ∃ x ∈ s.ctxs, x.id ≠ c.id ∧ c.prio ≤ x.prio ∧ s.wantsCluster x phys = true) :
    exec (.quantumExpiry phys) s = .next (s.updCluster phys fun k => { k with quantum := s.now }) := by
  have hany : (s.ctxs.any fun x => x.id != c.id && decide (c.prio ≤ x.prio) && s.wantsCluster x phys) = false := by
    rw [Bool.eq_false_iff]
    simpa [and_assoc] using hw
  show execQuantumExpiry phys s = _
  simp [execQuantumExpiry, h.holds, h.ctx, h.runs, h.unfrozen, Nat.not_lt.mpr hnow, hany]

end

section
variable {l : Nat} (hl : (s.clusterAt phys).lcl = some l)
include hl

theorem hostingSliceExpiry_early (hnow : s.now < (s.clusterAt phys).slice + 500000) :
    exec (.hostingSliceExpiry phys) s = .next s := by
  show execHostingSliceExpiry phys s = _
  simp [execHostingSliceExpiry, h.holds, h.ctx, hl, hnow]

variable (hnow : (s.clusterAt phys).slice + 500000 ≤ s.now)
include hnow

theorem hostingSliceExpiry_stops (hw : ∃ x ∈ s.hostWork c phys, x ≠ l) :
    exec (.hostingSliceExpiry phys) s = .next (s.updCluster phys fun k => { k with stopped := true, saving := true }) := by
  have hany : ((s.hostWork c phys).any fun x => x != l) = true := by simpa using hw
  show execHostingSliceExpiry phys s = _
  simp [execHostingSliceExpiry, h.holds, h.ctx, hl, h.runs, h.unfrozen, Nat.not_lt.mpr hnow, hany]

theorem hostingSliceExpiry_restarts (hw : ¬ ∃ x ∈ s.hostWork c phys, x ≠ l) :
    exec (.hostingSliceExpiry phys) s = .next (s.updCluster phys fun k => { k with slice := s.now }) := by
  have hany : ((s.hostWork c phys).any fun x => x != l) = false := by
    rw [Bool.eq_false_iff]
    simpa using hw
  show execHostingSliceExpiry phys s = _
  simp [execHostingSliceExpiry, h.holds, h.ctx, hl, h.runs, h.unfrozen, Nat.not_lt.mpr hnow, hany]

end
end

/-! ## PREEMPTION_SAVE (R356) -/

/-- A save adds one record, of the cluster's threads and bytes. -/
theorem saveCluster_saves (s : State) (ctx phys lcl : Nat) : ∃ r : SaveRec, (s.saveCluster ctx phys lcl).saves = s.saves ++ [r] ∧
    r.ctx = ctx ∧ r.lcl = lcl ∧ r.base = s.freeRecord ∧ r.cells = clusterBytes s.mem phys ∧
    r.threads.map (·.uid) = (s.threads.filter fun t => t.phys == phys).map (·.uid) := by
  unfold State.saveCluster
  extract_lets to_ mine r
  refine ⟨r, ?_, rfl, rfl, rfl, rfl, ?_⟩
  · rw [State.updCluster_saves]
    exact State.setCluster_saves ..
  · simp [r, mine]

theorem saveCluster_threads (s : State) (ctx phys lcl : Nat) :
    (s.saveCluster ctx phys lcl).threads = s.threads.filter fun t => t.phys != phys := by
  unfold State.saveCluster
  rw [State.updCluster_threads, clearCluster_threads]
  rfl

/-- A save leaves the cluster free. -/
theorem saveCluster_clusterAt (s : State) (ctx phys lcl : Nat) : ((s.saveCluster ctx phys lcl).clusterAt phys).ctx = none ∧
    ((s.saveCluster ctx phys lcl).clusterAt phys).stopped = false := by
  unfold State.saveCluster
  rw [clusterAt_updCluster_same]
  · exact ⟨rfl, rfl⟩
  · exact fun _ => rfl

/-- The memory after a save is that of the record written, with the cluster's own cleared. -/
theorem saveCluster_byteAt (s : State) (ctx phys lcl : Nat) (l : Loc) :
    (s.saveCluster ctx phys lcl).byteAt l = ((s.writeRecord phys s.freeRecord).clearCluster phys).byteAt l := by
  unfold State.saveCluster
  rw [State.byteAt, State.updCluster_mem]
  rfl

/-- A cluster that is stopped for a save, and has drained, is saved. -/
theorem preemptionSave_saves {s : State} {phys ctx l : Nat} (hctx : (s.clusterAt phys).ctx = some ctx)
    (hstop : (s.clusterAt phys).stopped = true) (hsave : (s.clusterAt phys).saving = true) (hdrain : s.clusterDrained phys = true)
    (hsettled : s.settledGroups phys = true) (hl : s.standingLcl phys = some l) :
    exec (.preemptionSave phys) s = .next ((s.saveCluster ctx phys l).suspendDone ctx) := by
  show execPreemptionSave phys s = _
  simp [execPreemptionSave, hctx, hstop, hsave, hdrain, hsettled, hl]

/-! ## RESTORE (R359) -/

theorem restore_restores {s : State} {c : Context} {x : SaveRec} {p : Nat} (hc : s.ctx? c.id = some c) (hact : c.active = true)
    (hx : s.saves.find? (fun y => y.ctx == c.id && y.lcl == x.lcl) = some x) (hp : s.restorePlace c x = some p) :
    exec (.restore c.id x.lcl) s = .next (s.restoreOn c x p) := by
  show execRestore c.id x.lcl s = _
  simp [execRestore, hc, hx, hact, hp]

/-- What a restore has put back before what waited for the cluster goes on. -/
structure PutBack (s s' : State) (ctx p : Nat) (x : SaveRec) : Prop where
  threads : s'.threads = s.threads ++ x.threads.map (fun t => { t with phys := p })
  ctx : (s'.clusterAt p).ctx = some ctx
  quantum : (s'.clusterAt p).quantum = s.now
  blast : (s'.clusterAt p).blast = Vector.replicate 64 8
  kills : s'.kills = s.kills
  arrivals : s'.arrivals = s.arrivals
  fwds : s'.fwds = s.fwds
  saves : s'.saves = s.saves.filter fun y => !(y.ctx == x.ctx && y.lcl == x.lcl)

theorem restoreOn_putBack (s : State) (c : Context) {x : SaveRec} (p : Nat) (hup : x.upset = false) :
    ∃ s1, PutBack s s1 c.id p x ∧ s.restoreOn c x p = x.threads.foldl (fun s t => s.endWaitk t.uid)
      ((((s1.deliverHeld p).performHeld
        ((s.accs.filter fun a => a.phase == .away && a.loc.onCluster (savedPhys x.ctx x.lcl)).map (·.id))).writeHeld p).applyKills p) := by
  unfold State.restoreOn
  extract_lets from_ stratus away dropped sound taken fresh moved back
  have hsound : sound = dropped := by simp [sound, hup]
  have hctx : (taken.clusterAt p).ctx = some c.id := (clearCluster_ctx ..).trans (takeCluster_ctx ..)
  obtain ⟨k, m, g, w, co, t, l, htaken⟩ : ∃ k m g w co t l, taken =
      { dropped with clusters := k, mem := m, granules := g, poison := w, cores := co, tlb := t, watchLast := l } := by
    obtain ⟨_, _, _, _, _, _, _, htake⟩ := takeCluster_shape sound c.id p (if stratus then some x.lcl else none)
    obtain ⟨_, _, _, _, _, _, _, hclear⟩ := clearCluster_shape (sound.takeCluster c.id p (if stratus then some x.lcl else none)) p
    exact ⟨_, _, _, _, _, _, _, hclear.trans (by rw [htake, hsound])⟩
  obtain ⟨k', hfresh⟩ := updCluster_shape taken p fun k =>
    { k with quantum := taken.now, slice := taken.now, array := none, mlast := 7, blast := Vector.replicate 64 8 }
  have hfresh' : fresh = { dropped with clusters := k', mem := m, granules := g, poison := w, cores := co, tlb := t, watchLast := l } :=
    hfresh.trans (by rw [htaken])
  have hback : back.clusterAt p = fresh.clusterAt p := clusterAt_of_clusters rfl p
  have hstarted := hback.trans (clusterAt_updCluster_same taken p fun _ => rfl)
  exact ⟨back,
    { threads := (congrArg (State.threads · ++ x.threads.map fun t => { t with phys := p }) hfresh' :)
      ctx := (congrArg Cluster.ctx hstarted).trans hctx
      quantum := (congrArg Cluster.quantum hstarted).trans (congrArg State.now htaken :)
      blast := (congrArg Cluster.blast hstarted :)
      kills := (congrArg State.kills hfresh' :)
      arrivals := (congrArg State.arrivals hfresh' :)
      fwds := (congrArg State.fwds hfresh' :)
      saves := (congrArg State.saves hfresh' :) }, rfl⟩

/-- Settles O46: the ends of a quantum and of a slice by what waits, the save by where it writes and clears, and the restore by
what it has put back when the held work goes on. -/
theorem savingAndRestoring : Obligations.SavingAndRestoring := by
  intro s phys c
  refine ⟨fun hc hctx hstop hfree => ?_, fun hc hctx hstop hsave hdrain hsettled l hl => ?_, fun x p hc hact hup hx hp => ?_⟩
  · have h : RunsOn s phys c := ⟨hc, hctx, hstop, hfree⟩
    exact ⟨quantumExpiry_early h, fun hnow => exists_next_of_cases (quantumExpiry_stops h hnow) (quantumExpiry_restarts h hnow),
      fun l hl => ⟨hostingSliceExpiry_early h hl, fun hnow =>
        exists_next_of_cases (hostingSliceExpiry_stops h hl hnow) (hostingSliceExpiry_restarts h hl hnow)⟩⟩
  · obtain ⟨o, y, hdone⟩ := suspendDone_shape (s.saveCluster c.id phys l) c.id
    obtain ⟨r, hsaves, hrctx, hrlcl, hbase, hcells, huids⟩ := saveCluster_saves s c.id phys l
    obtain ⟨hfree, hruns⟩ := saveCluster_clusterAt s c.id phys l
    refine ⟨_, r, preemptionSave_saves hctx hstop hsave hdrain hsettled hl, ?_⟩
    rw [hdone]
    refine ⟨hsaves, hrctx, hrlcl, hbase, huids, fun t ht => ?_, hfree, hruns, fun hphys hwf n hn => ⟨?_, ?_, fun hfit => ?_⟩⟩
    · have hkept := (saveCluster_threads s c.id phys l) ▸ ht
      simpa using (List.mem_filter.mp hkept).2
    · rw [hcells]
      exact get_clusterBytes_spad hwf hphys hn
    · exact (saveCluster_byteAt s c.id phys l _).trans (clearCluster_spad _ hn)
    · rw [hbase] at hfit ⊢
      calc (s.saveCluster c.id phys l).byteAt (.hbm (s.freeRecord + 0x164000 + n))
          = ((s.writeRecord phys s.freeRecord).clearCluster phys).byteAt (.hbm (s.freeRecord + 0x164000 + n)) :=
            saveCluster_byteAt ..
        _ = (s.writeRecord phys s.freeRecord).byteAt (.hbm (s.freeRecord + 0x164000 + n)) :=
            clearCluster_hbm (wf_writeRecord hwf) (by simp only [recordSize] at hfit; omega)
        _ = s.byteAt (.spad phys n) := writeRecord_spad hwf hfit hn
  · have hrec : x.ctx = c.id := by simpa using List.find?_some hx
    obtain ⟨s1, h, hrestored⟩ := restoreOn_putBack s c p hup
    exact ⟨s1, (restore_restores hc hact hx hp).trans (congrArg _ hrestored), h.threads, h.ctx, h.quantum, h.blast, h.kills,
      h.arrivals, h.fwds, by rw [h.saves, hrec]⟩

end Sys2Proof.Machine
end

section
/-! SUPPORT. The homes within each scope (R203): `Loc.inScope` read as the table of R203, one equivalence per scope, and the
settlement of O19. -/

namespace Sys2Proof.Machine

/-! ## Homes within a scope (R203) -/

/-- Within `core` lie the TCM places alone, whatever cluster issued (R203). -/
theorem inScope_core_iff {l : Loc} {c : Nat} : l.inScope c .core = true ↔ ∃ p k o, l = .tcm p k o := by
  cases l with
  | tcm p k o => exact iff_of_true rfl ⟨p, k, o, rfl⟩
  | hbm | canopy | spad | code | peer | nowhere => simp [Loc.inScope]

/-- The only scope test that looks at the issuing cluster: a scratchpad place lies within `cl` for its own cluster alone (R203). -/
theorem inScope_cl_spad_iff {p o c : Nat} : (Loc.spad p o).inScope c .cl = true ↔ p = c := by
  simp [Loc.inScope]

/-- Within `cl` lie the places within `core` and the scratchpad of the issuing cluster (R203). -/
theorem inScope_cl_iff {l : Loc} {c : Nat} :
    l.inScope c .cl = true ↔ (∃ p k o, l = .tcm p k o) ∨ ∃ o, l = .spad c o := by
  cases l with
  | tcm p k o => exact iff_of_true rfl (.inl ⟨p, k, o, rfl⟩)
  | spad p o => simp [inScope_cl_spad_iff]
  | hbm | canopy | code | peer | nowhere => simp [Loc.inScope]

/-- Only a place of a peer device lies outside `dev` (R203). -/
theorem inScope_dev_iff {l : Loc} {c : Nat} : l.inScope c .dev = true ↔ ∀ d o, l ≠ .peer d o := by
  cases l with
  | peer d o => exact iff_of_false Bool.false_ne_true fun h => h d o rfl
  | hbm | canopy | spad | tcm | code | nowhere => simp [Loc.inScope]

/-- Every place lies within `sys` (R203). -/
@[simp] theorem inScope_sys (l : Loc) (c : Nat) : l.inScope c .sys = true := rfl

/-- Settles O19: each scope by the kinds of place, of which only the scratchpad's answer depends on the issuing cluster. -/
theorem homeScopes : Obligations.HomeScopes :=
  fun l c => ⟨inScope_core_iff, inScope_cl_iff, inScope_dev_iff, inScope_sys l c⟩

end Sys2Proof.Machine
end

section
/-! SUPPORT. What homes do to the accesses that they perform (R201, R217, R226, R231): between the state before and the one after,
results have been added, accesses have been performed and no context's SUM_STATUS has changed; and an AWAIT that a write looks at
is placed where its word satisfies it. -/

namespace Sys2Proof.Machine

/-! ## What a home's step leaves -/

/-- An access later on: under its id, at its place, with its operation, and where it was or performed. -/
def Access.goesOn (x y : Access) : Prop :=
  y.id = x.id ∧ y.loc = x.loc ∧ y.op = x.op ∧ (y.phase = x.phase ∨ y.phase = .done)

theorem Access.goesOn_refl (x : Access) : x.goesOn x := ⟨rfl, rfl, rfl, .inl rfl⟩

theorem Access.goesOn_trans {x y z : Access} (h : x.goesOn y) (h' : y.goesOn z) : x.goesOn z := by
  obtain ⟨hid, hloc, hop, hphase⟩ := h
  obtain ⟨hid', hloc', hop', hphase'⟩ := h'
  refine ⟨hid'.trans hid, hloc'.trans hloc, hop'.trans hop, ?_⟩
  obtain h | h := hphase'
  · rw [h]; exact hphase
  · exact .inr h

/-- Between two states homes have performed accesses: results have been added, no access has been sent, and no context's
SUM_STATUS has changed. -/
structure HomeStep (s s' : State) : Prop where
  arrivals : s.arrivals <+: s'.arrivals
  accs : ∀ y ∈ s'.accs, ∃ x ∈ s.accs, x.goesOn y
  sumStatus : ∀ i, (s'.ctx? i).map (·.sumStatus) = (s.ctx? i).map (·.sumStatus)

/-- Accesses that were there before. -/
theorem goesOn_of_subset {xs ys : List Access} (h : ys ⊆ xs) : ∀ y ∈ ys, ∃ x ∈ xs, x.goesOn y :=
  fun y hy => ⟨y, h hy, y.goesOn_refl⟩

theorem HomeStep.of_eq {s s' : State} (ha : s'.arrivals = s.arrivals) (hx : s'.accs ⊆ s.accs) (hc : s'.ctxs = s.ctxs) :
    HomeStep s s' :=
  ⟨by rw [ha], goesOn_of_subset hx, fun i => by rw [State.ctx?, State.ctx?, hc]⟩

theorem HomeStep.refl (s : State) : HomeStep s s := .of_eq rfl (List.Subset.refl _) rfl

theorem HomeStep.trans {s s' s'' : State} (h : HomeStep s s') (h' : HomeStep s' s'') : HomeStep s s'' := by
  refine ⟨h.arrivals.trans h'.arrivals, fun z hz => ?_, fun i => (h'.sumStatus i).trans (h.sumStatus i)⟩
  obtain ⟨y, hy, hyz⟩ := h'.accs z hz
  obtain ⟨x, hx, hxy⟩ := h.accs y hy
  exact ⟨x, hx, Access.goesOn_trans hxy hyz⟩

theorem HomeStep.foldl {α : Type} {f : State → α → State} (h : ∀ s a, HomeStep s (f s a)) (xs : List α) (s : State) :
    HomeStep s (xs.foldl f s) := by
  induction xs generalizing s with
  | nil => exact .refl s
  | cons x xs ih => exact (h s x).trans (ih _)

/-- Accesses under an id that are gone do not come back. -/
theorem HomeStep.gone {s s' : State} (h : HomeStep s s') {i : Nat} (hs : ∀ x ∈ s.accs, x.id ≠ i) : ∀ y ∈ s'.accs, y.id ≠ i := by
  intro y hy
  obtain ⟨x, hx, hid, -⟩ := h.accs y hy
  rw [hid]
  exact hs x hx

/-- Accesses under an id that have been performed stay so. -/
theorem HomeStep.done {s s' : State} (h : HomeStep s s') {i : Nat} (hs : ∀ x ∈ s.accs, x.id = i → x.phase = .done) :
    ∀ y ∈ s'.accs, y.id = i → y.phase = .done := by
  intro y hy hi
  obtain ⟨x, hx, hid, -, -, hphase⟩ := h.accs y hy
  obtain h | h := hphase
  · rw [h]; exact hs x hx (hid.symm.trans hi)
  · exact h

/-- No access under an id is on its way to its home. -/
def State.offWay (s : State) (i : Nat) : Prop := ∀ x ∈ s.accs, x.id = i → x.phase ≠ .sent

theorem HomeStep.offWay {s s' : State} (h : HomeStep s s') {i : Nat} (hs : s.offWay i) : s'.offWay i := by
  intro y hy hi
  obtain ⟨x, hx, hid, -, -, hphase⟩ := h.accs y hy
  obtain h | h := hphase
  · rw [h]; exact hs x hx (hid.symm.trans hi)
  · rw [h]; exact nofun

/-! ## Settling, replying, charging -/

theorem homeStep_settle (s : State) (i : Nat) : HomeStep s (s.settle i) := .of_eq rfl (List.filter_subset_self _) rfl

theorem gone_settle (s : State) (i : Nat) : ∀ x ∈ (s.settle i).accs, x.id ≠ i := by simp

theorem offWay_settle (s : State) (i : Nat) : (s.settle i).offWay i := fun x hx hi => absurd hi (gone_settle s i x hx)

theorem reply_accs (s : State) (a : Access) (w : List (Operand × Wide)) (r : Prod) (k : Nat) (b : BitVec 32) (z : Stamp) :
    (s.reply a w r k b z).accs = s.accs := by
  obtain h | ⟨o, h⟩ | ⟨x, h⟩ := reply_cases s a w r k b z <;> simp [h]

theorem homeStep_reply (s : State) (a : Access) (w : List (Operand × Wide)) (r : Prod) (k : Nat) (b : BitVec 32) (z : Stamp) :
    HomeStep s (s.reply a w r k b z) := by
  obtain h | ⟨o, h⟩ | ⟨x, h⟩ := reply_cases s a w r k b z <;> rw [h]
  · exact .refl s
  · exact .of_eq rfl (List.Subset.refl _) rfl
  · exact ⟨List.prefix_append .., goesOn_of_subset (List.Subset.refl _), fun _ => rfl⟩

/-- An access whose acknowledgement leaves for its core. -/
def Access.acknowledged (i : Nat) (x : Access) : Access := if x.id == i then { x with phase := .done } else x

theorem Access.goesOn_acknowledged (i : Nat) (x : Access) : x.goesOn (x.acknowledged i) := by
  unfold Access.acknowledged
  split
  · exact ⟨rfl, rfl, rfl, .inr rfl⟩
  · exact x.goesOn_refl

@[simp] theorem Access.acknowledged_id (i : Nat) (x : Access) : (x.acknowledged i).id = x.id := (x.goesOn_acknowledged i).1

theorem Access.acknowledged_other {i : Nat} {x : Access} (h : x.id ≠ i) : x.acknowledged i = x := by
  simp [Access.acknowledged, h]

theorem Access.acknowledged_done {i : Nat} {x : Access} (h : x.id = i) : (x.acknowledged i).phase = .done := by
  simp [Access.acknowledged, h]

/-- The acknowledgement to a thread is one result without values on its way. -/
theorem acknowledge_arrives (s : State) {a : Access} {u : Nat} (hu : a.uid = some u) : ∃ r : Arrival,
    s.acknowledge a = { s with accs := s.accs.map (·.acknowledged a.id), arrivals := s.arrivals ++ [r], fresh := s.fresh + 1 } ∧
      r.uid = u ∧ r.seq = a.id ∧ r.writes = [] := by
  unfold State.acknowledge
  rw [hu]
  exact ⟨_, rfl, rfl, rfl, rfl⟩

/-- An access that is performed is acknowledged to its thread, or is an engine's and outstanding no more. -/
theorem acknowledge_cases (s : State) (a : Access) : s.acknowledge a = s.settle a.id ∨ ∃ r : Arrival,
    s.acknowledge a = { s with accs := s.accs.map (·.acknowledged a.id), arrivals := s.arrivals ++ [r], fresh := s.fresh + 1 } := by
  cases hu : a.uid with
  | none => exact .inl (by rw [State.acknowledge, hu])
  | some u =>
    obtain ⟨r, h, -⟩ := acknowledge_arrives s hu
    exact .inr ⟨r, h⟩

theorem homeStep_acknowledge (s : State) (a : Access) : HomeStep s (s.acknowledge a) := by
  obtain h | ⟨r, h⟩ := acknowledge_cases s a <;> rw [h]
  · exact homeStep_settle ..
  · refine ⟨List.prefix_append .., fun y hy => ?_, fun _ => rfl⟩
    obtain ⟨x, hx, rfl⟩ := List.mem_map.mp hy
    exact ⟨x, hx, x.goesOn_acknowledged _⟩

theorem done_acknowledge (s : State) (a : Access) : ∀ x ∈ (s.acknowledge a).accs, x.id = a.id → x.phase = .done := by
  obtain h | ⟨r, h⟩ := acknowledge_cases s a <;> rw [h]
  · exact fun x hx hi => absurd hi (gone_settle s _ x hx)
  · intro y hy hi
    obtain ⟨x, -, rfl⟩ := List.mem_map.mp hy
    exact Access.acknowledged_done (x.acknowledged_id _ ▸ hi)

theorem offWay_acknowledge (s : State) (a : Access) : (s.acknowledge a).offWay a.id :=
  fun x hx hi => by rw [done_acknowledge s a x hx hi]; exact nofun

theorem homeStep_contextFault (s : State) (i : Nat) (rep : Option Nat) (f : FaultRec) : HomeStep s (s.contextFault i rep f) := by
  have hsum : ∀ c : Context, (c.freezeWith f).sumStatus = c.sumStatus := fun c => by unfold Context.freezeWith; split <;> rfl
  have hctx (j : Nat) : ((s.contextFault i rep f).ctx? j).map (·.sumStatus) = (s.ctx? j).map (·.sumStatus) := by
    rw [contextFault_ctx?, Option.map_map]
    refine congrArg (Option.map · (s.ctx? j)) (funext fun c => ?_)
    dsimp only [Function.comp_apply]
    split <;> simp [hsum]
  obtain ⟨h, -⟩ | ⟨o, e, q, h⟩ := contextFault_shape s i rep f
  · rw [h]; exact .refl s
  · exact ⟨by rw [h], by rw [h]; exact goesOn_of_subset (List.Subset.refl _), hctx⟩

/-- A read at a home charges a context at most. -/
theorem homeRead_shape (s : State) (l : Loc) (n c : Nat) (g : Option Nat) (w : Option Thread) : ∃ rs cs ks o e q f,
    (s.homeRead l n c g w).2 =
      { s with replays := rs, ctxs := cs, clusters := ks, freezeOrder := o, events := e, eventSeq := q, free := f } := by
  unfold State.homeRead
  split
  · unfold State.chargeRead
    dsimp only
    obtain ⟨h, -⟩ | ⟨o, e, q, h⟩ := contextFault_shape s.newFree.2 c (g.bind fun g => (s.newFree.2.group? g).map (·.replay)) _
    · rw [h]; exact ⟨_, _, _, _, _, _, _, rfl⟩
    · rw [h]; exact ⟨_, _, _, _, _, _, _, rfl⟩
  · exact ⟨_, _, _, _, _, _, _, rfl⟩

@[simp] theorem homeRead_accs (s : State) (l : Loc) (n c : Nat) (g : Option Nat) (w : Option Thread) :
    (s.homeRead l n c g w).2.accs = s.accs := by
  obtain ⟨_, _, _, _, _, _, _, h⟩ := homeRead_shape s l n c g w
  rw [h]

@[simp] theorem homeRead_poison (s : State) (l : Loc) (n c : Nat) (g : Option Nat) (w : Option Thread) :
    (s.homeRead l n c g w).2.poison = s.poison := by
  obtain ⟨_, _, _, _, _, _, _, h⟩ := homeRead_shape s l n c g w
  rw [h]

theorem homeStep_chargeRead (s : State) (e : BitVec 32) (c : Nat) (g : Option Nat) (w : Option Thread) :
    HomeStep s (s.chargeRead e c g w) := homeStep_contextFault ..

theorem homeStep_newFree (s : State) : HomeStep s s.newFree.2 := .of_eq rfl (List.Subset.refl _) rfl

theorem homeStep_homeRead (s : State) (l : Loc) (n c : Nat) (g : Option Nat) (w : Option Thread) :
    HomeStep s (s.homeRead l n c g w).2 := by
  unfold State.homeRead
  split
  · exact (homeStep_newFree s).trans (homeStep_chargeRead ..)
  · exact .refl s

/-! ## Writes, and the AWAITs that they place (R211, R226) -/

/-- The condition of an AWAIT, of the words themselves. -/
theorem awHolds_eq_awSays (c : AwCond) (n x v : Nat) : awHolds c n x v = awSays c n x v := by
  cases c <;> simp only [awHolds, awSays]
  case eq => rw [Bool.eq_iff_iff, beq_iff_eq, beq_iff_eq, ← BitVec.toNat_inj, BitVec.toNat_ofNat, BitVec.toNat_ofNat]
  case ne => rw [Bool.eq_iff_iff, bne_iff_ne, bne_iff_ne, ne_eq, ne_eq, ← BitVec.toNat_inj, BitVec.toNat_ofNat, BitVec.toNat_ofNat]
  case ge => simp [BitVec.sle, BitVec.toInt_eq_toNat_cond]
  case geu => simp [BitVec.ule]

/-- A home looks at one AWAIT after a write. -/
def State.wakeOne (b : BitVec 32) (z : Stamp) (s : State) (w : Access) : State :=
  match w.op with
  | .await c v d =>
    let r := s.homeRead w.loc w.size w.ctx (some w.group) (w.uid.bind s.thread?)
    if awHolds c w.size r.1 v.toNat then (r.2.settle w.id).reply w [(.int d, BitVec.ofNat 256 r.1)] .await_ 11 b z else r.2
  | _ => s

/-- After a write a home looks at the AWAITs of its place one by one. -/
theorem wake_eq_foldl (s : State) (l : Loc) (n : Nat) (b : BitVec 32) (z : Stamp) : s.wake l n b z =
    (s.accs.filter fun a => a.phase == .waiting && a.loc.overlaps a.size l n).foldl (State.wakeOne b z) s := rfl

/-- Where the word is sound, an AWAIT is placed if the word satisfies it and stays if not. -/
theorem wakeOne_sound {s : State} {w : Access} {c : AwCond} {v : Word} {d : IReg} (b : BitVec 32) (z : Stamp)
    (hop : w.op = .await c v d) (hs : s.poisoned w.loc w.size = false) : s.wakeOne b z w =
      if awSays c w.size (s.read w.loc w.size) v.toNat then
        (s.settle w.id).reply w [(.int d, BitVec.ofNat 256 (s.read w.loc w.size))] .await_ 11 b z else s := by
  simp only [State.wakeOne, hop, homeRead_sound hs, awHolds_eq_awSays]

theorem homeStep_wakeOne (b : BitVec 32) (z : Stamp) (s : State) (w : Access) : HomeStep s (s.wakeOne b z w) := by
  unfold State.wakeOne
  have hread := homeStep_homeRead s w.loc w.size w.ctx (some w.group) (w.uid.bind s.thread?)
  split
  · dsimp only
    split
    · exact (hread.trans (homeStep_settle ..)).trans (homeStep_reply ..)
    · exact hread
  · exact .refl s

theorem wakeOne_mem (b : BitVec 32) (z : Stamp) (s : State) (w : Access) : (s.wakeOne b z w).mem = s.mem := by
  unfold State.wakeOne
  dsimp only
  (repeat' split) <;> simp

theorem reply_poison (s : State) (a : Access) (w : List (Operand × Wide)) (r : Prod) (k : Nat) (b : BitVec 32) (z : Stamp) :
    (s.reply a w r k b z).poison = s.poison := by
  obtain h | ⟨o, h⟩ | ⟨x, h⟩ := reply_cases s a w r k b z <;> simp [h]

theorem wakeOne_poison (b : BitVec 32) (z : Stamp) (s : State) (w : Access) : (s.wakeOne b z w).poison = s.poison := by
  unfold State.wakeOne
  dsimp only
  (repeat' split) <;> simp [reply_poison]

/-- An AWAIT stays when another is looked at, and when its own sound word does not satisfy it. -/
theorem mem_wakeOne {s : State} {w x : Access} (b : BitVec 32) (z : Stamp) (hw : w ∈ s.accs) (hx : x.id = w.id → x = w)
    {c : AwCond} {v : Word} {d : IReg} (hop : w.op = .await c v d) (hs : s.poisoned w.loc w.size = false)
    (hsays : awSays c w.size (s.read w.loc w.size) v.toNat = false) : w ∈ (s.wakeOne b z x).accs := by
  by_cases hid : x.id = w.id
  · rw [hx hid, wakeOne_sound b z hop hs, hsays]
    exact hw
  · unfold State.wakeOne
    dsimp only
    (repeat' split) <;> simp [reply_accs, hw, Ne.symm hid]

/-- What an AWAIT's word says now decides whether looking at the AWAITs of a place, it among them, places it. -/
theorem placed_foldl_wakeOne {s : State} {w : Access} (b : BitVec 32) (z : Stamp) {c : AwCond} {v : Word} {d : IReg} {u : Nat}
    (hop : w.op = .await c v d) (hs : s.poisoned w.loc w.size = false) (hu : w.uid = some u) (hc : w.cancelled = false)
    (hw : w ∈ s.accs) {ws : List Access} (hws : w ∈ ws) (huniq : ∀ x ∈ ws, x.id = w.id → x = w) :
    let s' := ws.foldl (State.wakeOne b z) s
    let x := Mem.getLE s.mem w.loc.key w.size
    if awSays c w.size x v.toNat then
      (∀ y ∈ s'.accs, y.id ≠ w.id) ∧ ∃ r ∈ s'.arrivals, r.uid = u ∧ r.kind = 11 ∧ r.arriver = b ∧ r.stamp = z ∧
        r.writes = [(.int d, BitVec.ofNat 256 x)]
    else w ∈ s'.accs := by
  have hmem (xs : List Access) : (xs.foldl (State.wakeOne b z) s).mem = s.mem := foldl_keeps State.mem _ (wakeOne_mem b z) s xs
  have hsound (xs : List Access) : (xs.foldl (State.wakeOne b z) s).poisoned w.loc w.size = false := by
    rw [State.poisoned, foldl_keeps State.poison _ (wakeOne_poison b z) s xs]; exact hs
  dsimp only
  split
  · next hsays =>
    obtain ⟨before, after, rfl⟩ := List.append_of_mem hws
    rw [List.foldl_append, List.foldl_cons]
    have hone := wakeOne_sound b z hop (hsound before)
    rw [State.read, hmem, if_pos hsays] at hone
    obtain ⟨r, hreply, huid, hwrites, -, -, -, -, hkind, harr, hstamp⟩ := reply_arrives
      (s := (before.foldl (State.wakeOne b z) s).settle w.id) hu hc
      [(.int d, BitVec.ofNat 256 (Mem.getLE s.mem w.loc.key w.size))] .await_ 11 b z
    rw [hone, hreply]
    have hrest := HomeStep.foldl (homeStep_wakeOne b z) after
      { (before.foldl (State.wakeOne b z) s).settle w.id with
        arrivals := ((before.foldl (State.wakeOne b z) s).settle w.id).arrivals ++ [r]
        fresh := ((before.foldl (State.wakeOne b z) s).settle w.id).fresh + 1 }
    exact ⟨hrest.gone (gone_settle _ w.id), r, hrest.arrivals.subset (by simp), huid, hkind, harr, hstamp, hwrites⟩
  · next hsays =>
    clear hws
    have hsays : awSays c w.size (Mem.getLE s.mem w.loc.key w.size) v.toNat = false := by simpa using hsays
    induction ws using List.reverseRecOn with
    | nil => exact hw
    | append_singleton xs x ih =>
      rw [List.foldl_append]
      refine mem_wakeOne b z (ih fun y hy => huniq y (by simp [hy])) (huniq x (by simp)) hop (hsound xs) ?_
      rwa [State.read, hmem]

end Sys2Proof.Machine
end

section
/-! SUPPORT. Each operation of a home is one of its steps (R201, R217 to R231), and what the performance of an access of an HBM word
comes to: the access is on its way no more, and its context's SUM_STATUS has the bits that a sum access without a slot sets. -/

namespace Sys2Proof.Machine

/-! ## Operations of homes -/

theorem homeStep_setGranule (s : State) (l : Loc) (b : Bool) : HomeStep s (s.setGranule l b) :=
  .of_eq (by simp) (by simp) (by simp)

theorem homeStep_write (s : State) (l : Loc) (n v : Nat) (p : List Nat) : HomeStep s { s.write l n v with poison := p } :=
  .of_eq rfl (List.Subset.refl _) rfl

theorem homeStep_wake (s : State) (l : Loc) (n : Nat) (b : BitVec 32) (z : Stamp) : HomeStep s (s.wake l n b z) :=
  .foldl (homeStep_wakeOne b z) _ s

theorem homeStep_homeWrite (s : State) (l : Loc) (n v : Nat) (b : BitVec 32) (z : Stamp) : HomeStep s (s.homeWrite l n v b z) := by
  unfold State.homeWrite
  split
  · exact (homeStep_write s _ n v _).trans (homeStep_wake ..)
  · exact homeStep_write s _ n v _

theorem homeStep_accRead (s : State) (a : Access) (peer : Wide) : HomeStep s (s.accRead a peer).2 := by
  unfold State.accRead
  split
  · exact .refl s
  · exact homeStep_homeRead ..

theorem homeStep_accWrite (s : State) (a : Access) (v : Nat) : HomeStep s (s.accWrite a v) := by
  unfold State.accWrite
  split
  · exact .refl s
  · exact homeStep_homeWrite ..

theorem homeStep_stampGroup (s : State) (g : Nat) (z : Stamp) : HomeStep s (s.stampGroup g z) := .of_eq rfl (List.Subset.refl _) rfl

theorem homeStep_sums (s : State) (x : List SumSlot) : HomeStep s { s with sums := x } := .of_eq rfl (List.Subset.refl _) rfl

theorem homeStep_granuleRead (s : State) (a : Access) : HomeStep s (s.granuleRead a) := by
  unfold State.granuleRead
  split
  · exact ((homeStep_newFree s).trans (homeStep_chargeRead ..)).trans (homeStep_setGranule ..)
  · exact .refl s

/-- An entry that a request does not take may go to another one, and nothing else changes. -/
theorem passGrant_shape (s : State) (a : Access) : ∃ f : Access → Bool,
    s.passGrant a = { s with accs := s.accs.map fun x => { x with granted := f x } } := by
  unfold State.passGrant
  split
  · exact ⟨Access.granted, by rw [show (fun x : Access => { x with granted := x.granted }) = id from rfl, List.map_id]⟩
  · next b _ =>
    refine ⟨fun x => if x.id == b.id then true else x.granted, ?_⟩
    refine congrArg (fun f => { s with accs := s.accs.map f }) (funext fun x => ?_)
    dsimp only
    split <;> rfl

theorem homeStep_passGrant (s : State) (a : Access) : HomeStep s (s.passGrant a) := by
  obtain ⟨f, h⟩ := passGrant_shape s a
  rw [h]
  refine ⟨List.prefix_rfl, fun y hy => ?_, fun _ => rfl⟩
  obtain ⟨x, hx, rfl⟩ := List.mem_map.mp hy
  exact ⟨x, hx, rfl, rfl, rfl, .inl rfl⟩

/-! ## Full/empty requests (R217 to R219) -/

/-- An admitted load is settled and replied. -/
theorem homeStep_admitted_ldfe {s : State} {a : Access} {consume : Bool} {d : IReg} (hop : a.op = .ldfe consume d)
    (fill : Option (BitVec 32 × Stamp)) : HomeStep (s.settle a.id) (s.admitted a fill).1 := by
  simp only [State.admitted, hop]
  have hread := homeStep_homeRead (s.settle a.id) a.loc 8 a.ctx (some a.group) (a.uid.bind (s.settle a.id).thread?)
  cases fill <;> cases consume
  · exact hread.trans (homeStep_reply ..)
  · exact (hread.trans (homeStep_setGranule ..)).trans (homeStep_reply ..)
  · exact hread.trans (homeStep_reply ..)
  · exact (hread.trans (homeStep_setGranule ..)).trans (homeStep_reply ..)

/-- An admitted store writes its bytes and fills the granule. -/
theorem homeStep_admitted_stfe {s : State} {a : Access} {v : Word} (hop : a.op = .stfe v) (fill : Option (BitVec 32 × Stamp)) :
    HomeStep (s.acknowledge a) (s.admitted a fill).1 := by
  simp only [State.admitted, hop]
  exact (homeStep_homeWrite ..).trans (homeStep_setGranule ..)

theorem homeStep_admitted_feinit {s : State} {a : Access} {full : Bool} (hop : a.op = .feinit full)
    (fill : Option (BitVec 32 × Stamp)) : HomeStep (s.acknowledge a) (s.admitted a fill).1 := by
  simp only [State.admitted, hop]
  exact homeStep_setGranule ..

/-- An admitted request is settled or acknowledged, and then performed. -/
theorem admitted_steps (s : State) {a : Access} (hop : a.op.granuleOp = true) (fill : Option (BitVec 32 × Stamp)) :
    HomeStep (s.settle a.id) (s.admitted a fill).1 ∨ HomeStep (s.acknowledge a) (s.admitted a fill).1 := by
  cases h : a.op
  case ldfe => exact .inl (homeStep_admitted_ldfe h fill)
  case stfe => exact .inr (homeStep_admitted_stfe h fill)
  case feinit => exact .inr (homeStep_admitted_feinit h fill)
  all_goals simp [h, AccOp.granuleOp] at hop

theorem homeStep_admitted (s : State) {a : Access} (hop : a.op.granuleOp = true) (fill : Option (BitVec 32 × Stamp)) :
    HomeStep s (s.admitted a fill).1 := by
  obtain h | h := admitted_steps s hop fill
  · exact (homeStep_settle ..).trans h
  · exact (homeStep_acknowledge ..).trans h

theorem offWay_admitted (s : State) {a : Access} (hop : a.op.granuleOp = true) (fill : Option (BitVec 32 × Stamp)) :
    (s.admitted a fill).1.offWay a.id := by
  obtain h | h := admitted_steps s hop fill
  · exact h.offWay (offWay_settle _ _)
  · exact h.offWay (offWay_acknowledge _ _)

/-- Whatever waits at a granule is served by performing full/empty requests. -/
theorem homeStep_serveFrom (l : Loc) (fuel : Nat) (s : State) (fill : Option (BitVec 32 × Stamp)) :
    HomeStep s (s.serveFrom l fill fuel) := by
  induction fuel generalizing s fill with
  | zero => exact .refl s
  | succ fuel ih =>
    unfold State.serveFrom
    split
    · exact .refl s
    · next a ha =>
      have hop : a.op.granuleOp = true := by
        have h := List.find?_some ha
        simp only [Bool.and_eq_true] at h
        exact h.1.1.2
      exact (homeStep_admitted s hop fill).trans (ih ..)

theorem homeStep_serve (s : State) (l : Loc) (fill : Option (BitVec 32 × Stamp)) : HomeStep s (s.serve l fill) :=
  homeStep_serveFrom ..

theorem homeStep_fillGranule (s : State) (l : Loc) (v : Nat) (b : BitVec 32) (z : Stamp) : HomeStep s (s.fillGranule l v b z) :=
  ((homeStep_homeWrite ..).trans (homeStep_setGranule ..)).trans (homeStep_serve ..)

/-! ## Sum accesses (R228 to R231) -/

/-- The bits of its context's SUM_STATUS that a sum access of an HBM word sets (R231). -/
def State.sumMissed (s : State) (a : Access) (pa : Nat) : BitVec 2 :=
  match a.op with
  | .sumAdd _ _ => if s.sumSlot? a.ctx pa = none then 1 else 0
  | .sumOff _ => if s.sumSlot? a.ctx pa = none then 2 else 0
  | _ => 0

theorem sumFlag_ctx? (s : State) (i j : Nat) (b : BitVec 2) : (s.sumFlag i b).ctx? j =
    (s.ctx? j).map fun c => if c.id == i then { c with sumStatus := c.sumStatus ||| b } else c := ctx?_updCtx s i j _ fun _ => rfl

theorem sumFlag_sumStatus (s : State) (i : Nat) (b : BitVec 2) :
    ((s.sumFlag i b).ctx? i).map (·.sumStatus) = ((s.ctx? i).map (·.sumStatus)).map (fun x => x ||| b) := by
  rw [sumFlag_ctx?]
  cases h : s.ctx? i with
  | none => rfl
  | some c => simp [ctx?_id h]

/-- To set no bit of SUM_STATUS is to change none. -/
theorem homeStep_sumFlag_zero (s : State) (i : Nat) : HomeStep (s.sumFlag i 0) s := by
  refine ⟨List.prefix_rfl, goesOn_of_subset (List.Subset.refl _), fun j => ?_⟩
  rw [sumFlag_ctx?, Option.map_map]
  refine congrArg (Option.map · (s.ctx? j)) (funext fun c => ?_)
  dsimp only [Function.comp_apply]
  split <;> simp

theorem homeStep_sumRead (s : State) (a : Access) (x : SumSlot) : HomeStep s (s.sumRead a x).2 := by
  unfold State.sumRead
  split
  · exact (homeStep_newFree s).trans (homeStep_chargeRead ..)
  · exact .refl s

/-- A sum access sets its bits of SUM_STATUS, and is performed. -/
theorem homeStep_sumAccess (s : State) (a : Access) (pa : Nat) :
    HomeStep (s.sumFlag a.ctx (s.sumMissed a pa)) (s.sumAccess a pa) := by
  have hnone := homeStep_sumFlag_zero s a.ctx
  cases hop : a.op
  case sumOn =>
    simp only [State.sumAccess, State.sumMissed, hop]
    refine hnone.trans (.trans ?_ (homeStep_reply ..))
    split
    · exact homeStep_sums ..
    · exact .refl s
  case sumAdd =>
    simp only [State.sumAccess, State.sumMissed, hop]
    refine .trans ?_ ((homeStep_stampGroup ..).trans (homeStep_reply ..))
    cases s.sumSlot? a.ctx pa with
    | none => exact .refl _
    | some x => exact hnone.trans ((homeStep_sumRead ..).trans (homeStep_sums ..))
  case sumOff =>
    simp only [State.sumAccess, State.sumMissed, hop]
    cases s.sumSlot? a.ctx pa with
    | none => exact homeStep_reply ..
    | some x =>
      refine hnone.trans (.trans ?_ (homeStep_reply ..))
      exact ((homeStep_sumRead s a x).trans (homeStep_sums ..)).trans (homeStep_homeWrite ..)
  all_goals
    simp only [State.sumAccess, State.sumMissed, hop]
    exact hnone

/-! ## An access of an HBM word -/

/-- A request that must wait is on its way no more. -/
theorem offWay_hold (s : State) (a : Access) (full : Bool) (home : BitVec 32) : (s.hold a full home).offWay a.id := by
  unfold State.hold
  split
  · exact offWay_settle _ _
  · split
    · intro x hx hi
      obtain hx | hx := List.mem_append.mp hx
      · simp [hi] at hx
      · rw [List.mem_singleton.mp hx]; exact nofun
    · intro y hy hi
      obtain ⟨x, -, rfl⟩ := List.mem_map.mp hy
      split
      · exact nofun
      · next h => rw [if_neg h] at hi; simp [hi] at h

theorem hold_sumStatus (s : State) (a : Access) (full : Bool) (home : BitVec 32) (i : Nat) :
    ((s.hold a full home).ctx? i).map (·.sumStatus) = (s.ctx? i).map (·.sumStatus) := by
  unfold State.hold
  split
  · exact ((homeStep_passGrant s a).trans (homeStep_settle _ a.id)).sumStatus i
  · split <;> rfl

/-- A home has performed an access, which is on its way no more, or has found after a step that it must wait. -/
def DealtWith (s : State) (a : Access) (full : Bool) (home : BitVec 32) (s' : State) : Prop :=
  ∃ s1, HomeStep s s1 ∧ (s' = s1 ∧ s1.offWay a.id ∨ s' = s1.hold a full home)

section
variable {s0 s s' : State} {a : Access} {full : Bool} {home : BitVec 32}

theorem DealtWith.after (h : HomeStep s0 s) (h' : DealtWith s a full home s') : DealtWith s0 a full home s' := by
  obtain ⟨s1, hs, hend⟩ := h'
  exact ⟨s1, h.trans hs, hend⟩

theorem DealtWith.of_settle (h : HomeStep s0 s) (h' : HomeStep (s.settle a.id) s') : DealtWith s0 a full home s' :=
  ⟨s', (h.trans (homeStep_settle ..)).trans h', .inl ⟨rfl, h'.offWay (offWay_settle _ _)⟩⟩

theorem DealtWith.of_acknowledge (h : HomeStep s0 s) (h' : HomeStep (s.acknowledge a) s') : DealtWith s0 a full home s' :=
  ⟨s', (h.trans (homeStep_acknowledge ..)).trans h', .inl ⟨rfl, h'.offWay (offWay_acknowledge _ _)⟩⟩

theorem DealtWith.offWay (h : DealtWith s a full home s') : s'.offWay a.id := by
  obtain ⟨s1, -, ⟨rfl, hoff⟩ | rfl⟩ := h
  · exact hoff
  · exact offWay_hold _ _ _ _

theorem DealtWith.sumStatus (h : DealtWith s a full home s') (i : Nat) :
    (s'.ctx? i).map (·.sumStatus) = (s.ctx? i).map (·.sumStatus) := by
  obtain ⟨s1, hs, ⟨rfl, -⟩ | rfl⟩ := h
  · exact hs.sumStatus i
  · exact (hold_sumStatus ..).trans (hs.sumStatus i)

end

/-- A full/empty request or AWAIT is performed on arrival, or must wait. -/
theorem dealtWith_arrive (s : State) {a : Access} (peer : Wide) (full : Bool) (home : BitVec 32) (hop : a.waiter = true) :
    DealtWith s a full home (s.arrive a peer full home) := by
  have hread := homeStep_accRead s a peer
  unfold State.arrive
  split
  · dsimp only
    split
    · exact .of_settle (hread.trans (homeStep_passGrant ..)) (homeStep_reply ..)
    · exact ⟨_, hread, .inr rfl⟩
  · next hawait =>
    have hgran : a.op.granuleOp = true := by
      cases h : a.op
      case await c v d => exact absurd h (hawait c v d)
      case ldfe | stfe | feinit => rfl
      all_goals simp [Access.waiter, h] at hop
    dsimp only
    split
    · have hserve (t) := homeStep_serve (((s.granuleRead a).passGrant a).admitted a none).1 a.loc t
      exact ⟨_, (((homeStep_granuleRead ..).trans (homeStep_passGrant ..)).trans (homeStep_admitted _ hgran _)).trans (hserve _),
        .inl ⟨rfl, (hserve _).offWay (offWay_admitted _ hgran _)⟩⟩
    · exact ⟨_, homeStep_granuleRead .., .inr rfl⟩

/-- A sum access is performed, and sets its bits of SUM_STATUS. -/
theorem dealtWith_sumAccess (s : State) (a : Access) (pa : Nat) (full : Bool) (home : BitVec 32) :
    DealtWith (s.sumFlag a.ctx (s.sumMissed a pa)) a full home ((s.settle a.id).sumAccess a pa) :=
  .of_settle (s := s.sumFlag a.ctx (s.sumMissed a pa)) (.refl _) (homeStep_sumAccess (s.settle a.id) a pa)

/-- An access of an HBM word is performed or must wait; a sum access without a slot sets its bit of SUM_STATUS. -/
theorem dealtWith_commit {s : State} {a : Access} {pa : Nat} (hloc : a.loc = .hbm pa) (peer : Wide) (full : Bool)
    (mark : PeerMark) : DealtWith (s.sumFlag a.ctx (s.sumMissed a pa)) a full mark.who (s.commit a peer full mark) := by
  have hplace : (Loc.hbm pa == .nowhere) = false := rfl
  have hnone := homeStep_sumFlag_zero s a.ctx
  have hread := hnone.trans (homeStep_accRead s a peer)
  have hsum := dealtWith_sumAccess s a pa full mark.who
  unfold State.commit
  simp only [hloc, hplace, Bool.false_eq_true, if_false]
  cases hop : a.op
  case sumOn | sumAdd | sumOff => exact hsum
  all_goals simp only [State.sumMissed, hop]
  case load e d => exact .of_settle hread (homeStep_reply ..)
  case store v =>
    split
    · exact .of_settle hnone ((homeStep_accWrite ..).trans (homeStep_reply ..))
    · exact .of_acknowledge hnone (homeStep_accWrite ..)
  case rmw op v e dst =>
    refine .of_settle hread (.trans (s' := match atomicValue op (8 * a.size) (s.accRead a peer).1 v.toNat e.toNat with
      | some x => ((s.accRead a peer).2.settle a.id).accWrite a x
      | none => (s.accRead a peer).2.settle a.id) ?_ ?_)
    · split
      · exact homeStep_accWrite ..
      · exact .refl _
    · cases dst with
      | none => exact (homeStep_stampGroup ..).trans (homeStep_reply ..)
      | some d => exact homeStep_reply ..
  case push k v => exact .of_settle hnone (homeStep_accWrite ..)
  case mst v => exact .of_settle hnone (homeStep_fillGranule ..)
  case await | ldfe | stfe | feinit =>
    exact .after hnone (dealtWith_arrive s peer full mark.who (by simp [Access.waiter, hop]))

end Sys2Proof.Machine
end

section
/-! SUPPORT. Requests of channel cores and banks (R197, R200, R220, R226, R227): a request that must wait, an AWAIT at its channel
core, the ages of requests and those that others have passed, and the grant of a free entry. -/

namespace Sys2Proof.Machine

/-! ## Lists of waiting requests (R197, R220, R227) -/

/-- Serving an access moves on banks' arbiters and the counts of what passed the requests on their way. -/
theorem servedFor_passes (s : State) (a : Access) : ∃ (k : List Cluster) (f : Access → Nat),
    s.servedFor a = { s with clusters := k, accs := s.accs.map fun x => { x with passedBy := f x } } ∧
      ∀ x : Access, x.phase ≠ .sent → f x = x.passedBy := by
  obtain ⟨k, hk⟩ := bankServed_shape s a.loc a.size a.core
  rw [State.servedFor, hk]
  unfold State.countPass State.passBelow
  split
  · next pa _ =>
    refine ⟨k, fun x => if x.phase == .sent && decide (x.id < a.id) && x.channel == some (channelOf pa) then x.passedBy + 1
      else x.passedBy, ?_, fun x hx => by simp [hx]⟩
    refine congrArg (fun f => { s with clusters := k, accs := s.accs.map f }) (funext fun x => ?_)
    dsimp only
    split <;> rfl
  · exact ⟨k, Access.passedBy, by rw [show (fun x : Access => { x with passedBy := x.passedBy }) = id from rfl, List.map_id],
      fun _ _ => rfl⟩

/-- Serving an access takes and frees no entry of a list. -/
theorem servedFor_waitingAt (s : State) (a : Access) (key : Nat) : (s.servedFor a).waitingAt key = s.waitingAt key := by
  obtain ⟨k, f, h, -⟩ := servedFor_passes s a
  rw [h, State.waitingAt, State.waitingAt, List.filter_map, List.length_map]
  rfl

/-- Requests of HBM words wait on lists of this device. -/
theorem peerList_hbm {a : Access} {pa : Nat} (hloc : a.loc = .hbm pa) : peerList a.listKey = false := by
  simp only [peerList, Access.listKey, hloc, channelOf, peerLists, decide_eq_false_iff_not]
  split <;> omega

/-- So do requests of the scratchpads of clusters. -/
theorem peerList_spad {a : Access} {phys off : Nat} (hloc : a.loc = .spad phys off) (hp : a.loc.present = true) :
    peerList a.listKey = false := by
  simp only [hloc, Loc.present, decide_eq_true_eq] at hp
  simp only [peerList, Access.listKey, hloc, peerLists, decide_eq_false_iff_not]
  omega

/-- A request that must wait takes the entry that its core has been granted or that its list has free. -/
theorem hold_waits {s : State} {a : Access} (hc : a.cancelled = false) (hlist : peerList a.listKey = false)
    (hroom : a.granted = true ∨ s.waitingAt a.listKey < listRoom a.listKey) (full : Bool) (home : BitVec 32) :
    (s.servedFor a).hold a full home = { s.servedFor a with
      accs := (s.servedFor a).accs.filter (fun x => x.id != a.id) ++ [{ a with phase := .waiting, granted := false }] } := by
  have hentry : (s.servedFor a).entryFor a full = true := by
    simp only [State.entryFor, hlist, Bool.false_eq_true, if_false, servedFor_waitingAt, Bool.or_eq_true, decide_eq_true_eq]
    exact hroom
  simp only [State.hold, hc, hentry, Bool.false_eq_true, if_false, if_true]

/-! ## AWAIT at its channel core (R226) -/

theorem passGrant_arrivals (s : State) (a : Access) : (s.passGrant a).arrivals = s.arrivals := by
  obtain ⟨f, h⟩ := passGrant_shape s a
  rw [h]

/-- An AWAIT of a sound HBM word is performed at once where the word satisfies it, and must wait where not. -/
theorem commit_await {s : State} {a : Access} {pa : Nat} {c : AwCond} {v : Word} {d : IReg} (hloc : a.loc = .hbm pa)
    (hop : a.op = .await c v d) (hsound : s.poisoned a.loc a.size = false) (peer : Wide) (full : Bool) (mark : PeerMark) :
    s.commit a peer full mark = if awSays c a.size (Mem.getLE s.mem pa a.size) v.toNat then
      ((s.passGrant a).settle a.id).reply a [(.int d, BitVec.ofNat 256 (Mem.getLE s.mem pa a.size))] .await_ 0 0 a.stamp
      else s.hold a full mark.who := by
  have hplace : (Loc.hbm pa == .nowhere) = false := rfl
  rw [hloc] at hsound
  have hread := homeRead_sound (c := a.ctx) (g := some a.group) (w := a.uid.bind s.thread?) hsound
  simp only [State.commit, hloc, hplace, hop, State.arrive, State.accRead, hread, awHolds_eq_awSays, Bool.false_eq_true, if_false]
  rfl

theorem accessPerform_await {s : State} {a : Access} {u pa : Nat} {c : AwCond} {v : Word} {d : IReg} (ans : PeerAnswer)
    (hnow : PerformsNow s a) (hloc : a.loc = .hbm pa) (hsound : s.poisoned a.loc a.size = false) (hu : a.uid = some u)
    (hc : a.cancelled = false) (hop : a.op = .await c v d)
    (hroom : a.granted = true ∨ s.waitingAt a.listKey < listRoom a.listKey) : ∃ s' : State,
      exec (.accessPerform a.id ans) s = .next s' ∧ s'.mem = s.mem ∧
        if awSays c a.size (Mem.getLE s.mem pa a.size) v.toNat then ∃ r : Arrival, s'.arrivals = s.arrivals ++ [r] ∧ r.uid = u ∧
          r.writes = [(.int d, BitVec.ofNat 256 (Mem.getLE s.mem pa a.size))]
        else s' = { s.servedFor a with
          accs := (s.servedFor a).accs.filter (fun y => y.id != a.id) ++ [{ a with phase := .waiting, granted := false }] } := by
  obtain ⟨k, x, hserved⟩ := servedFor_shape s a
  have hcommit := commit_await hloc hop (s := s.servedFor a) (by rw [hserved]; exact hsound) ans.value ans.full ans.mark
  rw [show (s.servedFor a).mem = s.mem by rw [hserved]] at hcommit
  refine ⟨_, (exec_accessPerform hnow ans).trans (congrArg _ hcommit), ?_⟩
  split
  · obtain ⟨r, hreply, huid, hwrites, -⟩ := reply_arrives (s := ((s.servedFor a).passGrant a).settle a.id) hu hc
      [(.int d, BitVec.ofNat 256 (Mem.getLE s.mem pa a.size))] .await_ 0 0 a.stamp
    rw [hreply]
    refine ⟨?_, r, ?_, huid, hwrites⟩
    · rw [State.settle_mem, passGrant_mem, hserved]
    · rw [State.settle_arrivals, passGrant_arrivals, hserved]
  · rw [hold_waits hc (peerList_hbm hloc) hroom]
    exact ⟨by rw [hserved], rfl⟩

/-! ## REQUEST_AGED and REQUEST_PASS_LIMIT (R197, R200) -/

/-- A scratchpad request on its way that has no age gets the present time, and every other access stays. -/
theorem requestAged_ages {s : State} {a : Access} (hfind : s.accs.find? (fun x => x.id == a.id) = some a)
    (hsent : a.phase = .sent) (hloc : ∃ ph off, a.loc = .spad ph off) (hage : a.agedAt = none) (hop : ∀ v, a.op ≠ .mst v) :
    ∃ s' : State, exec (.requestAged a.id) s = .next s' ∧
      s'.accs.find? (fun x => x.id == a.id) = some { a with agedAt := some s.now } ∧ ∀ x ∈ s.accs, x.id ≠ a.id → x ∈ s'.accs := by
  obtain ⟨ph, off, hloc⟩ := hloc
  have hbanks : (a.loc.banks a.size).isSome = true := by rw [hloc]; rfl
  refine ⟨_, rfl, ?_, fun x hx hid => List.mem_map.mpr ⟨x, hx, if_neg (by simp [hid])⟩⟩
  dsimp only
  rw [List.find?_map]
  refine (congrArg _ ((congrArg (s.accs.find? ·) (funext fun x => ?_)).trans hfind)).trans ?_
  · simp only [Function.comp_apply, apply_ite Access.id, ite_self]
  · refine congrArg some (if_pos ?_)
    simp only [beq_self_eq_true, hsent, hbanks, hage, Option.isNone_none, Bool.and_self]

/-- A channel-core request that 64 others have passed is performed as ACCESS_PERFORM performs it. -/
theorem exec_requestPassLimit {s : State} {a : Access} {pa : Nat} (hnow : PerformsNow s a) (hloc : a.loc = .hbm pa)
    (hpass : 64 ≤ a.passedBy) : exec (.requestPassLimit a.id) s = .next (s.perform a PeerAnswer.none) := by
  obtain ⟨hfind, hperf, hyields⟩ := hnow
  change execRequestPassLimit a.id s = _
  have hchannel : a.channel.isSome = true := by rw [Access.channel, hloc]; rfl
  simp only [execRequestPassLimit, hfind, hchannel, hpass, decide_true, hperf, hyields, Bool.not_false, Bool.and_self, if_true]

/-- An access of an HBM word that its home performs is on its way no more. -/
theorem offWay_perform {s : State} {a : Access} {pa : Nat} (hloc : a.loc = .hbm pa) (ans : PeerAnswer) :
    (s.perform a ans).offWay a.id := (dealtWith_commit (s := s.servedFor a) hloc ans.value ans.full ans.mark).offWay

/-! ## OUTBOUND_RESEND (R220, R227) -/

/-- The requester whose turn it is takes the free entry, and sends again what it holds for the list. -/
theorem outboundResend_grants {s : State} {a : Access} {u : UnitId} {key : Nat} (hlist : UnitId.list u = some key)
    (hroom : peerList key = true ∨ s.waitingAt key < listRoom key)
    (hfind : (s.accs.filter fun x => x.phase == .outbound && x.waiter && x.listKey == key && x.loc.present).find?
      (fun x => x.requester == a.requester) = some a)
    (hturn : roundRobin (s.watchLast.lookup key)
      ((s.accs.filter fun x => x.phase == .outbound && x.waiter && x.listKey == key && x.loc.present).map Access.requester) =
        some a.requester) :
    exec (.outboundResend u) s =
      .next { s.resend a with watchLast := (key, a.requester) :: s.watchLast.filter (·.1 != key) } := by
  have hfree : (!peerList key && decide (listRoom key ≤ s.waitingAt key)) = false := by
    obtain h | h := hroom
    · simp [h]
    · simp [Nat.not_le.mpr h]
  change execOutboundResend u s = _
  simp only [execOutboundResend, hlist, hturn, Option.bind_some, hfind]
  rw [if_neg (by simpa using hfree)]

/-- Settles O24: each clause is the rule of its event. -/
theorem watchesAndResends : Obligations.WatchesAndResends := by
  intro s a
  refine ⟨?_, fun hfind hsent hloc hage hop => requestAged_ages hfind hsent hloc hage hop, ?_, ?_⟩
  · intro ans u pa c v d hnow hloc hsound hu hc _ hop hroom
    exact accessPerform_await ans hnow hloc hsound hu hc hop hroom
  · rintro hnow ⟨pa, hloc⟩ hpass
    exact ⟨_, exec_requestPassLimit hnow hloc hpass, exec_accessPerform hnow _, offWay_perform hloc _⟩
  · intro u key hlist hroom held hfind hturn
    refine ⟨_, outboundResend_grants hlist hroom hfind hturn, by simp, ?_⟩
    simp only [State.resend, Bool.and_eq_true, beq_iff_eq]

end Sys2Proof.Machine
end

section
/-! SUPPORT. A refutation of O22, for the reason of O21's: the statement is for every state, and an AWAIT at HBM address 2^41
overlaps the first bytes of scratchpad 0 by the keys of the two places, while an atomic there looks at no AWAIT. -/

namespace Sys2Proof.Machine

/-- An exchange of the first eight bytes of scratchpad 0 for zeros, on its way. -/
def spadExchange : Access := { spadStore with op := .rmw 8 0 0 (some .zero) }

/-- The reset state with it and the AWAIT of O21's refutation. -/
def aliasedExchange : State := { State.reset with accs := [spadExchange, farWatch] }

theorem performsNow_spadExchange : PerformsNow aliasedExchange spadExchange := ⟨rfl, by decide +kernel, by decide +kernel⟩

theorem watching_farWatch : Watching aliasedExchange spadExchange farWatch :=
  ⟨by simp [aliasedExchange], by simp [aliasedExchange, farWatch, spadExchange, spadStore], rfl, by decide +kernel⟩

/-- After the exchange the AWAIT is still there, and its word is 0. -/
theorem accessPerform_spadExchange {s' : State}
    (he : exec (.accessPerform spadExchange.id PeerAnswer.none) aliasedExchange = .next s') : (∃ y ∈ s'.accs, y.id = farWatch.id) ∧
      awSays .eq farWatch.size (Mem.getLE s'.mem (2 ^ 41) farWatch.size) (0 : Word).toNat = true := by
  have h : (match exec (.accessPerform spadExchange.id PeerAnswer.none) aliasedExchange with
      | .next s => s.accs.any (fun y => y.id == farWatch.id)
          && awSays .eq farWatch.size (Mem.getLE s.mem (2 ^ 41) farWatch.size) (0 : Word).toNat
      | _ => false) = true := by decide +kernel
  rw [he] at h
  simpa using h

/-- Refutes O22: an atomic need not place an AWAIT that its word satisfies. -/
theorem not_atomicIsPerformed : ¬ Obligations.AtomicIsPerformed := by
  unfold Obligations.AtomicIsPerformed
  intro h
  obtain ⟨s', r, he, -, -, -, -, -, -, -, -, -, hplaced⟩ := h aliasedExchange spadExchange PeerAnswer.none 3 64 8 0 0 (some .zero)
    rfl performsNow_spadExchange ⟨nofun, nofun⟩ rfl (fun w _ _ _ => rfl) rfl (.inr rfl) rfl rfl rfl rfl (by decide)
  obtain ⟨⟨y, hy, hid⟩, hsays⟩ := accessPerform_spadExchange he
  exact (hplaced nofun farWatch watching_farWatch).gone rfl rfl rfl rfl rfl hsays y hy hid

end Sys2Proof.Machine
end

section
/-! SUPPORT. Exact sum slots (R228 to R231): what each sum access does with the slot of its word, what it owes its thread and what
its context's SUM_STATUS shows. -/

namespace Sys2Proof.Machine

/-! ## The AWAITs that a write looks at (R211, R226) -/

/-- A write at an HBM word places the AWAITs that wait on a byte of it and that their words satisfy now. -/
theorem placedBy_homeWrite {s : State} {a x : Access} {pa n v : Nat} (hloc : a.loc = .hbm pa) (hx : x ∈ s.accs)
    (huniq : ∀ y ∈ s.accs, y.id = x.id → y = x) (hwait : x.phase = .waiting) (hover : x.loc.overlaps x.size a.loc n = true)
    (hsound : s.poisoned x.loc x.size = false) : PlacedBy (s.homeWrite a.loc n v a.handle a.stamp) a x := by
  intro pa' u c y d hpa' hop hu hc _
  have hkey : x.loc.key = pa' := by rw [hpa']; rfl
  have hmem := homeWrite_mem s a.loc n v a.handle a.stamp
  rw [hloc] at hover hmem ⊢
  rw [hmem, ← hkey]
  unfold State.homeWrite
  dsimp only
  rw [wake_eq_foldl]
  refine placed_foldl_wakeOne (s := { s.write (.hbm pa) n v with poison := _ }) a.handle a.stamp hop ?_ hu hc hx
    (List.mem_filter.mpr ⟨hx, by simp [hwait, hover]⟩) fun y hy => huniq y (List.mem_filter.mp hy).1
  refine List.any_eq_false.mpr fun p hp => ?_
  exact List.any_eq_false.mp hsound p (List.mem_filter.mp hp).1

/-- A reply leaves what a write has placed. -/
theorem PlacedBy.reply {s : State} {a x : Access} (h : PlacedBy s a x) (y : Access) (w : List (Operand × Wide)) (r : Prod) (k : Nat)
    (b : BitVec 32) (z : Stamp) : PlacedBy (s.reply y w r k b z) a x := by
  intro pa u c v d hpa hop hu hc hr
  have hplaced := h pa u c v d hpa hop hu hc hr
  rw [reply_accs, reply_mem]
  split at hplaced
  · next hsays =>
    rw [if_pos hsays]
    obtain ⟨hgone, q, hq, hrest⟩ := hplaced
    exact ⟨hgone, q, (homeStep_reply ..).arrivals.subset hq, hrest⟩
  · next hsays =>
    rw [if_neg hsays]
    exact hplaced

/-- An AWAIT that waits on a byte of an access that is performed stays, alone under its id, when the access is settled. -/
theorem watching_settle {s : State} {a x : Access} (hnow : PerformsNow s a) (hx : Watching s a x) :
    x ∈ ((s.servedFor a).settle a.id).accs ∧ ∀ y ∈ ((s.servedFor a).settle a.id).accs, y.id = x.id → y = x := by
  obtain ⟨hfind, hperf, -⟩ := hnow
  obtain ⟨hmem, huniq, hwait, -⟩ := hx
  obtain ⟨k, f, hserved, hpass⟩ := servedFor_passes s a
  have hsent : a.phase = .sent := by
    simp only [State.performable, Bool.and_eq_true, beq_iff_eq] at hperf
    exact hperf.1.1
  have hid : x.id ≠ a.id := fun hid => by
    rw [← huniq a (List.mem_of_find?_eq_some hfind) hid.symm, hsent] at hwait
    cases hwait
  have hsame : { x with passedBy := f x } = x := by rw [hpass x (by rw [hwait]; exact nofun)]
  rw [hserved]
  refine ⟨List.mem_filter.mpr ⟨List.mem_map.mpr ⟨x, hmem, hsame⟩, by simpa using hid⟩, fun y hy hyx => ?_⟩
  obtain ⟨z, hz, rfl⟩ := List.mem_map.mp (List.mem_filter.mp hy).1
  rw [huniq z hz hyx, hsame]

/-! ## Sum accesses (R228 to R231) -/

section
variable {s : State} {a : Access} {pa u : Nat}

/-- A sum access of an HBM word is settled and goes to its slot. -/
theorem commit_sum (hloc : a.loc = .hbm pa)
    (hop : (∃ p q, a.op = .sumOn p q) ∨ (∃ f v, a.op = .sumAdd f v) ∨ ∃ d, a.op = .sumOff d) (peer : Wide) (full : Bool)
    (mark : PeerMark) : s.commit a peer full mark = (s.settle a.id).sumAccess a pa := by
  have hplace : (Loc.hbm pa == .nowhere) = false := rfl
  obtain ⟨p, q, hop⟩ | ⟨f, v, hop⟩ | ⟨d, hop⟩ := hop <;>
    simp only [State.commit, hloc, hplace, hop, Bool.false_eq_true, if_false]

/-- The reply to a thread's access acknowledges a reduction exactly where the access counts as one (R225). -/
theorem reply_counts (hu : a.uid = some u) (hc : a.cancelled = false) (ws : List (Operand × Wide)) (pr : Prod) (k : Nat)
    (b : BitVec 32) (z : Stamp) : ∃ r : Arrival, (s.reply a ws pr k b z).arrivals = s.arrivals ++ [r] ∧ r.uid = u ∧ r.red = a.red ∧
      r.writes = ws := by
  unfold State.reply
  simp only [hu, hc, Bool.false_and, Bool.false_eq_true, if_false]
  exact ⟨_, rfl, rfl, rfl, rfl⟩

theorem reply_sums (x : Access) (w : List (Operand × Wide)) (r : Prod) (k : Nat) (b : BitVec 32) (z : Stamp) :
    (s.reply x w r k b z).sums = s.sums := by
  obtain h | ⟨o, h⟩ | ⟨y, h⟩ := reply_cases s x w r k b z <;> simp [h]

/-- An addend leaves a slot with its context and word. -/
theorem SumSlot.take_place (x : SumSlot) (f : Fmt) (v : Word) : (x.take f v).ctx = x.ctx ∧ (x.take f v).pa = x.pa := by
  unfold SumSlot.take
  split
  · exact ⟨rfl, rfl⟩
  · split <;> exact ⟨rfl, rfl⟩

/-- SUMON answers whether its word has a slot or gets one (R228). -/
theorem sumAccess_sumOn (hu : a.uid = some u) (hc : a.cancelled = false) {p q : PReg} (hop : a.op = .sumOn p q) :
    let ok : Bool := (s.sumSlot? a.ctx pa).isSome || decide ((s.sums.filter fun x => channelOf x.pa == channelOf pa).length < 64)
    ((s.sumAccess a pa).sumSlot? a.ctx pa).isSome = ok ∧ (s.sumAccess a pa).mem = s.mem ∧ ∃ r : Arrival,
      (s.sumAccess a pa).arrivals = s.arrivals ++ [r] ∧ r.uid = u ∧
        r.writes = [(.pred p, if ok then 1 else 0), (.pred q, if ok then 0 else 1)] := by
  intro ok
  simp only [State.sumAccess, hop]
  split
  · next h =>
    obtain ⟨hbound, hfree⟩ := Bool.and_eq_true_iff.mp h
    have hok : ok = true := by simp [ok, hfree]
    obtain ⟨r, harr, huid, -, hws⟩ := reply_counts (s := { s with sums := s.sums ++ [⟨a.ctx, pa, 0, false, false, false, 0, false⟩] })
      hu hc [(.pred p, BitVec.ofNat 256 ok.toNat), (.pred q, BitVec.ofNat 256 (!ok).toNat)] .other 0 0 a.stamp
    refine ⟨?_, reply_mem .., r, harr, huid, ?_⟩
    · rw [hok, State.sumSlot?, reply_sums, List.find?_append]
      simp
    · rw [hws, hok]; rfl
  · next h =>
    obtain ⟨r, harr, huid, -, hws⟩ := reply_counts (s := s) hu hc
      [(.pred p, BitVec.ofNat 256 ok.toNat), (.pred q, BitVec.ofNat 256 (!ok).toNat)] .other 0 0 a.stamp
    have hok : (s.sumSlot? a.ctx pa).isSome = ok := by
      cases hb : (s.sumSlot? a.ctx pa).isSome with
      | true => simp [ok, hb]
      | false =>
        have hfull : decide ((s.sums.filter fun x => channelOf x.pa == channelOf pa).length < 64) = false := by
          simpa only [hb, Bool.not_false, Bool.true_and, Bool.not_eq_true] using h
        simp only [ok, hb, hfull, Bool.or_self]
    refine ⟨?_, reply_mem .., r, harr, huid, ?_⟩
    · rw [← hok, State.sumSlot?, reply_sums]; rfl
    · rw [hws]; cases ok <;> rfl

/-- SUMADD adds to the slot of its word and acknowledges (R229). -/
theorem sumAccess_sumAdd (hu : a.uid = some u) (hc : a.cancelled = false) {f : Fmt} {v : Word} (hop : a.op = .sumAdd f v)
    (hbad : ∀ x, s.sumSlot? a.ctx pa = some x → x.bad = false) :
    (s.sumAccess a pa).mem = s.mem ∧
      (∀ x, s.sumSlot? a.ctx pa = some x → (s.sumAccess a pa).sumSlot? a.ctx pa = some (x.take f v)) ∧ ∃ r : Arrival,
        (s.sumAccess a pa).arrivals = s.arrivals ++ [r] ∧ r.uid = u ∧ r.red = a.red ∧ r.writes = [] := by
  simp only [State.sumAccess, hop, reply_mem, State.stampGroup_mem]
  cases hx : s.sumSlot? a.ctx pa with
  | none =>
    exact ⟨rfl, nofun, reply_counts (s := (s.sumFlag a.ctx 1).stampGroup a.group a.stamp) hu hc ..⟩
  | some x =>
    simp only [State.sumRead, hbad x hx, Bool.false_eq_true, if_false, Option.some.injEq]
    refine ⟨trivial, ?_, reply_counts (s := State.stampGroup { s with sums := _ } a.group a.stamp) hu hc ..⟩
    rintro _ rfl
    have hplace := List.find?_some hx
    rw [State.sumSlot?, reply_sums, State.stampGroup_sums, List.find?_map]
    refine (congrArg _ ((congrArg (s.sums.find? ·) (funext fun y => ?_)).trans hx)).trans (congrArg some (if_pos hplace))
    dsimp only [Function.comp_apply]
    split
    · rw [(y.take_place f v).1, (y.take_place f v).2]
    · rfl

theorem wakeOne_sums (b : BitVec 32) (z : Stamp) (s : State) (x : Access) : (s.wakeOne b z x).sums = s.sums := by
  unfold State.wakeOne
  obtain ⟨_, _, _, _, _, _, _, h⟩ := homeRead_shape s x.loc x.size x.ctx (some x.group) (x.uid.bind s.thread?)
  dsimp only
  split
  · split
    · rw [reply_sums, State.settle_sums, h]
    · rw [h]
  · rfl

theorem homeWrite_sums (s : State) (l : Loc) (n v : Nat) (b : BitVec 32) (z : Stamp) : (s.homeWrite l n v b z).sums = s.sums := by
  unfold State.homeWrite
  split
  · rw [wake_eq_foldl, foldl_keeps State.sums _ (wakeOne_sums b z)]; rfl
  · rfl

/-- SUMOFF of a word with a slot writes the slot's total, frees the slot and places AWAITs (R230). -/
theorem sumAccess_sumOff_bound (hwf : Mem.wf s.mem = true) (hloc : a.loc = .hbm pa) (hu : a.uid = some u)
    (hc : a.cancelled = false) {d : IReg} (hop : a.op = .sumOff d) {x : SumSlot} (hx : s.sumSlot? a.ctx pa = some x)
    (hbad : x.bad = false) :
    StoredInto s.mem (s.sumAccess a pa).mem pa 8 x.value ∧ (s.sumAccess a pa).sumSlot? a.ctx pa = none ∧
      (∃ r ∈ (s.sumAccess a pa).arrivals, r.uid = u ∧ r.writes = [(.int d, BitVec.ofNat 256 x.value)]) ∧
      ∀ y ∈ s.accs, (∀ z ∈ s.accs, z.id = y.id → z = y) → y.phase = .waiting → y.loc.overlaps y.size a.loc 8 = true →
        s.poisoned y.loc y.size = false → PlacedBy (s.sumAccess a pa) a y := by
  simp only [State.sumAccess, hop, hx, State.sumRead, hbad, Bool.false_eq_true, if_false]
  obtain ⟨r, harr, huid, -, hws⟩ := reply_counts (s := (s.dropSum a.ctx pa).homeWrite a.loc 8 x.value a.arriver a.stamp) hu hc
    [(.int d, BitVec.ofNat 256 x.value)] .other 0 0 a.stamp
  refine ⟨?_, ?_, ⟨r, by rw [harr]; simp, huid, hws⟩, fun y hy huniq hwait hover hsound => ?_⟩
  · rw [reply_mem, homeWrite_mem, hloc]
    exact Mem.get_setLE hwf
  · rw [State.sumSlot?, reply_sums, homeWrite_sums]
    exact List.find?_eq_none.mpr fun y hy => by
      simpa only [Bool.not_eq_true', Bool.not_eq_true] using (List.mem_filter.mp hy).2
  · exact PlacedBy.reply (placedBy_homeWrite (s := s.dropSum a.ctx pa) hloc hy huniq hwait hover hsound) _ _ _ _ _ _

/-- SUMOFF of a word without a slot owes all ones (R230). -/
theorem sumAccess_sumOff_unbound (hu : a.uid = some u) (hc : a.cancelled = false) {d : IReg} (hop : a.op = .sumOff d)
    (hx : s.sumSlot? a.ctx pa = none) : (s.sumAccess a pa).mem = s.mem ∧ ∃ r : Arrival,
      (s.sumAccess a pa).arrivals = s.arrivals ++ [r] ∧ r.uid = u ∧ r.writes = [(.int d, BitVec.ofNat 256 (2 ^ 64 - 1))] := by
  simp only [State.sumAccess, hop, hx]
  obtain ⟨r, harr, huid, -, hws⟩ := reply_counts (s := s.sumFlag a.ctx 2) hu hc
    [(.int d, BitVec.ofNat 256 (2 ^ 64 - 1))] .other 0 0 a.stamp
  exact ⟨reply_mem .., r, harr, huid, hws⟩

end

/-- A home that performs an access of an HBM word sets the SUM_STATUS bits of a sum access without a slot, and no others. -/
theorem perform_sumStatus {s : State} {a : Access} {pa : Nat} (hloc : a.loc = .hbm pa) (ans : PeerAnswer) :
    ((s.perform a ans).ctx? a.ctx).map (·.sumStatus) = ((s.ctx? a.ctx).map (·.sumStatus)).map (fun b => b ||| s.sumMissed a pa) := by
  obtain ⟨k, x, hserved⟩ := servedFor_shape s a
  have hstatus := ((dealtWith_commit (s := s.servedFor a) hloc ans.value ans.full ans.mark).sumStatus a.ctx).trans
    (sumFlag_sumStatus ..)
  rw [State.perform]
  rw [hserved] at hstatus ⊢
  exact hstatus

/-- Settles O25: the performance sets its bits of SUM_STATUS, and each sum access is the rule of its operation. -/
theorem sumSlotAccesses : Obligations.SumSlotAccesses := by
  intro s a ans u pa hwf hnow hloc hsize hu hc hwatches hbad status
  obtain ⟨k, x, hserved⟩ := servedFor_shape s a
  refine ⟨_, exec_accessPerform hnow ans, perform_sumStatus hloc ans, ?_⟩
  have hcommit := commit_sum (s := s.servedFor a) (pa := pa) hloc (peer := ans.value) (full := ans.full) (mark := ans.mark)
  have hslot : ((s.servedFor a).settle a.id).sumSlot? a.ctx pa = s.sumSlot? a.ctx pa := by rw [hserved]; rfl
  have hsums : ((s.servedFor a).settle a.id).sums = s.sums := by rw [hserved]; rfl
  have hmem : ((s.servedFor a).settle a.id).mem = s.mem := by rw [hserved]; rfl
  have harr : ((s.servedFor a).settle a.id).arrivals = s.arrivals := by rw [hserved]; rfl
  rw [State.perform]
  split
  · next p q hop =>
    have h := sumAccess_sumOn (s := (s.servedFor a).settle a.id) (pa := pa) hu hc hop
    rw [hslot, hsums, hmem, harr] at h
    rw [hcommit (.inl ⟨p, q, hop⟩)]
    exact h
  · next f v hop =>
    have h := sumAccess_sumAdd (s := (s.servedFor a).settle a.id) (pa := pa) hu hc hop (by rw [hslot]; exact hbad)
    rw [hslot, hmem, harr] at h
    rw [hcommit (.inr (.inl ⟨f, v, hop⟩))]
    exact h
  · next d hop =>
    rw [hcommit (.inr (.inr ⟨d, hop⟩))]
    split
    · next y hy =>
      obtain ⟨hstored, hfreed, howed, hplaced⟩ := sumAccess_sumOff_bound (by rw [hmem]; exact hwf) hloc hu hc hop
        (hslot.trans hy) (hbad y hy)
      rw [hmem] at hstored
      refine ⟨hstored, hfreed, howed, fun w hw => ?_⟩
      obtain ⟨hin, huniq⟩ := watching_settle hnow hw
      obtain ⟨hmem, -, hwait, hover⟩ := hw
      refine hplaced w hin huniq hwait (hsize ▸ hover) ?_
      rw [hserved]
      exact hwatches w hmem hwait hover
    · next hnone =>
      have h := sumAccess_sumOff_unbound hu hc hop (hslot.trans hnone)
      rw [hmem, harr] at h
      exact h
  · trivial

end Sys2Proof.Machine
end

section
/-! SUPPORT. Full/empty requests (R217 to R220): what an admitted request leaves, how a granule's waiters are served, the oldest
first, until its state admits none, and the settlement of O23. -/

namespace Sys2Proof.Machine

/-! ## Granules (R197, R198) -/

theorem mem_insertSorted (n : Nat) (ns : List Nat) : n ∈ insertSorted n ns := by
  induction ns with
  | nil => exact List.mem_singleton_self n
  | cons k rest ih =>
    unfold insertSorted
    split
    · exact List.mem_cons_self
    · split
      · next h => rw [h]; exact List.mem_cons_self
      · exact List.mem_cons_of_mem k ih

/-- A granule has the state that it has been set to. -/
theorem granuleFull_setGranule (s : State) (ph off : Nat) (full : Bool) :
    (s.setGranule (.spad ph off) full).granuleFull (.spad ph off) = full := by
  cases full with
  | true => exact List.contains_iff_mem.mpr (mem_insertSorted _ _)
  | false =>
    refine Bool.eq_false_iff.mpr fun h => ?_
    have hmem : granuleNo ph off ∈ s.granules.filter (· != granuleNo ph off) := List.contains_iff_mem.mp h
    simpa using (List.mem_filter.mp hmem).2

theorem granuleFull_congr {s s' : State} (h : s'.granules = s.granules) (l : Loc) : s'.granuleFull l = s.granuleFull l := by
  cases l <;> simp only [State.granuleFull, h]

theorem reply_granules (s : State) (x : Access) (w : List (Operand × Wide)) (r : Prod) (k : Nat) (b : BitVec 32) (z : Stamp) :
    (s.reply x w r k b z).granules = s.granules := by
  obtain h | ⟨o, h⟩ | ⟨y, h⟩ := reply_cases s x w r k b z <;> simp [h]

/-- A place in the granule of another lies in the same scratchpad. -/
theorem spad_of_sameGranule {l l' : Loc} (h : l.sameGranule l' = true) : ∃ ph off, l = .spad ph off := by
  cases l
  case spad ph off => exact ⟨ph, off, rfl⟩
  all_goals cases h

/-- A write at a scratchpad looks at no AWAIT. -/
theorem homeWrite_spad (s : State) (ph off n v : Nat) (b : BitVec 32) (z : Stamp) : ∃ p, s.homeWrite (.spad ph off) n v b z =
    { s with mem := Mem.setLE s.mem (Loc.spad ph off).key n v, poison := p } ∧ p ⊆ s.poison :=
  ⟨_, rfl, List.filter_subset_self _⟩

theorem poisoned_of_subset {s s' : State} (hsub : s'.poison ⊆ s.poison) {l : Loc} {n : Nat} (h : s.poisoned l n = false) :
    s'.poisoned l n = false :=
  List.any_eq_false.mpr fun p hp => List.any_eq_false.mp h p (hsub hp)

/-! ## Admitted requests (R218, R219) -/

/-- An LDFE or LDFF of a sound granule is settled and owes its register the bytes, as a wait that a fill has ended if one has. -/
theorem admitted_ldfe {s : State} {a : Access} {consume : Bool} {d : IReg} (hop : a.op = .ldfe consume d)
    (hsound : s.poisoned a.loc 8 = false) (fill : Option (BitVec 32 × Stamp)) :
    let t := if consume then (s.settle a.id).setGranule a.loc false else s.settle a.id
    let ws := [(Operand.int d, BitVec.ofNat 256 (Mem.getLE s.mem a.loc.key 8))]
    s.admitted a fill = (fill.elim (t.reply a ws .fe 0 0 a.stamp) fun f => t.reply a ws .fe 3 f.1 f.2, fill) := by
  have hread := homeRead_sound (s := s.settle a.id) (c := a.ctx) (g := some a.group) (w := a.uid.bind (s.settle a.id).thread?) hsound
  simp only [State.admitted, hop, hread]
  cases fill <;> rfl

/-- What an admitted request takes from the accesses is itself alone, settled or acknowledged. -/
theorem admitted_accs {s : State} {a : Access} {ph off : Nat} (hloc : a.loc = .spad ph off) (hop : a.op.granuleOp = true)
    (fill : Option (BitVec 32 × Stamp)) :
    (s.admitted a fill).1.accs = (s.settle a.id).accs ∨ (s.admitted a fill).1.accs = (s.acknowledge a).accs := by
  cases h : a.op
  case ldfe consume d =>
    left
    cases fill <;> cases consume <;> simp [State.admitted, h, reply_accs]
  case stfe v => exact .inr (by simp only [State.admitted, h, hloc]; rfl)
  case feinit full => exact .inr (by simp [State.admitted, h])
  all_goals simp [h, AccOp.granuleOp] at hop

/-! ## Serving the waiters of a granule (R217) -/

/-- An access that waits at the granule of a place and that a state of it admits. -/
def Access.servable (l : Loc) (full : Bool) (x : Access) : Bool :=
  x.phase == .waiting && x.op.granuleOp && x.loc.sameGranule l && x.op.admitted full

theorem servable_iff {l : Loc} {full : Bool} {x : Access} : x.servable l full = true ↔
    x.phase = .waiting ∧ x.op.granuleOp = true ∧ x.loc.sameGranule l = true ∧ x.op.admitted full = true := by
  simp only [Access.servable, Bool.and_eq_true, beq_iff_eq, and_assoc]

theorem noneAdmitted_iff {s : State} {l : Loc} :
    NoneAdmitted s l ↔ s.accs.find? (Access.servable l (s.granuleFull l)) = none := by
  rw [List.find?_eq_none]
  refine forall₂_congr fun x _ => ?_
  rw [servable_iff]
  cases x.op.admitted (s.granuleFull l) <;> simp

/-- Where no waiter is admitted, none is served. -/
theorem serve_of_none {s : State} {l : Loc} (h : NoneAdmitted s l) (fill : Option (BitVec 32 × Stamp)) : s.serve l fill = s := by
  have hfind : s.accs.find? (fun a => a.phase == .waiting && a.op.granuleOp && a.loc.sameGranule l
    && a.op.admitted (s.granuleFull l)) = none := noneAdmitted_iff.mp h
  unfold State.serve
  cases s.accs.length with
  | zero => rfl
  | succ n => rw [State.serveFrom, hfind]

/-- The oldest admitted waiter is served first. -/
theorem serve_of_oldest {s : State} {l : Loc} {x : Access} (h : s.accs.find? (Access.servable l (s.granuleFull l)) = some x)
    (fill : Option (BitVec 32 × Stamp)) : HomeStep (s.admitted x fill).1 (s.serve l fill) := by
  have hfind : s.accs.find? (fun a => a.phase == .waiting && a.op.granuleOp && a.loc.sameGranule l
    && a.op.admitted (s.granuleFull l)) = some x := h
  unfold State.serve
  cases hlen : s.accs.length with
  | zero => rw [List.length_eq_zero_iff.mp hlen] at h; cases h
  | succ n =>
    rw [State.serveFrom, hfind]
    exact homeStep_serveFrom ..

/-- An access that waits at its home. -/
def Access.waits (x : Access) : Bool := x.phase == .waiting

/-- Fewer meet two conditions than the first, where one that meets the first does not meet the second. -/
theorem countP_and_lt {α : Type} {p q : α → Bool} {xs : List α} {x : α} (hx : x ∈ xs) (hp : p x = true) (hq : q x = false) :
    xs.countP (fun y => q y && p y) < xs.countP p := by
  rw [← List.countP_filter, List.countP_eq_length_filter (p := p), List.countP_lt_length_iff]
  exact ⟨x, List.mem_filter.mpr ⟨hx, hp⟩, hq⟩

/-- A waiter that is settled waits no more. -/
theorem countP_settle_lt {s : State} {x : Access} (hx : x ∈ s.accs) (hw : x.waits = true) :
    (s.settle x.id).accs.countP Access.waits < s.accs.countP Access.waits := by
  rw [State.settle_accs, List.countP_filter]
  simpa only [Bool.and_comm] using countP_and_lt (q := fun y => y.id != x.id) hx hw (by simp)

/-- A waiter that is acknowledged waits no more. -/
theorem countP_acknowledge_lt {s : State} {x : Access} (hx : x ∈ s.accs) (hw : x.waits = true) :
    (s.acknowledge x).accs.countP Access.waits < s.accs.countP Access.waits := by
  obtain h | ⟨r, h⟩ := acknowledge_cases s x <;> rw [h]
  · exact countP_settle_lt hx hw
  · rw [List.countP_map]
    refine lt_of_eq_of_lt (congrArg (s.accs.countP ·) (funext fun y => ?_)) (countP_and_lt (q := fun y => y.id != x.id) hx hw (by simp))
    dsimp only [Function.comp_apply]
    by_cases hy : y.id = x.id
    · rw [Access.waits, Access.acknowledged_done hy]; simp [hy]
    · simp [Access.acknowledged_other hy, hy]

/-- Served with as many steps as requests wait, a granule is left with none that its state admits. -/
theorem noneAdmitted_serveFrom {l : Loc} {n : Nat} {s : State} (h : s.accs.countP Access.waits ≤ n)
    (fill : Option (BitVec 32 × Stamp)) : NoneAdmitted (s.serveFrom l fill n) l := by
  induction n generalizing s fill with
  | zero =>
    intro x hx hwait
    have := List.countP_eq_zero.mp (Nat.le_zero.mp h) x hx
    simp [Access.waits, hwait] at this
  | succ n ih =>
    unfold State.serveFrom
    split
    · next hnone => exact noneAdmitted_iff.mpr hnone
    · next x hfind =>
      obtain ⟨hwait, hop, hplace, -⟩ := servable_iff.mp (List.find?_some hfind : x.servable l (s.granuleFull l) = true)
      have hmem := List.mem_of_find?_eq_some hfind
      have hw : x.waits = true := by simp [Access.waits, hwait]
      obtain ⟨ph, off, hloc⟩ := spad_of_sameGranule hplace
      refine ih (Nat.le_of_lt_succ (lt_of_lt_of_le ?_ h)) _
      obtain haccs | haccs := admitted_accs (s := s) hloc hop fill <;> rw [haccs]
      · exact countP_settle_lt hmem hw
      · exact countP_acknowledge_lt hmem hw

theorem noneAdmitted_serve (s : State) (l : Loc) (fill : Option (BitVec 32 × Stamp)) : NoneAdmitted (s.serve l fill) l :=
  noneAdmitted_serveFrom List.countP_le_length fill

/-- Where nothing waits at a granule, nothing waits there after steps of homes. -/
theorem HomeStep.noWaiter {s s' : State} (h : HomeStep s s') {l : Loc} (hs : NoWaiter s l) : NoWaiter s' l := by
  intro y hy hwait hop
  obtain ⟨x, hx, -, hloc, hop', hphase⟩ := h.accs y hy
  rw [hloc]
  rw [hop'] at hop
  obtain hphase | hphase := hphase
  · exact hs x hx (hphase.symm.trans hwait) hop
  · rw [hphase] at hwait; cases hwait

theorem NoWaiter.noneAdmitted {s : State} {l : Loc} (h : NoWaiter s l) : NoneAdmitted s l := by
  intro x hx hwait hop hplace
  rw [h x hx hwait hop] at hplace
  cases hplace

/-! ## A request next at its bank (R217 to R220) -/

/-- The bank has turned to a request, and an entry that it was granted and does not take has gone to another. -/
def State.turnedTo (s : State) (a : Access) : State := (s.servedFor a).passGrant a

section
variable {s : State} {a : Access} {ph off : Nat} (hloc : a.loc = .spad ph off)
include hloc

/-- The bank's turn changes the arbiters of clusters and the grants of entries alone. -/
theorem turnedTo_shape : ∃ (k : List Cluster) (g : Access → Bool),
    s.turnedTo a = { s with clusters := k, accs := s.accs.map fun x => { x with granted := g x } } := by
  obtain ⟨k, hk⟩ := bankServed_shape s a.loc a.size a.core
  have hserved : s.servedFor a = { s with clusters := k } := by
    simp only [State.servedFor, State.countPass, State.passBelow, hloc]
    rw [← hloc, hk]
  obtain ⟨g, hg⟩ := passGrant_shape (s.servedFor a) a
  refine ⟨k, g, ?_⟩
  rw [State.turnedTo, hg, hserved]

theorem turnedTo_mem : (s.turnedTo a).mem = s.mem := by
  obtain ⟨k, g, h⟩ := turnedTo_shape (s := s) hloc
  rw [h]

theorem turnedTo_poison : (s.turnedTo a).poison = s.poison := by
  obtain ⟨k, g, h⟩ := turnedTo_shape (s := s) hloc
  rw [h]

theorem turnedTo_granules : (s.turnedTo a).granules = s.granules := by
  obtain ⟨k, g, h⟩ := turnedTo_shape (s := s) hloc
  rw [h]

theorem turnedTo_arrivals : (s.turnedTo a).arrivals = s.arrivals := by
  obtain ⟨k, g, h⟩ := turnedTo_shape (s := s) hloc
  rw [h]

theorem homeStep_turnedTo : HomeStep s (s.turnedTo a) := by
  obtain ⟨k, g, h⟩ := turnedTo_shape (s := s) hloc
  rw [h]
  refine ⟨List.prefix_rfl, fun y hy => ?_, fun _ => rfl⟩
  obtain ⟨x, hx, rfl⟩ := List.mem_map.mp hy
  exact ⟨x, hx, rfl, rfl, rfl, .inl rfl⟩

variable (hbits : s.granuleBad a.loc = false) (hop : a.op.granuleOp = true)
include hbits hop

/-- A request whose granule bits are sound is performed where the granule admits it, and must wait where not. -/
theorem perform_granuleOp (ans : PeerAnswer) : s.perform a ans =
    if a.op.admitted (s.granuleFull a.loc) then
      ((s.turnedTo a).admitted a none).1.serve a.loc ((s.turnedTo a).admitted a none).2
    else (s.servedFor a).hold a ans.full ans.mark.who := by
  obtain ⟨k, x, hserved⟩ := servedFor_shape s a
  have hread : (s.servedFor a).granuleRead a = s.servedFor a := by
    have : (s.servedFor a).granuleBad a.loc = false := by rw [hserved]; exact hbits
    rw [State.granuleRead, this]; rfl
  have hfull : (s.servedFor a).granuleFull a.loc = s.granuleFull a.loc := by rw [hserved]; rfl
  have hplace : (a.loc == .nowhere) = false := by rw [hloc]; rfl
  have hcommit : s.perform a ans = (s.servedFor a).arrive a ans.value ans.full ans.mark.who := by
    unfold State.perform State.commit
    simp only [hplace, Bool.false_eq_true, if_false]
    cases h : a.op
    case ldfe | stfe | feinit => rfl
    all_goals simp [h, AccOp.granuleOp] at hop
  rw [hcommit]
  unfold State.arrive
  split
  · next h => simp [h, AccOp.granuleOp] at hop
  · simp only [hread, hfull]
    rfl

/-- An admitted request leaves no waiter that its granule admits (R217). -/
theorem perform_noneAdmitted (hadm : a.op.admitted (s.granuleFull a.loc) = true) (ans : PeerAnswer) :
    NoneAdmitted (s.perform a ans) a.loc := by
  rw [perform_granuleOp hloc hbits hop, if_pos hadm]
  exact noneAdmitted_serve _ _ _

/-- Where nothing waits for its granule, an admitted request is performed and nothing else. -/
theorem perform_alone (hadm : a.op.admitted (s.granuleFull a.loc) = true) (hnone : NoWaiter s a.loc) (ans : PeerAnswer) :
    s.perform a ans = ((s.turnedTo a).admitted a none).1 := by
  rw [perform_granuleOp hloc hbits hop, if_pos hadm]
  have hstep : HomeStep s ((s.turnedTo a).admitted a none).1 := (homeStep_turnedTo hloc).trans (homeStep_admitted _ hop _)
  exact serve_of_none (hstep.noWaiter hnone).noneAdmitted _

/-- A request that the state of its granule keeps out waits where its list has room. -/
theorem perform_waits (hadm : a.op.admitted (s.granuleFull a.loc) = false)
    (hc : a.cancelled = false) (hp : a.loc.present = true)
    (hroom : a.granted = true ∨ s.waitingAt a.listKey < listRoom a.listKey) (ans : PeerAnswer) :
    s.perform a ans = { s.servedFor a with
      accs := (s.servedFor a).accs.filter (fun x => x.id != a.id) ++ [{ a with phase := .waiting, granted := false }] } := by
  rw [perform_granuleOp hloc hbits hop, hadm]
  exact hold_waits hc (peerList_spad hloc hp) hroom ..

end

/-! ## Each request, admitted at its bank (R218, R219) -/

section
variable {s : State} {a : Access} {ph off u : Nat} (hloc : a.loc = .spad ph off) (hu : a.uid = some u)
include hloc hu

/-- An LDFE or LDFF that is admitted owes its register the granule's bytes and is outstanding no more. -/
theorem turnedTo_admitted_ldfe {consume : Bool} {d : IReg} (hop : a.op = .ldfe consume d) (hc : a.cancelled = false)
    (hsound : s.poisoned a.loc 8 = false) : ∃ r : Arrival, r.uid = u ∧
      r.writes = [(.int d, BitVec.ofNat 256 (Mem.getLE s.mem a.loc.key 8))] ∧
      let s1 := ((s.turnedTo a).admitted a none).1
      s1.arrivals = s.arrivals ++ [r] ∧ s1.mem = s.mem ∧ s1.accs = ((s.turnedTo a).settle a.id).accs ∧
        s1.granuleFull a.loc = (s.granuleFull a.loc && !consume) := by
  have hs : (s.turnedTo a).poisoned a.loc 8 = false := by rw [State.poisoned, turnedTo_poison hloc]; exact hsound
  rw [admitted_ldfe hop hs, turnedTo_mem hloc]
  generalize ht : (if consume then ((s.turnedTo a).settle a.id).setGranule a.loc false else (s.turnedTo a).settle a.id) = t
  have harr : t.arrivals = s.arrivals := by rw [← ht, ← turnedTo_arrivals (s := s) hloc]; cases consume <;> simp
  have hmem : t.mem = s.mem := by rw [← ht, ← turnedTo_mem (s := s) hloc]; cases consume <;> simp
  have haccs : t.accs = ((s.turnedTo a).settle a.id).accs := by rw [← ht]; cases consume <;> simp
  have hfull : t.granuleFull a.loc = (s.granuleFull a.loc && !consume) := by
    rw [← ht]
    cases consume with
    | true =>
      rw [if_pos rfl, hloc, granuleFull_setGranule]
      simp
    | false =>
      rw [if_neg Bool.false_ne_true, granuleFull_congr (s' := (s.turnedTo a).settle a.id) (turnedTo_granules hloc)]
      simp
  obtain ⟨r, hreply, huid, hws, -⟩ := reply_arrives (s := t) hu hc
    [(.int d, BitVec.ofNat 256 (Mem.getLE s.mem a.loc.key 8))] .fe 0 0 a.stamp
  refine ⟨r, huid, hws, ?_⟩
  dsimp only [Option.elim]
  rw [hreply]
  exact ⟨congrArg (· ++ [r]) harr, hmem, haccs, hfull⟩

/-- An STFE that is admitted writes its bytes, fills the granule and is acknowledged. -/
theorem turnedTo_admitted_stfe {v : Word} (hop : a.op = .stfe v) (hwf : Mem.wf s.mem = true) : ∃ r : Arrival, r.uid = u ∧
    r.seq = a.id ∧ r.writes = [] ∧
      let s1 := ((s.turnedTo a).admitted a none).1
      s1.arrivals = s.arrivals ++ [r] ∧ StoredInto s.mem s1.mem a.loc.key 8 v.toNat ∧
        s1.accs = (s.turnedTo a).accs.map (·.acknowledged a.id) ∧ s1.granuleFull a.loc = true ∧ s1.poison ⊆ s.poison := by
  obtain ⟨r, hack, huid, hseq, hws⟩ := acknowledge_arrives (s.turnedTo a) hu
  obtain ⟨p, hwrite, hp⟩ := homeWrite_spad ((s.turnedTo a).acknowledge a) ph off 8 v.toNat a.arriver a.stamp
  refine ⟨r, huid, hseq, hws, ?_⟩
  simp only [State.admitted, hop, hloc, hwrite, State.setGranule_arrivals, State.setGranule_mem, State.setGranule_accs,
    State.setGranule_poison]
  rw [hack] at hp ⊢
  refine ⟨congrArg (· ++ [r]) (turnedTo_arrivals hloc), ?_, rfl, granuleFull_setGranule _ ph off true, ?_⟩
  · rw [turnedTo_mem hloc]
    exact Mem.get_setLE hwf
  · rwa [turnedTo_poison hloc] at hp

/-- A FEINIT sets the granule's state and is acknowledged. -/
theorem turnedTo_admitted_feinit {full : Bool} (hop : a.op = .feinit full) : ∃ r : Arrival, r.uid = u ∧ r.seq = a.id ∧
    r.writes = [] ∧
      let s1 := ((s.turnedTo a).admitted a none).1
      s1.arrivals = s.arrivals ++ [r] ∧ s1.mem = s.mem ∧ s1.granuleFull a.loc = full ∧
        ∀ x ∈ s1.accs, x.id = a.id → x.phase = .done := by
  obtain ⟨r, hack, huid, hseq, hws⟩ := acknowledge_arrives (s.turnedTo a) hu
  have hdone := done_acknowledge (s.turnedTo a) a
  refine ⟨r, huid, hseq, hws, ?_⟩
  simp only [State.admitted, hop, hloc, State.setGranule_arrivals, State.setGranule_mem, State.setGranule_accs]
  rw [hack] at hdone ⊢
  exact ⟨congrArg (· ++ [r]) (turnedTo_arrivals hloc), turnedTo_mem hloc, granuleFull_setGranule _ ph off full, hdone⟩

end

/-! ## The waiter that a request admits (R217) -/

/-- What comes first under a condition comes first under a stronger one that it meets. -/
theorem find?_of_imp {α : Type} {p q : α → Bool} {xs : List α} {x : α} (h : xs.find? p = some x) (hq : q x = true)
    (himp : ∀ y, q y = true → p y = true) : xs.find? q = some x := by
  obtain ⟨-, before, after, rfl, hno⟩ := List.find?_eq_some_iff_append.mp h
  refine List.find?_eq_some_iff_append.mpr ⟨hq, before, after, rfl, fun y hy => ?_⟩
  have := hno y hy
  cases hqy : q y with
  | false => rfl
  | true => rw [himp y hqy] at this; exact this

section
variable {s : State} {a w : Access} {ph off : Nat} {full : Bool} (hloc : a.loc = .spad ph off)
  (hold : OldestAdmitted s a.loc full w) (hid : w.id ≠ a.id)
include hloc hold

/-- The oldest admitted waiter is there when the bank turns to a request, up to the grant of an entry. -/
theorem oldest_turnedTo : ∃ b, (s.turnedTo a).accs.find? (Access.servable a.loc full) = some { w with granted := b } := by
  obtain ⟨k, g, hturn⟩ := turnedTo_shape (s := s) hloc
  have hfind : s.accs.find? (Access.servable a.loc full) = some w := hold
  refine ⟨g w, ?_⟩
  rw [hturn]
  dsimp only
  rw [List.find?_map]
  exact congrArg (Option.map _) hfind

include hid

/-- It is the oldest still when the request has been settled. -/
theorem oldest_settle : ∃ b, ((s.turnedTo a).settle a.id).accs.find? (Access.servable a.loc full) =
    some { w with granted := b } := by
  obtain ⟨b, h⟩ := oldest_turnedTo hloc hold
  refine ⟨b, ?_⟩
  rw [State.settle_accs, List.find?_filter]
  refine find?_of_imp h ?_ fun y hy => (of_decide_eq_true hy).2
  simpa [hid] using List.find?_some h

/-- It is the oldest still when the request has been acknowledged. -/
theorem oldest_acknowledged : ∃ b, ((s.turnedTo a).accs.map (·.acknowledged a.id)).find? (Access.servable a.loc full) =
    some { w with granted := b } := by
  obtain ⟨b, h⟩ := oldest_turnedTo hloc hold
  refine ⟨b, ?_⟩
  have hself : ({ w with granted := b } : Access).acknowledged a.id = { w with granted := b } := Access.acknowledged_other hid
  rw [List.find?_map]
  refine (congrArg (Option.map _) (find?_of_imp h ?_ fun y hy => ?_)).trans (congrArg some hself)
  · dsimp only [Function.comp_apply]
    rw [hself]
    exact List.find?_some h
  · dsimp only [Function.comp_apply] at hy
    by_cases hy' : y.id = a.id
    · have := (servable_iff.mp hy).1
      rw [Access.acknowledged_done hy'] at this
      cases this
    · rwa [Access.acknowledged_other hy'] at hy

end

section
variable {s : State} {a w : Access} {ph off u uw : Nat} (hloc : a.loc = .spad ph off) (hbits : s.granuleBad a.loc = false)
  (hu : a.uid = some u) (hid : w.id ≠ a.id) (huw : w.uid = some uw)
include hloc hbits hu hid huw

/-- The load that an STFE admits owes its register what stands at its place after the STFE, which ended its wait. -/
theorem perform_stfe_serves (hwf : Mem.wf s.mem = true) {v : Word} {consume : Bool} {d : IReg} (hop : a.op = .stfe v)
    (hempty : s.granuleFull a.loc = false) (hold : OldestAdmitted s a.loc true w) (hwop : w.op = .ldfe consume d)
    (hc : w.cancelled = false) (hsound : s.poisoned w.loc 8 = false) (ans : PeerAnswer) :
    ∃ (m : List Host.Cell) (r1 r2 : Arrival) (rest : List Arrival), StoredInto s.mem m a.loc.key 8 v.toNat ∧
      (s.perform a ans).arrivals = s.arrivals ++ r1 :: r2 :: rest ∧ r1.uid = u ∧ r1.seq = a.id ∧ r1.writes = [] ∧ r2.uid = uw ∧
      r2.writes = [(.int d, BitVec.ofNat 256 (Mem.getLE m w.loc.key 8))] ∧ r2.kind = 3 ∧ r2.arriver = a.handle ∧
      r2.stamp = a.stamp ∧ ∀ x ∈ (s.perform a ans).accs, x.id ≠ w.id := by
  have hgran : a.op.granuleOp = true := by rw [hop]; rfl
  have hadm : a.op.admitted (s.granuleFull a.loc) = true := by rw [hop, hempty]; rfl
  rw [perform_granuleOp hloc hbits hgran, if_pos hadm]
  obtain ⟨r1, huid1, hseq1, hws1, harr, hstored, haccs, hfull, hpoison⟩ := turnedTo_admitted_stfe hloc hu hop hwf
  obtain ⟨b, hfind⟩ := oldest_acknowledged hloc hold hid
  have hfill : ((s.turnedTo a).admitted a none).2 = some (a.handle, a.stamp) := by simp only [State.admitted, hop]; rfl
  rw [hfill]
  generalize ((s.turnedTo a).admitted a none).1 = s1 at harr hstored haccs hfull hpoison ⊢
  rw [← haccs, ← hfull] at hfind
  have hserved := serve_of_oldest hfind (some (a.handle, a.stamp))
  have hgone := (homeStep_admitted_ldfe (s := s1) (a := { w with granted := b }) hwop (some (a.handle, a.stamp))).gone
    (gone_settle _ _)
  rw [admitted_ldfe (a := { w with granted := b }) hwop (poisoned_of_subset hpoison hsound)] at hserved hgone
  generalize ht : (if consume then (s1.settle w.id).setGranule w.loc false else s1.settle w.id) = t at hserved hgone
  have htarr : t.arrivals = s1.arrivals := by rw [← ht]; cases consume <;> simp
  obtain ⟨r2, hreply, huid2, hws2, -, -, -, -, hkind, hby, hstamp⟩ := reply_arrives (s := t) (a := { w with granted := b }) huw hc
    [(.int d, BitVec.ofNat 256 (Mem.getLE s1.mem w.loc.key 8))] .fe 3 a.handle a.stamp
  dsimp only [Option.elim] at hserved hgone
  obtain ⟨rest, hrest⟩ := hserved.arrivals
  refine ⟨s1.mem, r1, r2, rest, hstored, ?_, huid1, hseq1, hws1, huid2, hws2, hkind, hby, hstamp, hserved.gone hgone⟩
  rw [← hrest, hreply]
  simp [htarr, harr]

/-- The STFE that an LDFE admits is acknowledged. -/
theorem perform_ldfe_serves {v : Word} {d : IReg} (hop : a.op = .ldfe true d) (hc : a.cancelled = false)
    (hsound : s.poisoned a.loc 8 = false) (hfull : s.granuleFull a.loc = true) (hold : OldestAdmitted s a.loc false w)
    (hwop : w.op = .stfe v) (ans : PeerAnswer) : ∃ (r1 r2 : Arrival) (rest : List Arrival),
      (s.perform a ans).arrivals = s.arrivals ++ r1 :: r2 :: rest ∧ r1.uid = u ∧
      r1.writes = [(.int d, BitVec.ofNat 256 (Mem.getLE s.mem a.loc.key 8))] ∧ r2.uid = uw ∧ r2.seq = w.id ∧ r2.writes = [] ∧
      ∀ x ∈ (s.perform a ans).accs, x.id = w.id → x.phase = .done := by
  have hgran : a.op.granuleOp = true := by rw [hop]; rfl
  have hadm : a.op.admitted (s.granuleFull a.loc) = true := by rw [hop, hfull]; rfl
  rw [perform_granuleOp hloc hbits hgran, if_pos hadm]
  obtain ⟨r1, huid1, hws1, harr, -, haccs, hempty⟩ := turnedTo_admitted_ldfe hloc hu hop hc hsound
  rw [hfull] at hempty
  obtain ⟨b, hfind⟩ := oldest_settle hloc hold hid
  generalize ((s.turnedTo a).admitted a none).2 = fill
  generalize ((s.turnedTo a).admitted a none).1 = s1 at harr haccs hempty ⊢
  rw [← haccs, show false = s1.granuleFull a.loc from hempty.symm] at hfind
  have hserved := (homeStep_admitted_stfe (s := s1) (a := { w with granted := b }) hwop fill).trans (serve_of_oldest hfind fill)
  have hdone := hserved.done (done_acknowledge s1 { w with granted := b })
  obtain ⟨r2, hack, huid2, hseq2, hws2⟩ := acknowledge_arrives s1 (a := { w with granted := b }) huw
  obtain ⟨rest, hrest⟩ := hserved.arrivals
  refine ⟨r1, r2, rest, ?_, huid1, hws1, huid2, hseq2, hws2, hdone⟩
  rw [← hrest, hack]
  simp [harr]

end

/-- Settles O23: a request that its granule admits is performed alone or with the waiters that it admits, and waits where not. -/
theorem fullEmptyRequests : Obligations.FullEmptyRequests := by
  intro s a ans u ph off hwf hnow hloc hsound hbits hu hc hred hsize waits performed
  have hpresent : a.loc.present = true := by
    have hperf := hnow.2.1
    simp only [State.performable, Bool.and_eq_true] at hperf
    exact hperf.1.2
  refine ⟨_, exec_accessPerform hnow ans, fun hop hadm => perform_noneAdmitted hloc hbits hop hadm ans, ?_, ?_, ?_⟩
  · intro v w uw consume d hop hempty hold hwop hid huw hwc _ hwsound
    exact perform_stfe_serves hloc hbits hu hid huw hwf hop hempty hold hwop hwc hwsound ans
  · intro d w uw v hop hfull hold hwop huw hid
    exact perform_ldfe_serves hloc hbits hu hid huw hop hc hsound hfull hold hwop ans
  · intro hnone hroom
    split
    · next consume d hop =>
      have hgran : a.op.granuleOp = true := by rw [hop]; rfl
      split
      · next hfull =>
        rw [perform_alone hloc hbits hgran (by rw [hop, hfull]; rfl) hnone]
        obtain ⟨r, huid, hws, harr, hmem, haccs, hstate⟩ := turnedTo_admitted_ldfe hloc hu hop hc hsound
        rw [hfull, Bool.true_and] at hstate
        exact ⟨hmem, hstate, ⟨r, harr, huid, hws⟩, by rw [haccs]; exact gone_settle _ _⟩
      · next hempty =>
        exact perform_waits hloc hbits hgran (by rw [hop]; simpa [AccOp.admitted] using hempty) hc hpresent hroom ans
    · next v hop =>
      have hgran : a.op.granuleOp = true := by rw [hop]; rfl
      split
      · next hempty =>
        rw [perform_alone hloc hbits hgran (by rw [hop, hempty]; rfl) hnone]
        obtain ⟨r, huid, hseq, hws, harr, hstored, -, hstate, -⟩ := turnedTo_admitted_stfe hloc hu hop hwf
        exact ⟨hstored, hstate, (homeStep_admitted_stfe hop none).done (done_acknowledge _ _), r, harr, huid, hseq, hws⟩
      · next hfull =>
        exact perform_waits hloc hbits hgran (by rw [hop]; simpa [AccOp.admitted] using hfull) hc hpresent hroom ans
    · next full hop =>
      rw [perform_alone hloc hbits (by rw [hop]; rfl) (by rw [hop]; rfl) hnone]
      obtain ⟨r, huid, hseq, hws, harr, hmem, hstate, hdone⟩ := turnedTo_admitted_feinit hloc hu hop
      exact ⟨hmem, hstate, hdone, r, harr, huid, hseq, hws⟩
    · trivial

end Sys2Proof.Machine
end
